-- ==== Sys2Proof/Word.lean ====
section
/-! DEFINITION. The machine's words (spec/00 R5, R6). -/

namespace Sys2Proof

/-- One byte (R5). -/
abbrev Byte := BitVec 8
/-- The 32 bits of one lane of a vector register (R218). -/
abbrev Word32 := BitVec 32
/-- A uniform register, an instruction word, an address value (R194, R245). -/
abbrev Word64 := BitVec 64

end Sys2Proof
end

