-- ==== Sys2Proof/Machine/Bits.lean ====
section
/-! DEFINITION. Bit fields, byte order and the narrowing of integers (spec/00 R5, R8, spec/08 R268). -/

namespace Sys2Proof

/-- Bits `hi` down to `lo` of a number, as R5 writes `x[hi:lo]`. -/
def slice (x hi lo : Nat) : Nat := (x >>> lo) % 2 ^ (hi - lo + 1)

/-- Whether bit `i` of a number is 1. -/
def bitOf (x i : Nat) : Bool := x.testBit i

/-- `n` bytes of a number, the lowest first (R5: little-endian). -/
def toBytes : Nat → Nat → List Byte
  | 0, _ => []
  | n + 1, x => BitVec.ofNat 8 x :: toBytes n (x / 256)

/-- Bytes cut or filled with zeros to a length. -/
def fit (n : Nat) (bs : List Byte) : List Byte := (bs ++ List.replicate (n - bs.length) 0#8).take n

/-- The number that little-endian bytes hold (R5). -/
def ofBytes : List Byte → Nat
  | [] => 0
  | b :: bs => b.toNat + 256 * ofBytes bs

/-- The two's-complement value of the low `n` bits (R82). -/
def signedOf (n x : Nat) : Int :=
  let r := x % 2 ^ n
  if n > 0 && r.testBit (n - 1) then (r : Int) - (2 ^ n : Nat) else r

/-- The low `n` bits of an integer, as a number (R8: integers are unbounded until narrowed). -/
def lowBits (n : Nat) (x : Int) : Nat := (x % ((2 ^ n : Nat) : Int)).toNat

/-- Ceiling of a quotient. -/
def ceilDiv (a b : Nat) : Nat := (a + b - 1) / b

/-- The parity of a number's bits (R268), over `n` bits. -/
def parity : Nat → Nat → Bool
  | 0, _ => false
  | n + 1, x => xor (x % 2 == 1) (parity n (x / 2))

/-- How many of the low `n` bits are 1. -/
def popCount : Nat → Nat → Nat
  | 0, _ => 0
  | n + 1, x => x % 2 + popCount n (x / 2)

end Sys2Proof
end

