-- ==== Sys2Proof/Syntax.lean ====
section
/-! DEFINITION. The syntax of the instruction words and of the events of the part: one constructor of
`Instr` per row of spec/opcode_table.json. Fields are those of spec/08 R245 to R262. -/

namespace Sys2Proof

/-- The types of R255. -/
inductive Ty where
  | i8 | i16 | i32 | i64 | n8 | n16 | n32 | n64 | b32 | b64
  | f64 | f32 | bf16 | f16 | e4m3 | e5m2 | e2m1 | bs4
  deriving DecidableEq, Repr

/-- A source field (R252): the kind, with its eight bits. -/
inductive Src where
  /-- Kind 00: vector register. -/
  | vreg (n : BitVec 8)
  /-- Kind 01: bypass latch; bits 7:3 zero, bit 2 KILL, bits 1:0 the latch. -/
  | latch (b : BitVec 8)
  /-- Kind 10: uniform register. -/
  | ureg (n : BitVec 8)
  /-- Kind 11: small immediate. -/
  | imm (v : BitVec 8)
  deriving DecidableEq, Repr

/-- The PRED field (R245, R246): NEG and PSEL. -/
structure Guard where
  neg : Bool
  psel : BitVec 3
  deriving DecidableEq, Repr

/-- A word of format UR (R257). Its PRED and WBS are zero (R246, R247). -/
structure UrWord where
  dst : BitVec 8
  a : Src
  b : Src
  c : Src
  ty : Ty
  rm : BitVec 3
  mod : BitVec 5
  deriving DecidableEq, Repr

/-- A word of format UI (R258). Its PRED and WBS are zero. -/
structure UiWord where
  dst : BitVec 8
  a : Src
  ty : Ty
  rm : BitVec 3
  imm : BitVec 25
  deriving DecidableEq, Repr

/-- A word of format VR (R257). -/
structure VrWord where
  guard : Guard
  wbs : Bool
  dst : BitVec 8
  a : Src
  b : Src
  c : Src
  ty : Ty
  rm : BitVec 3
  mod : BitVec 5
  deriving DecidableEq, Repr

/-- A word of format VI (R258). -/
structure ViWord where
  guard : Guard
  wbs : Bool
  dst : BitVec 8
  a : Src
  ty : Ty
  rm : BitVec 3
  imm : BitVec 25
  deriving DecidableEq, Repr

/-- A word of format MEM (R259). In `xst`, bits 5:1 are `ord` and `scope` as they stand. -/
structure MemWord where
  guard : Guard
  wbs : Bool
  data : BitVec 8
  base : BitVec 8
  off : Src
  disp : BitVec 12
  ltag : BitVec 4
  sz : BitVec 3
  ord : BitVec 2
  scope : BitVec 3
  ua : Bool
  deriving DecidableEq, Repr

/-- A word of format MMA (R260). Its WBS is zero. -/
structure MmaWord where
  guard : Guard
  th : BitVec 3
  vx : BitVec 8
  ub : BitVec 8
  ta : BitVec 5
  tb : BitVec 5
  rm : BitVec 3
  red : Bool
  sat : Bool
  ltag : BitVec 4
  uc : BitVec 8
  mod : BitVec 5
  deriving DecidableEq, Repr

/-- A word of format CTL (R261). Its WBS is zero. -/
structure CtlWord where
  guard : Guard
  ua : BitVec 8
  sb : Src
  ty : BitVec 5
  cc : BitVec 3
  hint : Bool
  off : BitVec 24
  deriving DecidableEq, Repr

/-- A word of format SYN (R262). Its WBS is zero. -/
structure SynWord where
  guard : Guard
  ua : BitVec 8
  ub : BitVec 8
  vx : BitVec 8
  pd : BitVec 3
  bar : BitVec 4
  sem : BitVec 6
  scope : BitVec 3
  co : BitVec 3
  cnt : BitVec 4
  mod : BitVec 4
  deriving DecidableEq, Repr

/-- The access kinds of translation (R24, R40, R268). -/
inductive Access where
  | read | write | fetch | rmw
  deriving DecidableEq, Repr

/-- The atomic operations of R362. -/
inductive AtomicOp where
  | add | min | max | and | or | xor | xch | cas
  deriving DecidableEq, Repr

/-- An agent that holds translations (R29, R33). -/
inductive TlbOwner where
  | core (n : Nat)
  | die (d : Nat)
  deriving DecidableEq, Repr

/-- A location's space and its first byte (R113). -/
inductive Loc where
  /-- Device physical memory. -/
  | hbm (pa : Nat)
  /-- Host memory, by bus address (R468). -/
  | host (bus : Nat)
  /-- A package's exported memory, through a lease (R49). -/
  | peer (pkg frame : Nat)
  deriving DecidableEq, Repr

/-- One DRAM bank of the package (R74, R75). -/
structure BankId where
  stack : Nat
  channel : Nat
  pc : Nat
  group : Nat
  bank : Nat
  deriving DecidableEq, Repr

/-- The units that a targeted test covers (R465), with the core, slice, stack or link and the bank,
row or lane within it (R466). -/
inductive HwUnit where
  | coreUnit (structureCode core row : Nat)
  | sliceRow (die slice row : Nat)
  | hbmRow (stack row : Nat)
  | linkLane (link lane : Nat)
  deriving DecidableEq, Repr

/-- What a host stores: bytes through BAR2 (R467), an atomic through it, with its operand and what a compare expects (R125), or
bytes of its own memory, at a bus address in place of the offset. -/
inductive HostStore where
  | device (data : List (BitVec 8))
  | atomic (op : AtomicOp) (wide : Bool) (operand compare : BitVec 64)
  | own (data : List (BitVec 8))
  deriving DecidableEq, Repr

/-- One constructor per row of spec/opcode_table.json: the instruction words, then the events of the
part's other agents, each a step whole and indivisible (spec/95). -/
inductive Instr where
  /-- UADD (R278). Uniform add of SA and SB at the width of TY, wrapping or saturating, written to a uniform register. -/
  | uadd (w : UrWord)
  /-- UADD_IMM (R278). UI form of uniform add, with the sign-extended IMM as the second operand. -/
  | uaddImm (w : UiWord)
  /-- USUB (R278). Uniform subtract of SB from SA. -/
  | usub (w : UrWord)
  /-- UMUL (R278). Uniform multiply, low bits of the product. -/
  | umul (w : UrWord)
  /-- UMUL_IMM (R278). UI form of uniform multiply by the sign-extended IMM. -/
  | umulImm (w : UiWord)
  /-- UMULH (R278). Uniform multiply, high half of the product. -/
  | umulh (w : UrWord)
  /-- UMAD (R278). Uniform multiply-add a times b plus c. -/
  | umad (w : UrWord)
  /-- UDIV (R279). Uniform division truncated toward zero, with the stated results for division by zero and signed overflow. -/
  | udiv (w : UrWord)
  /-- UREM (R279). Uniform remainder of truncated division, with the stated special cases. -/
  | urem (w : UrWord)
  /-- UMIN (R278). Uniform minimum of two operands. -/
  | umin (w : UrWord)
  /-- UMAX (R278). Uniform maximum of two operands. -/
  | umax (w : UrWord)
  /-- UAND (R278). Uniform bitwise AND. -/
  | uand (w : UrWord)
  /-- UAND_IMM (R278). UI form of uniform bitwise AND with IMM. -/
  | uandImm (w : UiWord)
  /-- UOR (R278). Uniform bitwise OR. -/
  | uor (w : UrWord)
  /-- UOR_IMM (R278). UI form of uniform bitwise OR with IMM. -/
  | uorImm (w : UiWord)
  /-- UXOR (R278). Uniform bitwise XOR. -/
  | uxor (w : UrWord)
  /-- UXOR_IMM (R278). UI form of uniform bitwise XOR with IMM. -/
  | uxorImm (w : UiWord)
  /-- UANDN (R278). Uniform a AND NOT b. -/
  | uandn (w : UrWord)
  /-- USHL (R278). Uniform shift left by b mod n. -/
  | ushl (w : UrWord)
  /-- USHR (R278). Uniform shift right, arithmetic for signed types and logical otherwise. -/
  | ushr (w : UrWord)
  /-- UROT (R278). Uniform rotate left by b mod n. -/
  | urot (w : UrWord)
  /-- UCMP (R278). Uniform compare under CC, writing exactly 0 or 1. -/
  | ucmp (w : UrWord)
  /-- UCMP_IMM (R278). UI form of uniform compare against IMM. -/
  | ucmpImm (w : UiWord)
  /-- USEL (R278). Uniform select of b when a is nonzero, else c. -/
  | usel (w : UrWord)
  /-- UMOV (R278). Uniform register move. -/
  | umov (w : UrWord)
  /-- UMOV_IMM (R278). UI form of uniform move of the sign-extended IMM. -/
  | umovImm (w : UiWord)
  /-- UEXT (R278). Uniform sign or zero extension of a at width (b mod 64) + 1. -/
  | uext (w : UrWord)
  /-- UPOP (R278). Uniform population count. -/
  | upop (w : UrWord)
  /-- UCLZ (R278). Uniform count of leading zeros. -/
  | uclz (w : UrWord)
  /-- UBFX (R279). Uniform bit-field extract of k bits at position p, sign- or zero-extended. -/
  | ubfx (w : UrWord)
  /-- ULEA (R278). Uniform address computation a + b times 2^c. -/
  | ulea (w : UrWord)
  /-- UCAT (R279). Uniform concatenation a times 2^25 plus the raw 25-bit IMM. -/
  | ucat (w : UiWord)
  /-- BRA (R283). Unconditional relative branch to a header, with the R213 switch point when the slot has been held 1,024 cycles. -/
  | bra (w : CtlWord)
  /-- BRC (R284). Uniform conditional branch comparing a uniform register with SB under TY and CC. -/
  | brc (w : CtlWord)
  /-- BRV (R285). Vector branch on the guard predicate, transferring, falling through or splitting the cohort. -/
  | brv (w : CtlWord)
  /-- CALL (R286). Call to an ENTRY header, writing the link to s0 and moving window bases by k with the Attic charge. -/
  | call (w : CtlWord)
  /-- CALLR (R286). Register-indirect call to the ENTRY header whose address sA holds. -/
  | callr (w : CtlWord)
  /-- RET (R287). Return to s0, ending the newest frame of each lane when s0 bit 0 is set. -/
  | ret (w : CtlWord)
  /-- JTAB (R288). Table jump to slot i of a relative branch table, or fall through when i is out of range. -/
  | jtab (w : CtlWord)
  /-- EXIT (R290). Ends each active fibre: release step, join decrement, frame and charge release, removal from the mask. -/
  | exitW (w : CtlWord)
  /-- TRAP (R291). Raises the SOFTWARE trap with its number when any lane is active. -/
  | trap (w : CtlWord)
  /-- BRK (R292). Raises BREAK, counting as performed, when any lane is active. -/
  | brk (w : CtlWord)
  /-- NOP (R293). Marker that drains fixed-latency results and clears latches. -/
  | nop (w : CtlWord)
  /-- YIELD (R294). Ends the segment with class-9 records that are binned at once. -/
  | yield (w : CtlWord)
  /-- QPUT (R281). Pushes a uniform value onto the uniform-to-vector queue. -/
  | qput (w : UrWord)
  /-- QGET (R281). Pops the uniform-to-vector queue entry into a vector register of every active lane. -/
  | qget (w : VrWord)
  /-- QRET (R281). Pushes a vector-to-uniform queue entry from the active lanes. -/
  | qret (w : VrWord)
  /-- QRCV_B64 (R281). Pops a vector-to-uniform entry into 16 uniform registers, two lanes each. -/
  | qrcvB64 (w : UrWord)
  /-- QRCV_B32 (R281). Pops a vector-to-uniform entry and writes lane b mod 32 to a uniform register. -/
  | qrcvB32 (w : UrWord)
  /-- VADD (R306). Vector integer add per active lane. -/
  | vadd (w : VrWord)
  /-- VADD_IMM (R306). VI form of vector integer add with IMM. -/
  | vaddImm (w : ViWord)
  /-- VSUB (R306). Vector integer subtract. -/
  | vsub (w : VrWord)
  /-- VMUL (R306). Vector integer multiply, low bits. -/
  | vmul (w : VrWord)
  /-- VMUL_IMM (R306). VI form of vector integer multiply by IMM. -/
  | vmulImm (w : ViWord)
  /-- VMULH (R306). Vector integer multiply, high half. -/
  | vmulh (w : VrWord)
  /-- VMAD (R306). Vector integer multiply-add. -/
  | vmad (w : VrWord)
  /-- VMIN (R306). Vector integer minimum. -/
  | vmin (w : VrWord)
  /-- VMAX (R306). Vector integer maximum. -/
  | vmax (w : VrWord)
  /-- VABS (R307). Vector integer absolute value, optionally saturating. -/
  | vabs (w : VrWord)
  /-- VAND (R306). Vector bitwise AND. -/
  | vand (w : VrWord)
  /-- VAND_IMM (R306). VI form of vector bitwise AND with IMM. -/
  | vandImm (w : ViWord)
  /-- VOR (R306). Vector bitwise OR. -/
  | vor (w : VrWord)
  /-- VOR_IMM (R306). VI form of vector bitwise OR with IMM. -/
  | vorImm (w : ViWord)
  /-- VXOR (R306). Vector bitwise XOR. -/
  | vxor (w : VrWord)
  /-- VXOR_IMM (R306). VI form of vector bitwise XOR with IMM. -/
  | vxorImm (w : ViWord)
  /-- VANDN (R306). Vector a AND NOT b. -/
  | vandn (w : VrWord)
  /-- VSHL (R306). Vector shift left. -/
  | vshl (w : VrWord)
  /-- VSHR (R306). Vector shift right, arithmetic or logical by type. -/
  | vshr (w : VrWord)
  /-- VROT (R306). Vector rotate left. -/
  | vrot (w : VrWord)
  /-- VCMP (R309). Vector integer compare writing a predicate per active lane. -/
  | vcmp (w : VrWord)
  /-- VCMP_IMM (R309). VI form of vector compare against IMM. -/
  | vcmpImm (w : ViWord)
  /-- VSEL (R309). Vector select of b or c by comparing a with zero. -/
  | vsel (w : VrWord)
  /-- VSEL_IMM (R309). VI form of vector select of a or IMM by comparing a with zero. -/
  | vselImm (w : ViWord)
  /-- VMOV (R306). Vector register move. -/
  | vmov (w : VrWord)
  /-- VMOV_IMM (R306). VI form of vector move of IMM. -/
  | vmovImm (w : ViWord)
  /-- VEXT (R306). Vector sign or zero extension at a given width. -/
  | vext (w : VrWord)
  /-- VPOP (R306). Vector population count. -/
  | vpop (w : VrWord)
  /-- VCLZ (R306). Vector count of leading zeros. -/
  | vclz (w : VrWord)
  /-- VBFX (R307). Vector bit-field extract. -/
  | vbfx (w : VrWord)
  /-- VBFI (R307). Vector bit-field insert of k bits of a into c at position b. -/
  | vbfi (w : VrWord)
  /-- VDOT4 (R308). Vector four-way byte dot product with 32-bit accumulate. -/
  | vdot4 (w : VrWord)
  /-- FADD (R310). Floating-point add rounded once in mode RM. -/
  | fadd (w : VrWord)
  /-- FADD_IMM (R310). VI form of floating-point add with the IMM value. -/
  | faddImm (w : ViWord)
  /-- FSUB (R310). Floating-point subtract. -/
  | fsub (w : VrWord)
  /-- FMUL (R310). Floating-point multiply. -/
  | fmul (w : VrWord)
  /-- FMUL_IMM (R310). VI form of floating-point multiply by the IMM value. -/
  | fmulImm (w : ViWord)
  /-- FFMA (R310). Fused multiply-add with one rounding. -/
  | ffma (w : VrWord)
  /-- FMIN (R311). Floating-point minimum without rounding, NaN-ignoring. -/
  | fmin (w : VrWord)
  /-- FMIN_IMM (R311). VI form of floating-point minimum with IMM. -/
  | fminImm (w : ViWord)
  /-- FMAX (R311). Floating-point maximum without rounding, NaN-ignoring. -/
  | fmax (w : VrWord)
  /-- FMAX_IMM (R311). VI form of floating-point maximum with IMM. -/
  | fmaxImm (w : ViWord)
  /-- FABS (R312). Clears the sign bit of each value. -/
  | fabs (w : VrWord)
  /-- FNEG (R312). Inverts the sign bit of each value. -/
  | fneg (w : VrWord)
  /-- FCSGN (R312). Copies the sign of b onto a. -/
  | fcsgn (w : VrWord)
  /-- FCMP (R313). Floating-point compare writing a predicate. -/
  | fcmp (w : VrWord)
  /-- FCLASS (R314). Writes a one-hot class mask of each value. -/
  | fclass (w : VrWord)
  /-- FRCP (R315). Correctly rounded reciprocal. -/
  | frcp (w : VrWord)
  /-- FRSQ (R315). Correctly rounded reciprocal square root. -/
  | frsq (w : VrWord)
  /-- FSQRT (R315). Correctly rounded square root. -/
  | fsqrt (w : VrWord)
  /-- FEXP2 (R315). Correctly rounded base-2 exponential. -/
  | fexp2 (w : VrWord)
  /-- FLOG2 (R315). Correctly rounded base-2 logarithm. -/
  | flog2 (w : VrWord)
  /-- FSIN (R315). Correctly rounded sine. -/
  | fsin (w : VrWord)
  /-- FCOS (R315). Correctly rounded cosine. -/
  | fcos (w : VrWord)
  /-- FTANH (R315). Correctly rounded hyperbolic tangent. -/
  | ftanh (w : VrWord)
  /-- FEXP (R315). Correctly rounded natural exponential. -/
  | fexp (w : VrWord)
  /-- CVT (R317). Converts one value per lane between integer and float types. -/
  | cvt (w : VrWord)
  /-- CVTP (R318). Converts to packed 16-bit results. -/
  | cvtp (w : VrWord)
  /-- BPACK (R319). Packs a register group into FP8, FP4 or block-scaled FP4 codes. -/
  | bpack (w : VrWord)
  /-- BUNPK (R320). Decodes one narrow element exactly. -/
  | bunpk (w : VrWord)
  /-- BSCL (R321). Scales a value by a power of two with one rounding. -/
  | bscl (w : VrWord)
  /-- CVTX (R322). Stochastic conversion with a program-supplied variate. -/
  | cvtx (w : VrWord)
  /-- SHFL (R324). Cross-lane shuffle from a computed source lane. -/
  | shfl (w : VrWord)
  /-- VOTE (R325). Cross-lane vote writing a predicate or a ballot mask. -/
  | vote (w : VrWord)
  /-- VRED (R326). Reduction over the active lanes written to every active lane. -/
  | vred (w : VrWord)
  /-- VRED_Q (R326). Reduction over the active lanes pushed onto the vector-to-uniform queue. -/
  | vredQ (w : VrWord)
  /-- VSCAN (R327). Inclusive or exclusive scan over the active lanes. -/
  | vscan (w : VrWord)
  /-- VBCAST (R328). Broadcasts lane b's value to every active lane. -/
  | vbcast (w : VrWord)
  /-- LD (R360). Load per lane or uniform, landing under a tag or into a uniform register. -/
  | ld (w : MemWord)
  /-- ST (R360). Store per lane or uniform. -/
  | st (w : MemWord)
  /-- PREF (R361). Prefetch of a sector into L2 or L1 and L2, with no effect on values. -/
  | pref (w : MemWord)
  /-- AADD (R362). Atomic add, returning or not. -/
  | aadd (w : MemWord)
  /-- AMIN (R362). Atomic signed minimum. -/
  | amin (w : MemWord)
  /-- AMAX (R362). Atomic signed maximum. -/
  | amax (w : MemWord)
  /-- AAND (R362). Atomic AND. -/
  | aand (w : MemWord)
  /-- AOR (R362). Atomic OR. -/
  | aor (w : MemWord)
  /-- AXOR (R362). Atomic XOR. -/
  | axor (w : MemWord)
  /-- AXCH (R362). Atomic exchange. -/
  | axch (w : MemWord)
  /-- ACAS (R362). Atomic compare-and-swap from a comparand group. -/
  | acas (w : MemWord)
  /-- XADD (R364). Order-independent addition into an exact cell. -/
  | xadd (w : MemWord)
  /-- XRD (R365). Reads an exact cell rounded once to FP32. -/
  | xrd (w : MemWord)
  /-- XST (R366). Exchange store into another member's slice, invisible until the barrier flips. -/
  | xst (w : MemWord)
  /-- FENCE (R368). Acquire, release or acquire-release step at a scope for the whole cohort. -/
  | fence (w : MemWord)
  /-- FENCE_SC (R132). Sequentially consistent fence waiting for the next package heartbeat tick. -/
  | fenceSc (w : MemWord)
  /-- FENCE_SC_POD (R133). Pod-wide sequentially consistent fence that suspends until the next pod tick. -/
  | fenceScPod (w : MemWord)
  /-- FENCE_FMT (R154). Suspends until a format flush of every active window completes. -/
  | fenceFmt (w : MemWord)
  /-- MMA (R340). Matrix multiply-accumulate of gathered A rows and a scratchpad B operand into a tile. -/
  | mma (w : MmaWord)
  /-- TILE_ALLOC (R344). Gives the tag a handle and a zeroed physical tile. -/
  | tileAlloc (w : MmaWord)
  /-- TILE_FREE (R345). Releases a handle, its charge and zeroes its tile. -/
  | tileFree (w : MmaWord)
  /-- TILE_ZERO (R346). Zeroes the rows of the active lanes. -/
  | tileZero (w : MmaWord)
  /-- TILE_LD (R348). Loads tile rows from memory. -/
  | tileLd (w : MmaWord)
  /-- TILE_ST (R348). Stores tile rows to memory as raw bits. -/
  | tileSt (w : MmaWord)
  /-- TILE_DRAIN (R349). Stores tile rows scaled by band and converted. -/
  | tileDrain (w : MmaWord)
  /-- TILE_RD (R350). Moves a column group of the tile to eight vector registers. -/
  | tileRd (w : MmaWord)
  /-- TILE_WR (R350). Moves eight vector registers into a column group of the tile. -/
  | tileWr (w : MmaWord)
  /-- TILE_MOV (R346). Copies the active rows from one tile to another. -/
  | tileMov (w : MmaWord)
  /-- BAR_INIT (R372). Initialises a barrier of the lead team. -/
  | barInit (w : SynWord)
  /-- BAR_ARRIVE (R373). Counts an arrival of each active fibre on its team's barrier. -/
  | barArrive (w : SynWord)
  /-- BAR_WAIT (R375). Completes or suspends each fibre until its phase flips. -/
  | barWait (w : SynWord)
  /-- BAR_INVAL (R376). Invalidates a barrier and releases its waiters with a false predicate. -/
  | barInval (w : SynWord)
  /-- SEM_INC (R377). Adds to a core semaphore as a release RMW. -/
  | semInc (w : SynWord)
  /-- SEM_WAIT (R377). Completes when the semaphore reaches the threshold, else suspends. -/
  | semWait (w : SynWord)
  /-- WAITV (R378). Watches a memory location per fibre until a condition holds. -/
  | waitv (w : SynWord)
  /-- SPAWN (R379). Creates child fibres under the spawn quota and writes a spawn record. -/
  | spawn (w : SynWord)
  /-- JOIN (R380). Completes when the join counter is zero, else suspends. -/
  | joinW (w : SynWord)
  /-- LWAIT (R370). Waits until every tag of the mask has landed and frees them. -/
  | lwait (w : SynWord)
  /-- COPY (R382). Issues a linear copy engine operation. -/
  | copy (w : SynWord)
  /-- COPY_2D (R382). Issues a two-dimensional copy engine operation. -/
  | copy2d (w : SynWord)
  /-- GATH (R382). Issues an indexed gather engine operation. -/
  | gath (w : SynWord)
  /-- SCAT (R382). Issues an indexed scatter engine operation. -/
  | scat (w : SynWord)
  /-- COLL (R386). Issues one rank of a collective. -/
  | coll (w : SynWord)
  /-- ENG_Q (R388). Writes a summary of an engine operation's progress or status. -/
  | engQ (w : SynWord)
  /-- SRD (R295). Reads a per-cohort special register into a uniform register. -/
  | srd (w : UrWord)
  /-- SRD_MBIN (R461). Reads the inbound debug mailbox and clears IFULL, at the boundary. -/
  | srdMbin (w : UrWord)
  /-- SRDV (R295). Reads a special register into a vector register of each active lane. -/
  | srdv (w : VrWord)
  /-- SWR (R297). Writes the outbound debug mailbox. -/
  | swr (w : UrWord)
  /-- DBG (R297). Increments a debug event counter and posts a trace event. -/
  | dbg (w : SynWord)
  /-- TLBINV (R298). Privileged shootdown of a context's translations, holding until done. -/
  | tlbinv (w : UrWord)
  /-- ICINV (R299). Privileged drop of a context's fetch lines in every core. -/
  | icinv (w : UrWord)
  /-- SHOOTDOWN_TIMEOUT (R36). After 50 µs without all acknowledgements TIMEOUT is set and hung units are reported. -/
  | shootdownTimeout (ctx : Nat)
  /-- MIGRATION_WINDOW (R44). All access counters clear at each window boundary. -/
  | migrationWindow (ctx : Nat)
  /-- SHOOTDOWN_ACK (R33). An agent acknowledges once its accesses under the old epoch reach zero. -/
  | shootdownAck (ctx : Nat) (agent : TlbOwner)
  /-- SHOOTDOWN_DONE (R35). All acknowledgements arrive; DONE increments and BUSY clears. -/
  | shootdownDone (ctx : Nat)
  /-- REPLICA_COMMAND_DONE (R48). A replica command completes and BUSY clears. -/
  | replicaCommandDone (die : Nat)
  /-- READY (R51). A READY releases the wait list of a peer page. -/
  | ready (pkg page : Nat)
  /-- LEASE_EXPIRY (R52). The target proceeds when a lease's expiry plus one pod tick passes without acknowledgement. -/
  | leaseExpiry (lease : Nat)
  /-- SECTOR_FILL (R69). HBM data returns to the slice and fills the missing sectors. -/
  | sectorFill (pa : Nat)
  /-- STORE_ACK (R64). The home slice acknowledges a store or atomic and the miss-status entry frees. -/
  | storeAck (core : Nat) (loc : Loc)
  /-- MISS_STATUS_GRANT (R65). Freed entries go to the head of the grant queue until it holds all it needs. -/
  | missStatusGrant (core : Nat)
  /-- RETRY_REISSUE (R65). Under reject-and-retry an instruction re-issues 2 cycles after its grant. -/
  | retryReissue (uid : Nat)
  /-- LANDING (R237). A returned result is written into its destination rows under its tag. -/
  | landing (uid tag : Nat)
  /-- XST_ACCEPT (R367). The member core accepts an exchange store into its shadow bank or refuses it. -/
  | xstAccept (uid : Nat)
  /-- ROW_IDLE_CLOSE (R79). A row idle for 128 cycles is closed. -/
  | rowIdleClose (bank : BankId)
  /-- HASH_OPEN (R78). HASHCTL.OPEN := 1 refuses launches and quiesces the die's memory. -/
  | hashOpen (die : Nat)
  /-- HASH_READY (R78). The die sets READY once its slices are flushed and its controllers quiet. -/
  | hashReady (die : Nat)
  /-- FORMAT_WINDOW_ACTIVE (R106). ACTIVE is set once every controller has the window in force. -/
  | formatWindowActive (win : Nat)
  /-- FORMAT_FLUSH_DONE (R111). A format flush completes when every encoded byte is acknowledged, releasing class-7 waiters. -/
  | formatFlushDone (seq : Nat)
  /-- COBBLER_DRAIN (R180). The Cobbler forms one cohort from the key of a bin's oldest record. -/
  | cobblerDrain (rec : Nat)
  /-- ACK (R182). The victim passes ownership and sends COMMIT, or answers a late ACK with REFUSE. -/
  | ack (rec : Nat)
  /-- HANDOFF_TIMEOUT (R182). With no answer in 2,000 cycles the victim reclaims the record. -/
  | handoffTimeout (rec : Nat)
  /-- COMMIT (R182). The thief enters its PENDING record into a bin, rewriting its tag across packages. -/
  | commit (rec : Nat)
  /-- CELLAR_EXHAUSTION (R212). When only class-8 records hold charge, the oldest becomes a fatal CELLARFULL trap record. -/
  | cellarExhaustion (fn : Nat)
  /-- PLACEMENT (R405). The distributor places a cohort on the first fitting core in order. -/
  | placement (uid : Nat)
  /-- PLACEMENT_WAIT_TIMEOUT (R211). A cohort unplaced for 16,384 cycles forces suspension of the fewest cohorts that make it fit. -/
  | placementWaitTimeout (uid : Nat)
  /-- SPLIT_WAIT_TIMEOUT (R205). A split waiting 256 cycles forcibly suspends the waiting sub-cohort. -/
  | splitWaitTimeout (uid : Nat)
  /-- PRIORITY_PREEMPTION (R408). A PRE queue's team waiting 16,384 cycles pre-empts lower-priority cohorts on one core. -/
  | priorityPreemption (fn queue : Nat)
  /-- HALT_REQUEST (R236). A pre-emption or forced-suspension request halts the cohort at a latch-free boundary and writes forced records. -/
  | haltRequest (uid cause : Nat)
  /-- ISSUE_SLOT_TAKE (R409). A free issue slot takes the ready cohort with the earliest ready time. -/
  | issueSlotTake (core slot : Nat)
  /-- LAUNCH_START (R400). The launch at the cursor starts when dependences, SERIAL and limits allow, taking a launch number. -/
  | launchStart (fn queue : Nat)
  /-- TEAM_CREATE (R401). The distributor creates a whole team, chooses members and advances NEXT. -/
  | teamCreate (fn queue : Nat)
  /-- LAUNCH_COMPLETE (R402). A finished launch writes its completion word, advances DONESEQ and raises its interrupt. -/
  | launchComplete (launch : Nat)
  /-- DIST_LOAD_DONE (R393). The load's checks complete and the image takes effect or RESULT reports the failure. -/
  | distLoadDone
  /-- MATRIX_UNIT_EXECUTE (R335). The matrix unit completes the next accepted word of its queue. -/
  | matrixUnitExecute (core : Nat)
  /-- ENGINE_CHUNK_DONE (R383). A chunk's writes perform and its bytes are counted on its barrier. -/
  | engineChunkDone (op : Nat)
  /-- ENGINE_OP_DONE (R384). After the last chunk the status block is written and the semaphore incremented. -/
  | engineOpDone (op : Nat)
  /-- ENGINE_CHECKPOINT (R387). An operation writes an engine record at the end of its chunk or stage. -/
  | engineCheckpoint (op : Nat)
  /-- COLLECTIVE_DATA (R386). A collective stage exchanges data with its peer rank. -/
  | collectiveData (op peer : Nat) (data : List (BitVec 8))
  /-- COLLECTIVE_STAGE_DONE (R386). A collective stage completes and may checkpoint. -/
  | collectiveStageDone (op : Nat)
  /-- COLLECTIVE_ABORT (R386). A rank failing its descriptor checks aborts every matching rank with ENGARG. -/
  | collectiveAbort (op : Nat)
  /-- PACKAGE_HEARTBEAT (R132). A package tick every 256 cycles releases fence.sc waits and class-6 records. -/
  | packageHeartbeat
  /-- POD_TICK_SEND (R475). The tick master sends a pod-tick flit every 4,000 cycles. -/
  | podTickSend
  /-- POD_TICK (R475). A package receives a pod-tick flit carrying the new count. -/
  | podTick (count stamp : Nat)
  /-- POD_TICK_ADOPT (R475). DELAY cycles after the master's send a package adopts the tick and releases fence.sc.pod waiters. -/
  | podTickAdopt (count : Nat)
  /-- SLOT_EDGE (R434). A slot edge switches the entry and, at a handover edge, drains the outgoing functions. -/
  | slotEdge
  /-- FRAME_BOUNDARY (R430). Budgets refill and a pending slot table takes effect. -/
  | frameBoundary
  /-- WHEEL_TURN (R427). A 1,024-cycle wheel turn begins. -/
  | wheelTurn
  /-- WHEEL_POSITION (R427). At each 16-cycle position a resource serves its owner, or a donee. -/
  | wheelPosition (die cls pos : Nat)
  /-- ENGINE_OVERRUN (R438). At E + 9,000 an operation not checkpointed ends OVERRUN. -/
  | engineOverrun
  /-- DRAIN_WINDOW_END (R437). At E + 10,000 save blocks are restored and placement on handed-over quads begins. -/
  | drainWindowEnd
  /-- TENANT_RESET_DONE (R443). The reset phase completes, DONE is set and BUSY clears. -/
  | tenantResetDone (fn : Nat)
  /-- ARBITER_MESSAGE (R448). The arbiter serves one outbox message, enqueuing, rejecting or refusing it. -/
  | arbiterMessage (fn : Nat)
  /-- ROUTE_READY (R472). READY is set once no request of the package's own is outstanding. -/
  | routeReady
  /-- ATTEST_DONE (R477). The report is written and DONE is set. -/
  | attestDone (fn : Nat)
  /-- FIRMWARE_STAGE_DONE (R476). Verification and the flash write of a staged firmware image complete, and FWSTAT.RESULT is set and BUSY cleared. -/
  | firmwareStageDone
  /-- PARTITION_REBUILD_DONE (R417). A partition rebuild completes: the slice remap table is rewritten onto spares, and PARTRB.BUSY and PEND clear. -/
  | partitionRebuildDone
  -- Inputs, and choices that the part makes under no rule: from the agenda alone (log 2).
  /-- TABLE_WALK (R27). The die walker reads table entries and completes with a translation or a walk fault. -/
  | tableWalk (core ctx va : Nat) (acc : Access)
  /-- FAULTPTR_TAIL_WRITE (R40). Software advances TAIL, letting pending fault descriptors be written. -/
  | faultptrTailWrite (fn slot : Nat) (val : BitVec 64)
  /-- PAGEDONE_RELEASE (R41). PAGEDONE with FAIL 0 releases every waiter of the named page to bins. -/
  | pagedoneRelease (fn : Nat) (val : BitVec 64)
  /-- PAGEDONE_FAIL (R41). PAGEDONE with FAIL 1 converts waiters to PAGEFAIL trap records or faulted engine ends. -/
  | pagedoneFail (fn : Nat) (val : BitVec 64)
  /-- SHOOTDOWN (R32). A SHOOT write starts a shootdown at every agent, or is rejected. -/
  | shootdown (fn slot : Nat) (val : BitVec 64)
  /-- REPLICA_INSERT (R48). REPCTL OP 01 enters a replica of a page on the die. -/
  | replicaInsert (die : Nat)
  /-- REPLICA_REMOVE (R48). REPCTL OP 10 removes a page's replica entry. -/
  | replicaRemove (die : Nat)
  /-- REPLICA_REMOVE_ALL (R48). REPCTL OP 11 removes every entry of a context on the die. -/
  | replicaRemoveAll (die : Nat)
  /-- REPLICA_RESERVED_OP (R48). REPCTL OP 00 answers BADARG. -/
  | replicaReservedOp (die : Nat)
  /-- TRANSLATION_REQUEST (R49). A target resolves a peer export address through its import table and answers with a lease. -/
  | translationRequest (pkg fn addr txn : Nat)
  /-- LEASE_GRANT (R50). A requester receives frame, permissions and lease and fills its remote translation cache. -/
  | leaseGrant (txn frame : Nat) (writable : Bool) (lease expiry : Nat)
  /-- NACK (R51). A NACK makes the requester drop its entry and retranslate, or the victim reclaim a record. -/
  | nack (txn : Nat)
  /-- SELF_TEST (R465). A targeted test of a unit runs and gives a transient or lasting verdict. -/
  | selfTest (unit : HwUnit) (lasting : Bool)
  /-- TEAM_MOVE (R189). The distributor moves a team whole to new member cores. -/
  | teamMove (launch team : Nat) (members : List Nat)
  /-- L1_FILL (R60). A fill returns to the core's L1 with pending stores merged. -/
  | l1Fill (core pa : Nat)
  /-- NOTREADY (R51). A NOTREADY answer suspends the requester under the peer-not-ready class. -/
  | notready (txn : Nat)
  /-- RECALL (R52). A holder invalidates its entry, drains requests under the lease and acknowledges. -/
  | leaseRecall (pkg lease : Nat)
  /-- RECALL_ACK (R52). The target proceeds once every holder has acknowledged. -/
  | recallAck (pkg lease : Nat)
  /-- PEER_READ (R471). A read flit from a peer is served under its lease or answered NACK. -/
  | peerRead (pkg fn lease addr bytes txn : Nat)
  /-- PEER_WRITE (R471). A write flit from a peer is performed under its lease or answered NACK. -/
  | peerWrite (pkg fn lease addr : Nat) (data : List (BitVec 8)) (txn : Nat)
  /-- PEER_ATOMIC (R471). An atomic flit from a peer is performed under its lease or answered NACK. -/
  | peerAtomic (pkg fn lease addr : Nat) (op : AtomicOp) (wide : Bool) (operand compare : BitVec 64) (txn : Nat)
  /-- COMPLETION (R471). A completion flit returns to the requesting access. -/
  | completion (txn : Nat) (data : List (BitVec 8)) (aborted : Bool)
  /-- PEER_REQUEST_TIMEOUT (R472). A request with no completion after 2,000 cycles and 16 retransmissions raises PEERABORT. -/
  | peerRequestTimeout (txn : Nat)
  /-- LINK_CREDIT (R471). A link-credit flit returns transmit credit to a port. -/
  | linkCredit (port flits : Nat)
  /-- FLIT_RETRY (R471). A flit failing CRC is retried at link level. -/
  | flitRetry (port : Nat)
  /-- SLICE_REQUEST (R69). The home slice serves a request, hitting or missing and fetching or allocating sectors. -/
  | sliceRequest (fn pa : Nat) (store : Bool)
  /-- DRAM_REFRESH (R79). A pseudo-channel controller refreshes one bank. -/
  | dramRefresh (bank : BankId)
  /-- HASH_MASK_WRITE (R76). A write to HASHCH or HASHPC is accepted or rejected. -/
  | hashMaskWrite (die reg : Nat) (val : BitVec 64)
  /-- HASH_CLOSE (R78). HASHCTL.OPEN := 0 clears READY and accepts launches again. -/
  | hashClose (die : Nat)
  /-- FORMAT_WINDOW_ENABLE (R106). Setting FWCTL.EN writes back and invalidates the window's ranges. -/
  | formatWindowEnable (win : Nat)
  /-- FORMAT_WINDOW_DISABLE (R106). Clearing FWCTL.EN performs a format flush and then clears ACTIVE. -/
  | formatWindowDisable (win : Nat)
  /-- REGISTER_WRITE (R7). A write to a register with no behaviour of its own, honouring its access codes and acceptance conditions. -/
  | registerWrite (fn off : Nat) (val : BitVec 64)
  /-- BIN_AGE_EXPIRY (R179). The oldest record of a bin reaches 2,048 cycles and the bin becomes eligible. -/
  | binAgeExpiry (rec : Nat)
  /-- RECORD_SEND (R182). The victim removes a record from its bin, marks it SENT and sends it. -/
  | recordSend (rec pkg die : Nat)
  /-- RECORD_DATA (R182). The thief holds the arriving record as PENDING and answers ACK or NACK. -/
  | recordData (pkg txn die : Nat) (image : List (BitVec 8))
  /-- REFUSE (R182). The thief discards its PENDING copy and releases what it took. -/
  | refuse (rec : Nat)
  /-- QBELL (R395). A doorbell write makes the distributor read HEAD. -/
  | qbell (fn queue : Nat)
  /-- QUEUE_ENABLE (R396). Setting QBASE.EN starts a queue afresh or resumes a stopped one. -/
  | queueEnable (fn queue : Nat) (val : BitVec 64)
  /-- QUEUE_DISABLE (R395). Clearing QBASE.EN stops the queue from starting launches. -/
  | queueDisable (fn queue : Nat) (val : BitVec 64)
  /-- DIST_LOAD (R393). DISTCTL.GO starts a distributor microcode load. -/
  | distLoad
  /-- SLOT_TABLE_LOAD (R424). STCTL.LOAD copies and checks both images and sets PEND or REJ. -/
  | slotTableLoad
  /-- SLOT_TABLE_ENABLE (R424). Setting STCTL.EN puts entry 0 in force at T0. -/
  | slotTableEnable
  /-- SLOT_TABLE_DISABLE (R424). Clearing STCTL.EN returns to function-0 ownership at the next frame boundary. -/
  | slotTableDisable
  /-- PARTITION_REBUILD (R417). PARTRB.GO rewrites the slice remap table onto spares. -/
  | partitionRebuild
  /-- TENANT_RESET (R443). FNRST.GO fences and then resets a function. -/
  | tenantReset (fn : Nat)
  /-- DBGCTL_HALT (R460). Writing HALT halts the function's resident cohorts on the core into DBGHALT trap records. -/
  | dbgctlHalt (fn core : Nat)
  /-- MBIN_WRITE (R461). A host write to MBIN stores the value and sets IFULL or ILOST. -/
  | mbinWrite (fn core : Nat) (val : BitVec 64)
  /-- MBOUT_READ (R461). A host read of MBOUT returns it and clears OFULL. -/
  | mboutRead (fn core : Nat)
  /-- HOST_READ (R467). A host read through BAR2 completes with data, UR or CA. -/
  | hostRead (fn off bytes : Nat)
  /-- HOST_WRITE (R467). A host write through BAR2 is performed or dropped. -/
  | hostWrite (fn off : Nat) (store : HostStore)
  /-- ROUTE_OPEN (R472). RTCTL.OPEN := 1 stops new peer requests of the package. -/
  | routeOpen
  /-- PODRT_WRITE (R472). A route-table write is accepted while READY or rejected. -/
  | podrtWrite (pkg : Nat) (val : BitVec 64)
  /-- ROUTE_CLOSE (R472). RTCTL.OPEN := 0 clears READY and releases waiting requests. -/
  | routeClose
  /-- FIRMWARE_STAGE (R476). FWCTL.GO verifies a staged firmware image and writes it to flash. -/
  | firmwareStage
  /-- ATTEST_REQUEST (R477). Writing ATTCTL bit 0 starts a signed attestation report. -/
  | attestRequest (fn : Nat)
  /-- PACKAGE_BOOT (R478). PERST# deassertion runs the boot sequence to BOOTSTAT.READY. -/
  | packageBoot
  /-- THERMAL_THROTTLE (R479). At 110 °C matrix duty falls to 1/16. -/
  | thermalThrottle
  /-- THERMAL_SHUTDOWN (R479). At 125 °C the package fences every function and removes its power. -/
  | thermalShutdown
  /-- DIE_POWER_GATING (R387). Power-gating of a die makes its engine operations checkpoint at the end of their chunk or stage, and waits until every handoff of the die has resolved. -/
  | diePowerGating (die : Nat)
  /-- FABRIC_PORT_STATE_CHANGE (R470). A scale-out port changes state and the physical function's MSI-X vector 68 is signalled. -/
  | fabricPortStateChange (port : Nat) (up : Bool)
  deriving DecidableEq, Repr

/-- The code of a type (R255). -/
def Ty.code : Ty → BitVec 5
  | .i8 => 0x00#5 | .i16 => 0x01#5 | .i32 => 0x02#5 | .i64 => 0x03#5
  | .n8 => 0x04#5 | .n16 => 0x05#5 | .n32 => 0x06#5 | .n64 => 0x07#5
  | .b32 => 0x08#5 | .b64 => 0x09#5
  | .f64 => 0x10#5 | .f32 => 0x11#5 | .bf16 => 0x12#5 | .f16 => 0x13#5
  | .e4m3 => 0x14#5 | .e5m2 => 0x15#5 | .e2m1 => 0x16#5 | .bs4 => 0x17#5

/-- The type a code names; every code that R255 does not list is reserved. -/
def Ty.ofCode (c : BitVec 5) : Option Ty :=
  match c.toNat with
  | 0x00 => some .i8 | 0x01 => some .i16 | 0x02 => some .i32 | 0x03 => some .i64
  | 0x04 => some .n8 | 0x05 => some .n16 | 0x06 => some .n32 | 0x07 => some .n64
  | 0x08 => some .b32 | 0x09 => some .b64
  | 0x10 => some .f64 | 0x11 => some .f32 | 0x12 => some .bf16 | 0x13 => some .f16
  | 0x14 => some .e4m3 | 0x15 => some .e5m2 | 0x16 => some .e2m1 | 0x17 => some .bs4
  | _ => none

/-- The guard that admits every lane: PRED `0000` (R246). -/
def Guard.always : Guard := ⟨false, 0#3⟩

/-- The source field of all zeros, which stands where a word uses none (R254). -/
def Src.zero : Src := .vreg 0#8

end Sys2Proof
end

