-- ==== Sys2Proof/WellFormed.lean ====
section
/-! DEFINITION. Which instruction words are admitted: R246, R247, R252 to R262, R265 and the field
tables of each word's entry. A word that fails `Instr.wf` raises ILLEGAL. What depends on the place of
the word in its block (R250) is checked where it issues. -/

namespace Sys2Proof

/-- `.i` types (R253). -/
def Ty.signed : Ty → Bool
  | .i8 | .i16 | .i32 | .i64 => true
  | _ => false
/-- `.i` and `.n` types. -/
def Ty.int : Ty → Bool
  | .i8 | .i16 | .i32 | .i64 | .n8 | .n16 | .n32 | .n64 => true
  | _ => false
/-- Integer and bit types. -/
def Ty.intBit : Ty → Bool
  | .b32 | .b64 => true
  | t => t.int
/-- The four types of vector floating-point arithmetic (R310). -/
def Ty.arithFloat : Ty → Bool
  | .f64 | .f32 | .bf16 | .f16 => true
  | _ => false
/-- Types that take a register pair on the vector side (R253). -/
def Ty.pair : Ty → Bool
  | .i64 | .n64 | .b64 | .f64 => true
  | _ => false
/-- The packed types (R253). -/
def Ty.packed : Ty → Bool
  | .bf16 | .f16 => true
  | _ => false
/-- Formats of 8 bits or fewer (R253). -/
def Ty.small : Ty → Bool
  | .e4m3 | .e5m2 | .e2m1 | .bs4 => true
  | _ => false
/-- Types of 32 bits, the packed ones included (R281). -/
def Ty.reg32 : Ty → Bool
  | .i32 | .n32 | .b32 | .f32 | .bf16 | .f16 => true
  | _ => false
/-- Types of 32 or 64 bits, the packed ones included (R281, R324). -/
def Ty.reg3264 (t : Ty) : Bool := t.reg32 || t.pair
/-- The width of one value of a type, in bits. -/
def Ty.width : Ty → Nat
  | .i8 | .n8 | .e4m3 | .e5m2 => 8
  | .i16 | .n16 | .bf16 | .f16 => 16
  | .i32 | .n32 | .b32 | .f32 => 32
  | .i64 | .n64 | .b64 | .f64 => 64
  | .e2m1 | .bs4 => 4

/-- R246: `(!p0)` is reserved. -/
def Guard.wf (g : Guard) : Bool := !(g.neg && g.psel == 0#3)

/-- A vector register that an operand of a type names (R252, R253). -/
def vregWf (pair : Bool) (n : BitVec 8) : Bool :=
  n.toNat < 128 && (!pair || n.toNat % 2 == 0)
/-- A uniform register (R252). -/
def uregWf (n : BitVec 8) : Bool := n.toNat < 160
/-- A source of a vector word, read as a type (R252 to R254). -/
def Src.wfV (ty : Ty) : Src → Bool
  | .vreg n => vregWf ty.pair n
  | .latch b => b.toNat < 8
  | .ureg n => uregWf n
  | .imm _ => !ty.small
/-- A source of a UR, UI or CTL word (R254). -/
def Src.wfU : Src → Bool
  | .ureg n => uregWf n
  | .imm _ => true
  | _ => false
/-- An unused source field (R254). -/
def Src.unused (s : Src) : Bool := s == Src.zero
/-- The value of a small immediate in a range. -/
def Src.immIn (lo hi : Int) : Src → Bool
  | .imm v => lo ≤ v.toInt && v.toInt ≤ hi
  | _ => false

/-- A UR word (R257, R277): the types its row admits, whether it uses SB and SC, whether RM holds a
condition, whether MOD[0] is `.sat`. -/
def UrWord.wf (types : Ty → Bool) (useB useC cc sat : Bool) (w : UrWord) : Bool :=
  types w.ty && uregWf w.dst && w.a.wfU &&
  (if useB then w.b.wfU else w.b.unused) && (if useC then w.c.wfU else w.c.unused) &&
  (if cc then w.rm.toNat < 6 else w.rm == 0#3) &&
  (w.mod == 0#5 || (sat && w.mod == 1#5))

/-- A UI word (R258). -/
def UiWord.wf (types : Ty → Bool) (useA cc : Bool) (w : UiWord) : Bool :=
  types w.ty && uregWf w.dst && (if useA then w.a.wfU else w.a.unused) &&
  (if cc then w.rm.toNat < 6 else w.rm == 0#3)

/-- The destination of a VR or VI word that writes a vector register of a type (R247, R253). -/
def vdstWf (pair wbs : Bool) (dst : BitVec 8) : Bool :=
  if wbs then dst == 0#8 else vregWf pair dst
/-- A predicate destination (R257): bits 7:3 zero, and no WBS. -/
def pdstWf (wbs : Bool) (dst : BitVec 8) : Bool := !wbs && dst.toNat < 8

/-- What a VR row asks of its fields. -/
structure VrShape where
  types : Ty → Bool
  /-- The types of the second and third sources, when they are used. -/
  b : Option (Ty → Ty) := none
  c : Option (Ty → Ty) := none
  rm : BitVec 3 → Bool := (· == 0#3)
  mod : Ty → BitVec 5 → Bool := fun _ m => m == 0#5
  /-- The destination is a predicate. -/
  pred : Bool := false

/-- A source field under the type it is read at, or unused. -/
def srcWf (t : Option (Ty → Ty)) (ty : Ty) (s : Src) : Bool :=
  match t with
  | none => s.unused
  | some f => s.wfV (f ty)

/-- A VR word whose first source has type TY (R257, R301). -/
def VrWord.wf (sh : VrShape) (w : VrWord) : Bool :=
  w.guard.wf && sh.types w.ty && w.a.wfV w.ty && srcWf sh.b w.ty w.b && srcWf sh.c w.ty w.c &&
  sh.rm w.rm && sh.mod w.ty w.mod &&
  (if sh.pred then pdstWf w.wbs w.dst else vdstWf w.ty.pair w.wbs w.dst)

/-- The IMM field of a VI word (R258). -/
def immWf (ty : Ty) (imm : BitVec 25) : Bool :=
  if ty.packed then imm.toNat < 2 ^ 16 else ty.intBit || ty == .f32 || ty == .f64

/-- A VI word (R258). -/
def ViWord.wf (types : Ty → Bool) (useA pred : Bool) (rm : BitVec 3 → Bool) (w : ViWord) : Bool :=
  w.guard.wf && types w.ty && (if useA then w.a.wfV w.ty else w.a.unused) && rm w.rm &&
  immWf w.ty w.imm && (if pred then pdstWf w.wbs w.dst else vdstWf w.ty.pair w.wbs w.dst)

/-- R256: the rounding modes 000 to 100. -/
def rmRound (r : BitVec 3) : Bool := r.toNat < 5
/-- RM 000 to 011 (R315, R349). -/
def rmNoStochastic (r : BitVec 3) : Bool := r.toNat < 4
/-- A condition on integers (R256). -/
def rmCC (r : BitVec 3) : Bool := r.toNat < 6
/-- An operand of type TY. -/
def sameTy : Option (Ty → Ty) := some id
/-- An operand read at one type whatever TY is (R302). -/
def asTy (t : Ty) : Option (Ty → Ty) := some fun _ => t

/-- MOD[0] is `.sat`, every other MOD value reserved. -/
def modSat (_ : Ty) (m : BitVec 5) : Bool := m.toNat < 2

def isExt (t : Ty) : Bool := t == .i32 || t == .n32 || t == .i64 || t == .n64
def isB (t : Ty) : Bool := t == .b32 || t == .b64

/-- Integer words of R306 with two sources. -/
def vInt2 : VrShape := { types := Ty.int, b := sameTy }
def vInt2Sat : VrShape := { types := Ty.int, b := sameTy, mod := modSat }
def vBit2 : VrShape := { types := Ty.intBit, b := sameTy }
/-- The types of `vmov`: DEDUCED (log 20) from its use on `.f32` in spec/18. -/
def Ty.movable (t : Ty) : Bool := t.intBit || t.arithFloat
def vBit1 : VrShape := { types := Ty.intBit }
/-- Floating-point words of R310 that round. -/
def fRound2 : VrShape := { types := Ty.arithFloat, b := sameTy, rm := rmRound, mod := modSat }
def fPlain2 : VrShape := { types := Ty.arithFloat, b := sameTy }
def fPlain1 : VrShape := { types := Ty.arithFloat }
/-- The transcendental words (R315). -/
def fTrans : VrShape :=
  { types := fun t => t == .f32 || t.packed, rm := rmNoStochastic }

/-- SC of a conversion: bit 0 SAT, bits 9:1 zero (R316). -/
def satSrc (c : Src) : Bool := c == .vreg 0#8 || c == .vreg 1#8

/-- Types of `cvt` (R317). -/
def cvtTy (t : Ty) : Bool := t != .b32 && t != .b64 && t != .bs4

/-- The common part of a conversion word: the source type from MOD, the source's and the destination's
registers. `da` says whether the destination is a pair. -/
def cvtWf (ok : Ty → Ty → Bool) (rm : BitVec 3 → Bool) (w : VrWord) (rest : Ty → Bool) : Bool :=
  match Ty.ofCode w.mod with
  | none => false
  | some sty => w.guard.wf && ok w.ty sty && rm w.rm && rest sty

/-- `cvt` (R317): every admitted pair of types takes any mode of rounding, two integer types too (DESIGN CHOICE, log 54). -/
def cvtWordWf (w : VrWord) : Bool :=
  cvtWf (fun d s => cvtTy d && cvtTy s) rmRound w fun sty =>
    w.a.wfV sty && w.b.unused && satSrc w.c && vdstWf w.ty.pair w.wbs w.dst
/-- `cvtp` (R318). -/
def cvtpWf (w : VrWord) : Bool :=
  cvtWf (fun d s => d.packed && (s == .f32 || (s.packed && s != d))) rmRound w fun sty =>
    w.a.wfV sty && (if sty == .f32 then w.b.wfV sty else w.b.unused) && satSrc w.c &&
    vdstWf false w.wbs w.dst
/-- The registers in the group that `bpack` reads (R319). -/
def bpackGroup (d s : Ty) : Nat :=
  let n := if d == .e4m3 || d == .e5m2 then 4 else 8
  if s == .f32 then n else n / 2
/-- `bpack` (R319): the source is a vector register that begins a group. -/
def bpackWf (w : VrWord) : Bool :=
  cvtWf (fun d s => d.small && (s == .f32 || s.packed)) rmRound w fun sty =>
    (match w.a with
     | .vreg n => n.toNat < 128 && n.toNat % bpackGroup w.ty sty == 0
     | _ => false) &&
    w.b.unused && satSrc w.c && vdstWf (w.ty == .bs4) w.wbs w.dst
/-- `bunpk` (R320). -/
def bunpkWf (w : VrWord) : Bool :=
  cvtWf (fun d s => if s.packed then d == .f32 else s.small && (d == .f32 || d.packed))
    (· == 0#3) w fun sty =>
    w.a.wfV sty && w.b.wfV .n32 && (if sty == .bs4 then w.c.wfV .b32 else w.c.unused) &&
    vdstWf false w.wbs w.dst
/-- `bscl` (R321). -/
def bsclWf (w : VrWord) : Bool :=
  w.guard.wf && w.ty.arithFloat && w.a.wfV w.ty && w.b.wfV .i32 && satSrc w.c && rmRound w.rm &&
  w.mod == 0#5 && vdstWf w.ty.pair w.wbs w.dst
/-- `cvtx` (R322). -/
def cvtxWf (w : VrWord) : Bool :=
  cvtWf (fun d s =>
      (d == .f32 && s == .f64) || (d.packed && (s == .f32 || s == .f64)) ||
      ((d == .e4m3 || d == .e5m2 || d == .e2m1) && (s == .f32 || s.packed)))
    (· == 4#3) w fun sty =>
    w.a.wfV sty && w.b.wfV .b32 && satSrc w.c && vdstWf w.ty.pair w.wbs w.dst

/-- `vote` (R325). -/
def voteWf (w : VrWord) : Bool :=
  w.guard.wf && isB w.ty && w.a.wfV w.ty && w.b.unused && w.c.unused && w.rm == 0#3 &&
  w.mod.toNat < 4 &&
  (if w.mod == 3#5 then vdstWf false w.wbs w.dst else pdstWf w.wbs w.dst)
/-- The types of a reduction operation (R326). -/
def redTy (op : Nat) (t : Ty) : Bool :=
  if op < 3 then isExt t || t == .f32 || t == .f64 else op < 6 && isB t
/-- A word over `fclass`'s types, whose destination is one register (R314). -/
def fclassWf (w : VrWord) : Bool :=
  w.guard.wf && w.ty.arithFloat && w.a.wfV w.ty && w.b.unused && w.c.unused && w.rm == 0#3 &&
  w.mod == 0#5 && vdstWf false w.wbs w.dst
/-- `vred` and `vscan`: the fields beside MOD[3] and the destination (R326, R327). -/
def redWf (w : VrWord) : Bool :=
  w.guard.wf && redTy (w.mod.toNat % 8) w.ty && w.a.wfV w.ty && w.b.unused && w.c.unused &&
  w.rm == 0#3 && w.mod.toNat < 16
/-- `vbcast` (R328). -/
def vbcastWf (w : VrWord) : Bool :=
  w.guard.wf && w.ty.reg3264 && w.a.wfV w.ty && w.b.wfU && w.c.unused && w.rm == 0#3 &&
  w.mod == 0#5 && vdstWf w.ty.pair w.wbs w.dst

/-- The registers `srd` reads (R264), MBIN aside. -/
def srdName (m : BitVec 5) : Bool := 8 ≤ m.toNat && m.toNat ≤ 0x11
/-- The registers `srdv` reads. -/
def srdvName (m : BitVec 5) : Bool := m.toNat < 4 || srdName m

/-- A CTL word (R261): its guard is `0000` unless it is a meeting word, and unused fields are zero. -/
def CtlWord.wf (guarded hint off : Bool) (w : CtlWord) : Bool :=
  (if guarded then w.guard.wf else w.guard == Guard.always) &&
  (hint || !w.hint) && (off || w.off == 0#24)
/-- The unused UA, SB, TY and CC of a CTL word. -/
def CtlWord.bare (w : CtlWord) : Bool :=
  w.ua == 0#8 && w.sb.unused && w.ty == 0#5 && w.cc == 0#3
def CtlWord.noTy (w : CtlWord) : Bool := w.ty == 0#5 && w.cc == 0#3

/-- The address fields of a MEM word that accesses memory (R254, R259). -/
def MemWord.addrWf (w : MemWord) : Bool :=
  w.guard.wf && uregWf w.base &&
  (match w.off with
   | .vreg n => !w.ua && n.toNat < 128
   | .ureg n => uregWf n
   | .imm _ => true
   | .latch _ => false)
/-- ORD and SCOPE (R259): SCOPE is 0 when ORD is 00, and never 7. -/
def MemWord.ordWf (ok : BitVec 2 → Bool) (w : MemWord) : Bool :=
  ok w.ord && w.scope != 7#3 && (w.ord != 0#2 || w.scope == 0#3)
/-- A DATA field: uniform, or vector with the alignment its size asks for (R259). -/
def MemWord.dataWf (w : MemWord) : Bool :=
  if w.ua then uregWf w.data
  else w.data.toNat < 128 &&
    (if w.sz == 5#3 then w.data.toNat % 2 == 0
     else if w.sz == 6#3 then w.data.toNat % 4 == 0 else true)
/-- LTAG of a word that returns a value under a tag when UA is 0 (R357). -/
def MemWord.tagWf (w : MemWord) : Bool := !w.ua || w.ltag == 0#4
/-- Bit 51 and LTAG of a word that returns nothing. -/
def MemWord.noReturn (w : MemWord) : Bool := !w.wbs && w.ltag == 0#4

/-- `ld` (R357). -/
def ldWf (w : MemWord) : Bool :=
  w.addrWf && (w.sz.toNat < 6 || (w.sz == 6#3 && !w.ua)) && w.ordWf (fun o => o.toNat < 2) &&
  w.dataWf && !w.wbs && w.tagWf
/-- The sizes of `st` and, with UA 0, of `xst`. -/
def stSize (w : MemWord) : Bool :=
  w.sz == 0#3 || w.sz == 2#3 || w.sz == 4#3 || w.sz == 5#3 || (w.sz == 6#3 && !w.ua)
def stWf (w : MemWord) : Bool :=
  w.addrWf && stSize w && w.ordWf (fun o => o == 0#2 || o == 2#2) && w.dataWf && w.noReturn
def prefWf (w : MemWord) : Bool :=
  w.addrWf && (w.sz == 0#3 || w.sz == 4#3) && w.ordWf (· == 0#2) && !w.ua && w.data == 0#8 &&
  w.noReturn
/-- The atomics of R362 but `acas`. -/
def atomWf (w : MemWord) : Bool :=
  w.addrWf && (w.sz == 4#3 || w.sz == 5#3) && w.ordWf (fun _ => true) && w.dataWf &&
  (if w.wbs then w.ltag == 0#4 else w.tagWf)
/-- `acas`: the comparand group (R362). -/
def acasWf (w : MemWord) : Bool :=
  w.addrWf && (w.sz == 4#3 || w.sz == 5#3) && w.ordWf (fun _ => true) &&
  (if w.ua then w.data.toNat + 1 < 160
   else w.data.toNat < 128 && w.data.toNat % (if w.sz == 4#3 then 2 else 4) == 0) &&
  (if w.wbs then w.ltag == 0#4 else w.tagWf)
def xaddWf (w : MemWord) : Bool :=
  w.addrWf && (w.sz == 4#3 || w.sz == 2#3 || w.sz == 3#3) &&
  w.ordWf (fun o => o == 0#2 || o == 2#2) && w.dataWf && w.noReturn
def xrdWf (w : MemWord) : Bool :=
  w.addrWf && w.sz == 4#3 && w.ordWf (fun o => o.toNat < 2) && w.dataWf && !w.wbs && w.tagWf
/-- `xst`: bits 5:2 hold the barrier and bit 1 is zero (R259). -/
def xstWf (w : MemWord) : Bool :=
  w.addrWf && stSize w && !w.ua && w.scope.toNat % 2 == 0 && w.dataWf && w.noReturn
/-- The fences (R263): every field beside the guard, ORD and SCOPE is zero. -/
def fenceWf (ord : BitVec 2 → Bool) (scope : BitVec 3 → Bool) (w : MemWord) : Bool :=
  w.guard.wf && w.data == 0#8 && w.base == 0#8 && w.off.unused && w.disp == 0#12 && w.noReturn &&
  w.sz == 0#3 && !w.ua && ord w.ord && scope w.scope

/-- The unused fields of an MMA word: those the flags do not name must be zero (R334). -/
structure MmaUse where
  guard : Bool := true
  vx : Bool := false
  ub : Bool := false
  ta : Bool := false
  tb : Bool := false
  rm : Bool := false
  red : Bool := false
  sat : Bool := false
  ltag : Bool := false
  uc : Bool := false
  mod : Bool := false

def MmaWord.wf (u : MmaUse) (w : MmaWord) : Bool :=
  (if u.guard then w.guard.wf else w.guard == Guard.always) &&
  (u.vx || w.vx == 0#8) && (u.ub || w.ub == 0#8) && (u.ta || w.ta == 0#5) && (u.tb || w.tb == 0#5) &&
  (u.rm || w.rm == 0#3) && (u.red || !w.red) && (u.sat || !w.sat) && (u.ltag || w.ltag == 0#4) &&
  (u.uc || w.uc == 0#8) && (u.mod || w.mod == 0#5)

/-- An address pair or band pair: an even uniform register (R334). -/
def upairWf (n : BitVec 8) : Bool := uregWf n && n.toNat % 2 == 0
/-- A group of 8 vector registers (R350). -/
def vgroupWf (n : BitVec 8) : Bool := n.toNat < 128 && n.toNat % 8 == 0

/-- INT8 types of `mma` (R336). -/
def mmaInt (t : Ty) : Bool := t == .i8 || t == .n8
/-- The type pairs of R336. -/
def mmaPair (a b : Ty) : Bool :=
  (a == .bf16 && b == .bf16) || (a == .f16 && b == .f16) ||
  ((a == .e4m3 || a == .e5m2) && (b == .e4m3 || b == .e5m2)) || (mmaInt a && mmaInt b) ||
  ((a == .e2m1 || a == .bs4) && (b == .e2m1 || b == .bs4))
/-- The two types of an MMA word. -/
def MmaWord.types (w : MmaWord) : Option (Ty × Ty) :=
  match Ty.ofCode w.ta, Ty.ofCode w.tb with
  | some a, some b => some (a, b)
  | _, _ => none

/-- `mma` (R334, R336, R341). -/
def mmaWf (w : MmaWord) : Bool :=
  w.wf { vx := true, ub := true, ta := true, tb := true, red := true, sat := true, ltag := true,
         uc := true, mod := true } &&
  (match w.types with
   | none => false
   | some (a, b) =>
     mmaPair a b && vregWf (a == .bs4) w.vx && uregWf w.ub &&
     (if b == .bs4 then uregWf w.uc else w.uc == 0#8) && (!w.sat || mmaInt a) &&
     (if w.sat then w.mod.toNat < 8 else w.mod == 0#5) &&
     ((w.sat && w.mod != 0#5) || w.ltag == 0#4))
/-- `tile.drain` (R349). -/
def drainWf (w : MmaWord) : Bool :=
  w.wf { ub := true, ta := true, tb := true, rm := true, sat := true, uc := true, mod := true } &&
  upairWf w.ub && rmNoStochastic w.rm && w.mod.toNat < 4 &&
  (if w.mod.toNat % 2 == 1 then upairWf w.uc else w.uc == 0#8) &&
  (match w.types with
   | none => false
   | some (a, b) => (a == .f32 || a == .i32) &&
     (b == .f32 || b.packed || b == .e4m3 || b == .e5m2))

/-- The unused fields of a SYN word (R369). -/
structure SynUse where
  ua : Bool := false
  ub : Bool := false
  vx : Bool := false
  pd : Bool := false
  bar : Bool := false
  sem : Bool := false
  scope : Bool := false
  co : Bool := false
  cnt : Bool := false
  mod : Bool := false

def SynWord.wf (u : SynUse) (w : SynWord) : Bool :=
  w.guard.wf &&
  (if u.ua then uregWf w.ua else w.ua == 0#8) && (if u.ub then uregWf w.ub else w.ub == 0#8) &&
  (if u.vx then w.vx.toNat < 128 else w.vx == 0#8) && (u.pd || w.pd == 0#3) &&
  (u.bar || w.bar == 0#4) && (u.sem || w.sem == 0#6) &&
  (if u.scope then w.scope != 7#3 else w.scope == 0#3) && (u.co || w.co == 0#3) &&
  (u.cnt || w.cnt == 0#4) && (u.mod || w.mod == 0#4)

/-- An engine word with CNT operand registers (R369, R381): CO selects BAR or SEM. -/
def engineWf (cnt : Nat) (mod : BitVec 4 → Bool) (w : SynWord) : Bool :=
  w.wf { ua := true, bar := true, sem := true, co := true, cnt := true, mod := true } &&
  w.cnt.toNat == cnt && w.ua.toNat + cnt ≤ 160 && mod w.mod && w.co.toNat < 3 &&
  (w.co == 1#3 || w.bar == 0#4) && (w.co == 2#3 || w.sem == 0#6)

/-- Whether an instruction word is one that R265 admits. An event is no word: every event term is
well formed. -/
def Instr.wf : Instr → Bool
  | .uadd w => w.wf Ty.int true false false true
  | .uaddImm w => w.wf Ty.int true false
  | .usub w => w.wf Ty.int true false false true
  | .umul w => w.wf Ty.int true false false true
  | .umulImm w => w.wf Ty.int true false
  | .umulh w => w.wf Ty.int true false false false
  | .umad w => w.wf Ty.int true true false true
  | .udiv w => w.wf Ty.int true false false false
  | .urem w => w.wf Ty.int true false false false
  | .umin w => w.wf Ty.int true false false false
  | .umax w => w.wf Ty.int true false false false
  | .uand w => w.wf Ty.intBit true false false false
  | .uandImm w => w.wf Ty.intBit true false
  | .uor w => w.wf Ty.intBit true false false false
  | .uorImm w => w.wf Ty.intBit true false
  | .uxor w => w.wf Ty.intBit true false false false
  | .uxorImm w => w.wf Ty.intBit true false
  | .uandn w => w.wf Ty.intBit true false false false
  | .ushl w => w.wf Ty.intBit true false false false
  | .ushr w => w.wf Ty.intBit true false false false
  | .urot w => w.wf Ty.intBit true false false false
  | .ucmp w => w.wf Ty.intBit true false true false
  | .ucmpImm w => w.wf Ty.intBit true true
  | .usel w => w.wf Ty.intBit true true false false
  | .umov w => w.wf Ty.intBit false false false false
  | .umovImm w => w.wf Ty.intBit false false
  | .uext w => w.wf (fun t => t == .i64 || t == .n64) true false false false
  | .upop w => w.wf Ty.intBit false false false false
  | .uclz w => w.wf Ty.intBit false false false false
  | .ubfx w => w.wf isExt true true false false
  | .ulea w => w.wf (· == .n64) true true false false && w.c.immIn 0 7
  | .ucat w => w.wf (· == .b64) true false
  | .bra w => w.wf false false true && w.bare
  | .brc w => w.wf false true true && uregWf w.ua && w.sb.wfU && rmCC w.cc &&
      (match Ty.ofCode w.ty with | some t => t.intBit | none => false)
  | .brv w => w.wf true true true && w.bare
  | .call w => w.wf false false true && w.ua == 0#8 && w.sb.immIn 0 127 && w.noTy
  | .callr w => w.wf false false false && uregWf w.ua && w.sb.immIn 0 127 && w.noTy
  | .ret w => w.wf false false false && w.bare
  | .jtab w => w.wf false false true && uregWf w.ua && w.sb.immIn 1 127 && w.noTy
  | .exitW w => w.wf true false false && w.bare
  | .trap w => w.wf true false true && w.bare && w.off.toNat < 2 ^ 16
  | .brk w => w.wf true false false && w.bare
  | .nop w => w.wf false false false && w.bare
  | .yield w => w.wf true false false && w.bare
  | .qput w => w.wf (fun t => t.intBit && t.width ≥ 32) false false false false && w.dst == 0#8
  | .qget w => w.guard.wf && w.ty.reg3264 && w.a.unused && w.b.unused && w.c.unused &&
      w.rm == 0#3 && w.mod == 0#5 && vdstWf w.ty.pair w.wbs w.dst
  | .qret w => w.guard.wf && w.ty.reg32 && w.a.wfV w.ty && w.b.unused && w.c.unused &&
      w.rm == 0#3 && w.mod == 0#5 && !w.wbs && w.dst == 0#8
  | .qrcvB64 w => w.ty == .b64 && w.dst.toNat % 16 == 0 && w.dst.toNat ≤ 144 && w.a.unused &&
      w.b.unused && w.c.unused && w.rm == 0#3 && w.mod == 0#5
  | .qrcvB32 w => (w.ty == .i32 || w.ty == .n32 || w.ty == .b32) && uregWf w.dst && w.a.unused &&
      w.b.wfU && w.c.unused && w.rm == 0#3 && w.mod == 0#5
  | .vadd w => w.wf vInt2Sat
  | .vaddImm w => w.wf Ty.int true false (· == 0#3)
  | .vsub w => w.wf vInt2Sat
  | .vmul w => w.wf vInt2Sat
  | .vmulImm w => w.wf Ty.int true false (· == 0#3)
  | .vmulh w => w.wf vInt2
  | .vmad w => w.wf { vInt2Sat with c := sameTy }
  | .vmin w => w.wf vInt2
  | .vmax w => w.wf vInt2
  | .vabs w => w.wf { types := Ty.signed, mod := modSat }
  | .vand w => w.wf vBit2
  | .vandImm w => w.wf Ty.intBit true false (· == 0#3)
  | .vor w => w.wf vBit2
  | .vorImm w => w.wf Ty.intBit true false (· == 0#3)
  | .vxor w => w.wf vBit2
  | .vxorImm w => w.wf Ty.intBit true false (· == 0#3)
  | .vandn w => w.wf vBit2
  | .vshl w => w.wf vBit2
  | .vshr w => w.wf vBit2
  | .vrot w => w.wf vBit2
  | .vcmp w => w.wf { vBit2 with rm := rmCC, pred := true }
  | .vcmpImm w => w.wf Ty.intBit true true rmCC
  | .vsel w => w.wf { vBit2 with c := sameTy, rm := rmCC }
  | .vselImm w => w.wf Ty.intBit true false rmCC
  | .vmov w => w.wf { types := Ty.movable }
  | .vmovImm w => w.wf Ty.movable false false (· == 0#3)
  | .vext w => w.wf { types := isExt, b := sameTy }
  | .vpop w => w.wf vBit1
  | .vclz w => w.wf vBit1
  | .vbfx w => w.wf { types := isExt, b := asTy .n32, c := asTy .n32 }
  | .vbfi w => w.wf { types := isB, b := asTy .n32, c := sameTy, mod := fun _ _ => true }
  | .vdot4 w => w.wf { types := fun t => t == .i8 || t == .n8, b := sameTy, c := asTy .n32
                       mod := fun t m => m.toNat < 2 || (m.toNat < 4 && t == .i8) }
  | .fadd w => w.wf fRound2
  | .faddImm w => w.wf Ty.arithFloat true false rmRound
  | .fsub w => w.wf fRound2
  | .fmul w => w.wf fRound2
  | .fmulImm w => w.wf Ty.arithFloat true false rmRound
  | .ffma w => w.wf { fRound2 with c := sameTy }
  | .fmin w => w.wf fPlain2
  | .fminImm w => w.wf Ty.arithFloat true false (· == 0#3)
  | .fmax w => w.wf fPlain2
  | .fmaxImm w => w.wf Ty.arithFloat true false (· == 0#3)
  | .fabs w => w.wf fPlain1
  | .fneg w => w.wf fPlain1
  | .fcsgn w => w.wf fPlain2
  | .fcmp w => w.wf { fPlain2 with rm := fun _ => true, pred := true
                                   mod := fun t m => m == 0#5 || (t.packed && m == 1#5) }
  | .fclass w => fclassWf w
  | .frcp w => w.wf fTrans
  | .frsq w => w.wf fTrans
  | .fsqrt w => w.wf fTrans
  | .fexp2 w => w.wf fTrans
  | .flog2 w => w.wf fTrans
  | .fsin w => w.wf fTrans
  | .fcos w => w.wf fTrans
  | .ftanh w => w.wf fTrans
  | .fexp w => w.wf fTrans
  | .cvt w => cvtWordWf w
  | .cvtp w => cvtpWf w
  | .bpack w => bpackWf w
  | .bunpk w => bunpkWf w
  | .bscl w => bsclWf w
  | .cvtx w => cvtxWf w
  | .shfl w => w.wf { types := Ty.reg3264, b := asTy .n32, mod := fun _ m => m.toNat < 5 }
  | .vote w => voteWf w
  | .vred w => redWf w && w.mod.toNat < 8 && vdstWf w.ty.pair w.wbs w.dst
  | .vredQ w => redWf w && 8 ≤ w.mod.toNat && !w.wbs && w.dst == 0#8
  | .vscan w => redWf w && vdstWf w.ty.pair w.wbs w.dst
  | .vbcast w => vbcastWf w
  | .ld w => ldWf w
  | .st w => stWf w
  | .pref w => prefWf w
  | .aadd w => atomWf w
  | .amin w => atomWf w
  | .amax w => atomWf w
  | .aand w => atomWf w
  | .aor w => atomWf w
  | .axor w => atomWf w
  | .axch w => atomWf w
  | .acas w => acasWf w
  | .xadd w => xaddWf w
  | .xrd w => xrdWf w
  | .xst w => xstWf w
  | .fence w => fenceWf (· != 0#2) (fun s => s != 0#3 && s != 7#3) w
  | .fenceSc w => fenceWf (· == 0#2) (· == 0#3) w
  | .fenceScPod w => fenceWf (· == 0#2) (· == 5#3) w
  | .fenceFmt w => fenceWf (· == 0#2) (· == 0#3) w
  | .mma w => mmaWf w
  | .tileAlloc w => w.wf { guard := false }
  | .tileFree w => w.wf { guard := false }
  | .tileZero w => w.wf {}
  | .tileLd w => w.wf { ub := true, ta := true } && upairWf w.ub &&
      (w.ta == Ty.b32.code || w.ta == Ty.bf16.code || w.ta == Ty.f16.code)
  | .tileSt w => w.wf { ub := true, ta := true } && upairWf w.ub && w.ta == Ty.b32.code
  | .tileDrain w => drainWf w
  | .tileRd w => w.wf { vx := true, ub := true, ltag := true } && vgroupWf w.vx && uregWf w.ub
  | .tileWr w => w.wf { vx := true, ub := true } && vgroupWf w.vx && uregWf w.ub
  | .tileMov w => w.wf { mod := true } && w.mod.toNat < 8
  | .barInit w => w.wf { bar := true, ua := true, ub := true }
  | .barArrive w => w.wf { bar := true }
  | .barWait w => w.wf { bar := true, pd := true, scope := true }
  | .barInval w => w.wf { bar := true }
  | .semInc w => w.wf { sem := true, ua := true }
  | .semWait w => w.wf { sem := true, ua := true, scope := true }
  | .waitv w => w.wf { ua := true, ub := true, vx := true, scope := true, mod := true } &&
      w.mod.toNat % 8 < 6
  | .spawn w => w.wf { ua := true, ub := true, vx := true, pd := true, scope := true, cnt := true } &&
      w.cnt.toNat < 5 && w.pd != 0#3
  | .joinW w => w.wf { ua := true, scope := true }
  | .lwait w => w.guard == Guard.always && w.vx == 0#8 && w.pd == 0#3 && w.bar == 0#4 &&
      w.sem == 0#6 && w.scope == 0#3 && w.co == 0#3 && w.cnt == 0#4 && w.mod == 0#4
  | .copy w => engineWf 4 (· == 0#4) w
  | .copy2d w => engineWf 5 (· == 1#4) w
  | .gath w => engineWf 6 (· == 0#4) w
  | .scat w => engineWf 6 (· == 0#4) w
  | .coll w => engineWf 5 (fun m => m.toNat < 5) w
  | .engQ w => w.wf { ua := true, ub := true }
  | .srd w => w.ty == .b64 && uregWf w.dst && w.a.unused && w.b.unused && w.c.unused &&
      w.rm == 0#3 && srdName w.mod
  | .srdMbin w => w.ty == .b64 && uregWf w.dst && w.a.unused && w.b.unused && w.c.unused &&
      w.rm == 0#3 && w.mod == 0x18#5
  | .srdv w => w.guard.wf && w.ty == .b32 && w.a.unused && w.b.unused && w.c.unused &&
      w.rm == 0#3 && srdvName w.mod && vdstWf false w.wbs w.dst
  | .swr w => w.ty == .b64 && w.dst == 0#8 && w.a.wfU && w.b.unused && w.c.unused &&
      w.rm == 0#3 && w.mod == 0x19#5
  | .dbg w => w.wf { mod := true }
  | .tlbinv w => w.wf (· == .b64) true false false false
  | .icinv w => w.ty == .b64 && uregWf w.dst && w.a.unused && w.b.wfU && w.c.unused &&
      w.rm == 0#3 && w.mod == 0#5
  | .tableWalk .. | .faultptrTailWrite .. | .pagedoneRelease .. | .pagedoneFail ..
  | .shootdown .. | .shootdownAck .. | .shootdownDone .. | .shootdownTimeout ..
  | .migrationWindow .. | .replicaInsert .. | .replicaRemove .. | .replicaRemoveAll ..
  | .replicaReservedOp .. | .replicaCommandDone .. | .translationRequest .. | .leaseGrant ..
  | .nack .. | .notready .. | .ready .. | .leaseRecall .. | .recallAck .. | .leaseExpiry ..
  | .peerRead .. | .peerWrite .. | .peerAtomic .. | .completion .. | .peerRequestTimeout ..
  | .linkCredit .. | .flitRetry .. | .sliceRequest .. | .sectorFill .. | .l1Fill ..
  | .storeAck .. | .missStatusGrant .. | .retryReissue .. | .landing .. | .xstAccept ..
  | .dramRefresh .. | .rowIdleClose .. | .hashOpen .. | .hashReady .. | .hashMaskWrite ..
  | .hashClose .. | .formatWindowEnable .. | .formatWindowActive .. | .formatWindowDisable ..
  | .formatFlushDone .. | .registerWrite .. | .binAgeExpiry .. | .cobblerDrain ..
  | .recordSend .. | .recordData .. | .ack .. | .handoffTimeout .. | .commit .. | .refuse ..
  | .cellarExhaustion .. | .placement .. | .placementWaitTimeout .. | .splitWaitTimeout ..
  | .priorityPreemption .. | .haltRequest .. | .issueSlotTake .. | .teamMove .. | .qbell ..
  | .queueEnable .. | .queueDisable .. | .launchStart .. | .teamCreate .. | .launchComplete ..
  | .distLoad | .distLoadDone | .matrixUnitExecute .. | .engineChunkDone .. | .engineOpDone ..
  | .engineCheckpoint .. | .collectiveData .. | .collectiveStageDone .. | .collectiveAbort ..
  | .packageHeartbeat | .podTickSend | .podTick .. | .podTickAdopt .. | .slotEdge
  | .frameBoundary | .wheelTurn | .wheelPosition .. | .engineOverrun | .drainWindowEnd
  | .slotTableLoad | .slotTableEnable | .slotTableDisable | .partitionRebuild
  | .tenantReset .. | .tenantResetDone .. | .arbiterMessage .. | .selfTest .. | .dbgctlHalt ..
  | .mbinWrite .. | .mboutRead .. | .hostRead .. | .hostWrite .. | .routeOpen | .routeReady
  | .podrtWrite .. | .routeClose | .firmwareStage | .attestRequest .. | .attestDone ..
  | .packageBoot | .thermalThrottle | .thermalShutdown | .diePowerGating ..
  | .fabricPortStateChange .. | .firmwareStageDone | .partitionRebuildDone => true

end Sys2Proof
end

