-- ==== Sys2Proof/Decode.lean ====
section
/-! DEFINITION. The decoder and the encoder: the word layouts of R245 and R257 to R262, the opcode map
of R263 and the block header of R248. A word is 64 bits, little-endian in memory (R245). -/

namespace Sys2Proof

/-- A source field (R252). -/
def Src.ofBits (b : BitVec 10) : Src :=
  let v := b.extractLsb' 0 8
  match (b.extractLsb' 8 2).toNat with
  | 0 => .vreg v
  | 1 => .latch v
  | 2 => .ureg v
  | _ => .imm v

/-- The ten bits of a source field (R252). -/
def Src.bits : Src → BitVec 10
  | .vreg n => 0#2 ++ n
  | .latch b => 1#2 ++ b
  | .ureg n => 2#2 ++ n
  | .imm v => 3#2 ++ v

/-- One bit of a word. -/
def flag (w : BitVec 64) (i : Nat) : Bool := w.extractLsb' i 1 == 1#1

/-- The PRED field, bits 55:52 (R245). -/
def parseGuard (w : BitVec 64) : Guard := ⟨flag w 55, w.extractLsb' 52 3⟩

/-- The PRED field of a word. -/
def Guard.bits (g : Guard) : BitVec 4 := BitVec.ofBool g.neg ++ g.psel

/-- UR (R257): PRED and WBS zero, and a type of R255. -/
def parseUr (w : BitVec 64) : Option UrWord :=
  if w.extractLsb' 51 5 == 0#5 then
    (Ty.ofCode (w.extractLsb' 8 5)).map fun ty =>
      { dst := w.extractLsb' 43 8, a := .ofBits (w.extractLsb' 33 10)
        b := .ofBits (w.extractLsb' 23 10), c := .ofBits (w.extractLsb' 13 10), ty
        rm := w.extractLsb' 5 3, mod := w.extractLsb' 0 5 }
  else none

def encodeUr (op : BitVec 8) (w : UrWord) : BitVec 64 :=
  op ++ 0#5 ++ w.dst ++ w.a.bits ++ w.b.bits ++ w.c.bits ++ w.ty.code ++ w.rm ++ w.mod

/-- UI (R258). -/
def parseUi (w : BitVec 64) : Option UiWord :=
  if w.extractLsb' 51 5 == 0#5 then
    (Ty.ofCode (w.extractLsb' 28 5)).map fun ty =>
      { dst := w.extractLsb' 43 8, a := .ofBits (w.extractLsb' 33 10), ty
        rm := w.extractLsb' 25 3, imm := w.extractLsb' 0 25 }
  else none

def encodeUi (op : BitVec 8) (w : UiWord) : BitVec 64 :=
  op ++ 0#5 ++ w.dst ++ w.a.bits ++ w.ty.code ++ w.rm ++ w.imm

/-- VR (R257). -/
def parseVr (w : BitVec 64) : Option VrWord :=
  (Ty.ofCode (w.extractLsb' 8 5)).map fun ty =>
    { guard := parseGuard w, wbs := flag w 51, dst := w.extractLsb' 43 8
      a := .ofBits (w.extractLsb' 33 10), b := .ofBits (w.extractLsb' 23 10)
      c := .ofBits (w.extractLsb' 13 10), ty, rm := w.extractLsb' 5 3, mod := w.extractLsb' 0 5 }

def encodeVr (op : BitVec 8) (w : VrWord) : BitVec 64 :=
  op ++ w.guard.bits ++ BitVec.ofBool w.wbs ++ w.dst ++ w.a.bits ++ w.b.bits ++ w.c.bits ++
    w.ty.code ++ w.rm ++ w.mod

/-- VI (R258). -/
def parseVi (w : BitVec 64) : Option ViWord :=
  (Ty.ofCode (w.extractLsb' 28 5)).map fun ty =>
    { guard := parseGuard w, wbs := flag w 51, dst := w.extractLsb' 43 8
      a := .ofBits (w.extractLsb' 33 10), ty, rm := w.extractLsb' 25 3, imm := w.extractLsb' 0 25 }

def encodeVi (op : BitVec 8) (w : ViWord) : BitVec 64 :=
  op ++ w.guard.bits ++ BitVec.ofBool w.wbs ++ w.dst ++ w.a.bits ++ w.ty.code ++ w.rm ++ w.imm

/-- MEM (R259). -/
def parseMem (w : BitVec 64) : Option MemWord :=
  some { guard := parseGuard w, wbs := flag w 51, data := w.extractLsb' 43 8
         base := w.extractLsb' 35 8, off := .ofBits (w.extractLsb' 25 10)
         disp := w.extractLsb' 13 12, ltag := w.extractLsb' 9 4, sz := w.extractLsb' 6 3
         ord := w.extractLsb' 4 2, scope := w.extractLsb' 1 3, ua := flag w 0 }

def encodeMem (op : BitVec 8) (w : MemWord) : BitVec 64 :=
  op ++ w.guard.bits ++ BitVec.ofBool w.wbs ++ w.data ++ w.base ++ w.off.bits ++ w.disp ++ w.ltag ++
    w.sz ++ w.ord ++ w.scope ++ BitVec.ofBool w.ua

/-- MMA (R260): WBS zero (R247). -/
def parseMma (w : BitVec 64) : Option MmaWord :=
  if flag w 51 then none
  else some { guard := parseGuard w, th := w.extractLsb' 48 3, vx := w.extractLsb' 40 8
              ub := w.extractLsb' 32 8, ta := w.extractLsb' 27 5, tb := w.extractLsb' 22 5
              rm := w.extractLsb' 19 3, red := flag w 18, sat := flag w 17
              ltag := w.extractLsb' 13 4, uc := w.extractLsb' 5 8, mod := w.extractLsb' 0 5 }

def encodeMma (op : BitVec 8) (w : MmaWord) : BitVec 64 :=
  op ++ w.guard.bits ++ 0#1 ++ w.th ++ w.vx ++ w.ub ++ w.ta ++ w.tb ++ w.rm ++
    BitVec.ofBool w.red ++ BitVec.ofBool w.sat ++ w.ltag ++ w.uc ++ w.mod

/-- CTL (R261): WBS zero (R247). -/
def parseCtl (w : BitVec 64) : Option CtlWord :=
  if flag w 51 then none
  else some { guard := parseGuard w, ua := w.extractLsb' 43 8, sb := .ofBits (w.extractLsb' 33 10)
              ty := w.extractLsb' 28 5, cc := w.extractLsb' 25 3, hint := flag w 24
              off := w.extractLsb' 0 24 }

def encodeCtl (op : BitVec 8) (w : CtlWord) : BitVec 64 :=
  op ++ w.guard.bits ++ 0#1 ++ w.ua ++ w.sb.bits ++ w.ty ++ w.cc ++ BitVec.ofBool w.hint ++ w.off

/-- SYN (R262): WBS zero (R247). -/
def parseSyn (w : BitVec 64) : Option SynWord :=
  if flag w 51 then none
  else some { guard := parseGuard w, ua := w.extractLsb' 43 8, ub := w.extractLsb' 35 8
              vx := w.extractLsb' 27 8, pd := w.extractLsb' 24 3, bar := w.extractLsb' 20 4
              sem := w.extractLsb' 14 6, scope := w.extractLsb' 11 3, co := w.extractLsb' 8 3
              cnt := w.extractLsb' 4 4, mod := w.extractLsb' 0 4 }

def encodeSyn (op : BitVec 8) (w : SynWord) : BitVec 64 :=
  op ++ w.guard.bits ++ 0#1 ++ w.ua ++ w.ub ++ w.vx ++ w.pd ++ w.bar ++ w.sem ++ w.scope ++ w.co ++
    w.cnt ++ w.mod

/-- The instruction that a word's opcode and format give, before the checks of R265; `none` for an
opcode that R263 leaves unassigned, and for a header's. -/
def rawDecode (w : BitVec 64) : Option Instr :=
  match (w.extractLsb' 56 8).toNat with
  | 0x00 => (parseUr w).map .uadd
  | 0x01 => (parseUr w).map .usub
  | 0x02 => (parseUr w).map .umul
  | 0x03 => (parseUr w).map .umulh
  | 0x04 => (parseUr w).map .umad
  | 0x05 => (parseUr w).map .udiv
  | 0x06 => (parseUr w).map .urem
  | 0x07 => (parseUr w).map .umin
  | 0x08 => (parseUr w).map .umax
  | 0x09 => (parseUr w).map .uand
  | 0x0A => (parseUr w).map .uor
  | 0x0B => (parseUr w).map .uxor
  | 0x0C => (parseUr w).map .uandn
  | 0x0D => (parseUr w).map .ushl
  | 0x0E => (parseUr w).map .ushr
  | 0x0F => (parseUr w).map .urot
  | 0x10 => (parseUr w).map .ucmp
  | 0x11 => (parseUr w).map .usel
  | 0x12 => (parseUr w).map .umov
  | 0x13 => (parseUr w).map .uext
  | 0x14 => (parseUr w).map .upop
  | 0x15 => (parseUr w).map .uclz
  | 0x16 => (parseUr w).map .ubfx
  | 0x17 => (parseUr w).map .ulea
  | 0x18 => (parseUi w).map .uaddImm
  | 0x19 => (parseUi w).map .umulImm
  | 0x1A => (parseUi w).map .uandImm
  | 0x1B => (parseUi w).map .uorImm
  | 0x1C => (parseUi w).map .uxorImm
  | 0x1D => (parseUi w).map .ucmpImm
  | 0x1E => (parseUi w).map .umovImm
  | 0x1F => (parseUi w).map .ucat
  | 0x20 => (parseCtl w).map .bra
  | 0x21 => (parseCtl w).map .brc
  | 0x22 => (parseCtl w).map .brv
  | 0x23 => (parseCtl w).map .call
  | 0x24 => (parseCtl w).map .callr
  | 0x25 => (parseCtl w).map .ret
  | 0x26 => (parseCtl w).map .jtab
  | 0x27 => (parseCtl w).map .exitW
  | 0x28 => (parseCtl w).map .trap
  | 0x29 => (parseCtl w).map .brk
  | 0x2A => (parseCtl w).map .nop
  | 0x2B => (parseCtl w).map .yield
  | 0x2C => (parseUr w).map .qput
  | 0x2D => (parseVr w).map .qget
  | 0x2E => (parseVr w).map .qret
  | 0x2F => (parseUr w).map (fun f => if f.ty == .b64 then .qrcvB64 f else .qrcvB32 f)
  | 0x30 => (parseVr w).map .vadd
  | 0x31 => (parseVr w).map .vsub
  | 0x32 => (parseVr w).map .vmul
  | 0x33 => (parseVr w).map .vmulh
  | 0x34 => (parseVr w).map .vmad
  | 0x35 => (parseVr w).map .vmin
  | 0x36 => (parseVr w).map .vmax
  | 0x37 => (parseVr w).map .vabs
  | 0x38 => (parseVr w).map .vand
  | 0x39 => (parseVr w).map .vor
  | 0x3A => (parseVr w).map .vxor
  | 0x3B => (parseVr w).map .vandn
  | 0x3C => (parseVr w).map .vshl
  | 0x3D => (parseVr w).map .vshr
  | 0x3E => (parseVr w).map .vrot
  | 0x3F => (parseVr w).map .vcmp
  | 0x40 => (parseVr w).map .vsel
  | 0x41 => (parseVr w).map .vmov
  | 0x42 => (parseVr w).map .vext
  | 0x43 => (parseVr w).map .vpop
  | 0x44 => (parseVr w).map .vclz
  | 0x45 => (parseVr w).map .vbfx
  | 0x46 => (parseVr w).map .vbfi
  | 0x47 => (parseVr w).map .vdot4
  | 0x48 => (parseVi w).map .vaddImm
  | 0x49 => (parseVi w).map .vmulImm
  | 0x4A => (parseVi w).map .vandImm
  | 0x4B => (parseVi w).map .vorImm
  | 0x4C => (parseVi w).map .vxorImm
  | 0x4D => (parseVi w).map .vcmpImm
  | 0x4E => (parseVi w).map .vmovImm
  | 0x4F => (parseVi w).map .vselImm
  | 0x50 => (parseVr w).map .fadd
  | 0x51 => (parseVr w).map .fsub
  | 0x52 => (parseVr w).map .fmul
  | 0x53 => (parseVr w).map .ffma
  | 0x54 => (parseVr w).map .fmin
  | 0x55 => (parseVr w).map .fmax
  | 0x56 => (parseVr w).map .fabs
  | 0x57 => (parseVr w).map .fneg
  | 0x58 => (parseVr w).map .fcsgn
  | 0x59 => (parseVr w).map .fcmp
  | 0x5A => (parseVr w).map .fclass
  | 0x5B => (parseVr w).map .frcp
  | 0x5C => (parseVr w).map .frsq
  | 0x5D => (parseVr w).map .fsqrt
  | 0x5E => (parseVr w).map .fexp2
  | 0x5F => (parseVr w).map .flog2
  | 0x60 => (parseVr w).map .fsin
  | 0x61 => (parseVr w).map .fcos
  | 0x62 => (parseVr w).map .ftanh
  | 0x63 => (parseVr w).map .fexp
  | 0x64 => (parseVi w).map .faddImm
  | 0x65 => (parseVi w).map .fmulImm
  | 0x66 => (parseVi w).map .fminImm
  | 0x67 => (parseVi w).map .fmaxImm
  | 0x68 => (parseVr w).map .cvt
  | 0x69 => (parseVr w).map .cvtp
  | 0x6A => (parseVr w).map .bpack
  | 0x6B => (parseVr w).map .bunpk
  | 0x6C => (parseVr w).map .bscl
  | 0x6D => (parseVr w).map .cvtx
  | 0x70 => (parseVr w).map .shfl
  | 0x71 => (parseVr w).map .vote
  | 0x72 => (parseVr w).map (fun f => if f.mod.toNat < 8 then .vred f else .vredQ f)
  | 0x73 => (parseVr w).map .vscan
  | 0x74 => (parseVr w).map .vbcast
  | 0x80 => (parseMem w).map .ld
  | 0x81 => (parseMem w).map .st
  | 0x82 => (parseMem w).map .pref
  | 0x83 => (parseMem w).map .aadd
  | 0x84 => (parseMem w).map .amin
  | 0x85 => (parseMem w).map .amax
  | 0x86 => (parseMem w).map .aand
  | 0x87 => (parseMem w).map .aor
  | 0x88 => (parseMem w).map .axor
  | 0x89 => (parseMem w).map .axch
  | 0x8A => (parseMem w).map .acas
  | 0x8B => (parseMem w).map .xadd
  | 0x8C => (parseMem w).map .xrd
  | 0x8D => (parseMem w).map .xst
  | 0x8E => (parseMem w).map .fence
  | 0x8F => (parseMem w).map (fun f => if f.scope == 5#3 then .fenceScPod f else .fenceSc f)
  | 0x90 => (parseMem w).map .fenceFmt
  | 0xA0 => (parseMma w).map .mma
  | 0xA1 => (parseMma w).map .tileAlloc
  | 0xA2 => (parseMma w).map .tileFree
  | 0xA3 => (parseMma w).map .tileZero
  | 0xA4 => (parseMma w).map .tileLd
  | 0xA5 => (parseMma w).map .tileSt
  | 0xA6 => (parseMma w).map .tileDrain
  | 0xA7 => (parseMma w).map .tileRd
  | 0xA8 => (parseMma w).map .tileWr
  | 0xA9 => (parseMma w).map .tileMov
  | 0xC0 => (parseSyn w).map .barInit
  | 0xC1 => (parseSyn w).map .barArrive
  | 0xC2 => (parseSyn w).map .barWait
  | 0xC3 => (parseSyn w).map .barInval
  | 0xC4 => (parseSyn w).map .semInc
  | 0xC5 => (parseSyn w).map .semWait
  | 0xC6 => (parseSyn w).map .waitv
  | 0xC7 => (parseSyn w).map .spawn
  | 0xC8 => (parseSyn w).map .joinW
  | 0xC9 => (parseSyn w).map .lwait
  | 0xCA => (parseSyn w).map (fun f => if f.mod == 1#4 then .copy2d f else .copy f)
  | 0xCB => (parseSyn w).map .gath
  | 0xCC => (parseSyn w).map .scat
  | 0xCD => (parseSyn w).map .coll
  | 0xCE => (parseSyn w).map .engQ
  | 0xE0 => (parseUr w).map (fun f => if f.mod == 0x18#5 then .srdMbin f else .srd f)
  | 0xE1 => (parseVr w).map .srdv
  | 0xE2 => (parseUr w).map .swr
  | 0xE3 => (parseSyn w).map .dbg
  | 0xE4 => (parseUr w).map .tlbinv
  | 0xE5 => (parseUr w).map .icinv
  | _ => none

/-- The instruction that a word is, or `none` where R265 makes it ILLEGAL whatever its place. -/
def decode (w : BitVec 64) : Option Instr := (rawDecode w).filter Instr.wf

/-- The word of an instruction; an event has none. -/
def encode : Instr → Option (BitVec 64)
  | .uadd w => some (encodeUr 0x00#8 w)
  | .uaddImm w => some (encodeUi 0x18#8 w)
  | .usub w => some (encodeUr 0x01#8 w)
  | .umul w => some (encodeUr 0x02#8 w)
  | .umulImm w => some (encodeUi 0x19#8 w)
  | .umulh w => some (encodeUr 0x03#8 w)
  | .umad w => some (encodeUr 0x04#8 w)
  | .udiv w => some (encodeUr 0x05#8 w)
  | .urem w => some (encodeUr 0x06#8 w)
  | .umin w => some (encodeUr 0x07#8 w)
  | .umax w => some (encodeUr 0x08#8 w)
  | .uand w => some (encodeUr 0x09#8 w)
  | .uandImm w => some (encodeUi 0x1A#8 w)
  | .uor w => some (encodeUr 0x0A#8 w)
  | .uorImm w => some (encodeUi 0x1B#8 w)
  | .uxor w => some (encodeUr 0x0B#8 w)
  | .uxorImm w => some (encodeUi 0x1C#8 w)
  | .uandn w => some (encodeUr 0x0C#8 w)
  | .ushl w => some (encodeUr 0x0D#8 w)
  | .ushr w => some (encodeUr 0x0E#8 w)
  | .urot w => some (encodeUr 0x0F#8 w)
  | .ucmp w => some (encodeUr 0x10#8 w)
  | .ucmpImm w => some (encodeUi 0x1D#8 w)
  | .usel w => some (encodeUr 0x11#8 w)
  | .umov w => some (encodeUr 0x12#8 w)
  | .umovImm w => some (encodeUi 0x1E#8 w)
  | .uext w => some (encodeUr 0x13#8 w)
  | .upop w => some (encodeUr 0x14#8 w)
  | .uclz w => some (encodeUr 0x15#8 w)
  | .ubfx w => some (encodeUr 0x16#8 w)
  | .ulea w => some (encodeUr 0x17#8 w)
  | .ucat w => some (encodeUi 0x1F#8 w)
  | .bra w => some (encodeCtl 0x20#8 w)
  | .brc w => some (encodeCtl 0x21#8 w)
  | .brv w => some (encodeCtl 0x22#8 w)
  | .call w => some (encodeCtl 0x23#8 w)
  | .callr w => some (encodeCtl 0x24#8 w)
  | .ret w => some (encodeCtl 0x25#8 w)
  | .jtab w => some (encodeCtl 0x26#8 w)
  | .exitW w => some (encodeCtl 0x27#8 w)
  | .trap w => some (encodeCtl 0x28#8 w)
  | .brk w => some (encodeCtl 0x29#8 w)
  | .nop w => some (encodeCtl 0x2A#8 w)
  | .yield w => some (encodeCtl 0x2B#8 w)
  | .qput w => some (encodeUr 0x2C#8 w)
  | .qget w => some (encodeVr 0x2D#8 w)
  | .qret w => some (encodeVr 0x2E#8 w)
  | .qrcvB64 w => some (encodeUr 0x2F#8 w)
  | .qrcvB32 w => some (encodeUr 0x2F#8 w)
  | .vadd w => some (encodeVr 0x30#8 w)
  | .vaddImm w => some (encodeVi 0x48#8 w)
  | .vsub w => some (encodeVr 0x31#8 w)
  | .vmul w => some (encodeVr 0x32#8 w)
  | .vmulImm w => some (encodeVi 0x49#8 w)
  | .vmulh w => some (encodeVr 0x33#8 w)
  | .vmad w => some (encodeVr 0x34#8 w)
  | .vmin w => some (encodeVr 0x35#8 w)
  | .vmax w => some (encodeVr 0x36#8 w)
  | .vabs w => some (encodeVr 0x37#8 w)
  | .vand w => some (encodeVr 0x38#8 w)
  | .vandImm w => some (encodeVi 0x4A#8 w)
  | .vor w => some (encodeVr 0x39#8 w)
  | .vorImm w => some (encodeVi 0x4B#8 w)
  | .vxor w => some (encodeVr 0x3A#8 w)
  | .vxorImm w => some (encodeVi 0x4C#8 w)
  | .vandn w => some (encodeVr 0x3B#8 w)
  | .vshl w => some (encodeVr 0x3C#8 w)
  | .vshr w => some (encodeVr 0x3D#8 w)
  | .vrot w => some (encodeVr 0x3E#8 w)
  | .vcmp w => some (encodeVr 0x3F#8 w)
  | .vcmpImm w => some (encodeVi 0x4D#8 w)
  | .vsel w => some (encodeVr 0x40#8 w)
  | .vselImm w => some (encodeVi 0x4F#8 w)
  | .vmov w => some (encodeVr 0x41#8 w)
  | .vmovImm w => some (encodeVi 0x4E#8 w)
  | .vext w => some (encodeVr 0x42#8 w)
  | .vpop w => some (encodeVr 0x43#8 w)
  | .vclz w => some (encodeVr 0x44#8 w)
  | .vbfx w => some (encodeVr 0x45#8 w)
  | .vbfi w => some (encodeVr 0x46#8 w)
  | .vdot4 w => some (encodeVr 0x47#8 w)
  | .fadd w => some (encodeVr 0x50#8 w)
  | .faddImm w => some (encodeVi 0x64#8 w)
  | .fsub w => some (encodeVr 0x51#8 w)
  | .fmul w => some (encodeVr 0x52#8 w)
  | .fmulImm w => some (encodeVi 0x65#8 w)
  | .ffma w => some (encodeVr 0x53#8 w)
  | .fmin w => some (encodeVr 0x54#8 w)
  | .fminImm w => some (encodeVi 0x66#8 w)
  | .fmax w => some (encodeVr 0x55#8 w)
  | .fmaxImm w => some (encodeVi 0x67#8 w)
  | .fabs w => some (encodeVr 0x56#8 w)
  | .fneg w => some (encodeVr 0x57#8 w)
  | .fcsgn w => some (encodeVr 0x58#8 w)
  | .fcmp w => some (encodeVr 0x59#8 w)
  | .fclass w => some (encodeVr 0x5A#8 w)
  | .frcp w => some (encodeVr 0x5B#8 w)
  | .frsq w => some (encodeVr 0x5C#8 w)
  | .fsqrt w => some (encodeVr 0x5D#8 w)
  | .fexp2 w => some (encodeVr 0x5E#8 w)
  | .flog2 w => some (encodeVr 0x5F#8 w)
  | .fsin w => some (encodeVr 0x60#8 w)
  | .fcos w => some (encodeVr 0x61#8 w)
  | .ftanh w => some (encodeVr 0x62#8 w)
  | .fexp w => some (encodeVr 0x63#8 w)
  | .cvt w => some (encodeVr 0x68#8 w)
  | .cvtp w => some (encodeVr 0x69#8 w)
  | .bpack w => some (encodeVr 0x6A#8 w)
  | .bunpk w => some (encodeVr 0x6B#8 w)
  | .bscl w => some (encodeVr 0x6C#8 w)
  | .cvtx w => some (encodeVr 0x6D#8 w)
  | .shfl w => some (encodeVr 0x70#8 w)
  | .vote w => some (encodeVr 0x71#8 w)
  | .vred w => some (encodeVr 0x72#8 w)
  | .vredQ w => some (encodeVr 0x72#8 w)
  | .vscan w => some (encodeVr 0x73#8 w)
  | .vbcast w => some (encodeVr 0x74#8 w)
  | .ld w => some (encodeMem 0x80#8 w)
  | .st w => some (encodeMem 0x81#8 w)
  | .pref w => some (encodeMem 0x82#8 w)
  | .aadd w => some (encodeMem 0x83#8 w)
  | .amin w => some (encodeMem 0x84#8 w)
  | .amax w => some (encodeMem 0x85#8 w)
  | .aand w => some (encodeMem 0x86#8 w)
  | .aor w => some (encodeMem 0x87#8 w)
  | .axor w => some (encodeMem 0x88#8 w)
  | .axch w => some (encodeMem 0x89#8 w)
  | .acas w => some (encodeMem 0x8A#8 w)
  | .xadd w => some (encodeMem 0x8B#8 w)
  | .xrd w => some (encodeMem 0x8C#8 w)
  | .xst w => some (encodeMem 0x8D#8 w)
  | .fence w => some (encodeMem 0x8E#8 w)
  | .fenceSc w => some (encodeMem 0x8F#8 w)
  | .fenceScPod w => some (encodeMem 0x8F#8 w)
  | .fenceFmt w => some (encodeMem 0x90#8 w)
  | .mma w => some (encodeMma 0xA0#8 w)
  | .tileAlloc w => some (encodeMma 0xA1#8 w)
  | .tileFree w => some (encodeMma 0xA2#8 w)
  | .tileZero w => some (encodeMma 0xA3#8 w)
  | .tileLd w => some (encodeMma 0xA4#8 w)
  | .tileSt w => some (encodeMma 0xA5#8 w)
  | .tileDrain w => some (encodeMma 0xA6#8 w)
  | .tileRd w => some (encodeMma 0xA7#8 w)
  | .tileWr w => some (encodeMma 0xA8#8 w)
  | .tileMov w => some (encodeMma 0xA9#8 w)
  | .barInit w => some (encodeSyn 0xC0#8 w)
  | .barArrive w => some (encodeSyn 0xC1#8 w)
  | .barWait w => some (encodeSyn 0xC2#8 w)
  | .barInval w => some (encodeSyn 0xC3#8 w)
  | .semInc w => some (encodeSyn 0xC4#8 w)
  | .semWait w => some (encodeSyn 0xC5#8 w)
  | .waitv w => some (encodeSyn 0xC6#8 w)
  | .spawn w => some (encodeSyn 0xC7#8 w)
  | .joinW w => some (encodeSyn 0xC8#8 w)
  | .lwait w => some (encodeSyn 0xC9#8 w)
  | .copy w => some (encodeSyn 0xCA#8 w)
  | .copy2d w => some (encodeSyn 0xCA#8 w)
  | .gath w => some (encodeSyn 0xCB#8 w)
  | .scat w => some (encodeSyn 0xCC#8 w)
  | .coll w => some (encodeSyn 0xCD#8 w)
  | .engQ w => some (encodeSyn 0xCE#8 w)
  | .srd w => some (encodeUr 0xE0#8 w)
  | .srdMbin w => some (encodeUr 0xE0#8 w)
  | .srdv w => some (encodeVr 0xE1#8 w)
  | .swr w => some (encodeUr 0xE2#8 w)
  | .dbg w => some (encodeSyn 0xE3#8 w)
  | .tlbinv w => some (encodeUr 0xE4#8 w)
  | .icinv w => some (encodeUr 0xE5#8 w)
  | .tableWalk .. | .faultptrTailWrite .. | .pagedoneRelease .. | .pagedoneFail ..
  | .shootdown .. | .shootdownAck .. | .shootdownDone .. | .shootdownTimeout ..
  | .migrationWindow .. | .replicaInsert .. | .replicaRemove .. | .replicaRemoveAll ..
  | .replicaReservedOp .. | .replicaCommandDone .. | .translationRequest .. | .leaseGrant ..
  | .nack .. | .notready .. | .ready .. | .leaseRecall .. | .recallAck .. | .leaseExpiry ..
  | .peerRead .. | .peerWrite .. | .peerAtomic .. | .completion .. | .peerRequestTimeout ..
  | .linkCredit .. | .flitRetry .. | .sliceRequest .. | .sectorFill .. | .l1Fill ..
  | .storeAck .. | .missStatusGrant .. | .retryReissue .. | .landing .. | .xstAccept ..
  | .dramRefresh .. | .rowIdleClose .. | .hashOpen .. | .hashReady .. | .hashMaskWrite ..
  | .hashClose .. | .formatWindowEnable .. | .formatWindowActive .. | .formatWindowDisable ..
  | .formatFlushDone .. | .registerWrite .. | .binAgeExpiry .. | .cobblerDrain ..
  | .recordSend .. | .recordData .. | .ack .. | .handoffTimeout .. | .commit .. | .refuse ..
  | .cellarExhaustion .. | .placement .. | .placementWaitTimeout .. | .splitWaitTimeout ..
  | .priorityPreemption .. | .haltRequest .. | .issueSlotTake .. | .teamMove .. | .qbell ..
  | .queueEnable .. | .queueDisable .. | .launchStart .. | .teamCreate .. | .launchComplete ..
  | .distLoad | .distLoadDone | .matrixUnitExecute .. | .engineChunkDone .. | .engineOpDone ..
  | .engineCheckpoint .. | .collectiveData .. | .collectiveStageDone .. | .collectiveAbort ..
  | .packageHeartbeat | .podTickSend | .podTick .. | .podTickAdopt .. | .slotEdge
  | .frameBoundary | .wheelTurn | .wheelPosition .. | .engineOverrun | .drainWindowEnd
  | .slotTableLoad | .slotTableEnable | .slotTableDisable | .partitionRebuild
  | .tenantReset .. | .tenantResetDone .. | .arbiterMessage .. | .selfTest .. | .dbgctlHalt ..
  | .mbinWrite .. | .mboutRead .. | .hostRead .. | .hostWrite .. | .routeOpen | .routeReady
  | .podrtWrite .. | .routeClose | .firmwareStage | .attestRequest .. | .attestDone ..
  | .packageBoot | .thermalThrottle | .thermalShutdown | .diePowerGating ..
  | .fabricPortStateChange .. | .firmwareStageDone | .partitionRebuildDone => none

/-- The bytes of a word in memory, the lowest address first (R245). -/
def wordBytes (w : BitVec 64) : List Byte := toBytes 8 w.toNat

/-- The word that eight bytes hold. -/
def bytesWord (bs : List Byte) : BitVec 64 := BitVec.ofNat 64 (ofBytes bs)

/-- What the decoder reads from an instruction whose bits are `w`, the bits from `nbits` upward zero. -/
def decodeTableWord (nbits w : Nat) : Option Instr :=
  decode (bytesWord (wordBytes (BitVec.ofNat 64 (w % 2 ^ nbits))))

/-- A block header (R248). -/
structure Header where
  len : Nat
  livev : Nat
  lives : Nat
  reconv : Int
  kept : Bool
  susp : Bool
  entry : Bool
  deriving DecidableEq, Repr

/-- The fields of a header word (R248). -/
def headerFields (w : BitVec 64) : Header :=
  { len := (w.extractLsb' 46 10).toNat, livev := (w.extractLsb' 39 7).toNat, lives := (w.extractLsb' 31 8).toNat
    reconv := (w.extractLsb' 15 16).toInt, kept := flag w 10, susp := flag w 9, entry := flag w 8 }

/-- The header at an address, or `none` where R249 makes it a bad header. -/
def parseHeader (va : Nat) (w : BitVec 64) : Option Header :=
  let h := headerFields w
  if w.extractLsb' 56 8 == 0xB7#8 && w.extractLsb' 0 8 == 0#8 && h.lives ≤ 160 && (!h.entry || va % 128 == 0) then some h
  else none

/-- The word of a header, PF zero. -/
def encodeHeader (h : Header) : BitVec 64 :=
  0xB7#8 ++ BitVec.ofNat 10 h.len ++ BitVec.ofNat 7 h.livev ++ BitVec.ofNat 8 h.lives ++
    BitVec.ofInt 16 h.reconv ++ 0#4 ++ BitVec.ofBool h.kept ++ BitVec.ofBool h.susp ++
    BitVec.ofBool h.entry ++ 0#8

/-- The count that LIVEV means (R248). -/
def Header.liveV (h : Header) : Nat := if h.livev = 127 then 128 else h.livev

end Sys2Proof
end

