-- ==== Sys2Proof/Machine/Float.lean ====
section
/-! DEFINITION. The number formats, their values, the one rounding and the block encoder: spec/03 R80 to
R102, R109. A real value is held exactly, as a sign and a fraction of naturals. -/

namespace Sys2Proof.Machine

open Sys2Proof

/-- A real value with a signed zero, an infinity or a NaN (R268 `value`). -/
inductive RealVal where
  | nan
  | inf (neg : Bool)
  /-- Plus or minus `num / den`; a zero keeps its sign. -/
  | fin (neg : Bool) (num den : Nat)
  deriving DecidableEq, Repr

/-- The shape of a format (R80). -/
structure Fmt where
  signed : Bool
  /-- Fraction bits. -/
  frac : Nat
  bias : Nat
  /-- Bits of the code without its sign. -/
  mag : Nat
  hasInf : Bool
  /-- The largest finite magnitude code. -/
  maxCode : Nat
  /-- The canonical NaN (R84); +0 for a format that has none (R89). -/
  nan : Nat
  /-- The format has NaN codes. -/
  hasNan : Bool
  deriving DecidableEq, Repr

/-- The formats of R80. An integer type is taken as binary32. -/
def Fmt.of : Ty → Fmt
  | .f64 => ⟨true, 52, 1023, 63, true, 0x7FEFFFFFFFFFFFFF, 0x7FF8000000000000, true⟩
  | .f16 => ⟨true, 10, 15, 15, true, 0x7BFF, 0x7E00, true⟩
  | .bf16 => ⟨true, 7, 127, 15, true, 0x7F7F, 0x7FC0, true⟩
  | .e4m3 => ⟨true, 3, 7, 7, false, 0x7E, 0x7F, true⟩
  | .e5m2 => ⟨true, 2, 15, 7, true, 0x7B, 0x7E, true⟩
  | .e2m1 | .bs4 => ⟨true, 1, 1, 3, false, 7, 0, false⟩
  | _ => ⟨true, 23, 127, 31, true, 0x7F7FFFFF, 0x7FC00000, true⟩

/-- The E3M5 block scale (R80). -/
def Fmt.e3m5 : Fmt := ⟨false, 5, 3, 8, false, 0xFE, 0xFF, true⟩

/-- The code of an infinity's magnitude. -/
def Fmt.infCode (f : Fmt) : Nat := f.maxCode + 1

/-- Times a power of two with a signed exponent. -/
def RealVal.scale (e : Int) : RealVal → RealVal
  | .fin s n d => if 0 ≤ e then .fin s (n * 2 ^ e.toNat) d else .fin s n (d * 2 ^ (-e).toNat)
  | x => x

/-- The value of a code (R81). -/
def Fmt.value (f : Fmt) (code : Nat) : RealVal :=
  let neg := f.signed && code.testBit f.mag
  let m := code % 2 ^ f.mag
  if m > f.maxCode then
    if f.hasInf && m == f.infCode then .inf neg else .nan
  else
    let e := m / 2 ^ f.frac
    let q := m % 2 ^ f.frac
    let sig := if e == 0 then q else q + 2 ^ f.frac
    let e1 : Int := if e == 0 then 1 else e
    RealVal.scale (e1 - f.bias - f.frac) (.fin neg sig 1)

/-- The sign bit of a code. -/
def Fmt.sign (f : Fmt) (neg : Bool) : Nat := if neg && f.signed then 2 ^ f.mag else 0

/-- The floor of the base-2 logarithm of a positive fraction. -/
def floorLog2 (n d : Nat) : Int :=
  let e : Int := (n.log2 : Int) - d.log2
  let below := if 0 ≤ e then n < d * 2 ^ e.toNat else n * 2 ^ (-e).toNat < d
  if below then e - 1 else e

/-- Whether an inexact magnitude `q + r/d`, with `0 < r < d`, rounds to `q + 1` (R88, R91): the mode, the
sign and, in stochastic mode, the variate. -/
def roundUp (rm : Nat) (neg : Bool) (q r d u : Nat) : Bool :=
  match rm with
  | 0 => if 2 * r == d then q % 2 == 1 else 2 * r > d
  | 1 => false
  | 2 => neg
  | 3 => !neg
  | _ => r * 2 ^ 24 > u * d

/-- The result of an overflow (R89). -/
def Fmt.overflow (f : Fmt) (rm : Nat) (sat neg : Bool) : Nat :=
  let toInf := f.hasInf && !sat &&
    (match rm with | 1 => false | 2 => neg | 3 => !neg | _ => true)
  f.sign neg + (if toInf then f.infCode else f.maxCode)

/-- Rounding to a format (R89), with the variate `u` of stochastic mode: the code. -/
def Fmt.round (f : Fmt) (x : RealVal) (rm : Nat) (sat : Bool) (u : Nat) : Nat :=
  match x with
  | .nan => f.nan
  | .inf neg => f.sign neg + (if f.hasInf then f.infCode else f.maxCode)
  | .fin neg n d =>
    if n == 0 then f.sign neg
    else
      let emin : Int := 1 - (f.bias : Int)
      let e := max (floorLog2 n d) emin
      -- the unit in the last place is 2 ^ (e - frac)
      let k := e - f.frac
      let num := if 0 ≤ k then n else n * 2 ^ (-k).toNat
      let den := if 0 ≤ k then d * 2 ^ k.toNat else d
      let q := num / den
      let r := num % den
      let q' := if r != 0 && roundUp rm neg q r den u then q + 1 else q
      let code := q' + (e - emin).toNat * 2 ^ f.frac
      if code > f.maxCode then f.overflow rm sat neg else f.sign neg + code

/-- The value of bits read as a type: an integer is exact, a float as its format gives (R81, R82). -/
def valueOf (ty : Ty) (x : Nat) : RealVal :=
  if ty.intBit then
    let v : Int := if ty.signed then signedOf ty.width x else ((x % 2 ^ ty.width : Nat) : Int)
    .fin (v < 0) v.natAbs 1
  else (Fmt.of ty).value (x % 2 ^ ty.width)

/-- `round` of R268: the code in the type. -/
def roundTo (ty : Ty) (x : RealVal) (rm : Nat) (sat : Bool) (u : Nat) : Nat :=
  (Fmt.of ty).round x rm sat u

/-- The canonical NaN of a type (R84). -/
def cnan (ty : Ty) : Nat := (Fmt.of ty).nan

/-- The range of an integer type of `n` bits. -/
def intLo (signed : Bool) (n : Nat) : Int := if signed then -((2 ^ (n - 1) : Nat) : Int) else 0
def intHi (signed : Bool) (n : Nat) : Int :=
  if signed then ((2 ^ (n - 1) : Nat) : Int) - 1 else ((2 ^ n : Nat) : Int) - 1
/-- Clamped to the range of a type. -/
def clampTo (signed : Bool) (n : Nat) (x : Int) : Int :=
  if x > intHi signed n then intHi signed n else if x < intLo signed n then intLo signed n else x

/-- `to_int` of R90, before narrowing to the type's bits. -/
def toInt (ty : Ty) (x : RealVal) (rm u : Nat) : Int :=
  match x with
  | .nan => 0
  | .inf neg => if neg then intLo ty.signed ty.width else intHi ty.signed ty.width
  | .fin neg n d =>
    let q := n / d
    let r := n % d
    let q' := if r != 0 && roundUp rm neg q r d u then q + 1 else q
    clampTo ty.signed ty.width (if neg then -(q' : Int) else q')

/-! ## Exact arithmetic (R98, R305) -/

def RealVal.neg : RealVal → RealVal
  | .nan => .nan
  | .inf s => .inf !s
  | .fin s n d => .fin (!s) n d

def RealVal.isNeg : RealVal → Bool
  | .nan => false
  | .inf s => s
  | .fin s _ _ => s

/-- The exact sum. A zero sum of operands of opposite sign is +0, or −0 in mode down (R305). -/
def RealVal.add (rm : Nat) : RealVal → RealVal → RealVal
  | .nan, _ => .nan
  | _, .nan => .nan
  | .inf s, .inf t => if s == t then .inf s else .nan
  | .inf s, _ => .inf s
  | _, .inf t => .inf t
  | .fin s n d, .fin t m e =>
    if s == t then .fin s (n * e + m * d) (d * e)
    else if n * e == m * d then .fin (rm == 2) 0 1
    else if n * e > m * d then .fin s (n * e - m * d) (d * e)
    else .fin t (m * d - n * e) (d * e)

/-- The exact product: 0 × ∞ is invalid (R84), and the sign is the product of the signs. -/
def RealVal.mul : RealVal → RealVal → RealVal
  | .nan, _ => .nan
  | _, .nan => .nan
  | .inf s, .inf t => .inf (xor s t)
  | .inf s, .fin t m _ => if m == 0 then .nan else .inf (xor s t)
  | .fin s n _, .inf t => if n == 0 then .nan else .inf (xor s t)
  | .fin s n d, .fin t m e => .fin (xor s t) (n * m) (d * e)

/-- `−1`, `0` or `1` as `a` is below, equal to or above `b`; `none` when one is a NaN. −0 equals +0. -/
def RealVal.cmp : RealVal → RealVal → Option Int
  | .nan, _ => none
  | _, .nan => none
  | .inf s, .inf t => some (if s == t then 0 else if s then -1 else 1)
  | .inf s, _ => some (if s then -1 else 1)
  | _, .inf t => some (if t then 1 else -1)
  | .fin s n d, .fin t m e =>
    let a : Int := if s then -(n * e : Nat) else (n * e : Nat)
    let b : Int := if t then -(m * d : Nat) else (m * d : Nat)
    some (if a < b then -1 else if a == b then 0 else 1)

def RealVal.isNan (x : RealVal) : Bool := x == .nan

/-- The sum of a list of exact terms to an accumulator, under the block rule of R98: infinities of both
signs, or a NaN, give a NaN. -/
def RealVal.sum (acc : RealVal) (xs : List RealVal) : RealVal := xs.foldl (RealVal.add 0) acc

/-! ## The generator (R92 to R94) -/

/-- One round of R92. -/
def genStep (xy : BitVec 64 × BitVec 64) : BitVec 64 × BitVec 64 :=
  let x := xy.1 * 0xA3B195D74C2E6F19#64
  let x := x ^^^ (x >>> 31) ^^^ xy.2
  (x, xy.2.rotateLeft 23 + 0x6D1F0B83E5A7C4F3#64)

/-- The 64-bit word of a key and a counter (R92). -/
def genWord (key : BitVec 128) (c : BitVec 64) : BitVec 64 :=
  let xy := genStep (genStep (genStep (genStep
    (key.extractLsb' 0 64 ^^^ c, key.extractLsb' 64 64))))
  xy.1 ^^^ (xy.1 >>> 29)

/-- Lane `i`'s variate from a generator word (R94). -/
def variate (w : BitVec 64) (i : Nat) : Nat := (w.rotateLeft ((7 * i) % 64)).toNat % 2 ^ 24

/-- The word of result index `j` for a conversion of a cohort (R93). -/
def cohortWord (tag conv : BitVec 32) (seed : BitVec 64) (pc j : Nat) : BitVec 64 :=
  genWord (tag ++ conv ++ seed) (BitVec.ofNat 46 (pc / 8) ++ 0#14 ++ BitVec.ofNat 4 j)

/-- The word of a write-back encode (R112). -/
def windowWord (win : Nat) (epoch : BitVec 16) (seed : BitVec 64) (pa : Nat) : BitVec 64 :=
  genWord (0#45 ++ BitVec.ofNat 3 win ++ epoch ++ seed) (0#24 ++ BitVec.ofNat 40 (pa / 64))

/-! ## Block-scaled FP4 (R85, R109) -/

/-- The value of a `.bs4` element: its E2M1 code and its block's scale code (R85). -/
def bs4Value (code scale : Nat) : RealVal :=
  if scale == 0xFF then .nan
  else ((Fmt.of .e2m1).value (code % 16)).mul (Fmt.e3m5.value scale)

/-- The magnitude of a value as a comparison key: infinite, or a fraction. -/
def RealVal.mag : RealVal → RealVal
  | .nan => .nan
  | .inf _ => .inf false
  | .fin _ n d => .fin false n d

/-- The smallest scale code from `i` with `6 s ≥ m`, among the `fuel` codes from there, else 0xFE (R109). -/
def scaleFrom : Nat → Nat → RealVal → Nat
  | 0, _, _ => 0xFE
  | fuel + 1, i, m =>
    let s6 := (Fmt.e3m5.value i).mul (.fin false 6 1)
    match s6.cmp m with
    | some c => if 0 ≤ c then i else scaleFrom fuel (i + 1) m
    | none => 0xFE

/-- The exact quotient of a value by a nonzero scale. -/
def RealVal.div (x s : RealVal) : RealVal :=
  match x, s with
  | .fin a n d, .fin b m e => .fin (xor a b) (n * e) (d * m)
  | .inf a, .fin b _ _ => .inf (xor a b)
  | _, _ => .nan

/-- The encoding of a block of 8 values: the scale code and the element codes (R109). `us` are the
elements' variates. -/
def encodeBlock (xs : List RealVal) (rm : Nat) (us : List Nat) : Nat × List Nat :=
  if xs.any RealVal.isNan then (0xFF, xs.map fun _ => 0)
  else
    let m := xs.foldl (fun acc x => match x.mag.cmp acc with
      | some c => if 0 < c then x.mag else acc
      | none => acc) (.fin false 0 1)
    let s := scaleFrom 255 0 m
    if s == 0 then (0, xs.map fun x => if x.isNeg then 8 else 0)
    else
      let sv := Fmt.e3m5.value s
      (s, (xs.zip us).map fun (x, u) => (Fmt.of .e2m1).round (x.div sv) rm false u)

/-- Codes packed low first, `bits` each. -/
def packCodes (bits : Nat) : List Nat → Nat
  | [] => 0
  | c :: cs => c % 2 ^ bits + 2 ^ bits * packCodes bits cs

/-! ## Comparison, selection and classes of single values (R256, R311, R314) -/

/-- Whether `a` CC `b` holds, from the order of the operands (R256). -/
def ccOrder (cc : Nat) (o : Option Int) : Bool :=
  match o with
  | none => cc == 1 || cc == 6
  | some c =>
    match cc with
    | 0 => c == 0
    | 1 => c != 0
    | 2 => c < 0
    | 3 => c ≤ 0
    | 4 => c > 0
    | 5 => c ≥ 0
    | 7 => true
    | _ => false

/-- Whether `a` CC `b` holds between integers. -/
def ccInt (cc : Nat) (a b : Int) : Bool :=
  ccOrder cc (some (if a < b then -1 else if a = b then 0 else 1))

/-- `fmin` and `fmax` on codes (R311): −0 lies below +0. -/
def fminmax (ty : Ty) (isMax : Bool) (a b : Nat) : Nat :=
  let va := valueOf ty a
  let vb := valueOf ty b
  if va.isNan && vb.isNan then cnan ty
  else if va.isNan then b
  else if vb.isNan then a
  else
    let aLess := match va.cmp vb with
      | some c => if c == 0 then va.isNeg && !vb.isNeg else c < 0
      | none => false
    if isMax then (if aLess then b else a) else if aLess then a else b

/-- The class bit of a code (R314). -/
def classBit (ty : Ty) (x : Nat) : Nat :=
  let f := Fmt.of ty
  match f.value (x % 2 ^ ty.width) with
  | .nan => 8
  | .inf neg => if neg then 0 else 7
  | .fin neg n _ =>
    if n == 0 then (if neg then 3 else 4)
    else if (x % 2 ^ f.mag) / 2 ^ f.frac == 0 then (if neg then 2 else 5)
    else if neg then 1 else 6

/-! ## The exact cell (R100 to R102) -/

/-- The value of a cell's accumulator bytes, as a signed integer of 320 bits. -/
def cellAcc (bs : List Byte) : Int := signedOf 320 (ofBytes (bs.take 40))

/-- The cell after the addition of a value (R101). -/
def cellAdd (bs : List Byte) (x : RealVal) : List Byte :=
  let flags := (bs.getD 48 0#8).toNat
  let setF (acc : List Byte) (f : Nat) := acc ++ (bs.drop 40).take 8 ++ [BitVec.ofNat 8 f] ++ bs.drop 49
  match x with
  | .nan => setF (bs.take 40) (flags ||| 8)
  | .inf neg => setF (bs.take 40) (flags ||| (if neg then 4 else 2))
  | .fin neg n d =>
    let m : Nat := n * 2 ^ 151 / d
    let t := cellAcc bs + (if neg then -(m : Int) else m)
    let ovf := t < -((2 ^ 319 : Nat) : Int) || t ≥ ((2 ^ 319 : Nat) : Int)
    setF (toBytes 40 (lowBits 320 t)) (flags ||| (if ovf then 1 else 0))

/-- What `xrd` returns for a cell (R102). -/
def cellRead (bs : List Byte) : Nat :=
  let flags := (bs.getD 48 0#8).toNat
  if flags.testBit 3 || (flags.testBit 1 && flags.testBit 2) then cnan .f32
  else if flags.testBit 1 then (Fmt.of .f32).round (.inf false) 0 false 0
  else if flags.testBit 2 then (Fmt.of .f32).round (.inf true) 0 false 0
  else if flags.testBit 0 then cnan .f32
  else
    let a := cellAcc bs
    (Fmt.of .f32).round (.fin (a < 0) a.natAbs (2 ^ 151)) 0 false 0

end Sys2Proof.Machine
end

