-- ==== Sys2Proof/Machine/Alu.lean ====
section
/-! DEFINITION. Integer and bit results: the tables of spec/09 R277 to R279 and spec/10 R306 to R309,
each over one lane's or the uniform side's raw operand bits. -/

namespace Sys2Proof.Machine

open Sys2Proof

/-- A source read as an integer from its low `n` bits: two's complement for `.i`, else unsigned (R277). -/
def intOf (ty : Ty) (x : Nat) : Int :=
  if ty.signed then signedOf ty.width x else ((x % 2 ^ ty.width : Nat) : Int)

/-- The low `n` bits of a result extended to `reg` bits (R253, R277). -/
def narrow (ty : Ty) (reg : Nat) (x : Int) : Nat :=
  if ty.signed then lowBits reg (signedOf ty.width (lowBits ty.width x)) else lowBits ty.width x

/-- A result that `.sat` may clamp (R279, R307). -/
def satIf (sat : Bool) (ty : Ty) (x : Int) : Int := if sat then clampTo ty.signed ty.width x else x

/-- A bitwise operation on the low `n` bits, as an integer of the type. -/
def bitOp (ty : Ty) (f : Nat → Nat → Nat) (a b : Int) : Int :=
  intOf ty (f (lowBits ty.width a) (lowBits ty.width b))

/-- `a` AND NOT `b` over `n` bits. -/
def andNot (n a b : Nat) : Nat := a &&& (b ^^^ (2 ^ n - 1))

/-- The non-negative residue of a count (R279, R307). -/
def residue (b : Int) (n : Nat) : Nat := (b % (n : Int)).toNat

/-- `rotl` of R268. -/
def rotlBits (x k n : Nat) : Nat := ((x <<< k) ||| (x >>> (n - k))) % 2 ^ n

/-- Leading zeros over `n` bits. -/
def clzBits : Nat → Nat → Nat
  | 0, _ => 0
  | n + 1, x => if x.testBit n then 0 else 1 + clzBits n x

/-- The two's-complement or unsigned value of the low `k` bits; 0 for no bits. -/
def extend (signed : Bool) (k x : Nat) : Int :=
  if signed then signedOf k x else ((x % 2 ^ k : Nat) : Int)

/-- Bit-field extract (R279, R307). -/
def bfxBits (ty : Ty) (a : Int) (b c : Nat) : Int :=
  let k := min (c % 128) 64
  extend ty.signed k ((lowBits ty.width a) >>> (b % 64))

/-- Bit-field insert (R307): `c` with bits from `p` replaced by the low bits of `a`. -/
def bfiBits (n a p c k : Nat) : Nat :=
  let m := ((2 ^ k - 1) <<< p) % 2 ^ n
  (andNot n c m) ||| ((a <<< p) &&& m)

/-- Division truncated toward zero with the special cases of R279. -/
def divR (ty : Ty) (a b : Int) : Int :=
  if b == 0 then (if ty.signed then -1 else intHi false ty.width) else Int.tdiv a b
/-- Remainder of R279: `a` when `b` is 0. -/
def remR (a b : Int) : Int := if b == 0 then a else Int.tmod a b

/-- The operations with an integer result that the uniform and the vector side share. -/
inductive IntOp where
  | add | sub | mul | mulh | mad | div | rem | min | max | abs
  | and | or | xor | andn | shl | shr | rot | mov | ext | pop | clz | bfx | sel | cmp | lea
  deriving DecidableEq, Repr

/-- The exact result *x* of R278 or R306 before narrowing. `cc` is the condition. -/
def IntOp.eval (op : IntOp) (ty : Ty) (cc : Nat) (a b c : Int) : Int :=
  let n := ty.width
  match op with
  | .add => a + b
  | .sub => a - b
  | .mul => a * b
  | .mulh => a * b / ((2 ^ n : Nat) : Int)
  | .mad => a * b + c
  | .div => divR ty a b
  | .rem => remR a b
  | .min => if a < b then a else b
  | .max => if a > b then a else b
  | .abs => (a.natAbs : Int)
  | .and => bitOp ty (· &&& ·) a b
  | .or => bitOp ty (· ||| ·) a b
  | .xor => bitOp ty (· ^^^ ·) a b
  | .andn => bitOp ty (andNot n) a b
  | .shl => a * ((2 ^ residue b n : Nat) : Int)
  | .shr => a / ((2 ^ residue b n : Nat) : Int)
  | .rot => ((rotlBits (lowBits n a) (residue b n) n : Nat) : Int)
  | .mov => a
  | .ext => extend ty.signed (residue b n + 1) (lowBits n a)
  | .pop => ((popCount n (lowBits n a) : Nat) : Int)
  | .clz => ((clzBits n (lowBits n a) : Nat) : Int)
  | .bfx => bfxBits ty a (residue b 64) (residue c 128)
  | .sel => if a ≠ 0 then b else c
  | .cmp => if ccInt cc a b then 1 else 0
  | .lea => a + b * ((2 ^ c.toNat : Nat) : Int)

/-- `vdot4` (R308): the exact sum of the four byte products and the accumulator. -/
def dot4 (sa sb : Bool) (a b : Nat) (c : Int) : Int :=
  (List.range 4).foldl (fun acc q => acc + extend sa 8 (a >>> (8 * q)) * extend sb 8 (b >>> (8 * q))) c

/-- The combination of an atomic (R362): the new value from the old one, the operand and, for `acas`,
the comparand, over `n` bits. -/
def atomicNew (op : AtomicOp) (n old d cmp : Nat) : Nat :=
  match op with
  | .add => (old + d) % 2 ^ n
  | .min => if signedOf n old < signedOf n d then old else d
  | .max => if signedOf n old > signedOf n d then old else d
  | .and => old &&& d
  | .or => old ||| d
  | .xor => old ^^^ d
  | .xch => d
  | .cas => if old == cmp then d else old

end Sys2Proof.Machine
end

