-- ==== Sys2Proof/Config.lean ====
section
/-! DEFINITION. What the part fixes, and the free values: constants with no body, so that nothing can
be proved of the value they give (notes/assumptions/1.md, 6.md, 17.md, 28.md, 34.md). -/

namespace Sys2Proof.Config

/-- A value the manual leaves open, for the given count of such values. -/
opaque freeValue : Nat → Nat

/-- One of the values that a step leaves open together: the count of steps, and which of its values. -/
opaque freeChoice : Nat → Nat → Nat

/-- A byte of memory whose contents the manual calls undefined (R78, R106, R385): the count of free
values and the address. -/
opaque undefinedByte : Nat → Nat → BitVec 8

/-- The vendor's ML-DSA-65 public key, which the manual does not give (R393, R476, log 17). -/
opaque vendorKey : List (BitVec 8)

/-- The on-die entropy that the identity key is generated from, which never leaves the device (R477, log 17). -/
opaque identityEntropy : List (BitVec 8)

/-- The version and the bytes of the distributor microcode in a package firmware image, by that image's bytes, with none for the image
from manufacture: the manual does not say where the image holds them (R476, log 34). -/
opaque initialVersion : List (BitVec 8) → Nat
opaque initialMicrocode : List (BitVec 8) → List (BitVec 8)

/-- Entries of each die's walk cache, as built (R441): the manual gives no number. -/
opaque walkCacheEntries : Nat

/-- The hash that picks a flow's port from its source package, its destination package and its source function (R472): the manual gives
none (log 28). -/
opaque flowHash : Nat → Nat → Nat → Nat

/-- Logical cores of the package: 4 dies of 128 (R3). -/
def coreCount : Nat := 512
/-- Cores of one die (R3). -/
def coresPerDie : Nat := 128
/-- Lanes of a cohort (R194). -/
def laneCount : Nat := 32
/-- Uniform registers of a cohort (R194). -/
def uniformCount : Nat := 160
/-- Cohort slots of a core (R194). -/
def cohortSlots : Nat := 32
/-- Entries of a core's split table (R202). -/
def splitEntries : Nat := 64
/-- Entries of each queue between the sides (R226). -/
def queueDepth : Nat := 16
/-- Miss-status entries of a core (R64). -/
def missEntries : Nat := 128
/-- Functions: the physical function and 256 virtual functions (R3, R415). -/
def functionCount : Nat := 257
/-- The first byte beyond HBM (R12). -/
def hbmBytes : Nat := 0xC000000000
/-- The first physical address of the host windows (R12, R468). -/
def hostBase : Nat := 0x10000000000
/-- The size of one function's host window (R468). -/
def hostWindow : Nat := 0x2000000000
/-- Vector register file rows of a core (R218). -/
def fileRows : Nat := 2048

end Sys2Proof.Config
end

