-- ==== Sys2Proof/Machine/State.lean ====
section
/-! DEFINITION. The state of one C960 package, as plain data: everything the manual gives it
(INVENTORY.md, '## State'), the reasons a step can stop, and the state after reset. -/

namespace Sys2Proof.Machine

open Sys2Proof

/-- The registers that a `call` keeps for one lane below the callee's window (R219, R221). -/
structure Frame where
  k : Nat
  /-- The execution of the `call` word that created it (R170). -/
  call : Nat
  rows : List Word32
  /-- Spilled to the Attic frame of this identifier, or resident; and its position in that frame (R164). -/
  attic : Option Nat
  slot : Nat
  deriving DecidableEq, Repr

/-- A fibre's join counter: address and scope 1 to 6 (R164). -/
structure JoinRef where
  addr : Nat
  scope : Nat
  deriving DecidableEq, Repr

/-- One fibre in a lane of a cohort, or in a record (R186). -/
structure Fibre where
  lane : Nat
  fidx : BitVec 16
  team : BitVec 32
  depth : Nat
  /-- `p7` to `p0`; bit 0 is not read, since `p0` reads 1. -/
  preds : BitVec 8
  /-- The window base of R219. -/
  base : Nat
  /-- `v0` upward: the window over the register stack. -/
  regs : List Word32
  /-- The frames below the window, the newest first. -/
  frames : List Frame
  join : Option JoinRef
  deriving DecidableEq, Repr

/-- A write that waits: to a vector register or to a predicate of one lane. -/
inductive RegWrite where
  | vec (lane reg : Nat) (val : Word32)
  | pred (lane reg : Nat) (val : Bool)
  deriving DecidableEq, Repr

/-- A bypass latch (R233, R234): 64 bits for each of the 32 lanes. -/
structure Latch where
  live : Bool
  cols : List Word64
  deriving DecidableEq, Repr

/-- An in-flight fixed-latency result of the vector side (R229, R230). -/
structure InFlightV where
  left : Nat
  writes : List RegWrite
  latch : Option Latch
  deriving DecidableEq, Repr

/-- An in-flight result of the uniform side. -/
structure InFlightU where
  left : Nat
  reg : Nat
  val : Word64
  deriving DecidableEq, Repr

/-- An uncorrectable error that a landing carries to its `lwait` (R463). -/
structure LandError where
  lane : Nat
  addr : Nat
  /-- The structure code of R462. -/
  code : Nat
  deriving DecidableEq, Repr

/-- An outstanding landing tag (R237, R238, R341). -/
structure Landing where
  /-- Its identifier, which the sub-cohorts of a split share. -/
  id : Nat
  tag : Nat
  /-- The rows of the register stack it targets, fixed at issue (R237). -/
  rows : List Nat
  pred : Option Nat
  writes : List RegWrite
  /-- The matrix word it waits for, when it is a tile result. -/
  unitWord : Option Nat
  landed : Bool
  error : Option LandError
  deriving DecidableEq, Repr

/-- An exchange store on its way to the member core (R366). -/
structure XstFlight where
  launch : BitVec 32
  team : BitVec 32
  member : Nat
  barrier : Nat
  /-- Bytes with their offsets in the slice, in ascending lane order. -/
  bytes : List (Nat × Byte)
  deriving DecidableEq, Repr

/-- What a resident cohort waits for at a stall point. -/
inductive Wait where
  | none
  /-- `fence.sc`, from the tick count at its step 1 (R132). -/
  | tick (count : Nat)
  /-- A translation or an access of a peer page (R49, R472). -/
  | peer (txns : List Nat)
  /-- Acceptance of an exchange store, which is its word (R366). -/
  | xst (xs : List XstFlight) (word : Word64)
  /-- The trap of an exchange store that its member core has refused, by code (R366). -/
  | refused (code : Nat)
  /-- Miss-status entries (R65). -/
  | misses (need : Nat)
  /-- A free split-table entry and a free cohort slot (R205). -/
  | split
  /-- The end of the shootdown of a context that `tlbinv` has started (R298). -/
  | shootdown (ctx dst : Nat)
  /-- The end of another shootdown of a context, before `tlbinv` starts its own (R298). -/
  | shootBusy (ctx : Nat)
  deriving DecidableEq, Repr

/-- A failed redundant matrix word (R343). -/
structure FailedWord where
  handle : Nat
  addr : Nat
  row : Nat
  column : Nat
  deriving DecidableEq, Repr

/-- A protected word of a cohort's state (R462): of a lane's row of the register stack; a uniform register; an entry of a queue, the one to
the vector side or the other; of a landing; or of a tile, by its handle. -/
inductive StateCell where
  | vec (lane row : Nat)
  | uni (n : Nat)
  | queue (toVector : Bool)
  | landing (tag : Nat)
  | tile (handle : Nat)
  deriving DecidableEq, Repr

/-- What the header that a cohort or record resumes at is still to be checked for: R249 when control reaches it; nothing more, since it has
passed (R161); or, at a handler's, ENTRY and SUSP too (R453). -/
inductive HeaderCheck where
  | plain | passed | handler
  deriving DecidableEq, Repr

/-- A resident cohort or sub-cohort (R194, R202). -/
structure Cohort where
  uid : Nat
  core : Nat
  /-- The cohort slot, 0 to 31. -/
  slot : Nat
  /-- The issue slot it holds (R409). -/
  issue : Option Nat
  readyTime : Nat
  /-- When it took that slot (R213). -/
  slotSince : Nat
  /-- The placement that its stack rows come from (R218): the identifier that the placed cohort had, and when. -/
  placed : Nat
  placedAt : Nat
  tag : BitVec 32
  ctx : Nat
  launch : BitVec 32
  win : Nat
  stack : Nat
  pinned : Bool
  leadTeam : BitVec 32
  pc : Nat
  /-- The header of the block that holds the word at `pc`, with its LEN, RECONV and KEPT (R248). -/
  block : Nat
  len : Nat
  reconv : Int
  kept : Bool
  /-- Control stands at a header, which the next step checks (R249), and for what. -/
  atHeader : Bool
  check : HeaderCheck := .plain
  sregs : List Word64
  uq : List Word64
  vq : List (List Word32)
  conv : BitVec 32
  flightU : List InFlightU
  flightV : List InFlightV
  latches : List Latch
  /-- Consecutive vector words issued while a latch was live (R235). -/
  liveRun : Nat
  landings : List Landing
  /-- The current entry of the core's split table (R202). -/
  split : Option Nat
  parked : Bool
  wait : Wait
  /-- Breakpoints and watchpoints do not match the next word (R454). -/
  skip : Bool
  /-- STEP is raised once the next word is performed; and the word that has been, so that STEP comes before anything else
  (R454). -/
  stepping : Bool
  stepDue : Option Word64
  /-- The address of the word that STEP follows. -/
  stepAt : Nat := 0
  failed : Option FailedWord
  /-- Where its state holds an uncorrectable error (R462). -/
  bad : List StateCell := []
  fibres : List Fibre
  deriving DecidableEq, Repr

/-- The trap block of a record (R165). -/
structure TrapBlock where
  code : BitVec 16
  lane : Nat
  word : Word64
  addr : Word64
  detail : Word64
  deriving DecidableEq, Repr

/-- KIND of a record (R160). -/
inductive RecordKind where
  | continuation | spawn | trap | engine | forced
  deriving DecidableEq, Repr

/-- What a record waits for (R176). -/
inductive Event where
  | none
  | barrier (team : BitVec 32) (bar : Nat) (phase : Bool)
  | semaphore (core sem : Nat) (threshold : BitVec 32)
  | join (ctr : Nat)
  | watch (addr : Nat)
  | page (ctx page : Nat)
  | tick (count : Nat)
  | flush (seq : BitVec 32)
  | charge
  | yielded
  deriving DecidableEq, Repr

/-- Where a record is (R172, R177, R178, R182). -/
inductive Place where
  | bin
  | waiting
  | faultOverflow
  | binOverflow
  /-- Sent to another package or die at a cycle, and still owned here. -/
  | sent (pkg die since : Nat)
  /-- Held for another package or die until COMMIT. -/
  | pending (pkg die : Nat)
  deriving DecidableEq, Repr

/-- The condition of a `waitv` watch (R378), and whether the watch stands on the overflow list of its slice's die. -/
structure WatchCond where
  pa : Nat
  overflow : Bool
  cc : BitVec 3
  signed : Bool
  comparand : BitVec 32
  deriving DecidableEq, Repr

/-- A continuation record (R159 to R165). -/
structure Record where
  uid : Nat
  kind : RecordKind
  kept : Bool
  heavy : Bool
  reissue : Bool
  ctx : Nat
  win : Nat
  stack : Nat
  pinned : Bool
  vcnt : Nat
  ucnt : Nat
  tiles : BitVec 8
  tmap : List Nat
  homecore : Nat
  tag : BitVec 32
  resume : Nat
  launch : BitVec 32
  team : BitVec 32
  event : Event
  conv : BitVec 32
  block : Nat
  fibres : List Fibre
  trap : Option TrapBlock
  /-- The faulting address of a record that waits for a page (R38), and the lane that a trap of it
  reports: the faulting one (R31), or the lowest active one of its fibres. -/
  va : Nat
  faultLane : Nat
  /-- The engine operation of an engine record. -/
  engine : Option Nat
  sregs : List Word64
  uq : List Word64
  vq : List (List Word32)
  /-- The tile blocks of a heavy record, with their handles. -/
  tileData : List (Nat × List (List Word32))
  /-- The predicate that the completion of a barrier wait writes (R375, R376). -/
  pd : Nat
  watch : Option WatchCond
  /-- The core whose semaphore released it (R377). -/
  semCore : Option Nat
  skip : Bool
  stepping : Bool
  /-- The word that STEP follows, which the cohort that it forms raises first (R454), and its address. -/
  stepDue : Option Word64
  stepAt : Nat := 0
  check : HeaderCheck := .plain
  place : Place
  die : Nat
  core : Nat
  arrival : Nat
  /-- Its image is malformed (R169). -/
  bad : Bool
  /-- Its bays hold its image as it stands (R155). -/
  stored : Bool
  deriving DecidableEq, Repr

/-- A cohort that the Cobbler or the distributor formed and that has no core yet (R180, R401). -/
structure Unplaced where
  cohort : Cohort
  /-- The cause that its placement's trace record carries (R414). -/
  cause : Nat
  since : Nat
  die : Nat
  /-- The core that wrote its first record, if any. -/
  writer : Option Nat
  /-- The core of the semaphore that released its record (R377). -/
  semCore : Option Nat
  /-- The core that R211 or R408 has cleared for it. -/
  bound : Option Nat
  /-- KEPT of its records, or whether its launch is pinned (R414). -/
  keptFlag : Bool
  /-- The scopes of the join counters of its spawn records, each with the core that wrote the record (R144). -/
  limits : List (Nat × Nat)
  heavy : Bool
  overdue : Bool
  fromTeam : Bool
  tileData : List (Nat × List (List Word32))
  /-- Its drain's place in the order of R407 (R406). -/
  order : Nat × Nat × Nat := (0, 0, 0)
  /-- Where it stands in a handoff to another die (R182, R405): SENT, or PENDING. -/
  handoff : Option Place := none
  deriving DecidableEq, Repr

/-- An entry of a core's split table (R202). -/
structure SplitEntry where
  valid : Bool
  parent : Option Nat
  tag : BitVec 32
  reconv : Nat
  mask : BitVec 32
  live : Nat
  parked : Nat
  deriving DecidableEq, Repr

/-- The page that a request counts against when it misses (R44): the die, context and address of the access, and ACC of
R40. -/
structure PageRef where
  die : Nat
  ctx : Nat
  va : Nat
  acc : Nat
  /-- Its leaf and page size. -/
  leaf : Word64
  size : Nat
  deriving DecidableEq, Repr

/-- A physical tile (R240, R331): its owner, and 32 rows of 256 elements. -/
structure Tile where
  owner : Option (BitVec 32 × Nat)
  rows : List (List Word32)
  deriving DecidableEq, Repr

/-- The destination of 64 bytes of a tile row (R347): a location and its address, with whether it is written uncached (R71),
or scratchpad of a team on a core. -/
inductive Target where
  | mem (l : Loc) (va : Nat) (uncached : Bool) (page : Option PageRef)
  | pad (core : Nat) (launch team : BitVec 32) (off : Nat)
  deriving DecidableEq, Repr

/-- What an accepted matrix word does when the unit reaches it (R335). -/
inductive MatrixKind where
  | mma (ta tb : Ty) (sat red : Bool) (a aScale : List (Nat × List Byte)) (b bScale : List (List Byte))
      (flag : Nat)
  | alloc
  | free
  | zero
  | load (rows : List (Nat × List Word32))
  | store (dst : List (Nat × List Target))
  | drain (ta tb : Ty) (rm : BitVec 3) (sat clr : Bool) (bands : List (Nat × Option (BitVec 16)))
      (dst : List (Nat × List Target))
  | rd (group : Nat) (dst : Nat)
  | wr (group : Nat) (vals : List (Nat × List Word32))
  | mov (source : Nat)
  deriving DecidableEq, Repr

/-- A word accepted into a core's matrix queue (R241, R335): the lanes and the placement of the cohort that issued it, and its
context. -/
structure MatrixOp where
  id : Nat
  issuer : List Nat
  placed : Nat
  ctx : Nat
  tag : BitVec 32
  handle : Nat
  tile : Nat
  addr : Nat
  tagOut : Option Nat
  lanes : List Nat
  kind : MatrixKind
  deriving DecidableEq, Repr

/-- A miss-status entry that loads wait for (R64): their sector, and whether its fill goes into the L1 (R60). -/
structure MissEntry where
  key : Loc
  fills : Bool
  deriving DecidableEq, Repr

/-- One logical core's own state (R54, R64, R202, R240). -/
structure Core where
  id : Nat
  splitCode : Nat
  splitTable : List SplitEntry
  tiles : List Tile
  matrixQueue : List MatrixOp
  /-- The miss-status entries that loads have taken (R64), those that a grant holds for a cohort (R65), and the cohorts that
  wait for entries. -/
  misses : List MissEntry
  grants : List (Nat × Nat)
  grantQueue : List Nat
  scSeq : Nat
  faultyRows : List Nat
  markedOut : Bool
  deriving DecidableEq, Repr

/-- A team's scratchpad allocation on one member core (R56, R188). -/
structure Alloc where
  core : Nat
  launch : BitVec 32
  team : BitVec 32
  size : Nat
  row : Nat
  /-- The bytes that are not zero, by offset. -/
  data : List Host.Cell
  deriving DecidableEq, Repr

/-- An entry of a core's shadow bank (R367). -/
structure Shadow where
  core : Nat
  launch : BitVec 32
  team : BitVec 32
  barrier : Nat
  /-- The 128-byte-aligned offset it covers. -/
  row : Nat
  mask : BitVec 128
  data : List Byte
  deriving DecidableEq, Repr

/-- A core semaphore of a function's logical core (R377). -/
structure Semaphore where
  fn : Nat
  core : Nat
  sem : Nat
  val : BitVec 32
  deriving DecidableEq, Repr

/-- A barrier of a team (R371). -/
structure Barrier where
  valid : Bool
  expA : Nat
  expB : Nat
  cntA : Nat
  cntB : Nat
  voidB : Nat
  phase : Bool
  lastVoid : Bool
  /-- The `FIDX` values whose arrival parity bit is 1. -/
  fp : List (BitVec 16)
  deriving DecidableEq, Repr

/-- A team (R187, R188). -/
structure Team where
  launch : BitVec 32
  num : BitVec 32
  fn : Nat
  span : Nat
  inst : Nat
  foot : Nat
  fibres : Nat
  members : List Nat
  barriers : List Barrier
  deriving DecidableEq, Repr

/-- A launch that has started (R398, R400). -/
structure Launch where
  num : BitVec 32
  fn : Nat
  slot : Nat
  queue : Nat
  seq : Nat
  prio : Nat
  entry : Nat
  win : Nat
  stack : Nat
  span : Nat
  pinned : Bool
  irq : Bool
  foot : Nat
  teams : Nat
  fibres : Nat
  members : Nat
  split : Nat
  args : List Word64
  doneAddr : Nat
  next : Nat
  /-- 0 DONE, 1 FAULT, 2 ABORTED (R402). -/
  status : Nat
  complete : Bool
  deriving DecidableEq, Repr

/-- What the distributor holds of a queue beside the QCB in memory (R396, R397). -/
structure QueueView where
  fn : Nat
  queue : Nat
  /-- The address of the QCB that it was enabled with. -/
  base : Nat
  head : Nat
  tail : Nat
  doneSeq : Nat
  /-- The descriptor that was read when its launch reached the cursor: the sequence number, and the bytes. -/
  desc : Option (Nat × List Byte)
  /-- Since when its next team has found no core, and the core that a pre-emption bound it to (R408). -/
  since : Option Nat
  bound : Option Nat
  deriving DecidableEq, Repr

/-- Where an engine operation stands (R381, R383, R387). -/
inductive EngineState where
  | queued | running
  /-- Checkpointed into the record of this identifier. -/
  | parked (rec : Nat)
  /-- Its chunks are done and its status block waits for a page. -/
  | statusParked (rec : Nat)
  deriving DecidableEq, Repr

/-- A rank's progress through a collective (R386, R387). -/
structure CollState where
  stage : Nat
  peer : Nat
  progress : Nat
  checked : Bool
  /-- The group identifier, and which `coll` of this rank on it this is (R386). -/
  group : Nat
  seq : Nat
  /-- Bytes received from each rank. -/
  received : List (Nat × List Byte)
  deriving DecidableEq, Repr

/-- A rank's `coll` words on a group identifier: how many have run, or which one an abort meets (R386). -/
structure CollCount where
  fn : Nat
  group : Nat
  rank : Nat
  count : Nat
  deriving DecidableEq, Repr

/-- One piece of the chunk that an operation has begun (R136, R383): where its bytes come from, unless they have come already, and
where they go. -/
structure EngMove where
  src : Target
  bytes : Option (List Byte)
  dst : Target
  len : Nat
  deriving DecidableEq, Repr

/-- An accepted engine operation (R381 to R387). -/
structure EngineOp where
  id : Nat
  opcode : BitVec 8
  mod : BitVec 4
  cnt : BitVec 4
  co : BitVec 3
  obj : Nat
  fn : Nat
  ctx : Nat
  launch : BitVec 32
  team : BitVec 32
  core : Nat
  /-- The tag and WIN of the cohort that issued it, which its records carry (R160). -/
  tag : BitVec 32
  win : Nat
  regs : List Word64
  /-- Destination bytes of its completed chunks, and those that its barrier has counted (R383, R384). -/
  done : Nat
  counted : Nat
  /-- The destination bytes of the chunk that it has begun, and the pieces of it that have still to move (R383). -/
  chunk : Nat
  moves : List EngMove
  state : EngineState
  /-- A borrowed channel's owner, and the cycle in which it took its channel (R431). -/
  borrowed : Option Nat
  since : Nat
  /-- Whether it leaves its channel once the stage in flight is over (R431). -/
  stops : Bool
  /-- CODE and TRAP once its chunks are over, while its status block waits (R384, R385). -/
  ended : Option (Nat × Nat)
  coll : CollState
  deriving DecidableEq, Repr

/-- An Attic frame (R170): one that a spill on a die has written for lanes of one cohort. -/
structure AtticFrame where
  id : Nat
  fn : Nat
  die : Nat
  call : Nat
  k : Nat
  left : Nat
  /-- By lane: its next older frame, with its position there, and its registers. -/
  links : List (Option (Nat × Nat))
  rows : List (List Word32)
  /-- Its bays hold its image as it stands (R155). -/
  stored : Bool
  deriving DecidableEq, Repr

/-- The chain of bays of an image in the Cellar or the Attic of a function (R155): the image of a record or of an Attic frame. -/
structure Chain where
  fn : Nat
  attic : Bool
  id : Nat
  bays : List Nat
  deriving DecidableEq, Repr

/-- A bay that a die's record buffer holds (R158): its way, and its bytes. -/
structure BufferBay where
  die : Nat
  way : Nat
  fn : Nat
  attic : Bool
  id : Nat
  bay : Nat
  bytes : List Byte
  /-- It holds an uncorrectable error (R462). -/
  bad : Bool := false
  deriving DecidableEq, Repr

/-- What a pending access does to its bytes as it performs: a store, whose bytes may leave some of its range alone; an
atomic operation (R362); or an `xadd` of a value of its SZ (R364). -/
inductive WriteOp where
  | store (bytes : List (Option Byte))
  | atomic (op : AtomicOp) (wide : Bool) (operand compare : Word64)
  | cell (sz : BitVec 3) (addend : Word32)
  deriving DecidableEq, Repr

/-- A write issued into pending(c) and not yet performed (R122), or an atomic operation that has still to take its step
(R124): one access, single-copy atomic (R115), from its first byte. -/
structure PendingStore where
  core : Nat
  ctx : Nat
  /-- The agent: the placement of its cohort, and the lane, or none for the uniform side (R114). -/
  placed : Nat
  lane : Option Nat
  /-- Its place in the order of issue, and the line request that carries it (R62). -/
  id : Nat
  request : Nat
  loc : Loc
  op : WriteOp
  /-- It travels as an uncached transfer (R71, R110). -/
  uncached : Bool
  /-- The transaction that carries it to a peer (R471). -/
  txn : Option Nat
  /-- Its line request holds a miss-status entry of its core (R64). -/
  entry : Bool
  /-- It is single-copy atomic in pieces of so many bytes, or whole (R115, R347). -/
  grain : Option Nat
  /-- Its request writes the whole of its sector, whose error goes (R464). -/
  whole : Bool
  /-- The other agents of its core can read it: each lane's store issues on its own (R114, R121, R123). -/
  issued : Bool
  /-- The release steps that come before it and may still be incomplete: the scope of each, and the identifier below which the accesses
  before it lie (R120, R126). -/
  rel : List (Nat × Nat)
  deriving DecidableEq, Repr

/-- What a pending read is: a load, a read of an exact cell (R365), or the old value of the atomic operation of an
identifier (R362). -/
inductive ReadKind where
  | plain | cell
  | old (id : Nat)
  deriving DecidableEq, Repr

/-- A lane's read that a landing waits for (R237): its agent, its location, the register that it fills; and its bytes once
it is performed. -/
structure PendingRead where
  landing : Nat
  core : Nat
  placed : Nat
  lane : Nat
  va : Nat
  loc : Loc
  len : Nat
  sz : BitVec 3
  dst : Nat
  kind : ReadKind
  bytes : Option (List Byte)
  deriving DecidableEq, Repr

/-- A performed write that some core may still read behind (R121, R123): its place in the order of all of them, the core
of its agent, where it begins, the bytes that it replaced, and the size of the pieces that are single-copy atomic, when it is
not whole (R115). -/
structure Performed where
  seq : Nat
  core : Option Nat
  loc : Loc
  old : List Byte
  grain : Option Nat
  deriving DecidableEq, Repr

/-- view(c, x) of a byte (R121), as the place in the order of performed writes from which the core reads it. -/
structure Seen where
  core : Nat
  loc : Loc
  seq : Nat
  deriving DecidableEq, Repr

/-- A sector valid in a core's L1 (R59, R60): the way of its line, its bytes, and for each byte the place in the order of
performed writes that it was read at. -/
structure L1Sector where
  core : Nat
  sector : Nat
  way : Nat
  bytes : List Byte
  times : List Nat
  deriving DecidableEq, Repr

/-- A view sector resident in the L2 (R103, R107). -/
structure ViewSector where
  win : Nat
  sector : Nat
  bytes : List Byte
  dirty : Bool
  deriving DecidableEq, Repr

/-- A line of an L2 slice (R69): its die and slice, PA ÷ 256, its way, and of each of its four sectors whether it
is valid, whether it is dirty, and whether its data are on their way from HBM. -/
structure L2Line where
  die : Nat
  slice : Nat
  line : Nat
  way : Nat
  valid : BitVec 4
  dirty : BitVec 4
  want : BitVec 4
  /-- Its sectors whose data hold an uncorrectable error (R462). -/
  bad : BitVec 4 := 0#4
  deriving DecidableEq, Repr

/-- What a line request is (R62). -/
inductive ReqKind where
  | load | store | atomic
  deriving DecidableEq, Repr

/-- A line request that its home slice has still to serve (R62, R69, R71): the core that made it, if one did; the line;
its sector mask; a store's byte mask; an atomic's lanes, each with its byte offset, operand and comparand. The data of a
store stand in the pending writes that name the request. -/
structure SliceReq where
  id : Nat
  fn : Nat
  core : Option Nat
  line : Nat
  kind : ReqKind
  sectors : BitVec 4
  bytes : BitVec 256
  lanes : List (Nat × Word64 × Word64)
  uncached : Bool
  page : Option PageRef
  /-- The die whose links it has still to cross (R427). -/
  link : Option Nat
  deriving DecidableEq, Repr

/-- A request in the queue of its pseudo-channel's controller (R79): its owner (R427), its sector with its bank and row, whether it
writes, and since when it stands there. -/
structure DramReq where
  fn : Nat
  pa : Nat
  bank : BankId
  row : Nat
  write : Bool
  since : Nat
  deriving DecidableEq, Repr

/-- An open row of a bank (R79): who opened it (R427), and the cycle of its last access. -/
structure OpenRow where
  bank : BankId
  row : Nat
  fn : Nat
  used : Nat
  deriving DecidableEq, Repr

/-- A translation held by an agent (R29). -/
structure TlbEntry where
  owner : TlbOwner
  ctx : Nat
  page : Nat
  size : Nat
  leaf : Word64
  frame : Nat
  writable : Bool
  /-- It has a parity error (R462), as other caches' entries may. -/
  bad : Bool := false
  deriving DecidableEq, Repr

/-- A pointer entry that a die's walker has cached: its level, and the addresses that it covers (R29, R441). -/
structure WalkEntry where
  die : Nat
  ctx : Nat
  level : Nat
  lo : Nat
  size : Nat
  entry : Word64
  bad : Bool := false
  deriving DecidableEq, Repr

/-- A fetch line of a core: 16 words (R251, R299). -/
structure FetchLine where
  core : Nat
  ctx : Nat
  line : Nat
  words : List Word64
  bad : Bool := false
  deriving DecidableEq, Repr

/-- A shootdown in progress (R33, R35): an access is under the old epoch when its identifier is below `epoch`. -/
structure Shootdown where
  ctx : Nat
  lo : Nat
  hi : Nat
  epoch : Nat
  waiting : List TlbOwner
  /-- Its first cycle, and whether its agents have been reported (R36). -/
  since : Nat
  late : Bool
  deriving DecidableEq, Repr

/-- An entry of a die's fault table (R39, R40), with an identifier of the model's. -/
structure FaultEntry where
  id : Nat
  die : Nat
  ctx : Nat
  page : Nat
  /-- The page waits on the overflow list for an entry of the table. -/
  overflow : Bool
  posted : Bool
  va : Nat
  entry : Word64
  code : Nat
  acc : Nat
  level : Nat
  heart : Nat
  /-- The peer page that a fault of class 4 waits for (R51). -/
  peer : Option (Nat × Nat)
  deriving DecidableEq, Repr

/-- A die's access counter of a page (R44). -/
structure AccessCount where
  die : Nat
  ctx : Nat
  page : Nat
  count : Nat
  deriving DecidableEq, Repr

/-- A replica of a read-duplicated page (R46, R48). -/
structure Replica where
  die : Nat
  ctx : Nat
  page : Nat
  size : Nat
  frame : Nat
  deriving DecidableEq, Repr

/-- An entry of a die's remote translation cache (R49). -/
structure RtcEntry where
  die : Nat
  ctx : Nat
  pkg : Nat
  page : Nat
  frame : Nat
  writable : Bool
  lease : Nat
  expiry : Nat
  /-- The pod tick of the grant (R51). -/
  granted : Nat
  bad : Bool := false
  deriving DecidableEq, Repr

/-- A lease this package has granted (R50). -/
structure Lease where
  id : Nat
  pkg : Nat
  fn : Nat
  ctx : Nat
  page : Nat
  frame : Nat
  writable : Bool
  expiry : Nat
  /-- A recall is out, with the holder's acknowledgement still to come (R52). -/
  recalled : Bool
  deriving DecidableEq, Repr

/-- What a request to a peer asks for (R49, R471). -/
inductive PeerKind where
  | translate | read (bytes : Nat) | write (data : List Byte)
  | atomic (op : AtomicOp) (wide : Bool) (operand compare : Word64)
  deriving DecidableEq, Repr

/-- An outstanding request to a peer package (R472). -/
structure PeerReq where
  txn : Nat
  uid : Nat
  core : Option Nat
  die : Nat
  ctx : Nat
  fn : Nat
  pkg : Nat
  page : Nat
  addr : Nat
  /-- The virtual address of the access, ACC of R40, and its lane: 64 for a write that nothing waits for in place,
  65 for the translation that such a write needs again, and 66 for the renewal of a lease (R51). -/
  va : Nat
  acc : Nat
  lane : Nat
  lease : Nat
  kind : PeerKind
  /-- Whether its flit has left: not while the route table is open (R472). -/
  sent : Bool
  /-- The data it returned, once complete. -/
  reply : Option (List Byte)
  aborted : Bool
  deriving DecidableEq, Repr

/-- A flit on the scale-out fabric (R471): a message is its flits in order, each with how many follow, and up to 40 bytes of the
payload; and whether it has left its port (R427). -/
structure Flit where
  kind : Nat
  dst : Nat
  src : Nat
  fn : Nat
  tag : Nat
  lease : Nat
  follow : Nat
  payload : List Byte
  left : Bool
  deriving DecidableEq, Repr

/-- A LIST record of a slot-table entry (R422). -/
structure ListRec where
  fn : Nat
  ways : BitVec 16
  tch : BitVec 16
  cch : BitVec 4
  deriving DecidableEq, Repr

/-- One slot-table entry (R422). -/
structure SlotEntry where
  owner : List Nat
  list : List (Option ListRec)
  wheel : Nat
  deriving DecidableEq, Repr

/-- A checked slot table with its wheel programs (R422, R423) and their images. -/
structure SlotTable where
  entries : List SlotEntry
  wheels : List (List Byte)
  image : List Byte
  deriving DecidableEq, Repr

/-- What a function's dense core saved at a handover (R435). -/
structure SaveBlock where
  fn : Nat
  dense : Nat
  splitCode : Nat
  allocs : List Alloc
  shadows : List Shadow
  deriving DecidableEq, Repr

/-- A drain window in progress (R433). -/
structure Drain where
  edge : Nat
  outgoing : List Nat
  incoming : List Nat
  /-- The quads handed over, and the owner that each had. -/
  quads : List Nat
  owners : List Nat
  deriving DecidableEq, Repr

/-- A message of the tenant arbiter in flight (R447, R448). -/
structure ArbMessage where
  src : Nat
  filter : Nat
  dst : Nat
  queue : Nat
  argSlot : Nat
  seq : Nat
  statusPa : Nat
  deriving DecidableEq, Repr

/-- A function's settings and budgets of the frame (R419, R430), latched at its boundary: the donated positions and,
on each die, the channel-cycles that are left; `none` is unlimited. -/
structure Budget where
  fn : Nat
  group : Nat
  prio : Nat
  donation : Option Nat
  engine : Option (List Nat)
  deriving DecidableEq, Repr

/-- A targeted test that an error has scheduled (R465): its unit, the cycle of the error, and whether it runs at once. -/
structure UnitTest where
  unit : HwUnit
  since : Nat
  atOnce : Bool
  deriving DecidableEq, Repr

/-- What firmware holds outside the registers (R393, R476, R479). -/
structure Firmware where
  /-- The running image's version, the fused rollback counter, and the rollback value of the image that runs. -/
  version : Nat
  rollback : Nat
  running : Nat
  /-- The running image's bytes, where it was staged here, and the flash's images: the newest first, with their
  versions and rollback values. -/
  image : List Byte
  staged : Option (Nat × Nat × List Byte)
  distVersion : Nat
  distRollback : Nat
  distImage : List Byte
  failed : Bool
  deriving DecidableEq, Repr

/-- The completion of a host's read (R467): its data, or a status without any. -/
inductive HostReply where
  | data (bytes : List Byte)
  | unsupported | aborted
  deriving DecidableEq, Repr

/-- A register of a function's aperture whose value is not the one of its reset (R7). -/
structure RegCell where
  fn : Nat
  off : Nat
  val : Word64
  deriving DecidableEq, Repr

/-- The package. -/
structure State where
  /-- The package cycle count that `CLOCK` reads (R264, R421). -/
  clock : Nat
  podTick : Nat
  /-- As tick master: the last count sent and the cycle of its sending; and the counts still to be adopted, each with
  its cycle (R475). -/
  podSent : Nat
  podSentAt : Nat
  podPending : List (Nat × Nat)
  regs : List RegCell
  mem : List Host.Cell
  hostMem : List Host.Cell
  /-- HBM ranges whose contents are undefined until written (R78, R106, R385): first byte, last byte. -/
  undef : List (Nat × Nat)
  /-- pending(c) of every core, in the order of issue (R121). -/
  pendingStores : List PendingStore
  /-- The reads of landings that have still to perform or to be written back (R237). -/
  reads : List PendingRead
  /-- The coherence lists behind their last entries (R121): the performed writes that a core may still read behind, the
  newest first; how many there have been; what each core's last acquire step set its views to; and the views since. -/
  performs : List Performed
  performSeq : Nat
  viewFloors : List (Nat × Nat)
  seen : List Seen
  /-- The performed writes that the watches have seen (R148). -/
  watchSeq : Nat
  /-- Release steps that have still to complete (R120, R126): a cohort's, at a scope, and the first identifier after it, below
  which its earlier reads lie. -/
  owed : List (Nat × Nat × Nat)
  /-- The scopes of join counters: a counter's address, and the widest scope that a `spawn` since it was last 0 names for it (R144). -/
  joinScopes : List (Nat × Nat)
  /-- The L1s' sectors, their replacement trees by core and set, and lines with a parity error, by core (R59, R61). -/
  l1 : List L1Sector
  l1Trees : List (Nat × Nat × BitVec 32)
  l1Bad : List (Nat × Nat)
  views : List ViewSector
  /-- The L2's lines, the most recently used first (R69, R70). -/
  l2 : List L2Line
  requests : List SliceReq
  flushSeq : Nat
  flushing : List Nat
  errorTable : List (Nat × Nat)
  badSectors : List Nat
  /-- Scratchpad bank words with an uncorrectable error (R462): core, array row and bank; and sets of the L2's tags, by die, slice
  and set, of which neither copy can be read. -/
  badWords : List (Nat × Nat × Nat)
  badTags : List (Nat × Nat × Nat)
  /-- The open rows, and the controllers' queues, the oldest request first (R79). -/
  dramRows : List OpenRow
  dramQueue : List DramReq
  /-- A cycle, and the counters of R480 that have gone up in it, one entry for each time (R481). -/
  dramTicks : Nat × List Nat
  tlbs : List TlbEntry
  /-- The walk caches, the most recently used entry first. -/
  walkCache : List WalkEntry
  fetchLines : List FetchLine
  shootdowns : List Shootdown
  faults : List FaultEntry
  accessCounts : List AccessCount
  /-- Pages that have had their hint in the current window: die, context, page (R44). -/
  hinted : List (Nat × Nat × Nat)
  /-- Read-duplicated pages that the page service has collapsed, and those of them written since the window began (R47):
  context and page. -/
  collapsed : List (Nat × Nat)
  rdupWrites : List (Nat × Nat)
  /-- Context, MIGCTL in force and the first cycle of its window, where they are not those of R44's reset values. -/
  migWindows : List (Nat × Nat × Nat)
  replicas : List Replica
  rtc : List RtcEntry
  /-- Translations under leases of zero ticks, each with the agent whose one access it serves (R50). -/
  oneTime : List (Nat × RtcEntry)
  /-- Leases that this package holds: package, lease, function and expiry (R52, R53). -/
  heldLeases : List (Nat × Nat × Nat × Nat)
  /-- Leases that a tenant reset discarded: package and lease, whose recalls are not acknowledged (R53). -/
  lostLeases : List (Nat × Nat)
  leases : List Lease
  nextLease : Nat
  peerReqs : List PeerReq
  /-- Recalls that this package has taken and not yet acknowledged: the target package, the lease, and the function (R52). -/
  recalls : List (Nat × Nat × Nat)
  /-- Exported pages that are being moved: exporting context and page (R52). -/
  moving : List (Nat × Nat)
  /-- Translation requests held back by a recall: package, function, address and transaction (R52). -/
  held : List (Nat × Nat × Nat × Nat)
  /-- Who is owed a READY: package, exporting context, address in it (R51). -/
  readyWaits : List (Nat × Nat × Nat)
  fabricOut : List Flit
  ports : List (Nat × Nat)
  portsDown : List Nat
  records : List Record
  /-- Charges that discarded malformed records hold, by function: Cellar bays and Attic bays (R169). -/
  lost : List (Nat × Nat × Nat)
  /-- Records reclaimed with no answer: identifier, package and die of the thief (R182). -/
  reclaimed : List (Nat × Nat × Nat)
  attic : List AtticFrame
  /-- The images in the Cellars and the Attics, and the dies' record buffers, the oldest entry first (R155, R158). -/
  chains : List Chain
  buffer : List BufferBay
  /-- The count of tags assigned, per die (R160). -/
  tagCounts : List Nat
  /-- Each die's map of a source package and its tag to a tag of the die's own (R162). -/
  tagMap : List (Nat × Nat × BitVec 32 × BitVec 32)
  cohorts : List Cohort
  unplaced : List Unplaced
  /-- Placements to be halted, with the cause of R414 (R211, R408). -/
  halts : List (Nat × Nat)
  cores : List Core
  teams : List Team
  allocs : List Alloc
  shadows : List Shadow
  semaphores : List Semaphore
  launches : List Launch
  launchCount : Nat
  queueViews : List QueueView
  /-- The issue slots that hold a cohort, and when the others were last given up: core, slot, cycle (R411). -/
  slotsHeld : List (Nat × Nat)
  slotsFreed : List (Nat × Nat × Nat)
  /-- The queue whose team was made last, by function and PRIO (R401). -/
  teamTurns : List (Nat × Nat × Nat)
  engines : List EngineOp
  collCounts : List CollCount
  collAborts : List CollCount
  table : Option SlotTable
  pendingTable : Option SlotTable
  /-- Clearing EN waits for the next frame boundary (R424). -/
  disabling : Bool
  t0 : Nat
  drain : Option Drain
  /-- Quads out of service since their drain window ended with a step left, each with the function that leaves it (R438). -/
  lateQuads : List (Nat × Nat)
  saves : List SaveBlock
  budgets : List Budget
  /-- Wheel turns begun (R421). -/
  wheelTurns : Nat
  /-- Physical quads retired, with their dies; L2 ways retired, by die, slice and row; fabric and die lanes retired
  (R465). -/
  retiredQuads : List (Nat × Nat)
  retiredWays : List (Nat × Nat × Nat)
  retiredLanes : List (Nat × Nat)
  /-- The targeted tests that errors have scheduled (R465), and the retries of the flit at the head of each port (R462). -/
  tests : List UnitTest
  retries : List (Nat × Nat)
  /-- What the arbiter has read of outboxes and not yet served: function, HEAD, and the tick (R447, R448). -/
  outboxes : List (Nat × Nat × Nat)
  resets : List Nat
  arbiter : List ArbMessage
  irqs : List (Nat × Nat)
  /-- Fatal descriptors that found their function's ring full, oldest first (R455). -/
  fatalPending : List (Nat × List Byte)
  /-- Reads that the host has completed: function, base address register, offset, and the completion (R467). -/
  hostReads : List (Nat × Nat × Nat × HostReply)
  /-- The debug trace: function, core and number of each event of `dbg`, oldest first (R297; its layout is the model's, log 25). -/
  debugTrace : List (Nat × Nat × Nat)
  /-- Functions whose Device Control 2 register enables AtomicOp requests (R469). -/
  atomicsOn : List Nat
  /-- NumVFs of the SR-IOV capability while VF Enable is set, else 0 (R424). -/
  numVfs : Nat
  firmware : Firmware
  /-- Matrix issue duty in sixteenths (R479). -/
  matrixDuty : Nat
  powered : Bool
  gatedDies : List Nat
  /-- MODEL's own: inputs and interleavings to come, each after so many further steps (log 2). -/
  agenda : List (Nat × Instr)
  /-- MODEL's own: how many free values have been taken (log 1). -/
  freeCtr : Nat
  /-- MODEL's own: the cohort whose word the step executes (log 2). -/
  cur : Option Nat
  /-- MODEL's own: the next fresh identifier (log 2). -/
  nextUid : Nat
  /-- MODEL's own: whose turn the next step is, between the words and the other agents (log 2). -/
  turn : Nat
  deriving DecidableEq, Repr

/-- Why the machine stops. -/
inductive Fault where
  /-- An instruction word is executed while no cohort stands at a word: raised by every word's meaning.
  Safe: the part issues words only for a resident cohort (R409). -/
  | noCohort
  /-- The package has removed its own power (R479): raised by the step. Safe: nothing executes then. -/
  | noPower
  deriving DecidableEq, Repr

/-- Why a step has no meaning. -/
inductive Refusal where
  /-- The instruction has no meaning yet: raised by its arm in Dispatch.lean alone. Safe. -/
  | notModelled (mnemonic : String)
  deriving DecidableEq, Repr

/-- The package right after package reset: every register at its reset value (the aperture registers
read the reset values of Machine/Regs.lean), no work, no record, nothing cached. -/
def State.reset : State where
  clock := 0
  podTick := 0
  podSent := 0
  podSentAt := 0
  podPending := []
  regs := []
  mem := []
  hostMem := []
  undef := []
  pendingStores := []
  reads := []
  performs := []
  performSeq := 0
  viewFloors := []
  seen := []
  watchSeq := 0
  owed := []
  joinScopes := []
  l1 := []
  l1Trees := []
  l1Bad := []
  views := []
  l2 := []
  requests := []
  flushSeq := 0
  flushing := []
  errorTable := []
  badSectors := []
  badWords := []
  badTags := []
  dramRows := []
  dramQueue := []
  dramTicks := (0, [])
  tlbs := []
  walkCache := []
  fetchLines := []
  shootdowns := []
  faults := []
  accessCounts := []
  hinted := []
  collapsed := []
  rdupWrites := []
  migWindows := []
  replicas := []
  rtc := []
  oneTime := []
  heldLeases := []
  lostLeases := []
  leases := []
  nextLease := 1
  peerReqs := []
  recalls := []
  moving := []
  held := []
  readyWaits := []
  fabricOut := []
  ports := []
  portsDown := []
  records := []
  lost := []
  reclaimed := []
  attic := []
  chains := []
  buffer := []
  tagCounts := [0, 0, 0, 0]
  tagMap := []
  cohorts := []
  unplaced := []
  halts := []
  cores := []
  teams := []
  allocs := []
  shadows := []
  semaphores := []
  launches := []
  launchCount := 0
  queueViews := []
  slotsHeld := []
  slotsFreed := []
  teamTurns := []
  engines := []
  collCounts := []
  collAborts := []
  table := none
  pendingTable := none
  disabling := false
  t0 := 0
  drain := none
  lateQuads := []
  saves := []
  budgets := []
  wheelTurns := 0
  retiredQuads := []
  retiredWays := []
  retiredLanes := []
  tests := []
  retries := []
  outboxes := []
  resets := []
  arbiter := []
  irqs := []
  fatalPending := []
  hostReads := []
  debugTrace := []
  atomicsOn := []
  numVfs := 0
  firmware := ⟨0, 0, 0, [], none, 0, 0, [], false⟩
  matrixDuty := 16
  powered := true
  gatedDies := []
  agenda := []
  freeCtr := 0
  cur := none
  nextUid := 0
  turn := 0

end Sys2Proof.Machine
end

