-- ==== Sys2Proof/Machine/Flags.lean ====
section
/-! DEFINITION. The predicates of a fibre, the guards over them and the conditions that write them:
spec/08 R246, R256, R268 and spec/10 R309, R313, R325. -/

namespace Sys2Proof.Machine

open Sys2Proof

/-- `p n` of a fibre; `p0` reads 1 (R186). -/
def Fibre.pred (f : Fibre) (n : Nat) : Bool := n == 0 || f.preds.getLsbD n

/-- `pwrite` of R268: a write to `p0` is discarded. -/
def Fibre.setPred (f : Fibre) (n : Nat) (b : Bool) : Fibre :=
  if n == 0 then f
  else { f with preds := if b then f.preds ||| (1#8 <<< n) else f.preds &&& ~~~(1#8 <<< n) }

/-- The guard of a fibre's lane (R246). -/
def Fibre.guard (f : Fibre) (g : Guard) : Bool := xor (f.pred g.psel.toNat) g.neg

/-- The fibres of the lane mask whose guard holds (R246), in ascending lane order. -/
def Cohort.active (c : Cohort) (g : Guard) : List Fibre := c.fibres.filter fun f => f.guard g

/-- `vcmp` and `ucmp`: *a* CC *b* between operands read at an integer or bit type (R256, R309). -/
def cmpInt (ty : Ty) (cc a b : Nat) : Bool := ccInt cc (intOf ty a) (intOf ty b)

/-- `fcmp`: *a* CC *b* between codes of a float type (R256, R313). -/
def cmpFloat (ty : Ty) (cc a b : Nat) : Bool := ccOrder cc ((valueOf ty a).cmp (valueOf ty b))

/-- The three predicate modes of `vote` over the values of the active lanes (R325). -/
def votePred (mode : Nat) (vals : List Nat) : Bool :=
  match mode with
  | 0 => vals.all (· != 0)
  | 1 => vals.any (· != 0)
  | _ => vals.all (· == vals.headD 0)

end Sys2Proof.Machine
end

