-- ==== Sys2Proof/Machine/Operands.lean ====
section
/-! DEFINITION. Operand forms and the timing contract: the register window (spec/07 R218 to R221), source
fields (spec/08 R252, R253, R258), in-flight results (R229 to R232), bypass latches (R233 to R235) and the
landing tags' rows (R237, R238). -/

namespace Sys2Proof.Machine

open Sys2Proof

/-! ## The window -/

/-- The declared window *W*, in registers (R218). -/
def Cohort.window (c : Cohort) : Nat := 8 * c.win
/-- The rows *S* of the register stack (R218). -/
def Cohort.stackRows (c : Cohort) : Nat := 8 * (c.win + c.stack)

/-- A window register of a fibre. -/
def Fibre.reg (f : Fibre) (n : Nat) : Nat := (f.regs.getD n 0#32).toNat
/-- A register, or the pair from it (R253). -/
def Fibre.value (f : Fibre) (pair : Bool) (n : Nat) : Nat :=
  if pair then f.reg n + 2 ^ 32 * f.reg (n + 1) else f.reg n
/-- A window register written. -/
def Fibre.setReg (f : Fibre) (n : Nat) (x : Word32) : Fibre := { f with regs := f.regs.set n x }

/-- A uniform register. -/
def Cohort.sreg (c : Cohort) (n : Nat) : Nat := (c.sregs.getD n 0#64).toNat
/-- A uniform register written. -/
def Cohort.setSreg (c : Cohort) (n : Nat) (x : Word64) : Cohort :=
  { c with sregs := c.sregs.set n x, bad := c.bad.filter (· != .uni n) }

/-- The fibres with one lane's changed. -/
def Cohort.mapLane (c : Cohort) (lane : Nat) (g : Fibre → Fibre) : Cohort :=
  { c with fibres := c.fibres.map fun f => if f.lane == lane then g f else f }
/-- The fibre of a lane. -/
def Cohort.fibre? (c : Cohort) (lane : Nat) : Option Fibre := c.fibres.find? fun f => f.lane == lane

/-- The row of the register stack that holds a register of a fibre (R219). -/
def Cohort.row (c : Cohort) (f : Fibre) (n : Nat) : Nat := (f.base + n) % c.stackRows

/-! ## Sources -/

/-- An integer as a code of a float type: the exact conversion of R253. -/
def intCode (ty : Ty) (v : Int) : Nat := roundTo ty (.fin (v < 0) v.natAbs 1) 0 false 0

/-- What a small immediate supplies (R253). -/
def immValue (ty : Ty) (v : BitVec 8) : Nat :=
  if ty.intBit then lowBits ty.width v.toInt
  else if ty.packed then intCode ty v.toInt * (2 ^ 16 + 1)
  else intCode ty v.toInt

/-- What IMM supplies in a VI word (R258). -/
def wideImm (ty : Ty) (imm : BitVec 25) : Nat :=
  if ty.intBit then lowBits ty.width imm.toInt
  else if ty.packed then (imm.toNat % 2 ^ 16) * (2 ^ 16 + 1)
  else if ty == .f64 then roundTo .f64 (valueOf .f32 (imm.toNat * 2 ^ 7)) 0 false 0
  else imm.toNat * 2 ^ 7

/-- Bits of a vector operand of a type (R253). -/
def tyRegBits (t : Ty) : Nat := if t.pair then 64 else 32

/-- `vsrc` of R268: what a source field supplies to one lane, read at a type. -/
def Cohort.vsrc (c : Cohort) (f : Fibre) (ty : Ty) : Src → Nat
  | .vreg n => f.value ty.pair n.toNat
  | .latch b =>
    (((c.latches.getD (b.toNat % 4) ⟨false, []⟩).cols.getD f.lane 0#64).toNat) % 2 ^ tyRegBits ty
  | .ureg n => c.sreg n.toNat % 2 ^ tyRegBits ty
  | .imm v => immValue ty v

/-- `usrc` of R268: the uniform value of a source field, as 64 bits of the register or the sign-extended
immediate. -/
def Cohort.usrc (c : Cohort) : Src → Nat
  | .ureg n => c.sreg n.toNat
  | .imm v => lowBits 64 v.toInt
  | _ => 0

/-! ## In-flight results (R229, R230) -/

/-- One write lands in its register or predicate. -/
def Cohort.write (c : Cohort) : RegWrite → Cohort
  | .vec lane reg val =>
    { c.mapLane lane fun f => f.setReg reg val with
      bad := c.bad.filter fun b => !(c.fibre? lane).any fun f => b == .vec lane (c.row f reg) }
  | .pred lane reg val => c.mapLane lane fun f => f.setPred reg val

/-- A result enters `L0` (R233). -/
def Cohort.shiftLatch (c : Cohort) (l : Latch) : Cohort := { c with latches := l :: c.latches.take 3 }

/-- The write-back of one vector-side result (R230, R233). -/
def Cohort.writeBack (c : Cohort) (r : InFlightV) : Cohort :=
  let c1 := r.writes.foldl Cohort.write c
  match r.latch with
  | some l => c1.shiftLatch l
  | none => c1

/-- The end of one issue cycle, or drain cycle, of the vector side. -/
def Cohort.tickV (c : Cohort) : Cohort :=
  let fl := c.flightV.map fun r => { r with left := r.left - 1 }
  (fl.filter fun r => r.left == 0).foldl Cohort.writeBack
    { c with flightV := fl.filter fun r => r.left != 0 }

/-- The end of one issue cycle, or drain cycle, of the uniform side. -/
def Cohort.tickU (c : Cohort) : Cohort :=
  let fl := c.flightU.map fun r => { r with left := r.left - 1 }
  (fl.filter fun r => r.left == 0).foldl (fun d r => d.setSreg r.reg r.val)
    { c with flightU := fl.filter fun r => r.left != 0 }

/-- `n` cycles of a function on cohorts. -/
def cycles (g : Cohort → Cohort) : Nat → Cohort → Cohort
  | 0, c => c
  | n + 1, c => cycles g n (g c)

/-- The drain of each side (R232): cycles until every result in flight has been written, from the longest latency of R231 up. -/
def Cohort.drainU (c : Cohort) : Cohort := cycles Cohort.tickU (c.flightU.foldl (fun m r => max m r.left) 2) c
def Cohort.drainV (c : Cohort) : Cohort := cycles Cohort.tickV (c.flightV.foldl (fun m r => max m r.left) 12) c

/-- The drain of both sides. -/
def Cohort.drain (c : Cohort) : Cohort := c.drainV.drainU

/-! ## Latches -/

/-- Every latch dead and holding nothing (R191, R232). -/
def deadLatches : List Latch := List.replicate 4 ⟨false, []⟩

/-- Whether some latch value is live (R234). -/
def Cohort.latchLive (c : Cohort) : Bool := c.latches.any Latch.live

/-- The latch that a source names. -/
def latchOf : Src → Option Nat
  | .latch b => some (b.toNat % 4)
  | _ => none

/-- Whether a source names a latch whose value is dead (R235). -/
def Cohort.readsDead (c : Cohort) (srcs : List Src) : Bool :=
  srcs.any fun x => match latchOf x with
    | some i => !(c.latches.getD i ⟨false, []⟩).live
    | none => false

/-- Whether a source kills a latch: bit 2 of its field (R234). -/
def kills : Src → Bool
  | .latch b => b.getLsbD 2
  | _ => false

/-- The latches once the sources of a word have been read (R234). -/
def Cohort.killed (c : Cohort) (srcs : List Src) : Cohort :=
  { c with latches := c.latches.zipIdx.map fun (l, i) =>
      if srcs.any fun x => kills x && latchOf x == some i then { l with live := false } else l }

/-! ## Register indices and hazards (R220, R238) -/

/-- A run of vector registers that a word names: its first and its count. -/
abbrev RegRun := Nat × Nat

/-- The registers that a source field names when it is read at a type. -/
def srcRun (ty : Ty) : Src → List RegRun
  | .vreg n => [(n.toNat, if ty.pair then 2 else 1)]
  | _ => []

/-- Whether a run reaches `v W` or beyond (R220, R302). -/
def Cohort.outside (c : Cohort) (runs : List RegRun) : Bool :=
  runs.any fun r => c.window < r.1 + r.2

/-- The rows that runs of registers stand for, over the lanes given. -/
def Cohort.rowsOf (c : Cohort) (fs : List Fibre) (runs : List RegRun) : List Nat :=
  runs.flatMap fun r => (List.range r.2).flatMap fun j => fs.map fun f => c.row f (r.1 + j)

/-- Whether some outstanding tag targets a row of these registers (R238): the word names those of every fibre, the tag's are its active
lanes' (DESIGN CHOICE, log 54). -/
def Cohort.hazard (c : Cohort) (runs : List RegRun) : Bool :=
  c.landings.any fun l => (c.rowsOf c.fibres runs).any fun r => l.rows.contains r

/-- Whether some outstanding tag targets one of these predicates (R341). -/
def Cohort.predHazard (c : Cohort) (preds : List Nat) : Bool :=
  c.landings.any fun l => l.pred.elim false preds.contains

/-- Whether a landing tag is outstanding (R237). -/
def Cohort.tagBusy (c : Cohort) (tag : Nat) : Bool := c.landings.any fun l => l.tag == tag

/-! ## The next word -/

/-- The pc past a word: the next word of the block, or the next header (R249). -/
def Cohort.advance (c : Cohort) : Cohort :=
  let next := c.pc + 8
  if next == c.block + 8 * c.len + 8 then { c with pc := next, block := next, atHeader := true }
  else { c with pc := next }

/-- Whether a word is the last of its block (R250). -/
def Cohort.lastWord (c : Cohort) : Bool := c.pc == c.block + 8 * c.len

/-! ## The data of memory words (R259, R358) -/

/-- Bytes that a SZ code accesses (R259). -/
def szBytes (sz : BitVec 3) : Nat :=
  match sz.toNat with
  | 0 | 1 => 1
  | 2 | 3 => 2
  | 4 => 4
  | 5 => 8
  | _ => 16

/-- Registers of a vector DATA of a SZ code. -/
def szRegs (sz : BitVec 3) : Nat :=
  match sz.toNat with
  | 5 => 2
  | 6 => 4
  | _ => 1

/-- Bytes in the registers of a SZ code (R358, R360): 32 bits each, narrow ones extended. -/
def loadWords (sz : BitVec 3) (bs : List Byte) : List Word32 :=
  let x := ofBytes bs
  match sz.toNat with
  | 1 => [BitVec.ofInt 32 (signedOf 8 x)]
  | 3 => [BitVec.ofInt 32 (signedOf 16 x)]
  | _ => (List.range (szRegs sz)).map fun j => BitVec.ofNat 32 (x / 2 ^ (32 * j))

/-- The writes of a lane's result to consecutive registers. -/
def laneWrites (lane dst : Nat) (ws : List Word32) : List RegWrite :=
  ws.zipIdx.map fun (x, j) => .vec lane (dst + j) x

end Sys2Proof.Machine
end

