-- ==== Sys2Proof/Machine/Consumers.lean ====
section
/-! DEFINITION. What a word uses of its cohort's state, for uncorrectable errors there (spec/15 R462, R463): the vector registers of its
active lanes, the uniform registers, the queues, the landings and the tiles that it reads. -/

namespace Sys2Proof.Machine

open Sys2Proof

/-- What a word uses. -/
structure Uses where
  guard : Guard := Guard.always
  vecs : List RegRun := []
  unis : List Nat := []
  /-- Tags, by bit. -/
  tags : Nat := 0
  /-- A queue's entry: of the one to the vector side, or of the other. -/
  queue : Option Bool := none
  tiles : List Nat := []

/-- Uniform registers used, from one on. -/
def Uses.uni (u : Uses) (r : BitVec 8) (n : Nat := 1) : Uses := { u with unis := u.unis ++ (List.range n).map fun i => r.toNat + i }
/-- Vector registers used, from one on. -/
def Uses.vec (u : Uses) (r : BitVec 8) (n : Nat := 1) : Uses := { u with vecs := u.vecs ++ [(r.toNat, n)] }
/-- A source field used, of `n` vector registers. -/
def Uses.src (u : Uses) (x : Src) (n : Nat := 1) : Uses :=
  match x with
  | .vreg r => u.vec r n
  | .ureg r => u.uni r
  | _ => u
/-- A tile used. -/
def Uses.tile (u : Uses) (th : BitVec 3) : Uses := { u with tiles := u.tiles ++ [th.toNat] }

/-- A UR word's: its uniform sources, since an unused field names none. -/
def urUses (w : UrWord) : Uses :=
  { unis := [w.a, w.b, w.c].filterMap fun x => match x with | .ureg r => some r.toNat | _ => none }
/-- The registers of a value of a type. -/
def regsOf (t : Ty) : Nat := if t.pair then 2 else 1
/-- A VR word's first `k` sources. -/
def vrUses (k : Nat) (w : VrWord) : Uses :=
  ([w.a, w.b, w.c].take k).foldl (fun u x => u.src x (regsOf w.ty)) { guard := w.guard }
/-- A VI word's source. -/
def viUses (w : ViWord) : Uses := ({ guard := w.guard } : Uses).src w.a (regsOf w.ty)
/-- A conversion's sources: of the type in MOD, and a second one where the word has it. -/
def cvtUses (w : VrWord) (second : Bool) : Uses :=
  let n := (Ty.ofCode w.mod).elim 1 regsOf
  let u := ({ guard := w.guard } : Uses).src w.a n
  if second then u.src w.b n else u
/-- A MEM word's address fields. -/
def addrUses (w : MemWord) : Uses := (({ guard := w.guard } : Uses).uni w.base).src w.off
/-- A MEM word's address and `n` registers of DATA. -/
def dataUses (w : MemWord) (n m : Nat) : Uses := if w.ua then (addrUses w).uni w.data m else (addrUses w).vec w.data n
/-- A CTL word's uniform register and source. -/
def ctlUses (w : CtlWord) : Uses := (({} : Uses).uni w.ua).src w.sb

/-- What a word uses (R254, R281, R358 to R382). An event uses nothing of a cohort. -/
def usesOf : Instr → Uses
  | .uadd w | .usub w | .umul w | .umulh w | .umad w | .udiv w | .urem w | .umin w | .umax w | .uand w | .uor w | .uxor w | .uandn w
  | .ushl w | .ushr w | .urot w | .ucmp w | .usel w | .umov w | .uext w | .upop w | .uclz w | .ubfx w | .ulea w | .qput w | .swr w
  | .tlbinv w | .icinv w => urUses w
  | .uaddImm w | .umulImm w | .uandImm w | .uorImm w | .uxorImm w | .ucmpImm w | .umovImm w | .ucat w =>
    match w.a with
    | .ureg r => ({} : Uses).uni r
    | _ => {}
  | .brc w | .callr w | .jtab w => ctlUses w
  | .ret _ => ({} : Uses).uni 0#8
  | .qget w => { guard := w.guard, queue := some true }
  | .qrcvB64 w | .qrcvB32 w => { urUses w with queue := some false }
  | .vmov w | .vabs w | .vpop w | .vclz w | .fabs w | .fneg w | .fclass w | .frcp w | .frsq w | .fsqrt w | .fexp2 w | .flog2 w
  | .fsin w | .fcos w | .ftanh w | .fexp w | .vote w | .vred w | .vredQ w | .vscan w | .vbcast w | .qret w => vrUses 1 w
  | .vadd w | .vsub w | .vmul w | .vmulh w | .vmin w | .vmax w | .vand w | .vor w | .vxor w | .vandn w | .vshl w | .vshr w | .vrot w
  | .vcmp w | .vext w | .fadd w | .fsub w | .fmul w | .fmin w | .fmax w | .fcsgn w | .fcmp w | .bscl w | .shfl w => vrUses 2 w
  | .vmad w | .vsel w | .vbfx w | .vbfi w | .vdot4 w | .ffma w => vrUses 3 w
  | .vaddImm w | .vmulImm w | .vandImm w | .vorImm w | .vxorImm w | .vcmpImm w | .vselImm w | .faddImm w | .fmulImm w | .fminImm w
  | .fmaxImm w => viUses w
  | .cvt w => cvtUses w false
  | .cvtp w => cvtUses w (w.mod == Ty.f32.code)
  | .bpack w => match w.a, Ty.ofCode w.mod with
    | .vreg r, some t => ({ guard := w.guard } : Uses).vec r (bpackGroup w.ty t)
    | _, _ => { guard := w.guard }
  | .bunpk w => ((cvtUses w false).src w.b).src (if w.mod == Ty.bs4.code then w.c else .imm 0#8)
  | .cvtx w => (cvtUses w false).src w.b
  | .ld w | .pref w | .xrd w => addrUses w
  | .st w | .xst w | .xadd w => dataUses w (szRegs w.sz) 1
  | .aadd w | .amin w | .amax w | .aand w | .aor w | .axor w | .axch w => dataUses w (szRegs w.sz) 1
  | .acas w => dataUses w (2 * szRegs w.sz) 2
  | .mma w =>
    let u := ((({ guard := w.guard } : Uses).vec w.vx (if w.ta == Ty.bs4.code then 2 else 1)).uni w.ub).tile w.th
    if w.tb == Ty.bs4.code then u.uni w.uc else u
  | .tileLd w => ({} : Uses).uni w.ub 2
  | .tileSt w => (({} : Uses).uni w.ub 2).tile w.th
  | .tileDrain w =>
    let u := (({} : Uses).uni w.ub 2).tile w.th
    if w.mod.toNat % 2 == 1 then u.uni w.uc 2 else u
  | .tileRd w => (({ guard := w.guard } : Uses).uni w.ub).tile w.th
  | .tileWr w => (({ guard := w.guard } : Uses).uni w.ub).vec w.vx 8
  | .tileMov w => { tiles := [w.mod.toNat % 8] }
  | .barInit w => (({ guard := w.guard } : Uses).uni w.ua).uni w.ub
  | .semInc w | .semWait w | .joinW w | .engQ w => ({ guard := w.guard } : Uses).uni w.ua
  | .waitv w => ((({ guard := w.guard } : Uses).uni w.ua).uni w.ub).vec w.vx
  | .spawn w => ((({ guard := w.guard } : Uses).uni w.ua).uni w.ub).vec w.vx w.cnt.toNat
  | .copy w | .copy2d w | .gath w | .scat w | .coll w => ({ guard := w.guard } : Uses).uni w.ua w.cnt.toNat
  | .lwait w => { tags := w.ua.toNat * 2 ^ 8 + w.ub.toNat }
  | _ => {}

/-- Whether a word uses a protected word of a cohort's state. -/
def Cohort.usesCell (c : Cohort) (u : Uses) : StateCell → Bool
  | .vec lane row => (c.active u.guard).any fun f => f.lane == lane && (c.rowsOf [f] u.vecs).contains row
  | .uni n => u.unis.contains n
  | .queue v => u.queue == some v
  | .landing tag => u.tags.testBit tag
  | .tile h => u.tiles.contains h

/-- Whether a word uses state with an uncorrectable error (R462). -/
def Cohort.badFor (c : Cohort) (i : Instr) : Bool := c.bad.any (c.usesCell (usesOf i))

end Sys2Proof.Machine
end

