-- ==== Sys2Proof/Machine/Memory.lean ====
section
/-! DEFINITION. The bytes of memory and who sees them when: the canonical list of cells, the coherence lists with
pending writes and views (spec/04 R121 to R127), the L1s (spec/02 R59 to R61), format views (spec/03 R103 to R112) and
the mapping to slices and DRAM (spec/02 R67, R68, R75, R76). -/

namespace Sys2Proof.Machine

open Sys2Proof

/-! ## Lists of cells -/

/-- What an unlisted address reads as (log 3): zero. -/
def cellDefault : Byte := 0#8

/-- The canonical form: addresses strictly rising, and no cell that holds the default. -/
def cellsWf : List Host.Cell → Bool
  | [] => true
  | [c] => c.2 != cellDefault
  | c :: d :: rest => c.2 != cellDefault && c.1 < d.1 && cellsWf (d :: rest)

/-- The byte at an address. -/
def cellsGet : List Host.Cell → Nat → Byte
  | [], _ => cellDefault
  | c :: rest, a => if c.1 == a then c.2 else if a < c.1 then cellDefault else cellsGet rest a

/-- The cells with one byte written. -/
def cellsSet : List Host.Cell → Nat → Byte → List Host.Cell
  | [], a, b => if b == cellDefault then [] else [(a, b)]
  | c :: rest, a, b =>
    if c.1 == a then (if b == cellDefault then rest else (a, b) :: rest)
    else if a < c.1 then (if b == cellDefault then c :: rest else (a, b) :: c :: rest)
    else c :: cellsSet rest a b

/-- Consecutive bytes. -/
def cellsRead (m : List Host.Cell) (a : Nat) : Nat → List Byte
  | 0 => []
  | n + 1 => cellsGet m a :: cellsRead m (a + 1) n

/-- Consecutive bytes written. -/
def cellsWrite (m : List Host.Cell) (a : Nat) : List Byte → List Host.Cell
  | [] => m
  | b :: bs => cellsWrite (cellsSet m a b) (a + 1) bs

/-- The memory of a state is in its canonical form. -/
def Memory.wf (s : State) : Bool := cellsWf s.mem && cellsWf s.hostMem

/-! ## Device and host memory, performed -/

/-- Whether an address lies in HBM (R12). -/
def inHbm (pa : Nat) : Bool := pa < Config.hbmBytes

/-- Whether the contents of an HBM byte are undefined (R78, R106, R385). -/
def State.isUndef (s : State) (pa : Nat) : Bool := s.undef.any fun r => r.1 ≤ pa && pa ≤ r.2

/-- The ranges with one byte taken out, since it has been written. -/
def undefDrop (a : Nat) : List (Nat × Nat) → List (Nat × Nat)
  | [] => []
  | r :: rest =>
    if r.1 ≤ a && a ≤ r.2 then
      (if r.1 < a then [(r.1, a - 1)] else []) ++ (if a < r.2 then [(a + 1, r.2)] else []) ++
        undefDrop a rest
    else r :: undefDrop a rest

/-- The DRAM or host byte, as performed. -/
def State.dramByte (s : State) (pa : Nat) : Byte :=
  if s.isUndef pa then Config.undefinedByte s.freeCtr pa else cellsGet s.mem pa

/-- One DRAM byte performed. -/
def State.dramSet (s : State) (pa : Nat) (b : Byte) : State :=
  { s with mem := cellsSet s.mem pa b, undef := undefDrop pa s.undef }

/-- DRAM bytes performed in ascending order. -/
def State.dramWrite (s : State) (pa : Nat) : List Byte → State
  | [] => s
  | b :: bs => (s.dramSet pa b).dramWrite (pa + 1) bs

/-- A raw register value: what the aperture holds, or its reset (given). -/
def State.regRaw (s : State) (fn off : Nat) (reset : Word64) : Word64 :=
  match s.regs.find? fun r => r.fn == fn && r.off == off with
  | some r => r.val
  | none => reset

/-! ## The mapping to slices and DRAM (R67, R68, R75, R76) -/

/-- The home die of an HBM address (R67). -/
def homeDie (pa : Nat) : Nat := slice pa 39 36 / 3

/-- The home slice of a line on its home die (R68). -/
def homeSlice (pa : Nat) : Nat :=
  slice pa 12 8 ^^^ slice pa 17 13 ^^^ slice pa 22 18 ^^^ slice pa 27 23 ^^^ slice pa 32 28

/-- The global stack and the stack address of an HBM address (R67). -/
def stackOf (pa : Nat) : Nat × Nat :=
  let d := homeDie pa
  let o := pa - d * 0x3000000000
  (4 * d + (slice o 31 30 ^^^ slice o 21 20), slice o 37 32 * 2 ^ 30 + slice o 29 0)

/-- The hash masks of a die: HASHCH0 to HASHCH4, HASHPC (R77), with their reset values. -/
def State.hashMask (s : State) (die i : Nat) : Nat :=
  (s.regRaw 0 (0x2000 + die * 0x40 + 8 * i) (BitVec.ofNat 64 (if i == 5 then 0x80000 else 0x100 <<< i))).toNat

/-- The DRAM bank of an HBM address (R75, R76). -/
def State.bankOf (s : State) (pa : Nat) : BankId :=
  let (stack, a) := stackOf pa
  let die := stack / 4
  let bit (i : Nat) : Nat := if parity 36 (a &&& s.hashMask die i) then 1 else 0
  { stack, channel := (List.range 5).foldl (fun acc i => acc + bit i * 2 ^ i) 0, pc := bit 5
    group := slice a 16 15, bank := slice a 18 17 }

/-- The row of an HBM address within its bank (R75). -/
def rowOf (pa : Nat) : Nat := slice (stackOf pa).2 35 20

/-! ## The order of performed writes (R121) -/

/-- The next byte's location. -/
def locPlus : Loc → Nat → Loc
  | .hbm pa, n => .hbm (pa + n)
  | .host b, n => .host (b + n)
  | .peer p f, n => .peer p (f + n)

/-- A write takes its place in the order of performed writes, with the bytes that it replaces. -/
def State.logged (s : State) (core : Option Nat) (loc : Loc) (old : List Byte) (grain : Option Nat) : State :=
  { s with performSeq := s.performSeq + 1
           performs := { seq := s.performSeq + 1, core, loc, old, grain } :: s.performs }

/-- DRAM bytes performed by no core. -/
def State.packWrite (s : State) (pa : Nat) (bs : List Byte) : State :=
  (s.logged none (.hbm pa) ((List.range bs.length).map fun i => s.dramByte (pa + i)) (some 1)).dramWrite pa bs

/-! ## Format windows (R103 to R112) -/

/-- The registers of one format window, as its controllers hold them. -/
structure Window where
  num : Nat
  view : Nat
  size : Nat
  pack : Nat
  scale : Nat
  fmt : Nat
  rm : Nat
  sat : Bool
  epoch : BitVec 16
  seed : BitVec 64
  deriving DecidableEq, Repr

/-- Window `w` from its registers at `0x2200 + w × 0x40` of the physical function. -/
def State.window (s : State) (w : Nat) : Window :=
  let r (o : Nat) := (s.regRaw 0 (0x2200 + w * 0x40 + o) 0#64).toNat
  { num := w, view := r 0, size := r 8, pack := r 0x10, scale := r 0x18, fmt := slice (r 0x20) 3 1
    rm := slice (r 0x20) 6 4, sat := bitOf (r 0x20) 7, epoch := BitVec.ofNat 16 (slice (r 0x20) 31 16)
    seed := BitVec.ofNat 64 (r 0x28) }

/-- Whether a window is in force: FWSTAT.ACTIVE. -/
def State.windowActive (s : State) (w : Nat) : Bool :=
  bitOf (s.regRaw 0 (0x2200 + w * 0x40 + 0x30) 0#64).toNat 0

/-- Whether an access to a window's view range is one to the view (R106): while it is enabled, the DRAM behind it is never
accessed. -/
def State.windowInForce (s : State) (w : Nat) : Bool :=
  s.windowActive w || bitOf (s.regRaw 0 (0x2200 + w * 0x40 + 0x20) 0#64).toNat 0

/-- The window in force whose view range holds an address. -/
def State.viewOf (s : State) (pa : Nat) : Option Window :=
  ((List.range 8).map s.window).find? fun w =>
    s.windowInForce w.num && w.view ≤ pa && pa < w.view + w.size

/-- The type a window's format names (R103). -/
def Window.ty (w : Window) : Ty :=
  match w.fmt with | 0 => .e4m3 | 1 => .e5m2 | 2 => .e2m1 | _ => .bs4

/-- The packed byte and the bit within it of view element `e` (R104). -/
def Window.packAt (w : Window) (e : Nat) : Nat × Nat :=
  if w.fmt < 2 then (w.pack + e, 0) else (w.pack + e / 2, 4 * (e % 2))

/-- The BF16 code that a view element decodes to (R107). -/
def State.decodeElement (s : State) (w : Window) (e : Nat) : Nat :=
  let (pa, sh) := w.packAt e
  let code := ((s.dramByte pa).toNat >>> sh) % 2 ^ w.ty.width
  let v := if w.fmt == 3 then bs4Value code (s.dramByte (w.scale + e / 8)).toNat
    else (Fmt.of w.ty).value code
  roundTo .bf16 v 0 false 0

/-- The 64 bytes of the view sector at an address, decoded from the packed bytes (R107). -/
def State.decodeSector (s : State) (w : Window) (sector : Nat) : List Byte :=
  (List.range 32).flatMap fun i => toBytes 2 (s.decodeElement w ((sector - w.view) / 2 + i))

/-- The bytes of a view sector: resident, or decoded. -/
def State.viewBytes (s : State) (w : Window) (sector : Nat) : List Byte :=
  match s.views.find? fun v => v.win == w.num && v.sector == sector with
  | some v => v.bytes
  | none => s.decodeSector w sector

/-- The BF16 codes of a sector's bytes. -/
def sectorCodes (bs : List Byte) : List Nat := (List.range 32).map fun i => ofBytes ((bs.drop (2 * i)).take 2)

/-- The variate of element `i` of a sector in a window's stochastic mode (R94, R112). -/
def Window.variate (w : Window) (sector i : Nat) : Nat :=
  if w.rm == 4 then Machine.variate (windowWord w.num w.epoch w.seed sector) i else 0

/-- The element codes of a sector under a plain format (R108). -/
def Window.plainCodes (w : Window) (sector : Nat) (bs : List Byte) : List Nat :=
  (sectorCodes bs).zipIdx.map fun (c, i) =>
    roundTo w.ty (valueOf .bf16 c) w.rm (w.sat && w.fmt == 1) (w.variate sector i)

/-- The blocks of a sector under `.bs4`: scale and element codes (R109). -/
def Window.blocks (w : Window) (sector : Nat) (bs : List Byte) : List (Nat × List Nat) :=
  (List.range 4).map fun q =>
    encodeBlock (((sectorCodes bs).drop (8 * q)).take 8 |>.map (valueOf .bf16)) w.rm
      ((List.range 8).map fun i => w.variate sector (8 * q + i))

/-- A sector's encoding written to the packed and scale ranges (R108). -/
def State.encodeSector (s : State) (w : Window) (sector : Nat) (bs : List Byte) : State :=
  let e := (sector - w.view) / 2
  if w.fmt == 3 then
    let bl := w.blocks sector bs
    let s1 := s.packWrite (w.pack + e / 2) (bl.flatMap fun b => toBytes 4 (packCodes 4 b.2))
    s1.packWrite (w.scale + e / 8) (bl.map fun b => BitVec.ofNat 8 b.1)
  else
    let codes := w.plainCodes sector bs
    if w.fmt < 2 then s.packWrite (w.pack + e) (codes.map (BitVec.ofNat 8))
    else s.packWrite (w.pack + e / 2) (toBytes 16 (packCodes 4 codes))

/-- The list with the bytes from position `i` replaced. -/
def splice {α : Type} (bs : List α) (i : Nat) (new : List α) : List α :=
  bs.take i ++ new ++ bs.drop (i + new.length)

/-- Bytes of one sector written to a view: the sector becomes resident and dirty (R107, R108). -/
def State.viewWrite (s : State) (w : Window) (pa : Nat) (new : List Byte) : State :=
  let sector := pa / 64 * 64
  let bytes := splice (s.viewBytes w sector) (pa - sector) new
  { s with views := { win := w.num, sector, bytes, dirty := true } ::
      s.views.filter fun v => !(v.win == w.num && v.sector == sector) }

/-! ## Performed reads and writes of a location (R125) -/

/-- The last entry of CL of a byte: its performed value. A peer's byte is not in this package. -/
def State.performedByte (s : State) : Loc → Byte
  | .hbm pa =>
    match s.viewOf pa with
    | some w => (s.viewBytes w (pa / 64 * 64)).getD (pa % 64) 0#8
    | none => s.dramByte pa
  | .host b => cellsGet s.hostMem b
  | .peer _ _ => Config.undefinedByte s.freeCtr 0

/-- Performed bytes of an access. -/
def State.performedRead (s : State) (l : Loc) (n : Nat) : List Byte :=
  (List.range n).map fun i => s.performedByte (locPlus l i)

/-- Host memory written. -/
def State.hostWriteBytes (s : State) (b : Nat) (bs : List Byte) : State :=
  { s with hostMem := cellsWrite s.hostMem b bs }

/-- An uncached write of a view: a resident sector is updated, any other encoded at the controller (R110). -/
def State.viewWriteUncached (s : State) (w : Window) (pa : Nat) (new : List Byte) : State :=
  let sector := pa / 64 * 64
  if s.views.any fun v => v.win == w.num && v.sector == sector then s.viewWrite w pa new
  else s.encodeSector w sector (splice (s.decodeSector w sector) (pa - sector) new)

/-- Whether a sector is dirty in the L2 and cannot be read there (R462). -/
def State.l2Lost (s : State) (pa : Nat) : Bool :=
  s.l2.any fun l => l.line == pa / 256 && (l.bad &&& l.dirty).getLsbD (pa % 256 / 64)

/-- Whether a sector holds an uncorrectable error (R462, R464). -/
def State.sectorBad (s : State) (pa : Nat) : Bool :=
  s.badSectors.contains (pa / 64 * 64) || (s.errorTable.any fun e => e.2 == pa / 64 * 64) || s.l2Lost pa

/-- The sectors of a line that a test keeps bad. -/
def L2Line.keepBad (l : L2Line) (keep : Nat → Bool) : L2Line :=
  { l with bad := (List.range 4).foldl (fun m i => if keep (l.line * 256 + 64 * i) then m else m &&& ~~~(1#4 <<< i)) l.bad }
/-- The errors of sectors outside a test stand; the others are over. -/
def State.keepBad (s : State) (keep : Nat → Bool) : State :=
  { s with badSectors := s.badSectors.filter keep, errorTable := s.errorTable.filter fun e => keep e.2
           l2 := if s.l2.any fun l => l.bad != 0#4 then s.l2.map fun l => l.keepBad keep else s.l2 }

/-- A write of the whole of a sector removes its error (R464). -/
def State.healSector (s : State) (sector : Nat) : State := s.keepBad (· != sector)

/-- Every sector of a range written whole (R464). -/
def State.healRange (s : State) (r : Nat × Nat) : State :=
  s.keepBad fun x => x < r.1 || r.1 + r.2 < x + 64

/-- The write of an access performs: appended to CL (R122). A partial write of a sector with an
uncorrectable error is dropped (R463). -/
def State.perform (s : State) (l : Loc) (bs : List Byte) (uncached : Bool := false) (core : Option Nat := none)
    (grain : Option Nat := none) : State :=
  match l with
  | .hbm pa =>
    if s.sectorBad pa && bs.length < 64 then s
    else
      let t := s.logged core l (s.performedRead l bs.length) grain
      match s.viewOf pa with
      | some w => if uncached then t.viewWriteUncached w pa bs else t.viewWrite w pa bs
      | none => t.dramWrite pa bs
  | .host b => (s.logged core l (s.performedRead l bs.length) grain).hostWriteBytes b bs
  | .peer _ _ => s

/-! ## What a core may read (R123) -/

/-- The offset of a location within an access, when it lies in it. -/
def locWithin (l base : Loc) (n : Nat) : Option Nat :=
  match l, base with
  | .hbm a, .hbm b => if b ≤ a && a < b + n then some (a - b) else none
  | .host a, .host b => if b ≤ a && a < b + n then some (a - b) else none
  | .peer p a, .peer q b => if p == q && b ≤ a && a < b + n then some (a - b) else none
  | _, _ => none

/-- Whether two accesses share a byte. -/
def overlap (l : Loc) (n : Nat) (k : Loc) (m : Nat) : Bool :=
  (locWithin l k m).isSome || (locWithin k l n).isSome

/-- The byte that a performed write replaced at a location, if it covers it. -/
def Performed.at (p : Performed) (l : Loc) : Option Byte := (locWithin l p.loc p.old.length).bind fun i => p.old[i]?

/-- The value of a byte once the first `t` performed writes stand: what the oldest later one replaced, else the last
entry of CL. -/
def State.byteAt (s : State) (l : Loc) (t : Nat) : Byte :=
  s.performs.foldl (fun acc p => if t < p.seq then (p.at l).getD acc else acc) (s.performedByte l)

/-- view(c, x) (R121): no entry of CL before it may be read. -/
def State.viewSeq (s : State) (core : Nat) (l : Loc) : Nat :=
  let own := s.performs.foldl (fun m p => if p.core == some core && (p.at l).isSome then max m p.seq else m)
    (((s.viewFloors.find? fun f => f.1 == core).map Prod.snd).getD 0)
  s.seen.foldl (fun m x => if x.core == core && x.loc == l then max m x.seq else m) own

/-- Whether two neighbouring bytes lie in one piece of a write: a read takes both from it, or neither (R115). -/
def Performed.joins (p : Performed) (l : Loc) : Bool :=
  match locWithin l p.loc (p.old.length - 1) with
  | some i => p.grain.elim true fun g => i / g == (i + 1) / g
  | none => false

/-- Whether some performed write joins two neighbouring bytes. -/
def State.joined (s : State) (l : Loc) (i : Nat) : Bool := s.performs.any fun p => p.joins (locPlus l i)

/-- The lengths of the runs of an access that no performed write joins, from byte `i`, which ends a run of `len` bytes so
far, with `n` bytes behind it. -/
def State.runLengths (s : State) (l : Loc) : Nat → Nat → Nat → List Nat
  | _, len, 0 => [len]
  | i, len, n + 1 => if s.joined l i then s.runLengths l (i + 1) (len + 1) n else len :: s.runLengths l (i + 1) 1 n

/-- The next free value, for reading: the count advances with the step's other effects (log 1). -/
def State.free (s : State) : Nat := Config.freeValue s.freeCtr

/-- One of the values that a step leaves open (log 1). -/
def State.choice (s : State) (k : Nat) : Nat := Config.freeChoice s.freeCtr k

/-- The key of a byte among the values that a step leaves open. -/
def locKey : Loc → Nat
  | .hbm a => 4 * a
  | .host a => 4 * a + 1
  | .peer p a => 4 * (a * 1024 + p) + 2

/-- The entry of CL that a read by a core takes for a run of bytes: a free one not earlier than its views (R123). -/
def State.runTime (s : State) (core : Nat) (l : Loc) (len : Nat) : Nat :=
  let floor := (List.range len).foldl (fun m i => max m (s.viewSeq core (locPlus l i))) 0
  let later := s.performs.any fun p => floor < p.seq && (List.range len).any fun i => (p.at (locPlus l i)).isSome
  if later then floor + s.choice (4 * (locKey l * 512 + core)) % (s.performSeq + 1 - floor) else s.performSeq

/-- The times of runs that follow one another from a location, byte by byte. -/
def State.runTimes (s : State) (core : Nat) (l : Loc) : Nat → List Nat → List Nat
  | _, [] => []
  | i, n :: rest => List.replicate n (s.runTime core (locPlus l i) n) ++ s.runTimes core l (i + n) rest

/-- For each byte of an access of a core, the place in the order of performed writes from which it is read: the last one
where no core can read behind any. -/
def State.readTimes (s : State) (core : Nat) (l : Loc) (n : Nat) : List Nat :=
  match s.performs, n with
  | [], _ | _, 0 => List.replicate n s.performSeq
  | _, m + 1 => s.runTimes core l 0 (s.runLengths l 0 1 m)

/-- A core's views advance to what it has read (R123). -/
def State.viewed (s : State) (core : Nat) (l : Loc) (ts : List Nat) : State :=
  if s.performs.isEmpty then s
  else
    let moved (x : Nat × Nat) : Bool := s.performs.any fun p =>
      s.viewSeq core (locPlus l x.2) < p.seq && p.seq ≤ x.1 && (p.at (locPlus l x.2)).isSome
    { s with seen := ((ts.zipIdx.filter moved).map fun x => { core, loc := locPlus l x.2, seq := x.1 }) ++ s.seen }

/-! ## Pending writes (R122, R124) -/

/-- How many bytes a write reaches over. -/
def WriteOp.len : WriteOp → Nat
  | .store bs => bs.length
  | .atomic _ wide _ _ => if wide then 8 else 4
  | .cell _ _ => 64

/-- The addend that an `xadd` takes from a register (R364). -/
def addendOf (sz : BitVec 3) (x : Nat) : RealVal :=
  match sz.toNat with
  | 2 => valueOf .bf16 x
  | 3 => valueOf .f16 x
  | _ => valueOf .f32 x

/-- The bytes that a write leaves, from those it meets (R63, R362, R101). -/
def WriteOp.apply (op : WriteOp) (old : List Byte) : List Byte :=
  match op with
  | .store bs => bs.zipIdx.map fun (b, i) => b.getD (old.getD i 0#8)
  | .atomic op wide x y =>
    let n := if wide then 8 else 4
    toBytes n (atomicNew op (8 * n) (ofBytes old) x.toNat y.toNat)
  | .cell sz x => cellAdd old (addendOf sz x.toNat)

/-- The byte that a pending store writes at a location. -/
def PendingStore.at (p : PendingStore) (l : Loc) : Option Byte :=
  match p.op with
  | .store bs => (locWithin l p.loc bs.length).bind fun i => (bs[i]?).join
  | _ => none

/-- The byte that the newest pending store among some writes at a location. -/
def State.newest (s : State) (p : PendingStore → Bool) (l : Loc) : Option Byte :=
  s.pendingStores.foldl (fun acc w => if p w then (w.at l).or acc else acc) none

/-- An agent of a core: the placement of its cohort, and its lane, or none for the uniform side (R114). -/
abbrev Agent := Nat × Option Nat

/-- Whether a pending store of a core stands in pending(c) for an agent of it (R123): its own does at once, another agent's once that
has issued it. -/
def PendingStore.shows (p : PendingStore) (core : Nat) (who : Agent) : Bool :=
  p.core == core && (p.issued || (p.placed == who.1 && p.lane == who.2))

/-- The newest pending store of a core to a byte, as an agent of it sees them. -/
def State.pendingByte (s : State) (core : Nat) (who : Agent) (l : Loc) : Option Byte := s.newest (fun p => p.shows core who) l

/-- Whether another agent of the core has a store to a byte that it has still to issue. -/
def State.hides (s : State) (core : Nat) (who : Agent) (l : Loc) : Bool :=
  s.pendingStores.any fun p => p.core == core && !p.shows core who && (p.at l).isSome

/-! ## The L1s (R59 to R61) -/

/-- A core's split code, and the L1 ways under a code (R54). -/
def State.splitOf (s : State) (core : Nat) : Nat := ((s.cores.find? fun k => k.id == core).map Core.splitCode).getD 0
def l1Ways (code : Nat) : Nat := match code with | 0 => 4 | 1 => 8 | 2 => 16 | _ => 24

/-- The set of an address (R59). -/
def l1Set (pa : Nat) : Nat := slice pa 13 8

/-- Whether a core's L1 holds the sector of an address, in a line without a parity error (R61). -/
def State.l1Sector? (s : State) (core pa : Nat) : Option L1Sector :=
  if s.l1Bad.contains (core, pa / 256) then none else s.l1.find? fun x => x.core == core && x.sector == pa / 64 * 64

/-- The sector of a core's L1 that serves a location (R60). -/
def State.l1Hit (s : State) (core : Nat) : Loc → Option L1Sector
  | .hbm pa => s.l1Sector? core pa
  | _ => none

/-- The way that a replacement tree names (log 6): from a node, over the ways from `lo` up. -/
def treeVictim (bits : BitVec 32) (ways : Nat) : Nat → Nat → Nat → Nat
  | 0, _, lo => lo
  | k + 1, node, lo =>
    if bits.getLsbD node && lo + 2 ^ k < ways then treeVictim bits ways k (2 * node + 1) (lo + 2 ^ k)
    else treeVictim bits ways k (2 * node) lo

/-- A replacement tree once a way has been used: every node on its path names the other side. -/
def treeUse (way : Nat) : Nat → Nat → BitVec 32 → BitVec 32
  | 0, _, bits => bits
  | k + 1, node, bits =>
    let up := way.testBit k
    treeUse way k (2 * node + (if up then 1 else 0)) (if up then bits &&& ~~~(1#32 <<< node) else bits ||| (1#32 <<< node))

/-- The replacement tree of a set. -/
def State.l1Tree (s : State) (core set : Nat) : BitVec 32 :=
  ((s.l1Trees.find? fun t => t.1 == core && t.2.1 == set).map fun t => t.2.2).getD 0#32

/-- The way that a line of an address has, or gets: a free one, or the one that the tree names (R59). -/
def State.l1Way (s : State) (core pa : Nat) : Nat :=
  let mates := s.l1.filter fun x => x.core == core && l1Set x.sector == l1Set pa
  match mates.find? fun x => x.sector / 256 == pa / 256 with
  | some x => x.way
  | none =>
    let ways := l1Ways (s.splitOf core)
    ((List.range ways).find? fun w => !mates.any fun x => x.way == w).getD (treeVictim (s.l1Tree core (l1Set pa)) ways 5 1 0)

/-- A line is used. -/
def State.l1Use (s : State) (core pa : Nat) : State :=
  { s with l1Trees := (core, l1Set pa, treeUse (s.l1Way core pa) 5 1 (s.l1Tree core (l1Set pa))) ::
      s.l1Trees.filter fun t => !(t.1 == core && t.2.1 == l1Set pa) }

/-- The bytes of an access as they stand at given places in the order of performed writes, with the pending stores that an agent of the
core sees over them. -/
def State.bytesAt (s : State) (core : Nat) (who : Agent) (l : Loc) (ts : List Nat) : List Byte :=
  ts.zipIdx.map fun (t, i) => (s.pendingByte core who (locPlus l i)).getD (s.byteAt (locPlus l i) t)

/-- A byte that a core's L1 or a fill holds, read at a place in the order of performed writes, as an agent of the core sees it: without
what others have still to issue. -/
def State.agentByte (s : State) (core : Nat) (who : Agent) (l : Loc) (t : Nat) (b : Byte) : Byte :=
  (s.pendingByte core who l).getD (if s.hides core who l then s.byteAt l (max t (s.viewSeq core l)) else b)

/-- The bytes that a core's L1 or a fill holds of an access, as an agent of the core sees them. -/
def State.agentBytes (s : State) (core : Nat) (who : Agent) (l : Loc) (bs : List Byte) (ts : List Nat) : List Byte :=
  bs.zipIdx.map fun (b, i) => s.agentByte core who (locPlus l i) (ts.getD i 0) b

/-- The bytes of an access with every pending store of the core over them. -/
def State.mergedAt (s : State) (core : Nat) (l : Loc) (ts : List Nat) : List Byte :=
  ts.zipIdx.map fun (t, i) => (s.newest (fun p => p.core == core) (locPlus l i)).getD (s.byteAt (locPlus l i) t)

/-- A sector as a fill brings it to a core (R60): with the core's pending stores merged. -/
def State.fillSector (s : State) (core pa : Nat) : L1Sector :=
  let l : Loc := .hbm (pa / 64 * 64)
  let times := s.readTimes core l 64
  { core, sector := pa / 64 * 64, way := s.l1Way core pa, bytes := s.mergedAt core l times, times }

/-- A line of a core leaves its L1 (R61). -/
def State.l1DropLine (s : State) (core line : Nat) : State :=
  { s with l1 := s.l1.filter fun x => !(x.core == core && x.sector / 256 == line)
           l1Bad := s.l1Bad.filter fun b => b != (core, line) }

/-- A fill enters a core's L1 in its line's way, whose other line goes (R59, R60). -/
def State.l1Fill (s : State) (core pa : Nat) : State :=
  let s0 := if s.l1Bad.contains (core, pa / 256) then s.l1DropLine core (pa / 256) else s
  let x := s0.fillSector core pa
  let gone (y : L1Sector) : Bool :=
    y.core == core && (y.sector == x.sector || (l1Set y.sector == l1Set pa && y.way == x.way && y.sector / 256 != pa / 256))
  { s0 with l1 := x :: s0.l1.filter fun y => !gone y }.l1Use core pa

/-- Bytes written over the valid sectors of their own core's L1 (R60). -/
def l1Through (core : Nat) (l : Loc) (bs : List (Option Byte)) (x : L1Sector) : L1Sector :=
  match l with
  | .hbm pa =>
    if x.core == core && x.sector == pa / 64 * 64 then
      { x with bytes := x.bytes.zipIdx.map fun (b, i) =>
          ((locWithin (.hbm (x.sector + i)) l bs.length).bind fun j => (bs[j]?).join).getD b }
    else x
  | _ => x

/-! ## Reads of a core (R123) -/

/-- The sector of a core's L1 that gives a read its bytes. A read may take later entries of the coherence lists all the same (R123),
which a free value decides. -/
def State.l1Gives (s : State) (core : Nat) (l : Loc) : Option L1Sector :=
  (s.l1Hit core l).filter fun _ => s.performs.isEmpty || s.choice (4 * (locKey l * 512 + core) + 1) % 2 == 0

/-- Where a read of an access by a core takes each byte from: the sector that its L1 holds, or a choice of its own. -/
def State.coreTimes (s : State) (core : Nat) (l : Loc) (n : Nat) : List Nat :=
  match s.l1Gives core l, l with
  | some x, .hbm pa => (x.times.drop (pa % 64)).take n
  | _, _ => s.readTimes core l n

/-- A read of an access by an agent on a core (R123): from its L1, or from the coherence lists, under the pending stores that it sees. -/
def State.coreRead (s : State) (core : Nat) (who : Agent) (l : Loc) (n : Nat) : List Byte :=
  match s.l1Gives core l, l with
  | some x, .hbm pa => s.agentBytes core who l ((x.bytes.drop (pa % 64)).take n) ((x.times.drop (pa % 64)).take n)
  | _, _ => s.bytesAt core who l (s.readTimes core l n)

/-- Later entries of an access taken into the sector of a core's L1 that holds it. -/
def State.l1Refresh (s : State) (core : Nat) (l : Loc) (ts : List Nat) : State :=
  match l with
  | .hbm pa => { s with l1 := s.l1.map fun x =>
      if x.core == core && x.sector == pa / 64 * 64 then
        { x with bytes := splice x.bytes (pa % 64) (s.mergedAt core l ts), times := splice x.times (pa % 64) ts }
      else x }
  | _ => s

/-- A read of an access by a core that its L1 serves, or that returns at once (R123): the bytes, then what it leaves behind: the
core's views, and the use of an L1 line. -/
def State.readDone (s : State) (core : Nat) (l : Loc) (n : Nat) : State :=
  let ts := s.coreTimes core l n
  let t := s.viewed core l ts
  match s.l1Hit core l, l with
  | some _, .hbm pa => (if (s.l1Gives core l).isSome then t else t.l1Refresh core l ts).l1Use core pa
  | _, _ => t

/-- A core reads or writes the last entries of an access (R124): its views and its L1 follow. -/
def State.sawLast (s : State) (core : Nat) (l : Loc) (bs : List Byte) : State :=
  let t := s.viewed core l (List.replicate bs.length s.performSeq)
  { t with l1 := t.l1.map (l1Through core l (bs.map some)) }

/-! ## Performing -/

/-- An old value returns to the read that waits for it. -/
def PendingRead.answer (id : Nat) (old : List Byte) (r : PendingRead) : PendingRead :=
  if r.kind == .old id then { r with bytes := some old } else r

/-- A pending write performs, or an atomic operation takes its step (R122, R124). A peer's write performs there. -/
def State.performWrite (s0 : State) (p : PendingStore) : State :=
  let s := match p.whole, p.loc with
    | true, .hbm pa => s0.healSector (pa / 64 * 64)
    | _, _ => s0
  let old := s.performedRead p.loc p.op.len
  let t := s.perform p.loc (p.op.apply old) p.uncached (some p.core) p.grain
  match p.op with
  | .store _ => t
  | _ =>
    { t.sawLast p.core p.loc (t.performedRead p.loc p.op.len) with reads := t.reads.map (PendingRead.answer p.id old) }

/-- Whether two locations have one home slice (R72). -/
def sameSlice : Loc → Loc → Bool
  | .hbm a, .hbm b => homeDie a == homeDie b && homeSlice a == homeSlice b
  | _, _ => false

/-- Whether a pending access is an atomic operation, which reads. -/
def PendingStore.isRmw (p : PendingStore) : Bool :=
  match p.op with
  | .store _ => false
  | _ => true

/-- Whether a location is device memory, or at or below a scope's reach (R126): scope 5 adds peer and 6
host memory. -/
def locDrainedBy (scope : Nat) : Loc → Bool
  | .hbm _ => 2 ≤ scope
  | .peer _ _ => 5 ≤ scope
  | .host _ => 6 ≤ scope

/-- Whether a release step before a write waits for an earlier one (R126): for a write that it drains, and for its own agent's
atomic operation, which reads. -/
def PendingStore.awaits (v w : PendingStore) : Bool :=
  v.rel.any fun r => w.id < r.2 && (locDrainedBy r.1 w.loc || (w.isRmw && w.placed == v.placed && w.lane == v.lane))

/-- Whether a write must perform before a later one of its core performs: one with a byte in common, or one that the later one's
release step waits for (R120, R122). Writes to different locations perform in any order. -/
def PendingStore.before (w v : PendingStore) : Bool :=
  w.core == v.core && (overlap w.loc w.op.len v.loc v.op.len || v.awaits w)

/-- Whether a write performs in this package. -/
def PendingStore.here (p : PendingStore) : Bool := match p.loc with | .peer _ _ => false | _ => true

/-- The pending writes that a test picks, and every write that must come before one of them, oldest first. -/
def State.dueStores (s : State) (p : PendingStore → Bool) : List PendingStore :=
  s.pendingStores.foldr (fun w acc => if w.here && (p w || acc.any w.before) then w :: acc else acc) []

/-- The sector of an access. -/
def sectorBase : Loc → Loc
  | .hbm pa => .hbm (pa / 64 * 64)
  | .host b => .host (b / 64 * 64)
  | .peer p f => .peer p (f / 64 * 64)

/-- What a core's sector gives to the reads that wait for it: its bytes, and where they were read. -/
def State.sectorData (s : State) (core : Nat) (base : Loc) : List Byte × List Nat :=
  match s.l1Hit core base with
  | some x => (x.bytes, x.times)
  | none =>
    let ts := s.readTimes core base 64
    (s.mergedAt core base ts, ts)

/-- The lane that stands for the uniform side in a pending read. -/
def uniformLane : Nat := 64

/-- The agent of a pending read. -/
def PendingRead.agent (r : PendingRead) : Agent := (r.placed, if r.lane == uniformLane then none else some r.lane)

/-- A pending plain read performs with the data of its sector, which serves every lane (R63). -/
def State.readFrom (s : State) (data : List Byte × List Nat) (r : PendingRead) : State :=
  let off := (locWithin r.loc (sectorBase r.loc) 64).getD 0
  let ts := (data.2.drop off).take r.len
  let bs := s.agentBytes r.core r.agent r.loc ((data.1.drop off).take r.len) ts
  { s with reads := s.reads.map fun x => if x == r then { x with bytes := some bs } else x }.viewed r.core r.loc ts

/-- The earlier plain reads of an agent return before its release step completes (R126). -/
def State.readsBefore (s : State) (core : Nat) (who : Agent) (mark : Nat) : State :=
  (s.reads.filter fun r => r.core == core && r.agent == who && r.kind == .plain && r.bytes.isNone && r.landing < mark).foldl
    (fun t r => t.readFrom (t.sectorData core (sectorBase r.loc)) r) s

/-- A write leaves pending(c) as it performs, after the release steps that come before it. -/
def State.leavePending (s : State) (w : PendingStore) : State :=
  let s1 := w.rel.foldl (fun t r => t.readsBefore w.core (w.placed, w.lane) r.2) s
  { s1.performWrite w with pendingStores := s.pendingStores.filter fun v => v.id != w.id }

/-- The pending writes that a test picks perform, each after those that must come before it. -/
def State.drainStores (s : State) (p : PendingStore → Bool) : State := (s.dueStores p).foldl State.leavePending s

/-- A release step of a core at a scope: the writes of this package that it waits for perform (R126). -/
def State.releaseStep (s : State) (core scope : Nat) : State :=
  s.drainStores fun p => p.core == core && locDrainedBy scope p.loc

/-- Every access of a core performs, but for its writes to peers (R132): what a fence that orders any access waits for. -/
def State.drainCore (s : State) (core : Nat) : State := s.drainStores fun p => p.core == core

/-- An acquire step wider than `.core` drops every line of the core's L1, and sets its views to the last entries (R61,
R126). -/
def State.acquireStep (s : State) (core scope : Nat) : State :=
  if 2 ≤ scope then
    { s with l1 := s.l1.filter fun x => x.core != core, l1Bad := s.l1Bad.filter fun b => b.1 != core
             viewFloors := (core, s.performSeq) :: s.viewFloors.filter fun f => f.1 != core
             seen := s.seen.filter fun x => x.core != core }
  else s

/-- A core's pending writes to the bytes of an access perform (R124). -/
def State.performOwn (s : State) (core : Nat) (l : Loc) (n : Nat) : State :=
  s.drainStores fun p => p.core == core && overlap p.loc p.op.len l n

/-- What the cores' pending writes do between the words (R121, R122): the lanes issue theirs, and some write performs, in any order that
the accesses to its bytes and the release steps leave (log 2). -/
def State.storeDrift (s : State) : State :=
  match s.pendingStores with
  | [] => s
  | ps =>
    let k := s.choice 1
    let t := { s with pendingStores := ps.map fun p => { p with issued := p.issued || s.choice (4 * p.id + 1) % 2 == 0 } }
    match ps[k / 2 % ps.length]? with
    | some p => if k % 2 == 0 then t else t.drainStores fun w => w.id == p.id
    | none => t

/-- Release steps are complete once no access before them is left (R126). -/
def State.settleOwed (s : State) : State :=
  if s.owed.isEmpty then s
  else { s with owed := s.owed.filter fun o =>
    (s.pendingStores.any fun p => p.id < o.2.2) || s.reads.any fun r => r.bytes.isNone && r.landing < o.2.2 }

/-- A write issues into pending(c) (R122): a store writes through the valid sectors of its own L1 (R60). -/
def State.issueWrite (s : State) (p : PendingStore) : State :=
  { s with pendingStores := s.pendingStores ++ [p]
           l1 := match p.op with
             | .store bs => s.l1.map (l1Through p.core p.loc bs)
             | _ => s.l1 }

/-! ## Requests to the slices (R62, R69) -/

/-- The bytes of a 256-byte line from one up. -/
def lineBytes (from_ n : Nat) : BitVec 256 := BitVec.ofNat 256 ((2 ^ n - 1) * 2 ^ from_)
/-- The sectors of a line that some of its bytes lie in. -/
def lineSectors (bytes : BitVec 256) : BitVec 4 :=
  (List.range 4).foldl (fun m i => if bytes &&& lineBytes (64 * i) 64 == 0#256 then m else m ||| (1#4 <<< i)) 0#4

/-- The die of a package core number (R160). -/
def dieOf (core : Nat) : Nat := core / 128

/-- The die whose links a request crosses to its home slice (R427, R429): that of its core or of its access, unless the slice is there. -/
def SliceReq.away (r : SliceReq) : Option Nat :=
  ((r.core.map dieOf).or (r.page.map PageRef.die)).filter fun d => d != homeDie (256 * r.line)

/-- A request joins those outstanding, but for a load whose sectors another load of its agent has asked for already. -/
def State.ask (s : State) (r : SliceReq) : State :=
  let twin (q : SliceReq) : Bool :=
    r.kind == .load && q.kind == .load && q.fn == r.fn && q.core == r.core && q.line == r.line && q.uncached == r.uncached &&
      r.sectors &&& q.sectors == r.sectors
  if s.requests.any twin then s
  else { s with requests := s.requests ++ [{ r with id := s.nextUid, link := r.away }], nextUid := s.nextUid + 1 }

/-- The line requests for a range of HBM by an agent that sits on no core, in ascending line address. -/
def rangeReqs (fn pa n : Nat) (kind : ReqKind) (uncached : Bool) (page : Option PageRef) : List SliceReq :=
  (List.range ((pa % 256 + n + 255) / 256)).map fun i =>
    let line := pa / 256 + i
    let lo := max pa (256 * line)
    let bytes := lineBytes (lo - 256 * line) (min (pa + n) (256 * line + 256) - lo)
    { id := 0, fn, core := none, line, kind, sectors := lineSectors bytes, bytes, lanes := [], uncached, page, link := none }

/-- The requests join those outstanding. -/
def State.askRange (s : State) (fn pa n : Nat) (kind : ReqKind) (uncached : Bool) (page : Option PageRef := none) : State :=
  (rangeReqs fn pa n kind uncached page).foldl State.ask s

/-! ## The reads of landings (R237) -/

/-- A pending read of an exact cell performs: the last entry, once the core's own writes there have performed (R124). -/
def State.readCell (s : State) (r : PendingRead) : State :=
  let t := s.performOwn r.core r.loc 64
  let bs := t.performedRead r.loc 64
  { t with reads := t.reads.map fun x => if x == r then { x with bytes := some bs } else x }.sawLast r.core r.loc bs

/-- The plain and cell reads of a core that wait for a sector perform. -/
def State.giveSector (s : State) (core : Nat) (base : Loc) : State :=
  let waits (k : ReadKind) (r : PendingRead) : Bool :=
    r.core == core && r.kind == k && r.bytes.isNone && sectorBase r.loc == base
  let s1 := (s.reads.filter (waits .plain)).foldl (fun t r => t.readFrom (s.sectorData core base) r) s
  (s1.reads.filter (waits .cell)).foldl State.readCell s1

/-! ## What no core can read behind any more -/

/-- The performed writes that are kept, from the oldest: those that a core with cohorts may still read behind, and those that cover
the bytes of one of them. -/
def keepPerforms (cores : List (Nat × Nat)) : List Performed → List Performed
  | [] => []
  | p :: older =>
    let rest := keepPerforms cores older
    if cores.any (fun k => p.core != some k.1 && k.2 < p.seq) || rest.any (fun q => overlap p.loc p.old.length q.loc q.old.length)
    then p :: rest else rest

/-- The order of performed writes cut to what some core with resident cohorts can still tell: a core's first cohort begins
with an acquire step (R140). -/
def State.forget (s : State) : State :=
  match s.performs, s.seen with
  | [], [] => s
  | _, _ =>
    let cores := (s.cohorts.map Cohort.core).eraseDups
    let floor (k : Nat) : Nat := ((s.viewFloors.find? fun f => f.1 == k).map Prod.snd).getD 0
    { s with performs := keepPerforms (cores.map fun k => (k, floor k)) s.performs
             viewFloors := s.viewFloors.filter fun f => cores.contains f.1
             seen := s.seen.filter fun x => cores.contains x.core && floor x.core < x.seq }

end Sys2Proof.Machine
end

