-- ==== Sys2Proof/Machine/Cellar.lean ====
section
/-! DEFINITION. The Cellar: charges (spec/05 R170 to R175), record images and their codec (R159 to R169),
events and bins (R176 to R180), spilled frames (R221, R222), and the writing of records when a cohort
suspends (spec/06 R196, spec/04 R139). -/

namespace Sys2Proof.Machine

open Sys2Proof

/-! ## Cohorts in the state -/

/-- A resident cohort by its identifier. -/
def State.cohort? (s : State) (uid : Nat) : Option Cohort := s.cohorts.find? fun c => c.uid == uid

/-- A resident cohort changed. -/
def State.putCohort (s : State) (c : Cohort) : State :=
  { s with cohorts := s.cohorts.map fun d => if d.uid == c.uid then c else d }

/-- A cohort gone. -/
def State.dropCohort (s : State) (uid : Nat) : State :=
  { s with cohorts := s.cohorts.filter fun d => d.uid != uid }

/-- The aborted requests of a cohort are gone. -/
def State.dropAborted (s : State) (uid : Nat) : State :=
  { s with peerReqs := s.peerReqs.filter fun r => !(r.uid == uid && r.aborted) }

/-- The logical core of a number, in its reset state when nothing has changed it. -/
def State.core (s : State) (n : Nat) : Core :=
  (s.cores.find? fun k => k.id == n).getD
    { id := n, splitCode := 0, splitTable := [], tiles := [], matrixQueue := [], misses := [], grants := []
      grantQueue := [], scSeq := 0, faultyRows := [], markedOut := false }

/-- A core changed. -/
def State.putCore (s : State) (k : Core) : State :=
  { s with cores := k :: s.cores.filter fun d => d.id != k.id }


/-- The function of a context (R10). -/
def fnOf (ctx : Nat) : Nat := ctx / 8
/-- The context slot within its function. -/
def slotOf (ctx : Nat) : Nat := ctx % 8

/-- A fresh identifier. -/
def State.fresh (s : State) : Nat × State := (s.nextUid, { s with nextUid := s.nextUid + 1 })

/-- `HEART`: ticks of 256 cycles (R132, R264). -/
def State.heart (s : State) : Nat := s.clock / 256

/-! ## Charges (R171, R173, R174) -/

/-- The bays of a range of `size` bytes (R155). -/
def baysOf (size : Nat) : Nat := 63 * size / 16384

/-- Cellar and Attic registers of a function (R156). -/
def State.cellarReg (s : State) (fn off : Nat) : Nat := (s.regRaw 0 (0x4000 + fn * 0x40 + off) 0#64).toNat
def State.cellarBays (s : State) (fn : Nat) : Nat := baysOf (s.cellarReg fn 0x08)
def State.atticBays (s : State) (fn : Nat) : Nat := baysOf (s.cellarReg fn 0x18)
def State.spawnReserve (s : State) (fn : Nat) : Nat := s.cellarReg fn 0x20 % 2 ^ 32

/-- The cohorts of a function, resident or formed and unplaced. -/
def State.fnCohorts (s : State) (fn : Nat) : List Cohort :=
  (s.cohorts ++ s.unplaced.map Unplaced.cohort).filter fun c => fnOf c.ctx == fn
/-- The records of a function that stand in its own Cellar here. -/
def State.fnRecords (s : State) (fn : Nat) : List Record := s.records.filter fun r => fnOf r.ctx == fn

/-- Every fibre of a function. -/
def State.fnFibres (s : State) (fn : Nat) : List Fibre :=
  (s.fnCohorts fn).flatMap Cohort.fibres ++ (s.fnRecords fn).flatMap Record.fibres

/-- This package's number (R472). -/
def State.pkgNum (s : State) : Nat := (s.regRaw 0 0xF918 0#64).toNat

/-- Whether a record carries a cohort tag of this package: not an engine record, nor one that another package still owns (R162). -/
def State.tagged (s : State) (r : Record) : Bool :=
  r.kind != .engine && (match r.place with | .pending p _ => p == s.pkgNum | _ => true)

/-- Whether a tag belongs to a function. -/
def State.tagOf (s : State) (fn : Nat) (tag : BitVec 32) : Bool :=
  (s.fnCohorts fn).any (fun c => c.tag == tag) || (s.fnRecords fn).any fun r => s.tagged r && r.tag == tag

/-- The tile handles that the function's tags own: on a core, in a heavy record, or in a cohort that has
no core yet. -/
def State.fnHandles (s : State) (fn : Nat) : Nat :=
  (s.cores.flatMap Core.tiles).countP (fun t => match t.owner with
    | some o => s.tagOf fn o.1
    | none => false) +
  ((s.fnRecords fn).map fun r => r.tileData.length).sum +
  ((s.unplaced.filter fun u => fnOf u.cohort.ctx == fn).map fun u => u.tileData.length).sum

/-- CELLAROCC.CHARGED (R173, R174). -/
def State.cellarCharged (s : State) (fn : Nat) : Nat :=
  18 * (s.fnFibres fn).length + 128 * s.fnHandles fn + s.engines.countP (fun e => e.fn == fn) +
    ((s.lost.filter fun p => p.1 == fn).map fun p => p.2.1).sum

/-- The Attic bays that one frame of `k` registers charges one fibre (R171). -/
def frameCharge (k : Nat) : Nat := ceilDiv (24 + 5 * k) 256

/-- ATTICOCC.CHARGED (R171). -/
def State.atticCharged (s : State) (fn : Nat) : Nat :=
  ((s.fnFibres fn).flatMap fun f => f.frames.map fun r => frameCharge r.k).sum +
    ((s.lost.filter fun p => p.1 == fn).map fun p => p.2.2).sum

/-! ## The format byte codec (R167) -/

/-- The stored form of a register under one format byte, when that format reproduces every value. -/
def vecFormat (fmt : Nat) (xs : List Word32) : Option (List Byte) :=
  let x0 := xs.headD 0#32
  let head := BitVec.ofNat 8 fmt :: toBytes 4 x0.toNat
  let deltas := xs.map fun x => (x - x0).toInt
  match fmt with
  | 0 => if xs.all (· == x0) then some head else none
  | 1 =>
    let d := xs.getD 1 x0 - x0
    if xs.zipIdx.all fun (x, j) => x == x0 + BitVec.ofNat 32 j * d then some (head ++ toBytes 4 d.toNat)
    else none
  | 2 =>
    if deltas.all fun d => -128 ≤ d && d ≤ 127 then
      some (head ++ deltas.map fun d => BitVec.ofInt 8 d)
    else none
  | 3 =>
    if deltas.all fun d => -32768 ≤ d && d ≤ 32767 then
      some (head ++ deltas.flatMap fun d => toBytes 2 (lowBits 16 d))
    else none
  | _ => some (BitVec.ofNat 8 4 :: xs.flatMap fun x => toBytes 4 x.toNat)

/-- The block of a register: the shortest form, the lowest format byte on a tie (R167). -/
def vecBlock (xs : List Word32) : List Byte :=
  ((List.range 4).filterMap fun f => vecFormat f xs).foldr
    (fun b best => if b.length ≤ best.length then b else best)
    (BitVec.ofNat 8 4 :: xs.flatMap fun x => toBytes 4 x.toNat)

/-- A 32-bit word at a byte offset. -/
def word32At (bs : List Byte) (i : Nat) : Word32 := BitVec.ofNat 32 (ofBytes ((bs.drop i).take 4))

/-- The length of a block of `n` fibres under a format byte; `none` for a byte that R169 calls malformed. -/
def vecLength (n fmt : Nat) : Option Nat :=
  match fmt with
  | 0 => some 5
  | 1 => some 9
  | 2 => some (5 + n)
  | 3 => some (5 + 2 * n)
  | 4 => some (1 + 4 * n)
  | _ => none

/-- What a block of `n` fibres decodes to (R167). -/
def vecDecode (n : Nat) (bs : List Byte) : List Word32 :=
  let x0 := word32At bs 1
  (List.range n).map fun j =>
    match (bs.headD 0#8).toNat with
    | 0 => x0
    | 1 => x0 + BitVec.ofNat 32 j * word32At bs 5
    | 2 => x0 + BitVec.ofInt 32 (signedOf 8 (bs.getD (5 + j) 0#8).toNat)
    | 3 => x0 + BitVec.ofInt 32 (signedOf 16 (ofBytes ((bs.drop (5 + 2 * j)).take 2)))
    | _ => word32At bs (1 + 4 * j)

/-- `n` registers read from consecutive blocks, with the bytes that follow them. -/
def vecDecodeAll (lanes : Nat) : Nat → List Byte → Option (List (List Word32) × List Byte)
  | 0, bs => some ([], bs)
  | n + 1, bs =>
    match vecLength lanes (bs.headD 0#8).toNat with
    | none => none
    | some len =>
      (vecDecodeAll lanes n (bs.drop len)).map fun r => (vecDecode lanes (bs.take len) :: r.1, r.2)

/-! ## Record images (R159 to R166) -/

/-- KIND's code (R160). -/
def RecordKind.code : RecordKind → Nat
  | .continuation => 0 | .spawn => 1 | .trap => 2 | .engine => 3 | .forced => 4

/-- The event key (R176). -/
def Event.key : Event → Nat
  | .none => 0
  | .barrier t b p => 2 ^ 60 + t.toNat * 2 ^ 28 + b * 2 ^ 24 + (if p then 1 else 0)
  | .semaphore c m th => 2 * 2 ^ 60 + c * 2 ^ 51 + m * 2 ^ 45 + th.toNat
  | .join ctr => 3 * 2 ^ 60 + ctr / 8
  | .watch a => 4 * 2 ^ 60 + a / 4
  | .page ctx p => 5 * 2 ^ 60 + ctx * 2 ^ 48 + p / 2 ^ 16
  | .tick n => 6 * 2 ^ 60 + n % 2 ^ 48
  | .flush q => 7 * 2 ^ 60 + q.toNat
  | .charge => 8 * 2 ^ 60
  | .yielded => 9 * 2 ^ 60

/-- Bytes padded with zeros to a multiple of 64. -/
def pad64 (bs : List Byte) : List Byte := bs ++ List.replicate ((64 - bs.length % 64) % 64) 0#8

/-- A fibre's identity entry (R163). -/
def Fibre.identity (f : Fibre) : List Byte :=
  toBytes 4 (f.fidx.toNat * 2 ^ 16 + slice f.preds.toNat 7 1 * 2 ^ 9 + f.lane * 2 ^ 4)

/-- FRAME, V and SLOT of an ATTIC word (R164): `at_` gives an Attic frame's address. -/
def atticWord (at_ : Nat → Nat) : Option (Nat × Nat) → Nat
  | some (id, slot) => slice (at_ id) 45 6 * 2 ^ 6 + 2 ^ 5 + slot % 32
  | none => 0

/-- The Attic frame of a frame that is spilled, with its position there. -/
def Frame.link (r : Frame) : Option (Nat × Nat) := r.attic.map fun id => (id, r.slot)

/-- A fibre's extension entry (R164). -/
def Fibre.extension (f : Fibre) (at_ : Nat → Nat) : List Byte :=
  let attic := atticWord at_ (f.frames.head?.bind Frame.link)
  let join := match f.join with
    | some j => slice j.addr 48 3 * 8 + j.scope
    | none => 0
  toBytes 8 (f.depth * 2 ^ 58 + attic) ++ toBytes 8 join

/-- FLAGS (R160). -/
def Record.flags (r : Record) : Nat :=
  (if r.kept then 1 else 0) + (if r.heavy then 2 else 0) + (if r.reissue then 4 else 0)

/-- The parts of an image after its header, before the tile blocks, unpadded. -/
def Record.body (r : Record) (at_ : Nat → Nat) (engineBlock : List Byte) : List Byte :=
  r.fibres.flatMap Fibre.identity ++
  (match r.kind, r.trap with
   | .trap, some t => toBytes 2 t.code.toNat ++ toBytes 1 t.lane ++ toBytes 5 0 ++ toBytes 8 t.word.toNat ++
       toBytes 8 t.addr.toNat ++ toBytes 8 t.detail.toNat
   | .engine, _ => engineBlock
   | _, _ => []) ++
  r.fibres.flatMap (fun f => f.extension at_) ++
  (r.sregs.take r.ucnt).flatMap (fun x => toBytes 8 x.toNat) ++
  r.uq.flatMap (fun x => toBytes 8 x.toNat) ++
  r.vq.flatMap (fun e => e.flatMap fun x => toBytes 4 x.toNat) ++
  (List.range r.vcnt).flatMap (fun n => vecBlock (r.fibres.map fun f => f.regs.getD n 0#32))

/-- The tile blocks of a heavy record (R168). -/
def Record.tileBlocks (r : Record) : List Byte :=
  if r.heavy then r.tileData.flatMap fun t => t.2.flatMap fun row => row.flatMap fun x => toBytes 4 x.toNat
  else []

/-- SIZE, in units of 64 bytes (R159). -/
def Record.size (r : Record) (engineBlock : List Byte) : Nat :=
  ((pad64 (List.replicate 64 0#8 ++ r.body (fun _ => 0) engineBlock)).length +
    (if r.heavy then 32768 * r.tileData.length else 0)) / 64

/-- The record image (R159, R160). -/
def Record.image (r : Record) (at_ : Nat → Nat) (engineBlock : List Byte) : List Byte :=
  let tmap := (r.tmap.zipIdx.map fun (t, h) => t % 8 * 2 ^ (3 * h)).sum
  let header :=
    toBytes 1 r.kind.code ++ toBytes 1 r.flags ++ toBytes 1 r.fibres.length ++
    toBytes 1 ((r.fibres.map Fibre.depth).foldl max 0) ++ toBytes 2 r.ctx ++ toBytes 1 r.win ++
    toBytes 1 r.vcnt ++ toBytes 1 r.ucnt ++ toBytes 1 r.tiles.toNat ++ toBytes 1 r.uq.length ++
    toBytes 1 r.vq.length ++ toBytes 3 tmap ++ toBytes 1 0 ++ toBytes 2 r.homecore ++
    toBytes 2 (r.size engineBlock) ++ toBytes 4 r.tag.toNat ++ toBytes 8 r.resume ++
    toBytes 4 r.launch.toNat ++ toBytes 4 r.team.toNat ++ toBytes 8 r.event.key ++
    toBytes 4 r.conv.toNat ++ toBytes 4 0 ++ toBytes 8 r.block
  pad64 (header ++ r.body at_ engineBlock) ++ r.tileBlocks

/-- Bays that a record's image holds (R155). -/
def Record.bays (r : Record) (engineBlock : List Byte) : Nat := ceilDiv (r.size engineBlock) 4

/-! ## Bins (R176 to R180) -/

/-- The bin of a record (R177). -/
def Record.binIndex (r : Record) : Nat :=
  let x := (r.resume / 8) ^^^ (r.launch.toNat * 2 ^ 14) ^^^ (if r.kept then r.tag.toNat * 2 ^ 27 else 0)
  slice x 11 0 ^^^ slice x 23 12 ^^^ slice x 35 24 ^^^ slice x 47 36

/-- The image of an Attic frame (R170): `at_` gives the addresses of older frames. -/
def AtticFrame.image (a : AtticFrame) (at_ : Nat → Nat) : List Byte :=
  pad64 (toBytes 1 a.rows.length ++ toBytes 1 a.k ++ toBytes 2 a.left ++ toBytes 12 0 ++
    (a.links.flatMap fun l => toBytes 8 (atticWord at_ l)) ++
    (List.range a.k).flatMap fun n => vecBlock (a.rows.map fun r => r.getD n 0#32))

/-- Whether two records have one key (R177). -/
def sameKey (a b : Record) : Bool :=
  a.resume == b.resume && a.launch == b.launch && a.win == b.win && a.kept == b.kept &&
    (!a.kept || a.tag == b.tag)

/-- The record of an identifier. -/
def State.record? (s : State) (uid : Nat) : Option Record := s.records.find? fun r => r.uid == uid
/-- A record changed. -/
def State.putRecord (s : State) (r : Record) : State :=
  { s with records := s.records.map fun q => if q.uid == r.uid then r else q }
/-- A record gone. -/
def State.dropRecord (s : State) (uid : Nat) : State :=
  { s with records := s.records.filter fun q => q.uid != uid }

/-- Whether a record is in transit (R182). -/
def Record.inTransit (r : Record) : Bool :=
  match r.place with
  | .sent _ _ _ | .pending _ _ => true
  | _ => false

/-- A function's quota of a die-level table of `n` entries, by its QSHARE (R419, R441). -/
def State.quota (s : State) (n fn : Nat) : Nat := max 1 (n * (slice (s.regRaw 0 (0xA010 + fn * 0x40) 0#64).toNat 7 0) / 256)

/-- Whether a die's bin store has room for a reference of a function, within its quota (R178, R441). -/
def State.binRoom (s : State) (fn die : Nat) : Bool :=
  let refs := s.records.filter fun r => r.die == die && r.place == .bin
  refs.length < 65536 && refs.countP (fun r => fnOf r.ctx == fn) < s.quota 65536 fn

/-- Where a record of a function that is released goes: its bin, or the overflow chain while the bin store has no room, behind those of
the function that wait there. -/
def State.binPlace (s : State) (fn die : Nat) : Place :=
  if s.binRoom fn die && s.records.all fun r => !(r.die == die && r.place == .binOverflow && fnOf r.ctx == fn) then .bin
  else .binOverflow

/-- A record whose image is to be written again, since it has changed (R155). -/
def State.rewrite (s : State) (r : Record) : State := s.putRecord { r with stored := false }

/-- The die whose bin a record enters (R177): that of the core that holds its tag's tile set, else its own. -/
def State.binDie (s : State) (r : Record) : Nat :=
  if !s.tagged r then r.die
  else ((s.cores.find? fun k => k.tiles.any fun t => t.owner.elim false fun o => o.1 == r.tag).map fun k => dieOf k.id).getD r.die

/-- A record leaves its wait list for a bin (R176 to R178). -/
def State.release (s : State) (r : Record) : State :=
  let die := s.binDie r
  s.putRecord { r with event := .none, place := s.binPlace (fnOf r.ctx) die, die, arrival := s.clock, stored := r.stored && r.event == .none }

/-- Every waiting record that a test picks is released, changed by `g`. -/
def State.releaseWhere (s : State) (p : Record → Bool) (g : Record → Record) : State :=
  s.records.foldl (fun t r =>
    if (r.place == .waiting || r.place == .faultOverflow) && p r then t.release (g r) else t) s

/-- A release of charge wakes the records of class 8 of the function (R176). -/
def State.wakeCharge (s : State) (fn : Nat) : State :=
  s.releaseWhere (fun r => r.event == .charge && fnOf r.ctx == fn) id

/-- Records in arrival order. -/
def byArrival (rs : List Record) : List Record :=
  rs.foldr (fun r acc => (acc.takeWhile fun q => q.arrival < r.arrival) ++ r ::
    acc.dropWhile fun q => q.arrival < r.arrival) []

/-- References enter their bins in release order as the bin store frees (R178). -/
def State.binRefill (s : State) (die : Nat) : State :=
  match (byArrival (s.records.filter fun r => r.die == die && r.place == .binOverflow)).find? fun r => s.binRoom (fnOf r.ctx) die with
  | some r => s.putRecord { r with place := .bin }
  | none => s

/-! ## Frames (R221, R222, R170) -/

/-- The frames of a fibre beyond its newest `keep` that are resident, by the call that made them. -/
def Fibre.spillCalls (f : Fibre) (keep : Nat) : List Nat :=
  ((f.frames.drop keep).filter fun r => r.attic.isNone).map Frame.call

/-- One Attic frame for each call whose frames are spilled, taking identifiers from `n` (R170, R221). -/
def spillMap (n : Nat) (calls : List Nat) : List (Nat × Nat) := calls.eraseDups.zipIdx.map fun (c, i) => (c, n + i)

/-- A fibre with its older resident frames spilled: `m` gives the Attic frame of a call, and its lanes. -/
def Fibre.spill (f : Fibre) (keep : Nat) (m : List (Nat × Nat × List Nat)) : Fibre :=
  { f with frames := f.frames.zipIdx.map fun (r, i) =>
      match m.find? fun e => e.1 == r.call with
      | some e => if keep ≤ i && r.attic.isNone then { r with attic := some e.2.1, slot := e.2.2.findIdx (· == f.lane) } else r
      | none => r }

/-- The frame of a fibre that stands in an Attic frame, with those older than it. -/
def Fibre.inAttic (f : Fibre) (id : Nat) : List Frame := f.frames.dropWhile fun r => r.attic != some id

/-- The spill of the frames beyond `keep f` of each fibre of a cohort (R221, R222). -/
def State.spillFrames (s : State) (c : Cohort) (keep : Fibre → Nat) : State × Cohort :=
  let m := (spillMap s.nextUid (c.fibres.flatMap fun f => f.spillCalls (keep f))).map fun e =>
    (e.1, e.2, (c.fibres.filter fun f => (f.spillCalls (keep f)).contains e.1).map Fibre.lane)
  let d := { c with fibres := c.fibres.map fun f => f.spill (keep f) m }
  let made := m.map fun e =>
    let holders := (d.fibres.filter fun f => e.2.2.contains f.lane).map fun f => f.inAttic e.2.1
    ({ id := e.2.1, fn := fnOf c.ctx, die := dieOf c.core, call := e.1
       k := ((holders.filterMap List.head?).head?).elim 0 Frame.k, left := holders.length
       links := holders.map fun h => (h.drop 1).head?.bind Frame.link
       rows := holders.map fun h => h.head?.elim [] Frame.rows, stored := false } : AtticFrame)
  ({ s with attic := s.attic ++ made, nextUid := s.nextUid + m.length }, d)

/-- A fibre leaves an Attic frame, by a fill or at its `exit`: LEFT falls, and at 0 the frame goes (R170). -/
def State.leaveAttic (s : State) (id : Nat) : State :=
  let left := s.attic.map fun a => if a.id == id then { a with left := a.left - 1, stored := false } else a
  { s with attic := left.filter fun a => a.left != 0 }

/-! ## The end of a segment -/

/-- The results that landings still hold, written to their rows (R139, R237); an uncorrectable one leaves
its destination unchanged (R463). -/
def Cohort.land (c : Cohort) (l : Landing) : Cohort :=
  if l.landed || l.error.isSome then c else l.writes.foldl Cohort.write c

/-- What a read that has performed returns: its bytes, or the value of its cell (R365). -/
def PendingRead.data (r : PendingRead) : List Byte :=
  match r.bytes with
  | some bs => if r.kind == .cell then toBytes 4 (cellRead bs) else bs
  | none => []

/-- The register writes of a read that has performed (R358, R365). -/
def PendingRead.writes (r : PendingRead) : List RegWrite :=
  if r.bytes.isSome then laneWrites r.lane r.dst (loadWords r.sz r.data) else []

/-- Whether a read belongs to a landing of a cohort: sub-cohorts share a landing's identifier. -/
def PendingRead.ofLanding (r : PendingRead) (c : Cohort) (l : Landing) : Bool :=
  r.landing == l.id && c.fibres.any fun f => f.lane == r.lane

/-- The landings of a cohort that a test picks take the reads that have performed for them. -/
def State.takeReads (s : State) (c : Cohort) (p : Landing → Bool) : State × Cohort :=
  let got (l : Landing) : List PendingRead := s.reads.filter fun r => r.ofLanding c l
  ({ s with reads := s.reads.filter fun r => !c.landings.any fun l => p l && r.ofLanding c l },
   { c with landings := c.landings.map fun l => if p l then { l with writes := l.writes ++ (got l).flatMap PendingRead.writes } else l })

/-- Every landing delivered and every tag free. -/
def Cohort.landAll (c : Cohort) : Cohort := { c.landings.foldl Cohort.land c with landings := [] }

/-- A sub-cohort, parked or not, leaves its split entry: LIVE falls (R204). -/
def SplitEntry.leave (parked : Bool) (e : SplitEntry) : SplitEntry :=
  { e with live := e.live - 1, valid := e.live != 1, parked := if parked then e.parked - 1 else e.parked }

/-- MASK loses lanes (R202, R204). -/
def SplitEntry.unmask (lanes : List Nat) (e : SplitEntry) : SplitEntry :=
  { e with mask := lanes.foldl (fun m l => m &&& ~~~(1#32 <<< l)) e.mask }

/-- The entries that enclose one, itself first (R202). -/
def splitChain (t : List SplitEntry) : Nat → Option Nat → List Nat
  | 0, _ => []
  | _, none => []
  | n + 1, some e => e :: splitChain t n ((t[e]?).bind SplitEntry.parent)

/-- One split entry changed. -/
def Core.modEntry (k : Core) (e : Nat) (g : SplitEntry → SplitEntry) : Core :=
  { k with splitTable := k.splitTable.zipIdx.map fun (x, i) => if i == e then g x else x }

/-- The lanes of a cohort. -/
def Cohort.lanes (c : Cohort) : List Nat := c.fibres.map Fibre.lane

/-- Lanes leave the MASK of an entry and of every enclosing one (R202). -/
def Core.unmask (k : Core) (lanes : List Nat) (e : Option Nat) : Core :=
  (splitChain k.splitTable Config.splitEntries e).foldl (fun t i => t.modEntry i (SplitEntry.unmask lanes)) k

/-- A sub-cohort leaves an entry; a freed entry leaves its parent in turn (R202, R204). -/
def Core.leaveSplit (k : Core) : Nat → Bool → Option Nat → Core
  | 0, _, _ => k
  | _, _, none => k
  | n + 1, parked, some e =>
    let k1 := k.modEntry e (SplitEntry.leave parked)
    match k1.splitTable[e]? with
    | some x => if x.valid then k1 else k1.leaveSplit n false x.parent
    | none => k1

/-- The lowest lane of a cohort. -/
def Cohort.lowLane (c : Cohort) : Nat := c.lanes.foldl min 31

/-- The parked sub-cohorts of an entry fuse (R203). -/
def State.fuse (s : State) (core e : Nat) : State :=
  match (s.core core).splitTable[e]? with
  | none => s
  | some x =>
    let parts := s.cohorts.filter fun c => c.core == core && c.split == some e && c.parked
    match parts with
    | [] => s
    | p :: rest =>
      let lead := rest.foldl (fun a b => if b.lowLane < a.lowLane then b else a) p
      let column (i l : Nat) : Word64 :=
        match parts.find? (fun c => c.lanes.contains l) with
        | some c => (c.latches.getD i ⟨false, []⟩).cols.getD l 0#64
        | none => 0#64
      let fused : Cohort :=
        { lead with
          flightV := parts.flatMap Cohort.flightV, landings := parts.flatMap Cohort.landings
          latches := lead.latches.zipIdx.map fun (x, i) => { x with cols := (List.range 32).map (column i) }
          failed := parts.findSome? Cohort.failed
          bad := parts.flatMap Cohort.bad
          fibres := (List.range 32).filterMap fun l => (parts.flatMap Cohort.fibres).find? fun f => f.lane == l
          conv := parts.foldl (fun m c => if c.conv.toNat > m.toNat then c.conv else m) 0#32
          split := x.parent, parked := false, readyTime := s.clock
          issue := parts.findSome? Cohort.issue }
      let others := s.cohorts.filter fun c =>
        c.uid == lead.uid || !(c.core == core && c.split == some e && c.parked)
      let s1 := { s with cohorts := others.map fun (c : Cohort) => if c.uid == lead.uid then fused else c }
      let k := (s1.core core).modEntry e fun y => { y with valid := false, live := 0, parked := 0 }
      let fusing (uid : Nat) : Nat := if parts.any (fun c => c.uid == uid) then lead.uid else uid
      ({ s1 with owed := s1.owed.map fun o => (fusing o.1, o.2) } : State).putCore k

/-- The rule of R203 wherever LIVE has fallen to PARKED. -/
def State.fuseAll (s : State) (core : Nat) : State :=
  (List.range Config.splitEntries).foldl (fun t e =>
    match (t.core core).splitTable[e]? with
    | some x => if x.valid && x.live == x.parked && x.parked != 0 then t.fuse core e else t
    | none => t) s

/-- A cohort's place in the grant queue and the entries that a grant holds for it go (R65). -/
def Core.releaseMisses (k : Core) (uid : Nat) : Core :=
  { k with grantQueue := k.grantQueue.filter (· != uid), grants := k.grants.filter fun m => m.1 != uid }

/-- A cohort ends its segment: it leaves its split entry, its slot and its rows (R197, R204). -/
def State.leaveCore (s : State) (c : Cohort) : State :=
  let s0 := { (s.dropCohort c.uid).dropAborted c.uid with owed := s.owed.filter fun o => o.1 != c.uid }
  let k0 := s0.core c.core
  let s1 := if k0.grantQueue == [] && k0.grants == [] then s0 else s0.putCore (k0.releaseMisses c.uid)
  match c.split with
  | none => s1
  | some _ =>
    let k := (s1.core c.core).unmask c.lanes c.split
    (s1.putCore (k.leaveSplit Config.splitEntries c.parked c.split)).fuseAll c.core

/-- What a suspension writes in each record, beside its fibres (R160, R161). -/
structure Cause where
  kind : RecordKind
  resume : Nat
  reissue : Bool
  block : Nat
  kept : Bool
  vcnt : Nat
  ucnt : Nat
  trap : Option TrapBlock
  pd : Nat
  watch : Option WatchCond
  skip : Bool
  stepping : Bool
  /-- The word that STEP follows, which the resumed cohort raises first (R454). -/
  stepDue : Option Word64
  check : HeaderCheck := .plain
  deriving DecidableEq, Repr

/-- The physical tiles of a tag on a core: handle and tile, in ascending handle order (R159). -/
def Core.tilesOf (k : Core) (tag : BitVec 32) : List (Nat × Nat) :=
  (List.range 8).filterMap fun h => (k.tiles.findIdx? fun t => t.owner == some (tag, h)).map fun i => (h, i)

/-- A set of handles as TILES (R160). -/
def handleBits (hs : List Nat) : BitVec 8 := hs.foldl (fun m h => m ||| (1#8 <<< h)) 0#8
/-- TMAP (R160). -/
def handleMap (ts : List (Nat × Nat)) : List Nat :=
  (List.range 8).map fun h => ((ts.find? fun t => t.1 == h).map Prod.snd).getD 0

/-- One record of a suspending cohort: its fibres of one team and event (R196). -/
def State.makeRecord (s : State) (c : Cohort) (k : Cause) (team : BitVec 32) (e : Event) (uid : Nat)
    (fs : List Fibre) : Record :=
  let ts := (s.core c.core).tilesOf c.tag
  { uid, kind := k.kind
    kept := k.kept || c.pinned || k.kind == .forced || k.reissue || ts != [] || c.uq != [] || c.vq != []
    heavy := false, reissue := k.reissue, ctx := c.ctx, win := c.win, stack := c.stack, pinned := c.pinned
    vcnt := k.vcnt, ucnt := k.ucnt, tiles := handleBits (ts.map Prod.fst), tmap := handleMap ts
    homecore := if ts == [] then 0 else c.core, tag := c.tag, resume := k.resume, launch := c.launch, team
    event := e, conv := c.conv, block := if k.reissue then k.block else 0
    fibres := fs.map fun f => { f with regs := f.regs.take k.vcnt, base := 0 }
    trap := k.trap, va := 0, faultLane := 0, engine := none, sregs := c.sregs.take k.ucnt, uq := c.uq, vq := c.vq, tileData := []
    pd := k.pd, watch := k.watch, semCore := none, skip := k.skip, stepping := k.stepping, stepDue := k.stepDue, stepAt := c.stepAt, check := k.check
    place := if e == .none || e == .yielded then s.binPlace (fnOf c.ctx) (dieOf c.core) else .waiting
    die := dieOf c.core, core := c.core, arrival := s.clock, bad := false, stored := false }

/-- Fibres in ascending lane order. -/
def inLaneOrder (fs : List Fibre) : List Fibre :=
  fs.foldr (fun f acc => (acc.takeWhile fun g => g.lane < f.lane) ++ f :: acc.dropWhile fun g => g.lane < f.lane) []

/-- The distinct pairs of team and event among fibres, in ascending lane order (R196). -/
def eventGroups (ev : Fibre → Event) (fs : List Fibre) : List (BitVec 32 × Event) :=
  (fs.map fun f => (f.team, ev f)).eraseDups

/-- The results of a cohort are all written (R139): its accesses have performed by then. -/
def Cohort.quiesced (c : Cohort) : Cohort := { c.drain.landAll with latches := deadLatches }

/-- A cohort's fibres are written into records, one for each team and event, and its segment ends (R139,
R196, R204, R222). What the records wait for has completed. -/
def State.writeRecords (s : State) (c : Cohort) (k : Cause) (ev : Fibre → Event) : State :=
  let (s2, c2) := s.spillFrames c.quiesced fun _ => 0
  let groups := eventGroups ev c2.fibres
  let s3 := groups.foldl (fun t g =>
    { t with records := t.records ++ [t.makeRecord c2 k g.1 g.2 t.nextUid (c2.fibres.filter fun f => f.team == g.1 && ev f == g.2)]
             nextUid := t.nextUid + 1 }) s2
  s3.leaveCore c2

/-! ## Cohorts from records (R180, R200) -/

/-- A record's fibres with their window restored: registers beyond VCNT read zero (R167). -/
def Record.wake (r : Record) (f : Fibre) : Fibre :=
  { f with base := 0
           regs := (f.regs ++ List.replicate (8 * r.win - f.regs.length) 0#32).take (8 * r.win) }

/-- The records a drain takes: in arrival order, stopping before one that would pass 32 fibres (R180). -/
def takeRecords : Nat → List Record → List Record
  | _, [] => []
  | room, r :: rest => if r.fibres.length ≤ room then r :: takeRecords (room - r.fibres.length) rest else []

/-- The count of tags assigned that a die takes next: past every live tag (R162). -/
def nextCount (live : BitVec 32 → Bool) (die : Nat) : Nat → Nat → Nat
  | 0, n => n
  | fuel + 1, n =>
    if live (BitVec.ofNat 32 (die * 2 ^ 30 + n % 2 ^ 30)) then nextCount live die fuel ((n + 1) % 2 ^ 30) else n

/-- Every tag that a resident cohort, a record or a tile set carries (R162). -/
def State.liveTags (s : State) : List (BitVec 32) :=
  s.cohorts.map Cohort.tag ++ s.unplaced.map (fun u => u.cohort.tag) ++ s.records.map Record.tag ++
    (s.cores.flatMap Core.tiles).filterMap fun t => t.owner.map Prod.fst

/-- A die assigns a tag (R160, R162). The entries of the tag maps whose mapped tags are no longer live are free by then. -/
def State.newTag (s : State) (die : Nat) : BitVec 32 × State :=
  let live := s.liveTags
  let n := nextCount live.contains die (live.length + 1) (s.tagCounts.getD die 0)
  (BitVec.ofNat 32 (die * 2 ^ 30 + n % 2 ^ 30),
   { s with tagCounts := s.tagCounts.set die ((n + 1) % 2 ^ 30), tagMap := s.tagMap.filter fun m => live.contains m.2.2.2 })

/-- The cohort that records form, with the tag it runs under (R166, R180, R200): its fibres stay in their lanes, or fill lanes from
0 upward. It stands at its resume point, whose governing header the next step reads. -/
def cohortOf (rs : List Record) (stay : Bool) (tag conv : BitVec 32) (uid clock : Nat) : Option Cohort :=
  rs.head?.map fun r =>
    let fs := rs.flatMap fun q => q.fibres.map q.wake
    { uid, core := 0, slot := 0, issue := none, readyTime := clock, slotSince := 0, placed := uid, placedAt := clock, tag, ctx := r.ctx, launch := r.launch
      win := r.win, stack := r.stack, pinned := r.pinned, leadTeam := r.team, pc := r.resume
      block := if r.reissue then r.block else r.resume, len := 0, reconv := 0, kept := false, atHeader := true
      sregs := (r.sregs ++ List.replicate (160 - r.sregs.length) 0#64).take 160
      uq := r.uq, vq := r.vq, conv, flightU := [], flightV := [], latches := deadLatches, liveRun := 0
      landings := [], split := none, parked := false, wait := .none, skip := r.skip, stepping := r.stepping
      stepDue := r.stepDue, failed := none, check := r.check
      stepAt := if r.stepDue.isNone && r.stepping then (if r.block == r.resume then r.resume + 8 else r.resume) else r.stepAt
      fibres := if stay then inLaneOrder fs else fs.zipIdx.map fun (f, i) => { f with lane := i } }

end Sys2Proof.Machine
end

