-- ==== Sys2Proof/Machine/Regs.lean ====
section
/-! DEFINITION. The register apertures: what each register resets to, which bits a write changes and when
a write is accepted (spec/00 R7 with the register maps of spec/01 to spec/16), the ownership of cores
(spec/14 R415 to R426), memory rings (R40, R413, R466), interrupts (R470) and decision counts (R412). -/

namespace Sys2Proof.Machine

open Sys2Proof

/-! ## The register maps -/

/-- A register: its reset value, the bits a write sets (RW) and the bits that writing 1 clears (W1C). Every
other bit is RO, WO or RSV (R7). -/
structure RegSpec where
  reset : Nat := 0
  rw : Nat := 0
  w1c : Nat := 0
  deriving DecidableEq, Repr

/-- Bits `hi` to `lo` as a mask. -/
def maskBits (hi lo : Nat) : Nat := (2 ^ (hi - lo + 1) - 1) * 2 ^ lo
/-- Every bit. -/
def maskAll : Nat := 2 ^ 64 - 1

/-- A context's registers, by the offset within its block (R23). -/
def ctxRegSpec (o : Nat) : Option RegSpec :=
  match o with
  | 0x00 => some { rw := maskBits 45 13 + 1 }
  | 0x08 | 0x10 => some { rw := maskBits 48 21 }
  | 0x18 => some { rw := maskBits 63 21 }
  | 0x20 => some { rw := maskBits 4 1 }
  | 0x28 => some { rw := maskBits 45 12 + 15 }
  | 0x30 => some { rw := maskBits 15 0 }
  | 0x38 => some { reset := 2 ^ 32 + 1000 * 2 ^ 16 + 64, rw := maskBits 32 0 }
  | 0x40 => some {}
  | 0x48 => some { w1c := 2 ^ 17 }
  | 0x58 => some { w1c := maskBits 3 2 }
  | _ => none

/-- A debug window's registers (R458). -/
def debugRegSpec (o : Nat) : Option RegSpec :=
  if o < 0x20 then some { rw := 2 ^ 63 + maskBits 48 3 }
  else if o < 0x40 then some { rw := maskBits 48 0 }
  else if o < 0x60 then some { rw := maskBits 5 0 }
  else if o == 0x60 then some {}
  else if o == 0x70 || o == 0x78 then some {}
  else if o == 0x80 then some { w1c := maskBits 3 2 }
  else if 0x100 ≤ o && o < 0x180 then some { rw := maskAll }
  else none

/-- The MSI-X vectors of a function: 66 to 68 exist in the physical function alone (R470). -/
def vectors (fn : Nat) : Nat := if fn == 0 then 69 else 66

/-- The registers of every function's own aperture. Every bit of the MSI-X table and of its pending bits is RW (R470; log 4). -/
def fnRegSpec (fn off : Nat) : Option RegSpec :=
  if 0x1000 ≤ off && off < 0x1400 then ctxRegSpec (off % 0x80)
  else if off == 0x1400 then some {}
  else if 0x1500 ≤ off && off < 0x1540 then some { rw := 1 }
  else if off == 0x1600 then some { rw := maskAll }
  else if off == 0x1700 || off == 0x1708 then some {}
  else if 0x1800 ≤ off && off < 0x1C00 then
    (if off % 0x10 == 0 then some { rw := maskBits 45 4 + 1 } else some {})
  else if 0x1C00 ≤ off && off ≤ 0x1C30 then some {}
  else if off == 0x1C40 then some { rw := maskBits 45 12 }
  else if off == 0x1C48 then some { rw := maskBits 12 8 + maskBits 7 4 + 1 }
  else if off == 0x1C50 then some { rw := maskBits 15 0 }
  else if off == 0x1D00 then some { rw := maskBits 45 7 + 15 }
  else if 0x1E00 ≤ off && off < 0x1E40 then some { rw := 2 ^ 63 + maskBits 55 7 }
  else if off == 0x1E40 then some { rw := maskBits 45 12 + 15 }
  else if off == 0x1E48 then some { rw := maskBits 15 0 }
  else if 0x1F00 ≤ off && off < 0x1F40 then some { rw := maskAll }
  else if off == 0x1F40 then some { rw := maskBits 45 6 }
  else if off == 0x1F48 then some { w1c := 4 }
  else if 0x10000 ≤ off && off < 0x50000 then debugRegSpec (off % 0x200)
  else if 0x80000 ≤ off && off < 0x80000 + 16 * vectors fn || off == 0x81000 then some { rw := maskAll }
  else if off == 0x81008 then some { rw := maskBits (vectors fn - 65) 0 }
  else none

/-- A format window's registers (R103). -/
def windowRegSpec (o : Nat) : Option RegSpec :=
  match o with
  | 0x00 | 0x08 => some { rw := maskBits 45 21 }
  | 0x10 | 0x18 => some { rw := maskBits 45 16 }
  | 0x20 => some { rw := maskBits 31 16 + maskBits 7 0 }
  | 0x28 => some { rw := maskAll }
  | 0x30 => some { w1c := 2 }
  | _ => none

/-- The Cellar registers of a function (R156). -/
def cellarRegSpec (o : Nat) : Option RegSpec :=
  match o with
  | 0x00 | 0x08 | 0x10 | 0x18 => some { rw := maskBits 45 16 }
  | 0x20 => some { rw := maskBits 31 0 }
  | 0x28 | 0x30 => some {}
  | _ => some { rw := 1 }

/-- A function's partition registers (R419). -/
def partRegSpec (o : Nat) : Option RegSpec :=
  match o with
  | 0x00 | 0x08 => some { rw := maskAll }
  | 0x10 => some { reset := 1004 * 2 ^ 32, rw := maskBits 41 32 + maskBits 27 24 + maskBits 18 16 + maskBits 7 0 }
  | 0x18 => some { reset := 0xFFFFFFFFFFFF, rw := maskBits 47 0 }
  | 0x20 => some { rw := maskBits 45 20 }
  | 0x28 => some { w1c := 4 }
  | _ => none

/-- The registers that stand in the physical function's aperture alone. The certificate's pointer and length read 0 (R477; log 4). -/
def pfRegSpec (off : Nat) : Option RegSpec :=
  if off == 0x1480 then some { reset := 250, rw := maskBits 15 0 }
  else if 0x2000 ≤ off && off < 0x2100 then
    (let o := off % 0x40
     if o < 0x28 then some { reset := 0x100 <<< (o / 8), rw := maskBits 35 8 }
     else if o == 0x28 then some { reset := 0x80000, rw := maskBits 35 8 }
     else if o == 0x30 then some { rw := 1, w1c := 4 } else none)
  else if 0x2200 ≤ off && off < 0x2400 then windowRegSpec (off % 0x40)
  else if 0x2400 ≤ off && off < 0x2500 then
    (if off % 0x10 == 0 then some { rw := maskBits 45 16 + 1 } else some { rw := maskBits 45 16 })
  else if off == 0x3000 then some { rw := maskBits 45 12 }
  else if off == 0x3008 then some { rw := maskBits 23 0 }
  else if off == 0x3010 || off == 0x3018 then some {}
  else if 0x3100 ≤ off && off < 0x3180 then
    (match off % 0x20 with
     | 0x00 => some { rw := maskBits 62 16 }
     | 0x08 => some { rw := maskBits 45 16 }
     | 0x10 => some {}
     | _ => none)
  else if 0x4000 ≤ off && off < 0x8040 then cellarRegSpec (off % 0x40)
  else if 0x8100 ≤ off && off < 0x8900 then some { rw := maskBits 45 30 + 1 }
  else if off == 0x9000 || off == 0x9008 then some { rw := maskBits 45 13 }
  else if off == 0x9010 then some { rw := 1, w1c := 8 }
  else if off == 0x9018 || off == 0x9020 then some {}
  else if 0xA000 ≤ off && off < 0xE040 then partRegSpec (off % 0x40)
  else if 0xE100 ≤ off && off < 0xE500 then some { reset := 0x80 + off % 0x100 / 8 }
  else if off == 0xE500 then some {}
  else if off == 0xE600 then some { rw := maskBits 45 12 + 15 }
  else if off == 0xE700 then some { rw := maskBits 45 12 + 15 }
  else if off == 0xE708 then some { rw := maskBits 15 0 }
  else if off == 0xE710 then some {}
  else if 0xF000 ≤ off && off < 0xF808 then some { rw := maskBits 63 37 + 1 }
  else if off == 0xF900 then some { rw := 1, w1c := 4 }
  else if off == 0xF908 then some { rw := maskBits 45 12 + 15 }
  else if off == 0xF910 then some { rw := 2 ^ 63 + maskBits 31 16 + maskBits 9 0 }
  else if off == 0xF918 then some { rw := maskBits 9 0 }
  else if off == 0xF980 then some { rw := maskBits 45 12 }
  else if off == 0xF988 then some { rw := maskBits 23 0 }
  else if off == 0xF990 || off == 0xF998 then some {}
  else if off == 0xF9C0 || off == 0xF9C8 then some {}
  else if off == 0xF9F0 then some {}
  else if off == 0xF9F8 then some { reset := 3000, rw := maskBits 11 0 }
  else if 0x50080 ≤ off && off < 0x58080 then
    (if off % 0x10 == 0 then some { rw := maskBits 45 21 + 1 } else some { rw := maskBits 45 21 })
  else if 0x60000 ≤ off && off < 0x62000 then some { rw := maskBits 19 0 }
  else if 0xC0000 ≤ off && off < 0x100000 then (if off % 0x100 < 0x18 then some { rw := maskAll } else some {})
  else none

/-- The register at an offset of a function's aperture. -/
def regSpec (fn off : Nat) : Option RegSpec :=
  if off % 8 != 0 then none
  else match fnRegSpec fn off with
    | some r => some r
    | none => if fn == 0 then pfRegSpec off else none

/-- What a register holds: what was last stored, or its reset value. -/
def State.reg (s : State) (fn off : Nat) : Nat :=
  (s.regRaw fn off (BitVec.ofNat 64 ((regSpec fn off).elim 0 RegSpec.reset))).toNat

/-- A register stored; a value equal to the reset value is not listed, so that equal apertures are equal
lists up to order. -/
def State.setReg (s : State) (fn off val : Nat) : State :=
  let rest := s.regs.filter fun r => !(r.fn == fn && r.off == off)
  if val % 2 ^ 64 == (regSpec fn off).elim 0 RegSpec.reset then { s with regs := rest }
  else { s with regs := { fn, off, val := BitVec.ofNat 64 val } :: rest }

/-- Bits `hi` to `lo` of a register. -/
def State.field (s : State) (fn off hi lo : Nat) : Nat := slice (s.reg fn off) hi lo
/-- Bits set, and bits cleared. -/
def State.regSet (s : State) (fn off bits : Nat) : State := s.setReg fn off (s.reg fn off ||| bits)
def State.regClear (s : State) (fn off bits : Nat) : State :=
  s.setReg fn off (s.reg fn off &&& (bits ^^^ maskAll))
/-- Bits `hi` to `lo` replaced. -/
def State.regField (s : State) (fn off hi lo val : Nat) : State :=
  s.setReg fn off ((s.reg fn off &&& (maskBits hi lo ^^^ maskAll)) ||| ((val * 2 ^ lo) &&& maskBits hi lo))
/-- A counter up by 1, wrapping at 64 bits. -/
def State.regInc (s : State) (fn off : Nat) : State := s.setReg fn off (s.reg fn off + 1)

/-- What a write of a value leaves in a register (R7). -/
def RegSpec.merge (r : RegSpec) (old val : Nat) : Nat :=
  ((old &&& ((r.rw ||| (r.w1c &&& val)) ^^^ maskAll)) ||| (val &&& r.rw))

/-- The offset of a context's register, in its function's aperture (R23). -/
def ctxOff (ctx o : Nat) : Nat := 0x1000 + slotOf ctx * 0x80 + o
/-- A context's register. -/
def State.ctxReg (s : State) (ctx o : Nat) : Nat := s.reg (fnOf ctx) (ctxOff ctx o)

/-! ## Ownership and numbering (R415, R416, R425, R426) -/

/-- STCTL.EN in force. -/
def State.tableOn (s : State) : Bool := s.table.isSome

/-- The slot-table entry in force. -/
def State.entry (s : State) : Option SlotEntry :=
  s.table.bind fun t => t.entries[s.field 0 0x9010 19 16]?

/-- The function that owns a package logical quad; `0xFFFF` for an idle one (R422, R426). -/
def State.quadOwner (s : State) (q : Nat) : Nat :=
  match s.entry with
  | some e => e.owner.getD q 0xFFFF
  | none => if s.tableOn then 0xFFFF else 0

/-- Whether a logical quad is backed: QMAP.V (R417). -/
def State.backed (s : State) (q : Nat) : Bool := bitOf (s.reg 0 (0xE100 + q / 32 * 0x100 + q % 32 * 8)) 7

/-- Whether a function owns a core in the entry in force. -/
def State.ownsCore (s : State) (fn core : Nat) : Bool :=
  s.quadOwner (core / 4) == fn && s.backed (core / 4)

/-- Whether a quad lies in a function's partition (R415); with EN 0, function 0 has every quad. -/
def State.inPartition (s : State) (fn q : Nat) : Bool :=
  if fn == 0 && !s.tableOn then true
  else bitOf (s.reg 0 (0xA000 + fn * 0x40 + 8 * (q / 64))) (q % 64)

/-- The dense number of a logical quad in a function (R416). -/
def State.denseQuad (s : State) (fn q : Nat) : Nat := (List.range q).countP fun p => s.inPartition fn p
/-- The dense number of a core (R416). -/
def State.denseCore (s : State) (fn core : Nat) : Nat := 4 * s.denseQuad fn (core / 4) + core % 4
/-- The core of a dense number. -/
def State.coreOfDense (s : State) (fn k : Nat) : Option Nat :=
  (((List.range 128).filter fun q => s.inPartition fn q)[k / 4]?).map fun q => 4 * q + k % 4

/-- A function's way mask (R425, R426). -/
def State.wayMask (s : State) (fn : Nat) : Nat :=
  match s.entry with
  | some e => match (e.list.filterMap id).find? fun r => r.fn == fn with
    | some r => r.ways.toNat
    | none => 0
  | none => if fn == 0 && !s.tableOn then 0xFFFF else 0

/-! ## Physical addresses -/

/-- The location of a physical address (R12, R468): HBM, or the host's bus. -/
def State.locOf (s : State) (pa : Nat) : Loc :=
  if pa < Config.hostBase then .hbm pa
  else
    let f := (pa - Config.hostBase) / Config.hostWindow
    .host (slice (s.reg 0 (0xF000 + f * 8)) 63 37 * 2 ^ 37 + (pa - Config.hostBase) % Config.hostWindow)

/-- Bytes at a physical address, as an agent of the package reads them. -/
def State.physRead (s : State) (pa n : Nat) : List Byte :=
  (s.performedRead (s.locOf pa) n).zipIdx.map fun (b, i) =>
    if pa + i < Config.hostBase && s.sectorBad (pa + i) then Config.undefinedByte s.freeCtr i else b

/-! ## Idle contexts (R23) -/

/-- A started launch of a context that has not completed. -/
def State.ctxLaunch (s : State) (ctx : Nat) : Bool :=
  s.launches.any fun l => !l.complete && 8 * l.fn + l.slot == ctx

/-- A launch at the cursor of an enabled queue of the context, with STATE 1 or 2 and a HEAD read beyond it. -/
def State.ctxQueued (s : State) (ctx : Nat) : Bool :=
  s.queueViews.any fun v =>
    let b := s.reg v.fn (0x1800 + v.queue * 0x10)
    v.fn == fnOf ctx && bitOf b 0 && slice b 6 4 == slotOf ctx && v.head != v.tail % 2 ^ 32 &&
      (let st := ofBytes (s.physRead (slice b 45 7 * 128 + 18) 1)
       st == 1 || st == 2)

/-- CTXSTAT.IDLE (R23). -/
def State.ctxIdle (s : State) (ctx : Nat) : Bool :=
  !s.ctxLaunch ctx && !s.ctxQueued ctx && (s.cohorts.all fun c => c.ctx != ctx) &&
  (s.unplaced.all fun u => u.cohort.ctx != ctx) && (s.records.all fun r => r.ctx != ctx) &&
  (s.engines.all fun e => e.ctx != ctx)

/-- Every context of a function is idle. -/
def State.fnIdle (s : State) (fn : Nat) : Bool := (List.range 8).all fun k => s.ctxIdle (8 * fn + k)
/-- Every context of the package is idle. -/
def State.allIdle (s : State) : Bool :=
  (s.launches.all fun l => l.complete) && s.cohorts.isEmpty && s.unplaced.isEmpty && s.records.isEmpty &&
  s.engines.isEmpty && s.queueViews.all fun v => !s.ctxQueued (8 * v.fn + s.field v.fn (0x1800 + v.queue * 0x10) 6 4)

/-! ## Ranges of memory (R12, R17, R22, R105, R420) -/

/-- A range of addresses: its first byte and its size. -/
abbrev Range := Nat × Nat

/-- Whether two ranges share a byte. -/
def Range.meets (a b : Range) : Bool := 0 < a.2 && 0 < b.2 && a.1 < b.1 + b.2 && b.1 < a.1 + a.2
/-- Whether a range lies in HBM. -/
def Range.inHbm (a : Range) : Bool := a.1 + a.2 ≤ Config.hbmBytes

/-- A function's Cellar and Attic ranges. -/
def State.cellarRanges (s : State) (fn : Nat) : List Range :=
  [(s.cellarReg fn 0, s.cellarReg fn 8), (s.cellarReg fn 0x10, s.cellarReg fn 0x18)]

/-- Functions that a stored register of the physical function's aperture speaks of. -/
def State.fnsAt (s : State) (lo hi : Nat) : List Nat :=
  ((s.regs.filter fun r => r.fn == 0 && lo ≤ r.off && r.off < hi).map fun r => (r.off - lo) / 0x40).eraseDups

/-- The Cellar and Attic ranges in force (R17). -/
def State.cellarProtected (s : State) : List (Nat × Range) :=
  ((s.fnsAt 0x4000 0x8040).filter fun f => bitOf (s.cellarReg f 0x38) 0).flatMap fun f =>
    (s.cellarRanges f).map fun r => (f, r)

/-- The quads of a function's partition, in number (R416, R419). -/
def State.quadCount (s : State) (fn : Nat) : Nat := (List.range 128).countP fun q => s.inPartition fn q

/-- The save areas (R419). -/
def State.saveRanges (s : State) : List Range :=
  ((s.fnsAt 0xA000 0xE040).filter fun f => s.reg 0 (0xA000 + f * 0x40 + 0x20) != 0).map fun f =>
    (s.reg 0 (0xA000 + f * 0x40 + 0x20), s.quadCount f * 2 ^ 22)

/-- The protected-range pairs that are enabled (R17). -/
def State.pairRanges (s : State) : List Range :=
  ((List.range 16).filter fun i => bitOf (s.reg 0 (0x2400 + i * 0x10)) 0).map fun i =>
    (slice (s.reg 0 (0x2400 + i * 0x10)) 45 16 * 2 ^ 16, s.reg 0 (0x2408 + i * 0x10))

/-- The protected ranges (R17). -/
def State.protected (s : State) : List Range :=
  s.cellarProtected.map Prod.snd ++ s.saveRanges ++ s.pairRanges

/-- Whether a range meets a protected one. -/
def State.isProtected (s : State) (r : Range) : Bool := s.protected.any r.meets

/-- The size of a window's packed range (R104). -/
def Window.packSize (w : Window) : Nat := if w.fmt < 2 then w.size / 2 else w.size / 4
/-- The ranges of a window (R104). -/
def Window.ranges (w : Window) : List Range :=
  [(w.view, w.size), (w.pack, w.packSize)] ++ if w.fmt == 3 then [(w.scale, w.size / 16)] else []

/-- Whether a window is enabled: FWCTL.EN. -/
def State.windowOn (s : State) (w : Nat) : Bool := bitOf (s.reg 0 (0x2200 + w * 0x40 + 0x20)) 0
/-- The enabled windows. -/
def State.windowsOn (s : State) : List Window := ((List.range 8).filter s.windowOn).map s.window

/-- The memory assigned to a function (R420): a range lies wholly in one enabled assignment range, or in a
union of them that the bytes are checked against at 2 MiB steps. -/
def State.assigned (s : State) (fn : Nat) (r : Range) : Bool :=
  if fn == 0 then r.inHbm
  else
    let rs := (List.range 8).filterMap fun j =>
      let b := s.reg 0 (0x50000 + fn * 0x80 + j * 0x10)
      let a : Range := (slice b 45 21 * 2 ^ 21, s.reg 0 (0x50008 + fn * 0x80 + j * 0x10))
      if bitOf b 0 && a.inHbm then some a else none
    let inside (x : Nat) : Bool := rs.any fun a => a.1 ≤ x && x < a.1 + a.2
    inside r.1 && (r.2 ≤ 1 || inside (r.1 + r.2 - 1)) &&
      -- each range's end inside the span must be covered by another range
      rs.all fun a => !(r.1 < a.1 + a.2 && a.1 + a.2 < r.1 + r.2 && a.1 ≤ r.1 + r.2) || inside (a.1 + a.2)

/-- The function's own host window (R468). -/
def hostWindowOf (fn : Nat) : Range := (Config.hostBase + fn * Config.hostWindow, Config.hostWindow)
/-- Whether a host PA lies in the function's own window, which is populated (R468). -/
def State.hostOk (s : State) (fn : Nat) (r : Range) : Bool :=
  let w := hostWindowOf fn
  w.1 ≤ r.1 && r.1 + r.2 ≤ w.1 + w.2 && bitOf (s.reg 0 (0xF000 + fn * 8)) 0

/-- Whether a range may hold a QCB, a descriptor or a ring of a function (R399, R420). -/
def State.admits (s : State) (fn : Nat) (r : Range) : Bool :=
  (r.inHbm && s.assigned fn r && !s.isProtected r) || s.hostOk fn r

/-- HEAPOFFSET as an integer. -/
def State.heapOffset (s : State) (ctx : Nat) : Int := (BitVec.ofNat 64 (s.ctxReg ctx 0x18)).toInt
/-- The physical range of a context's heap, when the sum is not negative. -/
def State.heapRange (s : State) (ctx : Nat) : Option Range :=
  let a : Int := (s.ctxReg ctx 0x08 : Int) + s.heapOffset ctx
  if a < 0 then none else some (a.toNat, s.ctxReg ctx 0x10)

/-- Whether the heap triple breaks R22; a LIMIT of 0 is no heap. -/
def State.badHeap (s : State) (ctx : Nat) : Bool :=
  s.ctxReg ctx 0x10 != 0 &&
  !(s.ctxReg ctx 0x08 + s.ctxReg ctx 0x10 ≤ 0x1FFFF00000000 &&
    (match s.heapRange ctx with
     | none => false
     | some r => r.inHbm && s.assigned (fnOf ctx) r && !s.isProtected r &&
         !(s.windowsOn.any fun w => w.ranges.any r.meets)))

/-- The contexts that hold a valid heap triple (R22). -/
def State.heaps (s : State) : List Range :=
  let ctxs := ((s.regs.filter fun r => 0x1000 ≤ r.off && r.off < 0x1400 && r.off % 0x80 == 0x10).map fun r =>
    8 * r.fn + (r.off - 0x1000) / 0x80).eraseDups
  (ctxs.filter fun c => s.ctxReg c 0x10 != 0 && !s.badHeap c).filterMap s.heapRange

/-- FWSTAT.BAD (R105). -/
def State.windowBad (s : State) (n : Nat) : Bool :=
  let w := s.window n
  let others := ((s.windowsOn.filter fun o => o.num != n).flatMap Window.ranges)
  let clash (i : Nat) (r : Range) : Bool :=
    (w.ranges.zipIdx.any fun (q, j) => i < j && Range.meets r q) || others.any r.meets || s.isProtected r ||
      s.heaps.any r.meets
  w.size == 0 || 4 ≤ w.fmt || 5 ≤ w.rm || w.ranges.any (fun r => !r.inHbm) ||
    w.ranges.zipIdx.any fun (r, i) => clash i r

/-- CELLARCTL.BAD (R156). -/
def State.cellarBad (s : State) (fn : Nat) : Bool :=
  let rs := s.cellarRanges fn
  let others := (s.cellarProtected.filter fun p => p.1 != fn).map Prod.snd ++ s.saveRanges ++ s.pairRanges
  rs.any (fun r => r.2 == 0 || !r.inHbm || others.any r.meets || s.heaps.any r.meets ||
    s.windowsOn.any fun w => w.ranges.any r.meets) ||
  (match rs with | [a, b] => Range.meets a b | _ => false)

/-! ## When a write is accepted -/

/-- CTXSTAT's context slot for an offset of R23 or of CTXMEM. -/
def slotAt (off : Nat) : Nat := if off < 0x1400 then (off - 0x1000) / 0x80 else (off - 0x1500) / 8

/-- Whether a table in force or pending gives a function quads (R419). -/
def State.tableGives (s : State) (fn : Nat) : Bool :=
  (s.table.toList ++ s.pendingTable.toList).any fun t => t.entries.any fun e => e.owner.contains fn

/-- The sum of QSHARE with one function's replaced (R419). -/
def State.shareSum (s : State) (fn share : Nat) : Nat :=
  share + (((s.fnsAt 0xA000 0xE040).filter (· != fn)).map fun f => s.field 0 (0xA010 + f * 0x40) 7 0).sum

/-- Whether a plain register write is accepted (R17, R23, R65, R96, R106, R156, R392, R395, R413, R419, R420,
R450, R475, R476, R492). -/
def State.accepts (s : State) (fn off val : Nat) : Bool :=
  if 0x1000 ≤ off && off < 0x1400 then off % 0x80 ≥ 0x30 || s.ctxIdle (8 * fn + slotAt off)
  else if 0x1500 ≤ off && off < 0x1540 then s.ctxIdle (8 * fn + slotAt off)
  else if off == 0x1600 then s.fnIdle fn
  else if off == 0x1C40 then s.reg fn 0x1C48 % 2 == 0
  else if off == 0x1C48 then s.reg fn 0x1C48 % 2 == 0 || val % 2 == 0
  else if 0x1E00 ≤ off && off < 0x1E40 then s.ctxIdle (8 * fn + (off - 0x1E00) / 8)
  else if 0x1800 ≤ off && off < 0x1C00 && off % 0x10 == 0 then !(bitOf (s.reg fn off) 0 && bitOf val 0)
  else if fn != 0 then true
  else if 0x2200 ≤ off && off < 0x2400 then
    let o := off % 0x40
    o == 0x30 || (!s.windowOn ((off - 0x2200) / 0x40) &&
      (o != 0x20 || (slice val 3 1 < 4 && slice val 6 4 < 5)))
  else if 0x2440 ≤ off && off < 0x2500 then
    let r (o : Nat) := if o == off then val else s.reg 0 o
    let b := off / 0x10 * 0x10
    let pair : Range := (slice (r b) 45 16 * 2 ^ 16, slice (r (b + 8)) 45 16 * 2 ^ 16)
    s.allIdle && (!bitOf (r b) 0 || (pair.inHbm && 0 < pair.2))
  else if 0x2400 ≤ off && off < 0x2440 then false
  else if off == 0x3000 || off == 0x3008 then s.reg 0 0x3018 % 2 == 0
  else if off == 0xF980 || off == 0xF988 then s.reg 0 0xF998 % 2 == 0
  else if 0x4000 ≤ off && off < 0x8040 then
    let f := (off - 0x4000) / 0x40
    s.fnIdle f && (off % 0x40 != 0x38 || val % 2 == 0 || !s.cellarBad f)
  else if 0x50000 ≤ off && off < 0x58080 then s.fnIdle ((off - 0x50000) / 0x80)
  else if off == 0xF918 then s.allIdle && !bitOf (s.reg 0 0xF910) 63
  else true

/-- The value that a partition-register write stores (R419): PARTQ, PSAVE, QSHARE and SAVECAP change only
while the function is idle and holds no quads; the rest of FNCFG and FNBUD at any time. The semaphores of a core that enters or
leaves the partition are 0 (R377). -/
def State.partWrite (s : State) (off val : Nat) : State :=
  let f := (off - 0xA000) / 0x40
  let free := s.fnIdle f && !s.tableGives f
  match off % 0x40 with
  | 0x10 =>
    let old := s.reg 0 off
    let fixed := maskBits 41 32 + maskBits 7 0
    let open_ := maskBits 27 24 + maskBits 18 16
    let ok := free && s.shareSum f (val % 256) ≤ 256
    s.setReg 0 off ((old &&& ((open_ + (if ok then fixed else 0)) ^^^ maskAll)) |||
      (val &&& (open_ + if ok then fixed else 0)))
  | 0x18 => s.setReg 0 off (val &&& maskBits 47 0)
  | o =>
    if free then
      let moved (core : Nat) : Bool := o < 0x10 && core / 4 / 64 == o / 8 && bitOf (val ^^^ s.reg 0 off) (core / 4 % 64)
      { s with semaphores := s.semaphores.filter fun x => !(x.fn == f && moved x.core) }.setReg 0 off
        ((partRegSpec o).elim 0 fun r => r.merge (s.reg 0 off) val)
    else s

/-- What a refused write leaves behind: CTXSTAT.WREJ, or FWSTAT.REJ. -/
def State.refuseWrite (s : State) (fn off : Nat) : State :=
  if (0x1000 ≤ off && off < 0x1400) || (0x1500 ≤ off && off < 0x1540) then
    s.regSet fn (0x1000 + slotAt off * 0x80 + 0x58) 8
  else if fn == 0 && 0x2200 ≤ off && off < 0x2400 then s.regSet 0 (off / 0x40 * 0x40 + 0x30) 2
  else s

/-- Package power limits stored as the nearest bound (R479). -/
def clampPower (v : Nat) : Nat := max 300 (min 3000 (v % 4096))

/-- A plain register write. A counter's increments of the same cycle are added to the value written (R481). -/
def State.plainWrite (s : State) (fn off val : Nat) : State :=
  match regSpec fn off with
  | none => s
  | some r =>
    if !s.accepts fn off val then s.refuseWrite fn off
    else if fn == 0 && 0xA000 ≤ off && off < 0xE040 && off % 0x40 < 0x28 then s.partWrite off val
    else if fn == 0 && off == 0xF9F8 then s.setReg 0 off (clampPower val)
    else if off == 0x1C48 && s.reg fn 0x1C48 % 2 == 1 then s.regClear fn off 1
    else s.setReg fn off (r.merge (s.reg fn off) val + if fn == 0 && s.dramTicks.1 == s.clock then s.dramTicks.2.count off else 0)

/-! ## Rings, interrupts and decisions -/

/-- `2^LOG2N` of a ring register; sizes 1 to 5 act as 6 (R40). -/
def ringLen (q : Nat) : Nat := if q % 16 == 0 then 0 else 2 ^ max 6 (q % 16)

/-- A message-signalled interrupt, or its pending bit while it is masked (R470). -/
def State.signal (s : State) (fn vec : Nat) : State :=
  if bitOf (s.reg fn (0x80000 + vec * 16 + 8)) 32 then
    s.regSet fn (0x81000 + vec / 64 * 8) (2 ^ (vec % 64))
  else { s with irqs := s.irqs ++ [(fn, vec)] }

/-- Whether a ring with a base register and a pointer register has room (R40). -/
def State.ringFull (s : State) (fn q p : Nat) : Bool :=
  let ptr := s.reg fn p
  (slice ptr 31 16 + 65536 - slice ptr 15 0) % 65536 == ringLen (s.reg fn q)

/-- A plain write at a physical address on behalf of a function (R69). -/
def State.physWrite (s : State) (fn pa : Nat) (bs : List Byte) : State :=
  (if pa < Config.hostBase then s.askRange fn pa bs.length .store false else s).perform (s.locOf pa) bs

/-- A ring entry written, where the function may have a ring (R420); elsewhere no byte is written (log 31). -/
def State.ringWrite (s : State) (fn pa : Nat) (bytes : List Byte) : State :=
  if s.admits fn (pa, bytes.length) then s.physWrite fn pa bytes else s

/-- One descriptor written to a ring, and HEAD advanced. -/
def State.ringPut (s : State) (fn q p : Nat) (bytes : List Byte) : State :=
  let head := s.field fn p 31 16
  let pa := slice (s.reg fn q) 45 12 * 4096 + 32 * (head % ringLen (s.reg fn q))
  (s.ringWrite fn pa bytes).regField fn p 31 16 ((head + 1) % 65536)

/-- The unit that holds an error (R465), by its structure code, its die, its number there and its row. -/
def errorUnit (code die unit row : Nat) : Option HwUnit :=
  match code with
  | 1 => some (.hbmRow (4 * die + unit) row)
  | 2 | 3 => some (.sliceRow die unit row)
  | 4 | 5 | 6 | 7 => if unit < Config.coresPerDie then some (.coreUnit code (Config.coresPerDie * die + unit) row) else none
  | 8 => some (.linkLane unit row)
  | _ => none

/-- Every error schedules a targeted test of the unit that holds it (R465). -/
def State.schedule (s : State) (u : HwUnit) : State :=
  if s.tests.any fun t => t.unit == u then s else { s with tests := s.tests ++ [{ unit := u, since := s.clock, atOnce := false }] }

/-- The tests of an error that has raised a fatal trap run at once (R465). -/
def State.hurryTests (s : State) (code core : Nat) : State :=
  let mine (u : HwUnit) : Bool := match u with
    | .coreUnit k n _ => k == code && n == core
    | .sliceRow _ _ _ => code == 2
    | .hbmRow _ _ => code == 1
    | .linkLane _ _ => false
  { s with tests := s.tests.map fun (t : UnitTest) => if mine t.unit then { t with atOnce := true } else t }

/-- An error record posted, or a counted drop (R466). An error, whose VERDICT is pending, schedules its test (R465). The unit is
numbered within the die that the record names (log 12). -/
def State.postError (s0 : State) (code sev verdict die unit row pa fn : Nat) : State :=
  let s := if verdict == 0 then (errorUnit code die unit row).elim s0 s0.schedule else s0
  if ringLen (s.reg 0 0xE700) == 0 || s.ringFull 0 0xE700 0xE708 then s.regInc 0 0xE710
  else
    (s.ringPut 0 0xE700 0xE708 (toBytes 1 code ++ toBytes 1 sev ++ toBytes 1 verdict ++ toBytes 1 die ++
      toBytes 2 unit ++ toBytes 2 row ++ toBytes 8 pa ++ toBytes 2 fn ++ toBytes 6 0 ++ toBytes 8 s.heart)).signal 0 66

/-- An error of a structure of a core posted. -/
def State.coreError (s : State) (code sev core row fn : Nat) : State :=
  s.postError code sev 0 (dieOf core) (core % Config.coresPerDie) row 0 fn

/-- The parity error of an entry of a core's caches, or of its die's, which is dropped and fetched again (R462); a die's own structure
is unit 0xFFFF (log 12). -/
def State.parityError (s : State) (core : Option Nat) (die : Nat) : State :=
  match core with
  | some c => s.coreError 5 0 c 0 0xFFFF
  | none => s.postError 5 0 0 die 0xFFFF 0 0 0xFFFF

/-! ## The error-address tables (R464) -/

/-- The record of an error of a sector in HBM (R466). -/
def State.hbmError (s : State) (sev sector fn : Nat) : State :=
  s.postError 1 sev 0 ((stackOf sector).1 / 4) ((stackOf sector).1 % 4) (rowOf sector % 65536) sector fn

/-- A sector enters its stack's table, whose 128 newest entries stay: the oldest is removed, and logged (R464; log 12). -/
def State.listSector (s : State) (sector : Nat) : State :=
  let rest := s.errorTable.filter fun e => e.2 != sector
  let put (t : State) (kept : List (Nat × Nat)) : State := { t with errorTable := kept ++ [((stackOf sector).1, sector)] }
  match rest.filter fun e => e.1 == (stackOf sector).1 with
  | [] => put s rest
  | e :: es => if 128 ≤ es.length + 1 then put (s.hbmError 2 e.2 0xFFFF) (rest.erase e) else put s rest

/-- The set of a line within its slice (R68), and the row of a line's data there (log 12). -/
def setOf (line : Nat) : Nat := slice (line * 256) 21 13
def L2Line.row (l : L2Line) : Nat := setOf l.line * 16 + l.way

/-- A line of a slice whose data cannot be read posted (R462, R466). -/
def State.sliceError (s : State) (l : L2Line) (sev sector fn : Nat) : State := s.postError 2 sev 0 l.die l.slice l.row sector fn

/-- An uncorrectable error detected as it is consumed: its sector is entered, and a record posted (R464, R466). -/
def State.enterError (s : State) (sector fn : Nat) : State :=
  match s.l2.find? fun l => l.line == sector / 256 && s.l2Lost sector with
  | some l => (s.listSector sector).sliceError l 1 sector fn
  | none => (s.listSector sector).hbmError 1 sector fn

/-- The first sector of some bytes of HBM that holds an uncorrectable error. -/
def State.badIn (s : State) (l : Loc) (n : Nat) : Option Nat :=
  match l with
  | .hbm pa => ((List.range (n / 64 + 2)).map fun i => pa / 64 * 64 + 64 * i).find? fun b => b < pa + n && s.sectorBad b
  | _ => none

/-- The requests for a read at a physical address, on behalf of a function (R69); an error there is entered (R464). -/
def State.physAsk (s : State) (fn pa n : Nat) : State :=
  if pa < Config.hostBase then
    let t := s.askRange fn pa n .load false
    (s.badIn (.hbm pa) n).elim t fun b => t.enterError b fn
  else s

/-- The structure of a sector that cannot be read (R462): the L2's data, or HBM. -/
def State.sectorCode (s : State) (pa : Nat) : Nat := if s.l2Lost pa then 2 else 1

/-- One decision: its counter, and its trace record while tracing is on (R412 to R414). -/
def State.decide (s : State) (kind cause lanes flags ctx core : Nat) (tag launch : BitVec 32) (resume : Nat) :
    State :=
  let fn := fnOf ctx
  let counter := match kind with | 0 => 0x1C00 | 1 => 0x1C08 | 2 => 0x1C10 | 3 => 0x1C18 | _ => 0x1C20
  let s1 := s.regInc fn counter
  let ctl := s.reg fn 0x1C48
  if !bitOf ctl 0 || !bitOf ctl (8 + kind) then s1
  else
    let n := 2 ^ max 1 (slice ctl 7 4)
    let head := s1.field fn 0x1C50 31 16
    if (head + 65536 - s1.field fn 0x1C50 15 0) % 65536 == n then s1.regInc fn 0x1C28
    else
      let bytes := toBytes 1 kind ++ toBytes 1 cause ++ toBytes 1 lanes ++ toBytes 1 (flags % 4) ++ toBytes 2 ctx ++
        toBytes 2 (s.denseCore fn core) ++ toBytes 4 tag.toNat ++ toBytes 4 launch.toNat ++ toBytes 8 resume ++
        toBytes 8 (s.heart * 256 + s.clock % 256)
      (s1.ringWrite fn (s1.reg fn 0x1C40 + 32 * (head % n)) bytes).regField fn 0x1C50 31 16 ((head + 1) % 65536)

end Sys2Proof.Machine
end

