-- ==== Sys2Proof/Machine/Xlate.lean ====
section
/-! DEFINITION. Trap codes (spec/15 R450) and address translation: the windows, the heap triple, the table
walk, TLBs, replicas and leases (spec/01 R10 to R53), the host window (spec/16 R468) and the fault table
(R38 to R42). -/

namespace Sys2Proof.Machine

open Sys2Proof

/-- The traps of R450. -/
inductive TrapCode where
  | illegal | priv | regbound | latch | landhaz | qover | qempty | badheader | badsusp | noentry | badret
  | noframe | atticfull | noncanon | reserved | spbound | sliceacc | misalign | notable | badentry
  | badalign | badleaf | badframe | protect | wprot | xprot | noservice | pagefail | peerabort
  | exactacc | notexact | noway | fmtacc | hostatom | watchacc | xstaddr | xstfull | memerr | noteam
  | barinv | bararg | barbusy | engarg | notile | tileheld | matopnd | tilemism | software | break_
  | watch | step | dbghalt | record | cellarfull | stateerr
  deriving DecidableEq, Repr

/-- The code of a trap (R450). -/
def TrapCode.code : TrapCode → Nat
  | .illegal => 0x01 | .priv => 0x02 | .regbound => 0x03 | .latch => 0x04 | .landhaz => 0x05
  | .qover => 0x06 | .qempty => 0x07 | .badheader => 0x08 | .badsusp => 0x09 | .noentry => 0x0A
  | .badret => 0x0B | .noframe => 0x0C | .atticfull => 0x0D | .noncanon => 0x10 | .reserved => 0x11
  | .spbound => 0x12 | .sliceacc => 0x13 | .misalign => 0x14 | .notable => 0x15 | .badentry => 0x16
  | .badalign => 0x17 | .badleaf => 0x18 | .badframe => 0x19 | .protect => 0x1A | .wprot => 0x1B
  | .xprot => 0x1C | .noservice => 0x1D | .pagefail => 0x1E | .peerabort => 0x1F | .exactacc => 0x20
  | .notexact => 0x21 | .noway => 0x22 | .fmtacc => 0x23 | .hostatom => 0x24 | .watchacc => 0x25
  | .xstaddr => 0x26 | .xstfull => 0x27 | .memerr => 0x28 | .noteam => 0x30 | .barinv => 0x31
  | .bararg => 0x32 | .barbusy => 0x33 | .engarg => 0x34 | .notile => 0x35 | .tileheld => 0x36
  | .matopnd => 0x37 | .tilemism => 0x38 | .software => 0x40 | .break_ => 0x41 | .watch => 0x42
  | .step => 0x43 | .dbghalt => 0x44 | .record => 0x80 | .cellarfull => 0x81 | .stateerr => 0x82

/-- A trap raised by a word: its code, its reporting lane when its rule names one, its faulting address and
DETAIL (R451, R452). -/
structure TrapInfo where
  code : TrapCode
  lane : Option Nat := none
  addr : Nat := 0
  detail : Nat := 0
  /-- The address of the trapping word, where it is not the one at the boundary: that of STEP is (R454). -/
  site : Option Nat := none
  deriving DecidableEq, Repr

/-- What a suspending fault reports (R37, R40). -/
structure PageFault where
  cls : Nat
  va : Nat
  entry : Nat
  level : Nat
  acc : Nat
  deriving DecidableEq, Repr

/-- A scratchpad allocation: the core that holds it, and the team (R56, R187). -/
structure Pad where
  core : Nat
  launch : BitVec 32
  team : BitVec 32
  deriving DecidableEq, Repr

/-- What an address translates to. -/
inductive Xlate where
  /-- Memory: the location, the cache attribute (0 L1 and L2, 1 L2 only, 2 uncached) and the leaf's EXACT. -/
  | mem (l : Loc) (cache : Nat) (exact : Bool)
  /-- Scratchpad: the allocation and the offset. -/
  | pad (p : Pad) (off : Nat)
  | trap (t : TrapInfo)
  | suspend (f : PageFault)
  /-- A peer page whose remote translation is not cached (R49). -/
  | askPeer (pkg page addr : Nat)
  deriving DecidableEq, Repr

/-! ## The table walk (R25 to R28) -/

/-- Eight bytes of a table, as the walker reads them through the L2 (R28): performed. -/
def State.tableEntry (s : State) (pa : Nat) : Nat := ofBytes (s.performedRead (.hbm pa) 8)

/-- How a walk ends. -/
inductive Walk where
  | leaf (entry level : Nat)
  | absent (entry level : Nat)
  | fault (c : TrapCode) (level : Nat)
  deriving DecidableEq, Repr

/-- The index of an address at a level (R25). -/
def tableIndex (va level : Nat) : Nat :=
  match level with
  | 0 => slice va 48 39 | 1 => slice va 38 30 | 2 => slice va 29 21 | _ => slice va 20 16
/-- The size of a table at a level. -/
def tableSize (level : Nat) : Nat := match level with | 0 => 8192 | 1 => 4096 | 2 => 4096 | _ => 256
/-- The page size of a leaf at a level. -/
def pageSize (level : Nat) : Nat := match level with | 1 => 2 ^ 30 | 2 => 2 ^ 21 | _ => 2 ^ 16
/-- ADDR of an entry (R26). -/
def entryAddr (e : Nat) : Nat := slice e 45 8 * 2 ^ 8
/-- KIND of a leaf. -/
def entryKind (e : Nat) : Nat := slice e 47 46

/-- Whether an EXACT device frame breaks R18. -/
def State.exactBad (s : State) (r : Range) : Bool :=
  (s.windowsOn.any fun w => (w.ranges.take 2).any r.meets) || s.heaps.any r.meets

/-- The check of a leaf (R27). -/
def State.leafFault (s : State) (fn e level : Nat) : Option TrapCode :=
  let size := pageSize level
  let r : Range := (entryAddr e, size)
  if level == 0 || slice e 7 3 != 0 || entryKind e == 3 || (entryKind e < 2 && slice e 57 48 != 0) then
    some .badentry
  else if entryAddr e % size != 0 then some .badalign
  else if entryKind e == 2 && (bitOf e 60 || bitOf e 61 || bitOf e 62) then some .badleaf
  else if entryKind e == 1 && bitOf e 60 then some .badleaf
  else if entryKind e == 0 && bitOf e 60 && s.exactBad r then some .badleaf
  else if entryKind e == 0 && !(r.inHbm && s.assigned fn r) then some .badframe
  else if entryKind e == 1 && !s.hostOk fn r then some .badframe
  else if entryKind e == 0 && s.isProtected r then some .protect
  else none

/-- The check of a pointer (R27, R420). -/
def State.pointerFault (s : State) (fn e level : Nat) : Option TrapCode :=
  if level == 3 || slice e 62 46 != 0 || slice e 7 1 != 0 then some .badentry
  else if entryAddr e % tableSize (level + 1) != 0 then some .badalign
  else if !s.assigned fn (entryAddr e, tableSize (level + 1)) then some .badframe
  else none

/-- The addresses that an entry of a level covers. -/
def levelSpan (level : Nat) : Nat := match level with | 0 => 2 ^ 39 | 1 => 2 ^ 30 | 2 => 2 ^ 21 | _ => 2 ^ 16

/-- The pointer entry of a level that a die's walker has cached for an address (R29). -/
def State.walkHit (s : State) (die ctx va level : Nat) : Option Nat :=
  (s.walkCache.find? fun w => !w.bad && w.die == die && w.ctx == ctx && w.level == level && w.lo ≤ va && va < w.lo + w.size).map
    fun w => w.entry.toNat

/-- The walk from a table at a level, with the pointer entries it used (R27): a cached one is not read again (R29). -/
def State.walkFrom (s : State) (die ctx va table : Nat) : Nat → Nat → Walk × List (Nat × Nat)
  | 0, level => (.fault .badentry level, [])
  | n + 1, level =>
    match s.walkHit die ctx va level with
    | some e =>
      let r := s.walkFrom die ctx va (entryAddr e) n (level + 1)
      (r.1, (level, e) :: r.2)
    | none =>
      let e := s.tableEntry (table + 8 * tableIndex va level)
      if s.sectorBad (table + 8 * tableIndex va level) then (.fault .memerr level, [])
      else if !bitOf e 0 then (.absent e level, [])
      else if bitOf e 63 then
        match s.leafFault (fnOf ctx) e level with
        | some c => (.fault c level, [])
        | none => (.leaf e level, [])
      else match s.pointerFault (fnOf ctx) e level with
        | some c => (.fault c level, [])
        | none =>
          let r := s.walkFrom die ctx va (entryAddr e) n (level + 1)
          (r.1, (level, e) :: r.2)

/-- The walk of an address in a context by a die's walker, with its pointer entries (R25). -/
def State.walkPath (s : State) (die ctx va : Nat) : Walk × List (Nat × Nat) :=
  let root := slice (s.ctxReg ctx 0) 45 13 * 2 ^ 13
  if s.assigned (fnOf ctx) (root, 8192) then s.walkFrom die ctx va root 4 0 else (.fault .badframe 0, [])
/-- How the walk ends. -/
def State.walk (s : State) (die ctx va : Nat) : Walk := (s.walkPath die ctx va).1

/-- The table entries that a walk from a table reads, those of cached pointers left out (R28, R29). -/
def State.readsFrom (s : State) (die ctx va table : Nat) : Nat → Nat → List Nat
  | 0, _ => []
  | n + 1, level =>
    match s.walkHit die ctx va level with
    | some e => s.readsFrom die ctx va (entryAddr e) n (level + 1)
    | none =>
      let pa := table + 8 * tableIndex va level
      let e := s.tableEntry pa
      if !s.sectorBad pa && bitOf e 0 && !bitOf e 63 && (s.pointerFault (fnOf ctx) e level).isNone then
        pa :: s.readsFrom die ctx va (entryAddr e) n (level + 1)
      else [pa]

/-- The table entries that the walk of an address reads, the leaf's last. -/
def State.walkReads (s : State) (die ctx va : Nat) : List Nat :=
  let root := slice (s.ctxReg ctx 0) 45 13 * 2 ^ 13
  if s.assigned (fnOf ctx) (root, 8192) then s.readsFrom die ctx va root 4 0 else []

/-- The entry that a walk cannot read (R462), and its structure. -/
def State.walkError (s : State) (die ctx va : Nat) : Option Nat := (s.walkReads die ctx va).find? s.sectorBad
def State.walkErrorCode (s : State) (die ctx va : Nat) : Nat := (s.walkError die ctx va).elim 1 s.sectorCode

/-- A walk's requests to the slices, under the context's way mask (R28, R69). -/
def State.walkAsk (s : State) (die ctx va : Nat) : State :=
  (s.walkReads die ctx va).foldl (fun t pa => t.askRange (fnOf ctx) pa 8 .load false) s

/-! ## TLBs (R29) -/

/-- The translation that an agent holds of an address. -/
def State.tlbHit (s : State) (o : TlbOwner) (ctx va : Nat) : Option TlbEntry :=
  s.tlbs.find? fun t => !t.bad && t.owner == o && t.ctx == ctx && t.page ≤ va && va < t.page + t.size

/-- The translation that a core uses: its own L1 TLB's, else its die's. -/
def State.tlbLookup (s : State) (core : Option Nat) (die ctx va : Nat) : Option TlbEntry :=
  match core.bind fun c => s.tlbHit (.core c) ctx va with
  | some t => some t
  | none => s.tlbHit (.die die) ctx va

/-- The first `n` entries of an owner that a test picks, and every other entry. -/
def keepFirst (p : TlbEntry → Bool) : Nat → List TlbEntry → List TlbEntry
  | _, [] => []
  | n, t :: ts =>
    if p t then (if n == 0 then keepFirst p 0 ts else t :: keepFirst p (n - 1) ts) else t :: keepFirst p n ts

/-- The set of a die's TLB that a page lies in: 1,024 sets of 8 ways, by the page's number (R29; the index is log 6's). -/
def TlbEntry.set (t : TlbEntry) : Nat := t.page / t.size % 1024

/-- An entry becomes an owner's most recently used; beyond the size of a core's TLB, or a set's ways and the function's
quota of its die's, the least recently used goes (R29, R441; log 6). -/
def State.tlbPut (s0 : State) (t : TlbEntry) : State :=
  let same (u : TlbEntry) : Bool := u.owner == t.owner && u.ctx == t.ctx && u.page == t.page && u.size == t.size
  let s := if s0.tlbs.any fun u => u.bad && same u then
      (match t.owner with | .core c => s0.parityError (some c) (dieOf c) | .die d => s0.parityError none d) else s0
  let rest := s.tlbs.filter fun u => !same u
  match t.owner with
  | .core _ => { s with tlbs := t :: keepFirst (fun u => u.owner == t.owner) 63 rest }
  | .die _ =>
    let mine (u : TlbEntry) : Bool := u.owner == t.owner && fnOf u.ctx == fnOf t.ctx
    let mates (u : TlbEntry) : Bool := u.owner == t.owner && u.set == t.set
    { s with tlbs := t :: keepFirst mates 7 (keepFirst mine (s.quota 8192 (fnOf t.ctx) - 1) rest) }

/-- The first `n` cached pointers that a test picks, and every other one. -/
def keepWalks (p : WalkEntry → Bool) : Nat → List WalkEntry → List WalkEntry
  | _, [] => []
  | n, w :: ws => if p w then (if n == 0 then keepWalks p 0 ws else w :: keepWalks p (n - 1) ws) else w :: keepWalks p n ws

/-- A pointer entry becomes the most recently used of its die's walk cache; beyond the function's quota the least
recently used goes (R29, R441). -/
def State.walkPut (s : State) (die ctx va : Nat) (e : Nat × Nat) : State :=
  let size := levelSpan e.1
  let w : WalkEntry := { die, ctx, level := e.1, lo := va / size * size, size, entry := BitVec.ofNat 64 e.2 }
  let same (x : WalkEntry) : Bool := x.die == die && x.ctx == ctx && x.level == w.level && x.lo == w.lo
  let rest := s.walkCache.filter fun x => !same x
  let mine (x : WalkEntry) : Bool := x.die == die && fnOf x.ctx == fnOf ctx
  { if s.walkCache.any fun x => x.bad && same x then s.parityError none die else s with walkCache := w :: keepWalks mine (s.quota Config.walkCacheEntries (fnOf ctx) - 1) rest }

/-- The replica of a page on a die (R46). One that was entered with a size other than its leaf's serves the addresses that it
covers, each at its offset within the leaf's page (log 47). -/
def State.replicaOf (s : State) (die ctx va : Nat) : Option Replica :=
  s.replicas.find? fun r => r.die == die && r.ctx == ctx && r.page ≤ va && va < r.page + r.size

/-- The frame that a leaf gives to reads on a die (R46); `none` when the die needs a replica. A host frame has no home die:
every die reads it as its own (log 47). -/
def State.readFrame (s : State) (die ctx va e : Nat) : Option Nat :=
  if entryKind e == 0 && bitOf e 61 && homeDie (entryAddr e) != die then
    (s.replicaOf die ctx va).map Replica.frame
  else some (entryAddr e)

/-- The entry that a walk's leaf makes in a TLB. Peer leaves are not held there (R29). -/
def State.tlbOf (s : State) (o : TlbOwner) (die ctx va e level : Nat) : Option TlbEntry :=
  if entryKind e == 2 then none
  else (s.readFrame die ctx va e).map fun fr =>
    { owner := o, ctx, page := va / pageSize level * pageSize level, size := pageSize level
      leaf := BitVec.ofNat 64 e, frame := fr, writable := bitOf e 1 }

/-- A walk of an address by a die's walker: its reads at the slices, and the pointers that it caches (R28, R29). -/
def State.walkDone (s : State) (die ctx va : Nat) : State :=
  (s.walkPath die ctx va).2.foldl (fun t e => t.walkPut die ctx va e) (s.walkAsk die ctx va)

/-- The TLBs of a core and its die, and the die's walk cache, once a translation of an address has completed (R29). -/
def State.tlbFill (s0 : State) (core : Option Nat) (die ctx va : Nat) : State :=
  match s0.tlbLookup core die ctx va with
  | some t => match core with
    | some c => s0.tlbPut { t with owner := .core c }
    | none => s0.tlbPut t
  | none =>
    let s := s0.walkDone die ctx va
    match s0.walk die ctx va with
    | .leaf e level =>
      let put (u : State) (o : TlbOwner) : State := match s.tlbOf o die ctx va e level with
        | some t => u.tlbPut t
        | none => u
      match core with
      | some c => put (put s (.die die)) (.core c)
      | none => put s (.die die)
    | _ => s

/-! ## Translation -/

/-- Whether an access kind writes (R24). -/
def accWrites : Access → Bool
  | .write | .rmw => true
  | _ => false

/-- ACC of R40. -/
def accCode : Access → Nat
  | .read => 1 | .write => 2 | .fetch => 4 | .rmw => 3

/-- CACHE, with 11 as 10 (R23, R26). -/
def cacheOf (c : Nat) : Nat := if c == 3 then 2 else c

/-- Whether a context's heap range names what it may not: neither HBM nor the function's own host window (R12, R468). -/
def State.heapAway (s : State) (ctx : Nat) : Bool :=
  !(s.heapRange ctx).any fun r => r.inHbm || s.hostOk (fnOf ctx) r

/-- A heap address translated (R12, R16, R21, R24, R468). -/
def State.heapXlate (s : State) (ctx va : Nat) (acc : Access) : Xlate :=
  let attr := s.ctxReg ctx 0x20
  if s.heapAway ctx then .trap { code := .badframe, addr := va }
  else if (s.heapRange ctx).any s.isProtected then .trap { code := .protect, addr := va }
  else if accWrites acc && !bitOf attr 1 then .trap { code := .wprot, addr := va }
  else if acc == .fetch && !bitOf attr 2 then .trap { code := .xprot, addr := va }
  else
    .mem (s.locOf (lowBits 46 ((va : Int) + s.heapOffset ctx))) (cacheOf (slice attr 4 3)) false

/-- Whether an address is a heap address (R21). -/
def State.isHeap (s : State) (ctx va : Nat) : Bool :=
  s.ctxReg ctx 0x08 ≤ va && va < s.ctxReg ctx 0x08 + s.ctxReg ctx 0x10

/-- Whether an entry translates a peer page of a context on a die (R49). -/
def RtcEntry.names (r : RtcEntry) (die ctx pkg page : Nat) : Bool := r.die == die && r.ctx == ctx && r.pkg == pkg && r.page == page

/-- The remote translation of a peer page that an agent may use: one that its die holds (R49, R51), or one under a lease of zero
ticks that is its own (R50). -/
def State.rtcHit (s : State) (who : Option Nat) (die ctx pkg page : Nat) : Option RtcEntry :=
  (s.rtc.find? fun r => !r.bad && r.names die ctx pkg page && s.podTick + 1 < r.expiry).or
    ((s.oneTime.find? fun x => who == some x.1 && x.2.names die ctx pkg page).map Prod.snd)

/-- The level of a leaf, from its page size (R25). -/
def levelOf (size : Nat) : Nat := if size == pageSize 1 then 1 else if size == pageSize 2 then 2 else 3

/-- An access of an agent under a leaf (R24, R37, R46, R49), whose read frame is given. -/
def State.leafXlate (s : State) (who : Option Nat) (die ctx va e size : Nat) (frame : Option Nat) (acc : Access) : Xlate :=
  let level := levelOf size
  let off := va % size
  let exact := bitOf e 60
  let cache := cacheOf (slice e 59 58)
  if accWrites acc && !bitOf e 1 then
    (if bitOf e 61 then .suspend ⟨2, va, e, level, accCode acc⟩ else .trap { code := .wprot, addr := va })
  else if acc == .fetch && !bitOf e 2 then .trap { code := .xprot, addr := va }
  else if entryKind e == 2 then
    let addr := entryAddr e + off
    let pkg := slice e 57 48
    match s.rtcHit who die ctx pkg (addr / 2 ^ 16 * 2 ^ 16) with
    | some r =>
      if accWrites acc && !r.writable then .trap { code := .wprot, addr := va }
      else .mem (.peer pkg (r.frame + addr % 2 ^ 16)) 2 false
    | none => .askPeer pkg (addr / 2 ^ 16 * 2 ^ 16) addr
  else if accWrites acc then .mem (s.locOf (entryAddr e + off)) cache exact
  else match frame with
    | some fr => .mem (s.locOf (fr + off)) cache exact
    | none => .suspend ⟨1, va, e, level, accCode acc⟩

/-- A paged address translated: by a TLB, else by a walk (R25 to R30, R37). -/
def State.pagedXlate (s : State) (who core : Option Nat) (die ctx va : Nat) (acc : Access) : Xlate :=
  if !bitOf (s.ctxReg ctx 0) 0 then .trap { code := .notable, addr := va }
  else match s.tlbLookup core die ctx va with
    | some t => s.leafXlate who die ctx va t.leaf.toNat t.size (some t.frame) acc
    | none =>
      match s.walk die ctx va with
      | .leaf e level =>
        s.leafXlate who die ctx va e (pageSize level) (s.readFrame die ctx va e) acc
      | .absent e level => .suspend ⟨0, va, e, level, accCode acc⟩
      | .fault c level => .trap { code := c, addr := va, detail := if c == .memerr then s.walkErrorCode die ctx va else level }

/-- The general space (R13, R21, R25), for an agent of an identifier. -/
def State.globalXlate (s : State) (who core : Option Nat) (die ctx va : Nat) (acc : Access) : Xlate :=
  if s.isHeap ctx va then s.heapXlate ctx va acc else s.pagedXlate who core die ctx va acc

/-- A team of a launch. -/
def State.team? (s : State) (launch team : BitVec 32) : Option Team :=
  s.teams.find? fun t => t.launch == launch && t.num == team
/-- A team's allocation on a core. -/
def State.alloc? (s : State) (p : Pad) : Option Alloc :=
  s.allocs.find? fun a => a.core == p.core && a.launch == p.launch && a.team == p.team

/-- A window access against the allocation's size (R14): every byte must lie in it. -/
def State.padXlate (s : State) (p : Pad) (off n va : Nat) : Xlate :=
  if off + n ≤ (s.alloc? p).elim 0 Alloc.size then .pad p off else .trap { code := .spbound, addr := va }

/-- The team-slice window (R15): only an exchange store reaches another member's slice. -/
def State.sliceXlate (s : State) (p : Pad) (va n : Nat) (xst : Bool) : Xlate :=
  let m := (va - 0x1FFFF10000000) / 0x80000
  let off := (va - 0x1FFFF10000000) % 0x80000
  match (s.team? p.launch p.team).bind fun t => t.members[m]? with
  | none => .trap { code := .spbound, addr := va }
  | some core =>
    if core == p.core || xst then s.padXlate { p with core } off n va
    else .trap { code := .sliceacc, addr := va }

/-- The first byte of the own scratchpad window, of the slice window and of the reserved space (R13). -/
def ownWindow : Nat := 0x1FFFF00000000
def sliceWindow : Nat := 0x1FFFF10000000
def reservedSpace : Nat := 0x1FFFF20000000

/-- `translate` of R268 for an access of `n` bytes by an agent of a cohort (R11 to R15): `team` is the
fibre's team, or the lead team for the uniform side. -/
def State.xlate (s : State) (c : Cohort) (team : BitVec 32) (va n : Nat) (acc : Access) (xst : Bool := false) :
    Xlate :=
  let p : Pad := { core := c.core, launch := c.launch, team }
  if 2 ^ 49 ≤ va then .trap { code := .noncanon, addr := va }
  else if reservedSpace ≤ va then .trap { code := .reserved, addr := va }
  else if ownWindow ≤ va && acc == .fetch then .trap { code := .xprot, addr := va }
  else if sliceWindow ≤ va then s.sliceXlate p va n xst
  else if ownWindow ≤ va then s.padXlate p (va - ownWindow) n va
  else s.globalXlate (some c.uid) (some c.core) (dieOf c.core) c.ctx va acc

/-! ## The fault table (R38 to R42) -/

/-- The page of a fault: its 64 KiB virtual page (R38, R176). -/
def faultPage (va : Nat) : Nat := va / 2 ^ 16 * 2 ^ 16

/-- A die's entry for a page. -/
def State.faultEntry? (s : State) (die ctx page : Nat) : Option FaultEntry :=
  s.faults.find? fun e => e.die == die && e.ctx == ctx && e.page == page && !e.overflow

/-- Whether a die's fault table has room for a context's page, within its quota (R39, R441). -/
def State.faultRoom (s : State) (die ctx : Nat) : Bool :=
  s.faults.countP (fun e => e.die == die && !e.overflow) < 1024 &&
    s.faults.countP (fun e => e.die == die && fnOf e.ctx == fnOf ctx && !e.overflow) < s.quota 1024 (fnOf ctx)

/-- A fault descriptor (R40). -/
def FaultEntry.bytes (e : FaultEntry) : List Byte :=
  toBytes 8 e.va ++ toBytes 8 e.entry.toNat ++ toBytes 2 e.ctx ++ toBytes 1 e.code ++ toBytes 1 e.acc ++
    toBytes 1 e.die ++ toBytes 1 e.level ++ toBytes 2 0 ++ toBytes 8 e.heart

/-- FAULTQ and FAULTPTR of a context. -/
def State.faultFull (s : State) (ctx : Nat) : Bool := s.ringFull (fnOf ctx) (ctxOff ctx 0x28) (ctxOff ctx 0x30)

/-- Pending descriptors written, oldest first, while the ring has room (R40). -/
def State.postFaults (s : State) : State :=
  s.faults.foldr (fun e t =>
    if e.posted || e.overflow || ringLen (t.ctxReg e.ctx 0x28) == 0 || t.faultFull e.ctx then t
    else
      ({ t with faults := t.faults.map fun (d : FaultEntry) => if d.id == e.id then { d with posted := true } else d }.ringPut
        (fnOf e.ctx) (ctxOff e.ctx 0x28) (ctxOff e.ctx 0x30) e.bytes).signal (fnOf e.ctx) 0) s

/-! ## Access counts and migration hints (R44) -/

/-- A migration hint of a page, dropped when the ring is full or absent (R40, R44). -/
def State.postHint (s : State) (r : PageRef) : State :=
  if ringLen (s.ctxReg r.ctx 0x28) == 0 || s.faultFull r.ctx then s
  else
    let d : FaultEntry :=
      { id := 0, die := r.die, ctx := r.ctx, page := faultPage r.va, overflow := false, posted := true, va := r.va
        entry := r.leaf, code := 3, acc := r.acc, level := levelOf r.size, heart := s.heart, peer := none }
    (s.ringPut (fnOf r.ctx) (ctxOff r.ctx 0x28) (ctxOff r.ctx 0x30) d.bytes).signal (fnOf r.ctx) 0

/-- MIGCTL's reset value (R44). -/
def migReset : Nat := 2 ^ 32 + 1000 * 2 ^ 16 + 64
/-- MIGCTL in force in the current window of a context (R23, R44). -/
def State.migCtl (s : State) (ctx : Nat) : Nat := ((s.migWindows.find? fun w => w.1 == ctx).map fun w => w.2.1).getD migReset
/-- The cycles of a window. -/
def windowCycles (ctl : Nat) : Nat := max 1 (slice ctl 31 16) * 1000
/-- The next window boundary of a context. The windows of MIGCTL's reset value begin at multiples of its length from cycle
0 (log 47). -/
def State.nextWindow (s : State) (ctx : Nat) : Nat :=
  match s.migWindows.find? fun w => w.1 == ctx with
  | some w => w.2.2 + windowCycles w.2.1
  | none => (s.clock / windowCycles migReset + 1) * windowCycles migReset

/-- The counter with the lowest count among those that a test picks. -/
def lowestCount (p : AccessCount → Bool) (cs : List AccessCount) : Option AccessCount :=
  (cs.filter p).foldl (fun m a => match m with
    | some b => if a.count < b.count then some a else m
    | none => some a) none

/-- The counters once a new page of a function has its entry on a die: beyond the function's quota its own
lowest goes, and in a full array the lowest of all (R44, R441). -/
def State.countRoom (s : State) (die fn : Nat) : List AccessCount :=
  let cs := s.accessCounts
  let drop (p : AccessCount → Bool) : List AccessCount := (lowestCount p cs).elim cs cs.erase
  let own (a : AccessCount) : Bool := a.die == die && fnOf a.ctx == fn
  if s.quota 2048 fn ≤ cs.countP own then drop own
  else if 2048 ≤ cs.countP (fun a => a.die == die) then drop fun a => a.die == die
  else cs

/-- A die counts a request for a page that missed in the L2 (R44); a count that passes THRESH posts a hint, once a window:
the first request beyond THRESH does (log 52). -/
def State.countPage (s : State) (r : PageRef) : State :=
  let page := r.va / r.size * r.size
  let thresh := max 1 (slice (s.migCtl r.ctx) 15 0)
  match s.accessCounts.find? fun a => a.die == r.die && a.ctx == r.ctx && a.page == page with
  | none => { s with accessCounts := { die := r.die, ctx := r.ctx, page, count := 1 } :: s.countRoom r.die (fnOf r.ctx) }
  | some a =>
    let b : AccessCount := { a with count := a.count + 1 }
    let s1 := { s with accessCounts := b :: s.accessCounts.erase a }
    if thresh < b.count && !s.hinted.contains (r.die, r.ctx, page) then
      { s1 with hinted := (r.die, r.ctx, page) :: s.hinted }.postHint r
    else s1

/-- Whether an address is translated by the tables: neither heap nor scratchpad. -/
def State.isPaged (s : State) (ctx va : Nat) : Bool := va < ownWindow && !s.isHeap ctx va

/-- A walk that ends in no translation: an address that no TLB of the agent translates is walked for all that (R28). -/
def State.walkNote (s : State) (core : Option Nat) (die ctx va : Nat) : State :=
  if !s.isPaged ctx va || !bitOf (s.ctxReg ctx 0) 0 || (s.tlbLookup core die ctx va).isSome then s
  else (s.walkError die ctx va).elim (s.walkDone die ctx va) fun pa => (s.walkDone die ctx va).enterError (pa / 64 * 64) (fnOf ctx)

/-- How many sectors some bytes lie in. -/
def sectorCount (a n : Nat) : Nat := (a % 64 + n + 63) / 64

/-- The sector requests of an access that no L2 serves, since its page lies in host memory (R44). -/
def State.countHost (s : State) (page : Option PageRef) (sectors : Nat) : State :=
  (List.range sectors).foldl (fun t _ => page.elim t t.countPage) s

/-- The leaf that translates an address for an agent, with its page's size: a TLB's, or the walk's where no TLB can hold it, as of a
read-duplicated page on a die without a replica (R29, R46). -/
def State.leafNow (s : State) (core : Option Nat) (die ctx va : Nat) : Option (Word64 × Nat) :=
  match s.tlbLookup core die ctx va with
  | some t => some (t.leaf, t.size)
  | none => match s.walk die ctx va with
    | .leaf e level => some (BitVec.ofNat 64 e, pageSize level)
    | _ => none

/-- The page that an access counts against (R44): one whose leaf has MIGR, and that lies on another die or in host memory. -/
def State.pageRef (s : State) (core : Option Nat) (die ctx va acc : Nat) : Option PageRef :=
  if !s.isPaged ctx va || !bitOf (s.migCtl ctx) 32 then none
  else (s.leafNow core die ctx va).bind fun t =>
    let e := t.1.toNat
    if bitOf e 62 && (entryKind e == 1 || (entryKind e == 0 && homeDie (entryAddr e) != die)) then
      some { die, ctx, va, acc, leaf := t.1, size := t.2 }
    else none

/-- A paged access: its translation enters the TLBs (R29), and a write of a read-duplicated page is remembered (R47). `acc` is ACC
of R40. -/
def State.notePaged (s : State) (core : Option Nat) (die ctx va acc : Nat) : State :=
  if !s.isPaged ctx va then s
  else
    let s1 := s.tlbFill core die ctx va
    match s1.leafNow core die ctx va with
    | some t =>
      let page := va / t.2 * t.2
      if bitOf acc 1 && bitOf t.1.toNat 61 && !s1.rdupWrites.contains (ctx, page) then
        { s1 with rdupWrites := (ctx, page) :: s1.rdupWrites }
      else s1
    | none => s1

/-- A fault enters a die's table, unless its page already has an entry; beyond the table's room it waits on the
overflow list (R39, R40). -/
def State.parkPage (s : State) (die ctx : Nat) (f : PageFault) : State :=
  let page := faultPage f.va
  if (s.faultEntry? die ctx page).isSome then s
  else
    { s with nextUid := s.nextUid + 1
             faults := { id := s.nextUid, die, ctx, page, overflow := !s.faultRoom die ctx, posted := false, va := f.va
                         entry := BitVec.ofNat 64 (if f.cls == 4 then 0 else if f.cls == 1 then 0 else f.entry)
                         code := f.cls, acc := f.acc, level := f.level, heart := s.heart, peer := none } :: s.faults }.postFaults

end Sys2Proof.Machine
end

