-- ==== Sys2Proof/Machine/L2.lean ====
section
/-! DEFINITION. The slices of the L2 and the DRAM behind them (spec/02 R68 to R73, R75, R79, spec/17 R480, R481): which
lines they hold, and when a core's writes perform there. The bytes themselves are those of State.mem and of the view
sectors. -/

namespace Sys2Proof.Machine

open Sys2Proof

/-! ## DRAM (R75, R79, R480, R481) -/

/-- The counters of the pseudo-channel that a sector goes to. -/
def dramCounter (b : BankId) (o : Nat) : Nat :=
  0xC0000 + b.stack / 4 * 0x10000 + b.stack % 4 * 0x4000 + (2 * b.channel + b.pc) * 0x100 + o

/-- A counter of R480 goes up: the cycle is kept with it (R481). -/
def State.dramCount (s : State) (off : Nat) : State :=
  { s.regInc 0 off with dramTicks := (s.clock, off :: if s.dramTicks.1 == s.clock then s.dramTicks.2 else []) }

/-- Whether the row of a queued request is open, for its owner: a row that another opened is precharged first (R427), and one idle for
128 cycles has closed. -/
def State.rowHit (s : State) (r : DramReq) : Bool :=
  s.dramRows.any fun x => x.bank == r.bank && x.row == r.row && x.fn == r.fn && s.clock < x.used + 128

/-- A row closed. -/
def State.closeRow (s : State) (b : BankId) : State := { s with dramRows := s.dramRows.filter fun r => r.bank != b }

/-- The row of a request stands open in its bank, used at this cycle. -/
def State.openRow (s : State) (r : DramReq) : State :=
  { s with dramRows := { bank := r.bank, row := r.row, fn := r.fn, used := s.clock } :: (s.closeRow r.bank).dramRows }

/-- One sector read or written at its controller, with an activate when its row is not open. -/
def State.dramServe (s : State) (r : DramReq) : State :=
  let s1 := { s with dramQueue := s.dramQueue.erase r }.dramCount (dramCounter r.bank (if r.write then 8 else 0))
  (if s.rowHit r then s1 else s1.dramCount (dramCounter r.bank 0x10)).openRow r

/-- Whether a request stands in the queue of a bank's pseudo-channel. -/
def DramReq.beside (r : DramReq) (b : BankId) : Bool := r.bank.stack == b.stack && r.bank.channel == b.channel && r.bank.pc == b.pc

/-- The request that a pseudo-channel serves next (R79): row hits before row misses, but one older than 512 cycles before every
younger one. -/
def State.dramNext (s : State) (b : BankId) : Option DramReq :=
  let q := s.dramQueue.filter fun r => r.beside b
  ((q.find? fun r => 512 < s.clock - r.since).or (q.find? s.rowHit)).or q.head?

/-- A pseudo-channel serves some requests. -/
def State.dramTake (b : BankId) : Nat → State → State
  | 0, s => s
  | n + 1, s => match s.dramNext b with
    | some r => State.dramTake b n (s.dramServe r)
    | none => s

/-- A pseudo-channel serves requests until one for a sector is served. -/
def State.dramUntil (pa : Nat) (b : BankId) : Nat → State → State
  | 0, s => s
  | n + 1, s => match s.dramNext b with
    | some r => if r.pa == pa then s.dramServe r else State.dramUntil pa b n (s.dramServe r)
    | none => s

/-- A request joins its pseudo-channel's queue of 64, which serves one first when it is full. One for another row closes its
bank's open row. -/
def State.dramAsk (s : State) (fn pa : Nat) (write : Bool) : State :=
  let b := s.bankOf pa
  let s1 := if 64 ≤ s.dramQueue.countP (fun r => r.beside b) then State.dramTake b 1 s else s
  { s1 with
    dramRows := s1.dramRows.filter fun r => r.bank != b || r.row == rowOf pa
    dramQueue := s1.dramQueue ++ [{ fn, pa, bank := b, row := rowOf pa, write, since := s1.clock }] }

/-- A sector's access that something waits for: every request that its pseudo-channel serves before it, and it. -/
def State.dramAccess (s : State) (fn pa : Nat) (write : Bool) : State :=
  let t := s.dramAsk fn pa write
  if write then t else State.dramUntil pa (s.bankOf pa) t.dramQueue.length t

/-- The queued requests that `p` picks are served, with all that their pseudo-channels serve before them. -/
def State.dramQuiet (s : State) (p : DramReq → Bool) : State :=
  (s.dramQueue.filter p).foldl (fun t r => if t.dramQueue.contains r then State.dramUntil r.pa r.bank t.dramQueue.length t else t) s

/-- The controllers' part in a step of some other agent: each pseudo-channel serves some of its requests (log 2). -/
def State.dramDrift (s : State) : State :=
  (s.dramQueue.map DramReq.bank).foldl (fun t b => State.dramTake b (s.choice (4 * (64 * b.stack + 2 * b.channel + b.pc) + 3) % 2) t) s

/-! ## The slices of the L2 (R68 to R71) -/

/-- Which sector of its line an address lies in. -/
def sectorNo (pa : Nat) : Nat := pa % 256 / 64

/-- The line of the L2 that holds an address. -/
def State.l2Line? (s : State) (pa : Nat) : Option L2Line := s.l2.find? fun l => l.line == pa / 256

/-- The L2 without a line, and with a line as the most recently used: a request that finds it, an uncached one too, and the arrival of a
sector renew it (log 48). -/
def State.l2Drop (s : State) (l : L2Line) : State := { s with l2 := s.l2.filter fun x => x.line != l.line }
def State.l2Put (s : State) (l : L2Line) : State := { s with l2 := l :: s.l2.filter fun x => x.line != l.line }

/-- The packed bytes of a view sector, and its scale bytes: their first address (R104). -/
def Window.sources (w : Window) (sector : Nat) : List Nat :=
  let e := (sector - w.view) / 2
  (w.packAt e).1 :: (if w.fmt == 3 then [w.scale + e / 8] else [])

/-- The stores of a view sector's encoding at the slices of its packed and scale ranges (R108). -/
def State.askSources (s : State) (fn : Nat) (w : Window) (sector : Nat) : State :=
  (w.sources sector).zipIdx.foldl (fun t (pa, i) =>
    t.askRange fn pa (if i == 1 then 4 else if w.fmt < 2 then 32 else 16) .store false) s

/-- A dirty sector written back (R69): to DRAM, or, for a view sector, encoded into its packed and scale bytes, which
are stores at their own slices (R108). -/
def State.writeBack (s : State) (fn sector : Nat) : State :=
  match s.viewOf sector with
  | none => s.dramAccess fn sector true
  | some w =>
    match s.views.find? fun v => v.win == w.num && v.sector == sector with
    | none => s
    | some v =>
      let s1 := if v.dirty then (s.encodeSector w sector v.bytes).askSources fn w sector else s
      { s1 with views := s1.views.filter fun x => !(x.win == w.num && x.sector == sector) }

/-- The sectors in HBM that stand for a sector of a line: of a view sector, those of its packed and scale bytes. -/
def State.homesOf (s : State) (pa : Nat) : List Nat :=
  match s.viewOf pa with
  | none => [pa]
  | some w => w.sources pa

/-- The fetch of a sector that its slice wants comes to its end (R69): its request is served, or its window's decoder reads what no
line holds (R107). -/
def State.endFetch (s : State) (sector : Nat) : State :=
  if (s.viewOf sector).isNone then s.dramQuiet fun r => r.pa == sector && !r.write
  else (s.homesOf sector).foldl (fun t x => if (t.l2Line? x).isSome then t else t.dramAccess 0 (x / 64 * 64) false) s

/-- A dirty sector that its slice cannot read is lost as its line goes: it is entered, and posted before any consumer uses it (R462,
R464, R466). -/
def State.loseSector (s : State) (l : L2Line) (sector : Nat) : State := (s.listSector sector).sliceError l 2 sector 0xFFFF

/-- A line leaves its slice: its dirty sectors are written back, once their fetch has come where they still wait for it, and the view
sectors it held go (R69, R107). -/
def State.l2Evict (s : State) (fn : Nat) (l : L2Line) : State :=
  let s1 := (List.range 4).foldl (fun t i =>
    let sector := l.line * 256 + 64 * i
    if (l.dirty &&& l.bad).getLsbD i then t.loseSector l sector
    else if l.dirty.getLsbD i then (if l.valid.getLsbD i then t else t.endFetch sector).writeBack fn sector else t) (s.l2Drop l)
  { s1 with views := s1.views.filter fun v => v.sector / 256 != l.line || v.dirty }

/-- Lines within a range of addresses are written back and invalidated. -/
def State.l2Flush (s : State) (p : L2Line → Bool) : State :=
  (s.l2.filter p).foldl (fun t l => t.l2Evict 0 l) s

/-- A way of a set for a new line (R70), never a retired one (R465): a free one in the mask, or the victim's, the least recently used. -/
def State.victim (s : State) (pa mask : Nat) : Option Nat × Option L2Line :=
  let retired (w : Nat) : Bool := s.retiredWays.contains (homeDie pa, homeSlice (pa / 256 * 256), setOf (pa / 256) * 16 + w)
  let mates := s.l2.filter fun l =>
    l.die == homeDie pa && l.slice == homeSlice (pa / 256 * 256) && setOf l.line == setOf (pa / 256) && bitOf mask l.way && !retired l.way
  let free := (List.range 16).find? fun w => bitOf mask w && !retired w && !mates.any fun l => l.way == w
  match free with
  | some w => (some w, none)
  | none => (mates.getLast?.map L2Line.way, mates.getLast?)

/-- A line for an address in a function's own ways: the resident one, or a new one in place of a victim. A hit in a way
outside the mask is written back and goes first (R70). -/
def State.l2Own (s : State) (fn pa : Nat) : State × Option L2Line :=
  let mask := s.wayMask fn
  let s1 := match s.l2Line? pa with
    | some l => if bitOf mask l.way then s else s.l2Evict fn l
    | none => s
  match s1.l2Line? pa with
  | some l => (s1, some l)
  | none =>
    let (way, old) := s1.victim pa mask
    let s2 := match old with
      | some l => s1.l2Evict fn l
      | none => s1
    (s2, way.map fun w => { die := homeDie pa, slice := homeSlice (pa / 256 * 256), line := pa / 256, way := w
                            valid := 0#4, dirty := 0#4, want := 0#4 })

/-- Whether a request of a function travels as an uncached transfer (R71). -/
def State.isUncached (s : State) (fn cache : Nat) : Bool := cache == 2 || s.wayMask fn == 0

/-- Whether a request writes. -/
def SliceReq.writes (r : SliceReq) : Bool := r.kind != .load
/-- Whether a request stores the whole of a sector of its line. -/
def SliceReq.whole (r : SliceReq) (i : Nat) : Bool :=
  r.kind == .store && r.bytes &&& lineBytes (64 * i) 64 == lineBytes (64 * i) 64
/-- The first byte of a sector of a request's line. -/
def SliceReq.pa (r : SliceReq) (i : Nat) : Nat := r.line * 256 + 64 * i

/-- A request for a sector that its slice does not hold counts against its page (R44; log 47). -/
def State.missed (s : State) (r : SliceReq) : State := r.page.elim s s.countPage

/-- One sector of a request served by a line (R69): a whole-sector store needs no fetch; a load or a partial store of a
sector that is not valid wants it from HBM. -/
def State.serveLine (s : State) (r : SliceReq) (l : L2Line) (i : Nat) : State :=
  let bit := 1#4 <<< i
  let hit := l.valid.getLsbD i
  let asks := !hit && !r.whole i && !l.want.getLsbD i && (s.viewOf (r.pa i)).isNone
  (if hit then s else if asks then (s.missed r).dramAsk r.fn (r.pa i) false else s.missed r).l2Put { l with
    valid := if r.whole i then l.valid ||| bit else l.valid
    dirty := if r.writes then l.dirty ||| bit else l.dirty
    want := if hit || r.whole i then l.want else l.want ||| bit }

/-- A cached request of a sector at its home slice, in the function's own ways (R69, R70). -/
def State.serveCached (s : State) (r : SliceReq) (i : Nat) : State :=
  match s.l2Own r.fn (r.pa i) with
  | (s1, none) => s1
  | (s1, some l) => s1.serveLine r l i

/-- HBM serves a sector of an uncached request, without allocation (R71): a read; a write of the whole; a read and a write
for a part of it, and for each atomic operation on it, one at a time. -/
def State.serveHbm (s : State) (r : SliceReq) (i : Nat) : State :=
  let reads := if r.whole i then 0 else if r.kind == .atomic then r.lanes.countP fun x => x.1 / 64 == i else 1
  (s.homesOf (r.pa i)).foldl (fun t pa =>
    if r.writes then (List.range (max 1 reads)).foldl (fun u _ =>
      (if r.whole i then u else u.dramAccess r.fn pa false).dramAccess r.fn pa true) t
    else t.dramAccess r.fn pa false) (s.missed r)

/-- An uncached request of a sector (R71): the resident line serves it, in any way, or HBM does. -/
def State.serveUncached (s : State) (r : SliceReq) (i : Nat) : State :=
  match s.l2Line? (r.pa i) with
  | some l => s.serveLine r l i
  | none => s.serveHbm r i

/-- Tags that neither copy gives back, met by a request: the slice is reported as a hung unit, once (R36, R462; log 12). -/
def State.checkTags (s : State) (r : SliceReq) : State :=
  let set := (homeDie (r.line * 256), homeSlice (r.line * 256), setOf r.line)
  if s.badTags.contains set then
    ({ s with badTags := s.badTags.erase set }.postError 3 1 0 set.1 set.2.1 set.2.2 0 r.fn).signal 0 67
  else s

/-- A clean sector that its slice cannot read is fetched again (R462, R466). -/
def State.refetch (s : State) (pa : Nat) : State :=
  match s.l2Line? pa with
  | some l =>
    if (l.bad &&& ~~~l.dirty).getLsbD (sectorNo pa) then
      let bit := 1#4 <<< sectorNo pa
      { s with l2 := s.l2.map fun (x : L2Line) => if x.line == l.line then { x with valid := x.valid &&& ~~~bit, bad := x.bad &&& ~~~bit } else x }.sliceError
        l 2 (pa / 64 * 64) 0xFFFF
    else s
  | none => s

/-- The tags of a slice once it has served a request, sector by sector. -/
def State.serveTags (s : State) (r : SliceReq) : State :=
  (List.range 4).foldl (fun t i =>
    if r.sectors.getLsbD i then
      let u := t.refetch (r.pa i)
      (if r.uncached || u.wayMask r.fn == 0 then u.serveUncached r i else u.serveCached r i)
    else t) (s.checkTags r)

/-- A request served: the writes that it carries perform (R69, R122). -/
def State.serveSlice (s : State) (r : SliceReq) : State :=
  (if r.writes then s.drainStores fun p => some p.core == r.core && p.request == r.id else s).serveTags r

/-- Whether two requests travel from one core to one slice, which keeps their order (R72). -/
def SliceReq.lane (r q : SliceReq) : Bool :=
  r.core.isSome && r.core == q.core && sameSlice (.hbm (r.line * 256)) (.hbm (q.line * 256))

/-- A request of an identifier served, after those that its core sent to its slice before it (R72). -/
def State.serveTo (s : State) (id : Nat) : State :=
  match s.requests.find? fun r => r.id == id with
  | none => s
  | some r =>
    let due (q : SliceReq) : Bool := q.id == id || (q.id < id && r.lane q)
    (s.requests.filter due).foldl State.serveSlice { s with requests := s.requests.filter fun q => !due q }

/-- A wanted sector arrives from HBM, or from the decoder of its window, which reads the packed and scale bytes
uncached (R69, R107). -/
def State.l2Arrive (s : State) (l : L2Line) (pa : Nat) : State :=
  let bit := 1#4 <<< sectorNo pa
  let s1 := s.l2Put { l with valid := l.valid ||| bit, want := l.want &&& ~~~bit }
  match s.viewOf pa with
  | none => s1.endFetch (pa / 64 * 64)
  | some w =>
    let sector := pa / 64 * 64
    let s2 := (w.sources sector).foldl (fun t x =>
      (rangeReqs 0 (x / 64 * 64) 64 .load true none).foldl State.serveTags t) s1
    if s2.views.any fun v => v.win == w.num && v.sector == sector then s2
    else { s2 with views := { win := w.num, sector, bytes := s2.decodeSector w sector, dirty := false } :: s2.views }

/-- The outstanding requests that `p` picks are served, each after those that its core sent to its slice before it. -/
def State.serveWhere (s : State) (p : SliceReq → Bool) : State := (s.requests.filter p).foldl (fun t r => t.serveTo r.id) s

/-- Every wanted sector arrives. -/
def State.fillAll (s : State) : State :=
  s.l2.foldl (fun t l => (List.range 4).foldl (fun u i =>
    match (u.l2Line? (l.line * 256 + 64 * i)).filter fun k => k.want.getLsbD i with
    | some k => u.l2Arrive k (l.line * 256 + 64 * i)
    | none => u) t) s

/-- What a core has asked of the slices is done: what a release step or the end of its work needs. -/
def State.serveCore (s : State) (core : Nat) : State := s.serveWhere fun r => r.core == some core

/-- What a function's agents that sit on no core have asked of the slices is done: what the end of an engine operation needs. -/
def State.serveAll (s : State) (fn : Nat) : State :=
  if s.requests.any fun r => r.fn == fn && r.core.isNone then (s.serveWhere fun r => r.fn == fn && r.core.isNone).fillAll
  else if s.l2.any fun l => l.want != 0#4 then s.fillAll else s

/-- A format flush of the windows in force that `p` picks (R111): their dirty sectors are encoded, the bytes stored at their slices and
acknowledged, and every line of their view ranges goes. -/
def State.flushViews (s : State) (p : Nat → Bool) : State :=
  let s1 := ((s.views.filter fun v => p v.win && v.dirty).foldl (fun t v => t.writeBack 0 v.sector) s).serveAll 0
  { s1 with views := s1.views.filter fun v => !(p v.win && s.windowInForce v.win)
            l2 := s1.l2.filter fun l => !(s.viewOf (l.line * 256)).any fun w => p w.num }

/-! ## Accesses of agents that sit on no core (R69, R71, R125, R463, R464) -/

/-- Bytes cut at sector boundaries. -/
def sectorParts : Nat → Nat → List Byte → List (Nat × List Byte)
  | 0, _, _ => []
  | fuel + 1, pa, bs =>
    let m := min bs.length (64 - pa % 64)
    if bs.isEmpty then [] else (pa, bs.take m) :: sectorParts fuel (pa + m) (bs.drop m)

/-- Bytes of HBM performed sector by sector: a whole one heals its sector, and a partial one of a sector with an error is
dropped and logged (R463, R464). -/
def State.writeSectors (s : State) (fn pa : Nat) (bs : List Byte) (uncached : Bool) : State :=
  (sectorParts (bs.length / 64 + 2) pa bs).foldl (fun t p =>
    if p.2.length == 64 then (t.healSector p.1).perform (.hbm p.1) p.2 uncached none (some 1)
    else if t.sectorBad p.1 then t.enterError (p.1 / 64 * 64) fn
    else t.perform (.hbm p.1) p.2 uncached none (some 1)) s

/-- A write of HBM by an agent of a function: its requests, and its bytes, which perform at its issue. -/
def State.agentWrite (s : State) (fn pa : Nat) (bs : List Byte) (uncached : Bool) (page : Option PageRef := none) : State :=
  (s.askRange fn pa bs.length .store uncached page).writeSectors fn pa bs uncached

end Sys2Proof.Machine
end

