-- ==== Sys2Proof/Machine/Peer.lean ====
section
/-! DEFINITION. Requests of an agent to a peer package: spec/01 R49 to R51 and spec/16 R471, R472. -/

namespace Sys2Proof.Machine

open Sys2Proof

/-! ## Requests -/

/-- The lane that stands for a write which no word waits for, for the translation that such a write needs again, and for
the renewal of a lease (R51). -/
def postedLane : Nat := 64
def resendLane : Nat := 65
def renewLane : Nat := 66

/-- Whether a request has no answer yet. -/
def PeerReq.isOpen (r : PeerReq) : Bool := r.reply.isNone && !r.aborted

/-- The bytes that a request of a lane for a peer's memory returned to an agent. -/
def State.peerReply (s : State) (uid lane addr n : Nat) : Option (List Byte) :=
  (s.peerReqs.find? fun r => r.uid == uid && r.lane == lane && r.addr == addr && !r.aborted &&
    r.reply.elim false fun b => b.length == n).bind PeerReq.reply

/-- RTCTL.OPEN is in force: new requests of the package wait (R472). -/
def State.routeOpenNow (s : State) : Bool := bitOf (s.reg 0 0xF900) 0

/-- The usable ports toward a package, and whether there is one (R472). -/
def State.portsTo (s : State) (pkg : Nat) : List Nat :=
  (List.range 20).filter fun i => bitOf (s.reg 0 (0x60000 + pkg * 8)) i && !s.portsDown.contains i
def State.portTo (s : State) (pkg : Nat) : Bool := !(s.portsTo pkg).isEmpty

/-- The port that a flow of a function to a package takes, and keeps while the usable ports are the same (R472). -/
def State.portOf (s : State) (fn pkg : Nat) : Option Nat :=
  (s.portsTo pkg)[Config.flowHash s.pkgNum pkg fn % (s.portsTo pkg).length]?

/-- The flits of a message (R471): 40 bytes of the payload in each, and at most 16 flits together. -/
def messageFlits (kind dst src fn tag lease : Nat) (payload : List Byte) : List Flit :=
  let n := max 1 ((payload.length + 39) / 40)
  (List.range n).map fun i =>
    { kind, dst, src, fn, tag, lease, follow := min n (i / 16 * 16 + 16) - 1 - i, payload := (payload.drop (40 * i)).take 40, left := false }

/-- A message sent. -/
def State.sendFlit (s : State) (kind dst fn tag lease : Nat) (payload : List Byte) : State :=
  { s with fabricOut := s.fabricOut ++ messageFlits kind dst s.pkgNum fn tag lease payload }

/-- What a request asks, of which page, and for which access. -/
structure Ask where
  pkg : Nat
  page : Nat
  addr : Nat
  va : Nat
  acc : Nat
  lane : Nat
  lease : Nat
  kind : PeerKind
  deriving DecidableEq, Repr

/-- TYPE of a request's flit (R471). -/
def PeerKind.flit : PeerKind → Nat
  | .translate => 5 | .read _ => 1 | .write _ => 2 | .atomic _ _ _ _ => 3

/-- The payload of a request's flit, laid out by the model (log 28). -/
def PeerReq.payload (r : PeerReq) : List Byte :=
  toBytes 8 r.addr ++ (match r.kind with
    | .translate => []
    | .read n => toBytes 8 n
    | .write d => d
    | .atomic _ w x y => toBytes 8 (if w then 8 else 4) ++ toBytes 8 x.toNat ++ toBytes 8 y.toNat)

/-- A request is sent. -/
def State.sendReq (s : State) (r : PeerReq) : State := s.sendFlit r.kind.flit r.pkg r.fn r.txn r.lease r.payload

/-- A request goes out; with no usable port it is aborted (R472). -/
def State.dispatchReq (s : State) (r : PeerReq) : State :=
  let good := s.portTo r.pkg
  let t : State := { s with peerReqs := s.peerReqs.map fun (q : PeerReq) =>
    if q.txn == r.txn then { q with sent := good, aborted := !good } else q }
  if good then t.sendReq r else t

/-- Whether an outstanding request of an agent asks the same. -/
def PeerReq.same (r : PeerReq) (uid : Nat) (a : Ask) : Bool :=
  r.uid == uid && r.lane == a.lane && a.lane != postedLane && r.kind == a.kind &&
    (if a.kind == .translate then r.pkg == a.pkg && r.page == a.page else r.addr == a.addr)

/-- A request of an agent joins those outstanding, unless the same one is, and leaves. While the route table is open a posted
write waits for its close, and no other request is made: its issuer asks again (R472). -/
def State.askAs (s : State) (uid : Nat) (core : Option Nat) (die ctx : Nat) (a : Ask) : State :=
  let r : PeerReq :=
    { txn := s.nextUid, uid, core, die, ctx, fn := fnOf ctx, pkg := a.pkg, page := a.page, addr := a.addr, va := a.va
      acc := a.acc, lane := a.lane, lease := a.lease, kind := a.kind, sent := false, reply := none, aborted := false }
  if s.peerReqs.any (fun q => q.same uid a) || (s.routeOpenNow && a.lane != postedLane) ||
      (a.lane == renewLane && !s.portTo a.pkg) then s
  else
    let t := { s with nextUid := s.nextUid + 1, peerReqs := s.peerReqs ++ [r] }
    if s.routeOpenNow then t else t.dispatchReq r

/-- A request of a cohort. -/
def State.askPeer (s : State) (c : Cohort) (a : Ask) : State := s.askAs c.uid (some c.core) (dieOf c.core) c.ctx a

/-- The requests that an agent waits for in place. -/
def State.openTxns (s : State) (uid : Nat) : List Nat :=
  (s.peerReqs.filter fun r => r.uid == uid && r.isOpen && r.lane < postedLane).map PeerReq.txn

/-- A request of an agent that ended with an aborted completion (R444, R472), in place. -/
def State.abortedReq (s : State) (uid : Nat) : Option PeerReq :=
  s.peerReqs.find? fun r => r.uid == uid && r.aborted && r.lane < postedLane

/-! ## Leases (R10, R50, R51) -/

/-- The package and the export page that a peer leaf gives to an address (R49). -/
def State.peerPage (s : State) (die ctx va : Nat) : Option (Nat × Nat) :=
  match s.walk die ctx va with
  | .leaf e level => if entryKind e == 2 then some (slice e 57 48, faultPage (entryAddr e + va % pageSize level)) else none
  | _ => none

/-- The remote translation under which an agent of a context reaches such an address. -/
def State.peerEntry (s : State) (who die ctx va : Nat) : Option RtcEntry :=
  (s.peerPage die ctx va).bind fun p => s.rtcHit (some who) die ctx p.1 p.2

/-- The lease that such an access carries. -/
def State.leaseOf (s : State) (who die ctx va : Nat) : Nat := ((s.peerEntry who die ctx va).map RtcEntry.lease).getD 0

/-- The export page of such an address. -/
def State.exportPage (s : State) (die ctx va : Nat) : Nat := ((s.peerPage die ctx va).map Prod.snd).getD 0

/-- An entry with less than a quarter of its lease left is asked for again as it is used, and the access goes on (R51). The length of
a lease is reckoned from the pod tick at which its grant came (log 52). -/
def State.renewLease (s : State) (uid : Nat) (core : Option Nat) (die ctx va : Nat) (x : Xlate) : State :=
  match x with
  | .mem (.peer pkg _) _ _ =>
    match s.peerEntry uid die ctx va with
    | some r =>
      if 4 * (r.expiry - s.podTick) < r.expiry - r.granted then
        s.askAs uid core die ctx ⟨pkg, r.page, r.page, va, 1, renewLane, r.lease, .translate⟩
      else s
    | none => s
  | _ => s

/-- A lease of zero ticks has served the one access of its agent (R50). -/
def State.spendOnce (s : State) (uid : Nat) : State := { s with oneTime := s.oneTime.filter fun x => x.1 != uid }

/-! ## Posted writes (R122, R126, R471) -/

/-- The writes of a core to peers that have still to perform. -/
def State.peerPending (s : State) (core : Nat) : List PendingStore := s.pendingStores.filter fun p => p.core == core && !p.here

/-- Whether an agent has begun accesses of a word at peers that it has still to complete (R142): a translation is none. -/
def State.midWord (s : State) (uid : Nat) : Bool := s.peerReqs.any fun r => r.uid == uid && r.kind != .translate && r.lane < postedLane

/-- Whether a release step at `.pod` of a cohort has to wait (R126): for its core's writes to peers. -/
def State.peerOpen (s : State) (c : Cohort) : Bool :=
  !(s.peerPending c.core).isEmpty || s.peerReqs.any fun r => r.uid == c.uid && r.isOpen && r.lane < postedLane && r.kind != .translate

/-- A write of an agent on a core to a peer leaves for it, and is pending until it completes (R122); `p` holds everything
but its transaction. A write that finds no port performs nowhere. -/
def State.postPeer (s : State) (uid ctx va : Nat) (p : PendingStore) (bs : List Byte) : State :=
  match p.loc with
  | .peer pkg f =>
    let t := s.askAs uid (some p.core) (dieOf p.core) ctx
      ⟨pkg, s.exportPage (dieOf p.core) ctx va, f, va, 2, postedLane, s.leaseOf uid (dieOf p.core) ctx va, .write bs⟩
    if t.peerReqs.any fun r => r.txn == s.nextUid && r.aborted then t else t.issueWrite { p with txn := some s.nextUid }
  | _ => s

/-- A posted write that ended with an aborted completion, whose cohort takes PEERABORT at its next boundary (log 10). -/
def State.abortedWrite (s : State) (uid : Nat) : Option PeerReq :=
  s.peerReqs.find? fun r => r.uid == uid && r.aborted && (r.lane == postedLane || r.acc == accCode .fetch)

end Sys2Proof.Machine
end

