-- ==== Sys2Proof/Machine/Sync.lean ====
section
/-! DEFINITION. Scratchpad bytes and exchange stores (spec/02 R56, spec/12 R367), barriers (R371 to R376),
semaphores (R377), watches (R378, R380) and the end of an engine operation (R383 to R385). -/

namespace Sys2Proof.Machine

open Sys2Proof

/-! ## Scratchpad -/

/-- Bytes of an allocation, as every read of scratchpad returns them (R125). -/
def State.padRead (s : State) (p : Pad) (off n : Nat) : List Byte := cellsRead ((s.alloc? p).elim [] Alloc.data) off n

/-- The bank words of `n` bytes of an allocation: core, array row and bank (R56). -/
def State.padWords (s : State) (p : Pad) (off n : Nat) : List (Nat × Nat × Nat) :=
  match s.alloc? p with
  | none => []
  | some a => (List.range ((off % 4 + n + 3) / 4)).map fun i => (p.core, a.row + (off / 4 + i) / 32, (off / 4 + i) % 32)

/-- Whether some bytes of an allocation lie in a bank word with an uncorrectable error (R462). -/
def State.padBad (s : State) (p : Pad) (off n : Nat) : Bool :=
  !s.badWords.isEmpty && (s.padWords p off n).any s.badWords.contains

/-- Bytes of an allocation written at once (R125); a bank word that is written whole loses its error. -/
def State.padWrite (s : State) (p : Pad) (off : Nat) (bs : List Byte) : State :=
  let whole := s.padWords p ((off + 3) / 4 * 4) ((off + bs.length) / 4 * 4 - (off + 3) / 4 * 4)
  { s with badWords := if s.badWords.isEmpty then [] else s.badWords.filter fun b => !whole.contains b
           allocs := s.allocs.map fun a =>
      if a.core == p.core && a.launch == p.launch && a.team == p.team then
        { a with data := cellsWrite a.data off bs } else a }

/-- Whether a shadow entry collects for a barrier of a team. -/
def Shadow.of (x : Shadow) (launch team : BitVec 32) (bar : Nat) : Bool :=
  x.launch == launch && x.team == team && x.barrier == bar

/-- One shadow entry applied to its slice (R367, R374): the bytes its mask names. -/
def State.applyShadow (s : State) (x : Shadow) : State :=
  (List.range 128).foldl (fun t i =>
    if x.mask.getLsbD i then t.padWrite ⟨x.core, x.launch, x.team⟩ (x.row + i) [x.data.getD i 0#8] else t) s

/-- The shadow entries of a barrier dropped (R372, R376). -/
def State.dropShadows (s : State) (launch team : BitVec 32) (bar : Nat) : State :=
  { s with shadows := s.shadows.filter fun x => !x.of launch team bar }

/-- The shadow entries of a barrier applied and freed (R374). -/
def State.applyShadows (s : State) (launch team : BitVec 32) (bar : Nat) : State :=
  ((s.shadows.filter fun x => x.of launch team bar).foldl State.applyShadow s).dropShadows launch team bar

/-! ## Barriers -/

/-- A barrier after team creation (R371). -/
def Barrier.fresh : Barrier :=
  { valid := false, expA := 0, expB := 0, cntA := 0, cntB := 0, voidB := 0, phase := false
    lastVoid := false, fp := [] }

/-- A barrier of a team. -/
def Team.bar (t : Team) (b : Nat) : Barrier := t.barriers.getD b Barrier.fresh

/-- A team changed. -/
def State.putTeam (s : State) (t : Team) : State :=
  { s with teams := s.teams.map fun u => if u.launch == t.launch && u.num == t.num then t else u }

/-- A barrier of a team changed. -/
def State.putBar (s : State) (t : Team) (b : Nat) (x : Barrier) : State :=
  s.putTeam { t with barriers := t.barriers.set b x }

/-- The arrival parity bit of a fibre (R371). -/
def Barrier.parity (x : Barrier) (f : BitVec 16) : Bool := x.fp.contains f
/-- It set to a phase. -/
def Barrier.setParity (x : Barrier) (f : BitVec 16) (p : Bool) : Barrier :=
  let rest := x.fp.filter (· != f)
  { x with fp := if p then f :: rest else rest }

/-- Whether a barrier flips (R374). -/
def Barrier.full (x : Barrier) : Bool := x.valid && x.expA ≤ x.cntA && x.expB ≤ x.cntB

/-- The counts and the phase after a flip (R374). -/
def Barrier.flip (x : Barrier) : Barrier :=
  { x with lastVoid := 0 < x.voidB, cntA := x.cntA - x.expA, cntB := x.cntB - x.expB, voidB := 0
           phase := !x.phase }

/-- Whether a record waits on a barrier of a team. -/
def Record.waitsOn (r : Record) (launch team : BitVec 32) (bar : Nat) : Bool :=
  r.launch == launch && (match r.event with
    | .barrier t b _ => t == team && b == bar
    | _ => false)

/-- The waiters of a barrier complete: `p`D in each fibre, and their parity bits (R375, R376). -/
def State.releaseBar (s : State) (launch team : BitVec 32) (bar : Nat) (ok : Bool) : State :=
  let waiters := s.records.filter fun r => r.place == .waiting && r.waitsOn launch team bar
  let s1 := match s.team? launch team with
    | some t =>
      let x := t.bar bar
      s.putBar t bar ((waiters.flatMap Record.fibres).foldl (fun y (f : Fibre) => y.setParity f.fidx x.phase) x)
    | none => s
  s1.releaseWhere (fun r => r.waitsOn launch team bar)
    fun r => { r with fibres := r.fibres.map fun (f : Fibre) => f.setPred r.pd ok }

/-- What follows an operation on a barrier: the flip, when its counts are reached (R374). -/
def State.settleBar (s : State) (launch team : BitVec 32) (bar : Nat) : State :=
  match s.team? launch team with
  | none => s
  | some t =>
    let x := t.bar bar
    if x.full then
      let s1 := s.applyShadows launch team bar
      let y := x.flip
      (s1.putBar t bar y).releaseBar launch team bar (!y.lastVoid)
    else s

/-- One arrival of a fibre (R373). -/
def State.arrive (s : State) (launch team : BitVec 32) (bar : Nat) (fidx : BitVec 16) : State :=
  match s.team? launch team with
  | none => s
  | some t =>
    let x := t.bar bar
    (s.putBar t bar { x.setParity fidx x.phase with cntA := x.cntA + 1 }).settleBar launch team bar

/-- Engine bytes counted on a barrier, of which some are void; an invalid barrier counts none (R376, R383,
R385). -/
def State.countBytes (s : State) (launch team : BitVec 32) (bar n void : Nat) : State :=
  match s.team? launch team with
  | none => s
  | some t =>
    let x := t.bar bar
    if x.valid then
      (s.putBar t bar { x with cntB := x.cntB + n, voidB := x.voidB + void }).settleBar launch team bar
    else s

/-! ## Semaphores (R377) -/

/-- The value of a semaphore. -/
def State.sem (s : State) (fn core m : Nat) : BitVec 32 :=
  ((s.semaphores.find? fun x => x.fn == fn && x.core == core && x.sem == m).map Semaphore.val).getD 0#32

/-- Whether a value has reached a threshold (R377). -/
def semReached (val th : BitVec 32) : Bool := (val - th).toNat < 2 ^ 31

/-- A semaphore stored, and the records that it satisfies released. -/
def State.semAdd (s : State) (fn core m : Nat) (n : BitVec 32) : State :=
  let v := s.sem fn core m + n
  let rest := s.semaphores.filter fun x => !(x.fn == fn && x.core == core && x.sem == m)
  ({ s with semaphores := if v == 0#32 then rest else { fn, core, sem := m, val := v } :: rest }).releaseWhere
    (fun r => fnOf r.ctx == fn && (match r.event with
      | .semaphore c k th => c == core && k == m && semReached v th
      | _ => false)) fun r => { r with semCore := some core }

/-! ## Watches (R148, R378, R380) -/

/-- The value of `n` bytes of HBM once the first `t` performed writes stand. -/
def State.valueAt (s : State) (pa n t : Nat) : Nat :=
  ofBytes ((List.range n).map fun i => s.byteAt (.hbm (pa + i)) t)

/-- The 8 bytes of a join counter (R209), as performed. -/
def State.counter (s : State) (pa : Nat) : Nat := ofBytes (s.performedRead (.hbm pa) 8)

/-- Whether a `waitv` condition holds of a value of its location. -/
def WatchCond.holds (w : WatchCond) (x : Nat) : Bool :=
  cmpInt (if w.signed then .i32 else .n32) w.cc.toNat x w.comparand.toNat

/-- Whether a `waitv` condition holds of the location as performed. -/
def State.watchHolds (s : State) (w : WatchCond) : Bool := w.holds (ofBytes (s.performedRead (.hbm w.pa) 4))

/-- Whether the condition that a record waits for holds once the first `t` performed writes stand: its location's watch, or a
counter at 0, whose address stands in `watch`. -/
def State.watchDone (s : State) (r : Record) (t : Nat) : Bool :=
  match r.event, r.watch with
  | .watch _, some w => w.holds (s.valueAt w.pa 4 t)
  | .join _, some w => s.valueAt w.pa 8 t == 0
  | _, _ => false

/-- Whether the home slice of a location has its watch, or the die's overflow list. -/
def Record.watched (r : Record) : Bool := r.watch.elim false fun w => !w.overflow

/-- The watches that a slice holds (R378): one for each record that waits for a location of it. -/
def State.watchesOf (s : State) (pa : Nat) : List Record :=
  s.records.filter fun r => r.place == .waiting && r.watched && r.watch.elim false fun w => sameSlice (.hbm w.pa) (.hbm pa)

/-- Whether a watch of a function has found its slice's table full, or the function's quota of it (R378, R441). -/
def State.watchesFull (s : State) (fn pa : Nat) : Bool :=
  let ws := s.watchesOf pa
  1024 < ws.length || s.quota 1024 fn < ws.countP fun r => fnOf r.ctx == fn

/-- The watches that find their slice full are parked on the overflow list of its die (R378, R380). -/
def State.parkWatches (s : State) (n : Nat) : State :=
  (s.records.drop n).reverse.foldl (fun t r => match r.watch with
    | some w => if t.watchesFull (fnOf r.ctx) w.pa then t.putRecord { r with watch := some { w with overflow := true } } else t
    | none => t) s

/-- The slices see the writes that have performed since they last looked, one after another, and read a location just parked
once more (R148, R378): every record whose condition has held is released. -/
def State.settleWatches (s : State) : State :=
  let times := (List.range (s.performSeq + 1 - s.watchSeq)).map fun i => s.watchSeq + i
  let held (r : Record) : Bool := r.watched && times.any (s.watchDone r)
  { s with watchSeq := s.performSeq }.releaseWhere held id

/-- The locations of the overflow lists are read again (R378). -/
def State.readOverflow (s : State) : State :=
  s.releaseWhere (fun r => !r.watched && s.watchDone r s.performSeq) id

/-! ## Engine operations (R381 to R385) -/

/-- An operand register of an operation. -/
def EngineOp.arg (e : EngineOp) (i : Nat) : Nat := (e.regs.getD i 0#64).toNat

/-- The address of an access of an engine (R382): the general space through the die's TLB, or the issuing
team's own window on the issuing core. -/
def State.engineXlate (s : State) (e : EngineOp) (va n : Nat) (acc : Access) : Xlate :=
  if 2 ^ 49 ≤ va then .trap { code := .noncanon, addr := va }
  else if reservedSpace ≤ va then .trap { code := .reserved, addr := va }
  else if sliceWindow ≤ va then .trap { code := .sliceacc, addr := va }
  else if ownWindow ≤ va then s.padXlate ⟨e.core, e.launch, e.team⟩ (va - ownWindow) n va
  else s.globalXlate (some e.id) none (dieOf e.core) e.ctx va acc

/-- Type sizes of a collective (R386). -/
def collType (e : EngineOp) : Ty :=
  match slice (e.arg 4) 44 40 with
  | 0x03 => .i64 | 0x06 => .n32 | 0x11 => .f32 | 0x12 => .bf16 | _ => .i32
/-- *L*: element count times type size (R386). -/
def collBytes (e : EngineOp) : Nat := slice (e.arg 4) 39 0 * ((collType e).width / 8)

/-- *N* of the group descriptor, when it can be read. -/
def State.collRanks (s : State) (e : EngineOp) : Option Nat :=
  match s.engineXlate e (e.arg 1) 16 .read with
  | .mem (.peer _ f) _ _ => (s.peerReply e.id 0 f 16).map fun b => ofBytes (b.take 4)
  | .mem l _ _ => some (ofBytes (s.performedRead l 4))
  | .pad p off => some (ofBytes (s.padRead p off 4))
  | _ => none

/-- The destination bytes of an operation (R382, R386). With a group descriptor that cannot be read it counts as of one rank, and with one
of no rank as of no bytes (DESIGN CHOICE, log 54). -/
def State.engineTotal (s : State) (e : EngineOp) : Nat :=
  let rows (x : Nat) : Nat := slice x 31 0 * slice x 63 32
  match e.opcode.toNat, e.mod.toNat with
  | 0xCA, 0 => e.arg 3
  | 0xCA, _ => rows (e.arg 3)
  | 0xCB, _ => rows (e.arg 4)
  | 0xCC, _ => rows (e.arg 4)
  | _, 1 => collBytes e / (s.collRanks e).getD 1
  | _, 2 => collBytes e * (s.collRanks e).getD 1
  | _, _ => collBytes e

/-- A write of an engine agent performs when it is issued (R125). -/
def State.enginePut (s : State) (e : EngineOp) (x : Xlate) (bs : List Byte) : State :=
  match x with
  | .mem (.hbm pa) cache _ => s.agentWrite e.fn pa bs (s.isUncached e.fn cache)
  | .mem l _ _ => s.perform l bs false none (some 1)
  | .pad p off => s.padWrite p off bs
  | _ => s

/-- The status block (R384). -/
def statusBlock (code trap done : Nat) : List Byte :=
  toBytes 1 code ++ toBytes 1 0 ++ toBytes 2 trap ++ toBytes 4 0 ++ toBytes 8 done

/-- An operation changed, and an operation gone with its charge. -/
def State.putEngine (s : State) (e : EngineOp) : State :=
  { s with engines := s.engines.map fun d => if d.id == e.id then e else d }

/-- Whether a team still has a fibre, or an engine operation that it names. -/
def State.teamLives (s : State) (t : Team) : Bool :=
  (s.cohorts.any fun c => c.launch == t.launch && c.fibres.any fun f => f.team == t.num) ||
    (s.unplaced.any fun u => u.cohort.launch == t.launch && u.cohort.fibres.any fun f => f.team == t.num) ||
    (s.records.any fun r => r.launch == t.launch && (r.team == t.num || r.fibres.any fun f => f.team == t.num)) ||
    s.engines.any fun e => e.launch == t.launch && e.team == t.num

/-- Teams that are over are gone, with their allocations (R56, R187, R404; log 38). -/
def State.sweepTeams (s : State) : State :=
  let gone (launch team : BitVec 32) : Bool :=
    s.teams.any fun t => t.launch == launch && t.num == team && !s.teamLives t
  { s with
    teams := s.teams.filter s.teamLives
    allocs := s.allocs.filter fun a => !gone a.launch a.team
    shadows := s.shadows.filter fun x => !gone x.launch x.team }

/-- The cycles of the turn in which an operation has held its channel. -/
def State.heldCycles (s : State) (e : EngineOp) : Nat := s.clock - max e.since (1024 * (s.wheelTurns - 1))

/-- An operation that leaves its channel within a turn: the cycles for which it held it count against its function's budget on the
die (R431). -/
def State.leaveChannel (s : State) (e : EngineOp) : State :=
  if e.state != .running then s
  else { s with budgets := s.budgets.map fun (b : Budget) =>
    if b.fn == e.fn then { b with engine := b.engine.map fun l => l.modify (dieOf e.core) (· - s.heldCycles e) } else b }

/-- An operation is over. -/
def State.dropEngine (s : State) (e : EngineOp) : State :=
  ({ s.leaveChannel e with engines := s.engines.filter fun d => d.id != e.id
                           records := s.records.filter fun r => r.engine != some e.id }).sweepTeams.wakeCharge e.fn

/-- The last count of an operation on its object (R383, R385): the bytes not yet counted, void unless it is done, or one
increment of the semaphore. -/
def State.lastCount (s : State) (e : EngineOp) (code : Nat) : State :=
  let left := s.engineTotal e - e.counted
  match e.co.toNat with
  | 1 => if left == 0 then s else s.countBytes e.launch e.team e.obj left (if code == 0 then 0 else left)
  | 2 => s.semAdd e.fn e.core e.obj 1#32
  | _ => s

/-- An operation ends with a status code (R384, R385): the status block, unless its address traps, then the last count,
then its charge. -/
def State.endEngine (s : State) (e : EngineOp) (code trap : Nat) : State :=
  let s1 := if e.arg 0 == 0 then s
    else s.enginePut e (s.engineXlate e (e.arg 0) 16 .write) (statusBlock code trap e.done)
  (s1.lastCount e code).dropEngine e

/-- The length of a row of an operation: the whole of a linear one (R382). -/
def State.engineRow (s : State) (e : EngineOp) : Nat :=
  match e.opcode.toNat, e.mod.toNat with
  | 0xCA, 1 => slice (e.arg 3) 31 0
  | 0xCB, _ | 0xCC, _ => slice (e.arg 4) 31 0
  | _, _ => s.engineTotal e

/-- An index of an operation's index array, read as the engine reads it (R125, R382); 0 where it cannot be
read, which the chunk's own translation reports. -/
def State.engineIndex (s : State) (e : EngineOp) (i : Nat) : Nat :=
  match s.engineXlate e (e.arg 3 + 4 * i) 4 .read with
  | .mem (.peer _ f) _ _ => ofBytes ((s.peerReply e.id 0 f 4).getD [])
  | .mem l _ _ => ofBytes (s.performedRead l 4)
  | .pad p off => ofBytes (s.padRead p off 4)
  | _ => 0

/-- The destination address of byte `k` of an operation (R382, R386). -/
def State.engineDst (s : State) (e : EngineOp) (k : Nat) : Nat :=
  let len := s.engineRow e
  (match e.opcode.toNat, e.mod.toNat with
   | 0xCA, 1 => e.arg 1 + k / len * slice (e.arg 4) 31 0 + k % len
   | 0xCC, _ => e.arg 1 + s.engineIndex e (k / len) * slice (e.arg 5) 31 0 + k % len
   | 0xCD, _ => e.arg 3 + k
   | _, _ => e.arg 1 + k) % 2 ^ 64

/-- The source address of destination byte `k` (R382). -/
def State.engineSrc (s : State) (e : EngineOp) (k : Nat) : Nat :=
  let len := s.engineRow e
  (match e.opcode.toNat, e.mod.toNat with
   | 0xCA, 1 => e.arg 2 + k / len * slice (e.arg 4) 63 32 + k % len
   | 0xCB, _ => e.arg 2 + s.engineIndex e (k / len) * slice (e.arg 5) 31 0 + k % len
   | _, _ => e.arg 2 + k) % 2 ^ 64

/-- The bytes from an address to the next bound of its context's heap (R24). -/
def State.heapRoom (s : State) (ctx va : Nat) : Nat :=
  let lo := s.ctxReg ctx 0x08
  let hi := lo + s.ctxReg ctx 0x10
  if va < lo then lo - va else if va < hi then hi - va else 2 ^ 64

/-- What bounds a piece of a chunk beside its row: the destination's 4 KiB and heap bounds, and the source's heap bound. -/
def State.pieceRoom (s : State) (e : EngineOp) (k : Nat) : Nat :=
  let dst := s.engineDst e k
  min (4096 - dst % 4096) (min (s.heapRoom e.ctx dst)
    (if e.opcode == 0xCD#8 then 4096 else s.heapRoom e.ctx (s.engineSrc e k)))

/-- Whether two bytes of an operation can stand in one chunk: in one 4 KiB of destination addresses, and on one side of each
heap bound. -/
def State.oneChunk (s : State) (e : EngineOp) (j k : Nat) : Bool :=
  s.engineDst e j / 4096 == s.engineDst e k / 4096 &&
    s.isHeap e.ctx (s.engineDst e j) == s.isHeap e.ctx (s.engineDst e k) &&
    (e.opcode == 0xCD#8 || s.isHeap e.ctx (s.engineSrc e j) == s.isHeap e.ctx (s.engineSrc e k))

/-- The row pieces of the chunk that begins at byte `k`, each a first byte and a length: at most 4 KiB, and not past a 4 KiB
boundary of destination addresses, nor a heap bound (R24, R383). -/
def State.chunkPieces (s : State) (e : EngineOp) : Nat → Nat → Nat → List (Nat × Nat)
  | 0, _, _ => []
  | fuel + 1, k, room =>
    let n := min (min (s.engineTotal e - k) room) (min (s.engineRow e - k % s.engineRow e) (s.pieceRoom e k))
    if n == 0 then []
    else if n < room && k + n < s.engineTotal e && s.oneChunk e k (k + n) then
      (k, n) :: s.chunkPieces e fuel (k + n) (room - n)
    else [(k, n)]

/-- The pieces of an operation's next chunk. -/
def State.nextChunk (s : State) (e : EngineOp) : List (Nat × Nat) := s.chunkPieces e 4096 e.done 4096

/-- The destinations of the rest of an aborted transfer, each with its length (R385). -/
def State.abortedPieces (s : State) (e : EngineOp) : Nat → Nat → List (Xlate × Nat)
  | 0, _ => []
  | fuel + 1, k =>
    let n := ((s.chunkPieces e 4096 k 4096).headD (k, 0)).2
    if n == 0 then [] else (s.engineXlate e (s.engineDst e k) 1 .write, n) :: s.abortedPieces e fuel (k + n)

/-- Bytes that the spec leaves undefined (log 1). -/
def State.openBytes (s : State) (from_ n : Nat) : List Byte := (List.range n).map fun i => Config.undefinedByte s.freeCtr (from_ + i)

/-- Such destinations are undefined from then on: ranges of HBM, and free bytes in host memory and in scratchpad. -/
def State.spoil (s : State) (ps : List (Xlate × Nat)) : State :=
  ps.foldl (fun t p => match p.1 with
    | .mem (.hbm pa) _ _ => { t with undef := (pa, pa + p.2 - 1) :: t.undef }
    | .mem (.host b) _ _ => t.perform (.host b) (t.openBytes b p.2)
    | .pad q off => t.padWrite q off (t.openBytes off p.2)
    | _ => t) s

end Sys2Proof.Machine
end

