-- ==== Sys2Proof/Machine/EngineEnd.lean ====
section
/-! DEFINITION. How an engine operation leaves its channel: engine records (spec/12 R387), parking on a page (spec/01
R42, R43), and its ends (spec/12 R384, R385). -/

namespace Sys2Proof.Machine

open Sys2Proof

/-! ## The chunk that an operation has begun (R125, R136, R383) -/

/-- The bytes of a target, as an engine reads them. -/
def State.readTarget (s : State) (t : Target) (n : Nat) : List Byte :=
  match t with
  | .mem l _ _ _ => s.performedRead l n
  | .pad core launch team off => s.padRead ⟨core, launch, team⟩ off n

/-- Bytes written to a target by an engine of a function: they perform when the write is issued. -/
def State.writeTarget (s : State) (fn : Nat) (t : Target) (bs : List Byte) : State :=
  match t with
  | .mem (.hbm pa) _ uncached page => s.agentWrite fn pa bs uncached page
  | .mem (.host b) _ _ page => (s.perform (.host b) bs false none (some 1)).countHost page (sectorCount b bs.length)
  | .mem (.peer _ _) _ _ _ => s
  | .pad core launch team off => s.padWrite ⟨core, launch, team⟩ off bs

/-- One piece of a chunk moved. -/
def State.engineMove (s : State) (fn : Nat) (m : EngMove) : State :=
  s.writeTarget fn m.dst (m.bytes.getD (s.readTarget m.src m.len))

/-- An operation once its chunk is complete: its bytes are done, and counted unless they are the last (R383, R384). -/
def State.chunkDone (s : State) (e : EngineOp) : EngineOp :=
  { e with done := e.done + e.chunk, chunk := 0, moves := []
           counted := if e.done + e.chunk < s.engineTotal e then e.done + e.chunk else e.counted }

/-- The chunk that an operation has begun completes: the pieces left move, then its bytes are counted. -/
def State.finishChunk (s : State) (e : EngineOp) : State × EngineOp :=
  if e.chunk == 0 then (s, e)
  else
    let f := s.chunkDone e
    let s1 := (e.moves.foldl (fun t m => t.engineMove e.fn m) s).putEngine f
    (if e.co == 1#3 && f.counted != e.counted then s1.countBytes e.launch e.team e.obj (f.counted - e.counted) 0 else s1, f)

/-- The chunks begun by operations that a test picks complete. -/
def State.finishChunks (s : State) (p : EngineOp → Bool) : State := (s.engines.filter p).foldl (fun t e => (t.finishChunk e).1) s

/-! ## Faults that suspend -/

/-- The access that an ACC value stands for (R40). -/
def accOf (acc : Nat) : Access :=
  match acc % 8 with
  | 1 => .read | 4 => .fetch | 2 => .write | _ => .rmw

/-- The walk of a parked page repeated (R42): whether it now succeeds. A peer page that is not in the remote cache is not
there yet. -/
def State.rewalkOk (s : State) (die ctx : Nat) (f : PageFault) : Bool :=
  match s.globalXlate none none die ctx f.va (accOf f.acc) with
  | .mem _ _ _ => true
  | .askPeer _ _ _ => f.cls != 4
  | _ => false

/-! ## Operations -/

/-- Whether an operation runs on a collective channel, and the die that it was issued on. -/
def EngineOp.isColl (e : EngineOp) : Bool := e.opcode == 0xCD#8
def EngineOp.die (e : EngineOp) : Nat := dieOf e.core

/-- The operation of an identifier. -/
def State.engine? (s : State) (op : Nat) : Option EngineOp := s.engines.find? fun e => e.id == op

/-- The record of an operation: the tag and WIN are its issuer's (R160). -/
def State.engineRecord (s : State) (e : EngineOp) (uid : Nat) (ev : Event) (place : Place) : Record :=
  { uid, kind := .engine, kept := false, heavy := false, reissue := false, ctx := e.ctx, win := e.win, stack := 0
    pinned := false, vcnt := 0, ucnt := 0, tiles := 0#8, tmap := [], homecore := 0, tag := e.tag, resume := 0
    launch := e.launch, team := e.team, event := ev, conv := 0#32, block := 0, fibres := [], trap := none
    va := 0, faultLane := 0, engine := some e.id, sregs := [], uq := [], vq := [], tileData := [], pd := 0, watch := none, semCore := none
    skip := false, stepping := false, stepDue := none, place, die := e.die, core := e.core, arrival := s.clock
    bad := false, stored := false }

/-- An operation checkpointed into a record at the end of its chunk (R387): it leaves its channel. -/
def State.engineSave (s : State) (e0 : EngineOp) (ev : Event) (place : Place) (status : Bool) : State :=
  let (s0, e) := s.finishChunk e0
  let (uid, s1) := (s0.leaveChannel e0).fresh
  { s1.putEngine { e with state := if status then .statusParked uid else .parked uid, borrowed := none } with
    records := s1.records ++ [s1.engineRecord e uid ev place] }

/-- An operation leaves its record and returns to the queue of its die (R387). -/
def State.engineBack (s : State) (op : Nat) : State :=
  match s.engine? op with
  | some e =>
    { s.putEngine { e with state := .queued, borrowed := none } with
      records := s.records.filter fun r => r.engine != some op }
  | none => s

/-- An operation parks on a page (R43, R384), unless the repeated walk succeeds (R42). -/
def State.enginePark (s : State) (e : EngineOp) (f : PageFault) (status : Bool) : State :=
  let g := { f with acc := f.acc % 8 + 8 }
  let full := (s.faultEntry? e.die e.ctx (faultPage g.va)).isNone && !s.faultRoom e.die e.ctx
  let s1 := (s.engineSave e (.page e.ctx (faultPage g.va)) (if full then .faultOverflow else .waiting) status).parkPage
    e.die e.ctx g
  if s1.rewalkOk e.die e.ctx g then s1.engineBack e.id else s1

/-! ## Ends (R384, R385) -/

/-- The end of an operation whose status block can be written now, or whose address traps: what it has asked of the slices
is done. -/
def State.engineFinish (s : State) (e : EngineOp) (code trap : Nat) : State :=
  let t := (s.serveAll e.fn).endEngine e code trap
  { t.spendOnce e.id with peerReqs := t.peerReqs.filter fun r => r.uid != e.id || !(r.reply.isSome || r.aborted) }

/-- Whether the write of an operation's status block takes a suspending fault. -/
def State.statusParks (s : State) (e : EngineOp) : Option PageFault :=
  if e.arg 0 == 0 then none
  else match s.engineXlate e (e.arg 0) 16 .write with
    | .suspend f => some f
    | _ => none

/-- The end of an operation with a status code: it parks while the page of its status block is absent (R384),
and with no fault queue that fault is the trap NOSERVICE (R40). -/
def State.engineStop (s : State) (e : EngineOp) (code trap : Nat) : State :=
  match s.statusParks e with
  | some f =>
    if ringLen (s.ctxReg e.ctx 0x28) == 0 then s.engineFinish e code trap
    else s.enginePark { e with ended := some (code, trap) } f true
  | none => s.engineFinish e code trap

/-- The end of an operation whose status block is never written (R384): its last count, and its charge. -/
def State.engineLose (s : State) (e : EngineOp) : State :=
  (s.lastCount e ((e.ended.getD (0, 0)).1)).dropEngine e

/-- An operation ends ABORTED (R385): the destination ranges of the aborted transfer are undefined. One whose end waits for
its status block's page keeps that end. -/
def State.abortEngine (s : State) (e : EngineOp) : State :=
  if e.ended.isSome then s
  else
    let left := s.abortedPieces e (s.engineTotal e - e.done) e.done
    { s with records := s.records.filter fun r => r.engine != some e.id }.spoil left |>.engineStop { e with chunk := 0, moves := [] } 2 0

end Sys2Proof.Machine
end

