-- ==== Sys2Proof/Machine/Writes.lean ====
section
/-! DEFINITION. How the writes of a word are issued: its line requests (spec/02 R62, R63, R64, R71, spec/03 R110) and the
writes that they carry into pending(c) (spec/04 R122, R124). -/

namespace Sys2Proof.Machine

open Sys2Proof

/-- The agent on a core that issues writes, and whether they are a memory word's: its line requests then hold miss-status entries, and the
release steps that its cohort has left come before them (R64, R120, R347). -/
structure Writer where
  uid : Nat
  core : Nat
  placed : Nat
  ctx : Nat
  entry : Bool
  deriving DecidableEq, Repr

/-- One write of a word: its lane, address and location, what it does there, the pieces in which it is atomic, how it travels, and
the page that it counts against. -/
structure Write where
  lane : Option Nat
  va : Nat
  loc : Loc
  op : WriteOp
  grain : Option Nat
  uncached : Bool
  page : Option PageRef
  deriving DecidableEq, Repr

/-- Whether a location, or a key of one, is a peer's. -/
def isPeerLoc : Loc → Bool
  | .peer _ _ => true
  | _ => false

/-- The line of 256 bytes that holds a location, and its sector. -/
def lineKey : Loc → Loc
  | .hbm a => .hbm (a / 256)
  | .host a => .host (a / 256)
  | .peer p a => .peer p (a / 256)
def sectorKey : Loc → Loc
  | .hbm a => .hbm (a / 64)
  | .host a => .host (a / 64)
  | .peer p a => .peer p (a / 64)

/-- Keys in ascending order, each once. -/
def insertKey (k : Loc) : List Loc → List Loc
  | [] => [k]
  | x :: xs => if x == k then x :: xs else if locKey k < locKey x then k :: x :: xs else x :: insertKey k xs
def sortedKeys (ks : List Loc) : List Loc := ks.foldl (fun acc k => insertKey k acc) []

/-- The bytes that a write stores, over its range. -/
def WriteOp.mask : WriteOp → List Bool
  | .store bs => bs.map Option.isSome
  | op => List.replicate op.len true

/-- The byte mask of writes in one line of HBM (R62). -/
def lineMask (ws : List Write) : BitVec 256 :=
  ws.foldl (fun m w => match w.loc with
    | .hbm pa => w.op.mask.zipIdx.foldl (fun m b => if b.1 then m ||| (1#256 <<< (pa % 256 + b.2)) else m) m
    | _ => m) 0#256

/-- The operand and comparand that a write carries (R62). -/
def WriteOp.operands : WriteOp → Word64 × Word64
  | .atomic _ _ x y => (x, y)
  | .cell _ x => (x.zeroExtend 64, 0#64)
  | .store _ => (0#64, 0#64)

/-- The line request of writes in one line of HBM. -/
def lineReq (w : Writer) (kind : ReqKind) (line : Nat) (ws : List Write) : SliceReq :=
  let bytes := lineMask ws
  { id := 0, fn := fnOf w.ctx, core := some w.core, line, kind, sectors := lineSectors bytes, bytes
    lanes := if kind == .atomic then ws.filterMap fun x => match x.loc with
      | .hbm pa => some (pa % 256, x.op.operands)
      | _ => none else []
    uncached := ws.any Write.uncached, page := ws.findSome? Write.page
    link := none }

/-- The writes of one uncached sector of a view are one write of it (R110, R153). -/
def mergeSector (ws : List Write) : List Write :=
  match ws with
  | [] => []
  | x :: _ =>
    match x.loc with
    | .hbm pa =>
      let base := pa / 64 * 64
      let byte (i : Nat) : Option Byte := ws.foldl (fun acc w => match w.loc, w.op with
        | .hbm a, .store bs => (if a ≤ base + i then (bs[base + i - a]?).join else none).or acc
        | _, _ => acc) none
      [{ x with loc := .hbm base, op := .store ((List.range 64).map byte), grain := some x.op.len }]
    | _ => ws

/-- The writes of a line as they reach the memory: an uncached sector of a view is written in one operation. -/
def State.lineWrites (s : State) (ws : List Write) : List Write :=
  let inView (w : Write) : Bool := match w.loc, w.op with
    | .hbm pa, .store _ => w.uncached && (s.viewOf pa).isSome
    | _, _ => false
  ws.filter (fun w => !inView w) ++
    (sortedKeys ((ws.filter inView).map fun w => sectorKey w.loc)).flatMap fun k =>
      mergeSector (ws.filter fun w => inView w && sectorKey w.loc == k)

/-- The release steps that a cohort has left to be completed: the widest scope, and the identifier below which its earlier reads
lie. -/
def State.owedBy (s : State) (uid : Nat) : Option (Nat × Nat) :=
  s.owed.foldl (fun acc o => if o.1 == uid then
    some (max o.2.1 ((acc.map Prod.fst).getD 0), max o.2.2 ((acc.map Prod.snd).getD 0)) else acc) none

/-- The release steps that come before the writes of a word of a cohort (R120). -/
def State.stepsBefore (s : State) (w : Writer) : List (Nat × Nat) :=
  if w.entry then (s.owed.filter fun o => o.1 == w.uid).map Prod.snd else []

/-- The pending writes of one line request, under its identifier. -/
def State.issueAll (s : State) (w : Writer) (request : Nat) (whole : Nat → Bool) (ws : List Write) : State :=
  ws.foldl (fun t x =>
    { t with nextUid := t.nextUid + 1 }.issueWrite
      { core := w.core, ctx := w.ctx, placed := w.placed, lane := x.lane, id := t.nextUid, request, loc := x.loc, op := x.op
        uncached := x.uncached, txn := none, entry := w.entry, grain := x.grain
        whole := match x.loc with | .hbm pa => whole (pa % 256 / 64) | _ => false
        issued := false, rel := t.stepsBefore w }) s

/-- The bytes that a store's write carries. -/
def WriteOp.bytes : WriteOp → List Byte
  | .store bs => bs.map fun b => b.getD 0#8
  | _ => []

/-- The stores of a line of a peer are posted, each by itself (R122, R471). -/
def State.postStores (s : State) (w : Writer) (request : Nat) (ws : List Write) : State :=
  ws.foldl (fun t x =>
    { t with nextUid := t.nextUid + 1 }.postPeer w.uid w.ctx x.va
      { core := w.core, ctx := w.ctx, placed := w.placed, lane := x.lane, id := t.nextUid, request, loc := x.loc, op := x.op
        uncached := x.uncached, txn := none, entry := w.entry, grain := x.grain, whole := false
        issued := false, rel := [] } x.op.bytes) s

/-- One line request, with the writes that it carries. The writes of a line that is not HBM share an identifier of their own. -/
def State.issueLine (s : State) (w : Writer) (kind : ReqKind) (key : Loc) (ws : List Write) : State :=
  match key with
  | .hbm line =>
    let r := lineReq w kind line ws
    (s.ask r).issueAll w s.nextUid r.whole (s.lineWrites ws)
  | .host _ =>
    ({ s with nextUid := s.nextUid + 1 }.issueAll w s.nextUid (fun _ => false) ws).countHost (ws.findSome? Write.page)
      (sortedKeys (ws.map fun (x : Write) => sectorKey x.loc)).length
  | .peer _ _ => { s with nextUid := s.nextUid + 1 }.postStores w s.nextUid ws

/-- The writes of a word are issued, one request for each line, in ascending line address (R62). -/
def State.issueLines (s : State) (w : Writer) (kind : ReqKind) (ws : List Write) : State :=
  (sortedKeys (ws.map fun x => lineKey x.loc)).foldl
    (fun t k => t.issueLine w kind k (ws.filter fun x => lineKey x.loc == k)) s

end Sys2Proof.Machine
end

