-- ==== Sys2Proof/Machine/MatrixUnit.lean ====
section
/-! DEFINITION. The matrix unit: what it does with the next accepted word of a core's queue (spec/11 R331 to
R350), and the tiles it works on. -/

namespace Sys2Proof.Machine

open Sys2Proof

/-! ## Tiles -/

/-- A free tile that holds zero in every element. -/
def Tile.blank : Tile := { owner := none, rows := [] }
/-- A row of 256 elements; a tile that lists no row holds zero (R331). -/
def Tile.row (t : Tile) (i : Nat) : List Word32 := t.rows.getD i (List.replicate 256 0#32)
/-- One element. -/
def Tile.at (t : Tile) (i c : Nat) : Word32 := (t.row i).getD c 0#32
/-- One row replaced. -/
def Tile.setRow (t : Tile) (i : Nat) (r : List Word32) : Tile :=
  { t with rows := ((List.range 32).map t.row).set i r }
/-- A physical tile of a core. -/
def Core.tile (k : Core) (n : Nat) : Tile := k.tiles.getD n Tile.blank
/-- A physical tile replaced. -/
def Core.setTile (k : Core) (n : Nat) (t : Tile) : Core :=
  { k with tiles := ((List.range 8).map k.tile).set n t }

/-! ## The multiply-accumulate (R336, R340) -/

/-- Element `k` of an operand vector (R336). -/
def vecElement (ty : Ty) (bs : List Byte) (k : Nat) : Nat :=
  let w := ty.width
  (ofBytes ((bs.drop (k * w / 8)).take (ceilDiv w 8)) >>> (k * w % 8)) % 2 ^ w

/-- Its value; `scales` are the block scales of a `.bs4` vector (R85, R336). -/
def elementValue (ty : Ty) (bs scales : List Byte) (k : Nat) : RealVal :=
  if ty == .bs4 then bs4Value (vecElement ty bs k) (scales.getD (k / 8) 0#8).toNat
  else valueOf ty (vecElement ty bs k)

/-- The depth *K* of a word (R336). -/
def depthOf (ty : Ty) : Nat := 512 / ty.width

/-- The products of a row and a column, from element `k`. -/
def products (ta tb : Ty) (a aS b bS : List Byte) (k n : Nat) : List RealVal :=
  (List.range n).map fun j => (elementValue ta a aS (k + j)).mul (elementValue tb b bS (k + j))

/-- One floating-point element: a rounding for each block of 32 products (R98, R340). -/
def mmaFloat (ta tb : Ty) (a aS b bS : List Byte) (acc : Word32) : Word32 :=
  (List.range (depthOf ta / 32)).foldl (fun x q =>
    BitVec.ofNat 32 (roundTo .f32 ((valueOf .f32 x.toNat).sum (products ta tb a aS b bS (32 * q) 32)) 0 false 0)) acc

/-- One integer element before its write: exact (R340). -/
def mmaInteger (ta tb : Ty) (a b : List Byte) (acc : Word32) : Int :=
  (List.range (depthOf ta)).foldl (fun x k => x + intOf ta (vecElement ta a k) * intOf tb (vecElement tb b k)) acc.toInt

/-- One element written, with whether it saturated (R340). -/
def mmaElement (ta tb : Ty) (sat : Bool) (a aS b bS : List Byte) (acc : Word32) : Word32 × Bool :=
  if ta == .i8 || ta == .n8 then
    let x := mmaInteger ta tb a b acc
    let y := if sat then clampTo true 32 x else x
    (BitVec.ofInt 32 y, sat && x != y)
  else (mmaFloat ta tb a aS b bS acc, false)

/-- One row of a word. -/
def mmaRow (ta tb : Ty) (sat : Bool) (a aS : List Byte) (b bS : List (List Byte)) (row : List Word32) :
    List (Word32 × Bool) :=
  row.zipIdx.map fun (x, c) => mmaElement ta tb sat a aS (b.getD c []) (bS.getD c []) x

/-! ## Draining (R349) -/

/-- An element drained: times its band scale, rounded to FP32, then converted. -/
def drainElement (ta tb : Ty) (rm : Nat) (sat : Bool) (band : Option (BitVec 16)) (x : Word32) : Nat :=
  let scale := match band with | some b => valueOf .bf16 b.toNat | none => .fin false 1 1
  let y := roundTo .f32 ((valueOf ta x.toNat).mul scale) 0 false 0
  roundTo tb (valueOf .f32 y) rm sat 0

/-! ## Writes to memory (R347) -/

/-- A target as a write of 64 bytes of a lane's row, atomic in elements of `n` bytes; `none` in scratchpad. -/
def Target.write (t : Target) (lane n : Nat) (bs : List Byte) : Option Write :=
  match t with
  | .mem l va uncached page => some { lane := some lane, va, loc := l, op := .store (bs.map some), grain := some n, uncached, page }
  | .pad _ _ _ _ => none

/-- 64 bytes of a row written to a target in scratchpad. -/
def State.putPad (s : State) (t : Target) (bs : List Byte) : State :=
  match t with
  | .pad k launch team off => s.padWrite ⟨k, launch, team⟩ off bs
  | .mem _ _ _ _ => s

/-- The cohort that stands for an issuer's lane: the sub-cohort that holds it now. -/
def State.heir (s : State) (op : MatrixOp) (lane : Nat) : Option Cohort :=
  s.cohorts.find? fun c => c.tag == op.tag && c.placed == op.placed && c.fibres.any fun f => f.lane == lane

/-- The agent that writes a lane's row: its line requests hold no miss-status entry (R347). -/
def State.rowWriter (s : State) (core : Nat) (op : MatrixOp) (lane : Nat) : Writer :=
  { uid := ((s.heir op lane).map Cohort.uid).getD 0, core, placed := op.placed, ctx := op.ctx, entry := false }

/-- A lane's row of elements of `n` bytes written to its targets, one for each 64 bytes of the row. -/
def State.putRow (s : State) (core : Nat) (op : MatrixOp) (lane n : Nat) (dst : List Target) (elems : List Nat) : State :=
  let bytes := elems.flatMap (toBytes n)
  let part (i : Nat) : List Byte := (bytes.drop (64 * i)).take 64
  (dst.zipIdx.foldl (fun t d => t.putPad d.1 (part d.2)) s).issueLines (s.rowWriter core op lane) .store
    (dst.zipIdx.filterMap fun d => d.1.write lane n (part d.2))

/-! ## Results to registers and predicates -/

/-- A word's result in the landing that waits for it (R341, R350), in each sub-cohort of its cohort. -/
def State.landUnit (s : State) (op : MatrixOp) (ws : List RegWrite) : State :=
  { s with cohorts := s.cohorts.map fun c =>
      { c with landings := c.landings.map fun l =>
          if l.unitWord == some op.id then { l with writes := ws, unitWord := none } else l } }

/-! ## Array rows and redundant mode (R342, R343) -/

/-- What an array row computes for an element of an output row: the sum, or, on a faulty row, whatever it gives (log 1). -/
def State.computed (s : State) (k : Core) (copy row col : Nat) (x : Word32) : Word32 :=
  let wild := s.choice (4 * ((copy * 32 + row) * 256 + col) + 1)
  if k.faultyRows.contains ((row + 16 * copy) % 32) && wild % 2 == 1 then BitVec.ofNat 32 (wild / 2) else x

/-- The copy of an output row that array row *a* writes to the tile store. -/
def State.rowCopy (s : State) (k : Core) (copy row : Nat) (xs : List Word32) : List Word32 :=
  if k.faultyRows.isEmpty then xs else xs.zipIdx.map fun (x, c) => s.computed k copy row c x

/-- The first place where the copies of some output rows differ, in drain order: the lowest column group, then the lowest row,
then the lowest column: row and column. -/
def State.firstDiff (s : State) (k : Core) (rows : List (Nat × List Word32)) : Option (Nat × Nat) :=
  (List.range 32).findSome? fun g => rows.findSome? fun r => (List.range 8).findSome? fun j =>
    let x := r.2.getD (8 * g + j) 0#32
    if s.computed k 0 r.1 (8 * g + j) x != s.computed k 1 r.1 (8 * g + j) x then some (r.1, 8 * g + j) else none

/-- The failed word that a mismatch records. -/
def State.mismatch (s : State) (k : Core) (op : MatrixOp) (red : Bool) (rows : List (Nat × List Word32)) : Option FailedWord :=
  if red && !k.faultyRows.isEmpty then
    (s.firstDiff k rows).map fun d => { handle := op.handle, addr := op.addr, row := d.1, column := d.2 }
  else none

/-- Whether a cohort issued a matrix word, or is a sub-cohort of the one that did (R352). -/
def MatrixOp.of (o : MatrixOp) (c : Cohort) : Bool :=
  o.tag == c.tag && o.placed == c.placed && c.fibres.any fun f => o.issuer.contains f.lane

/-- A failed word is recorded for its cohort, where the earliest stands, and its error is posted (R466; log 12). -/
def State.markFailed (s : State) (core : Nat) (op : MatrixOp) (f : Option FailedWord) : State :=
  match f with
  | none => s
  | some d =>
    { s with cohorts := s.cohorts.map fun c => if op.of c then { c with failed := c.failed.or f } else c }.coreError 7 1 core d.row
      (fnOf op.ctx)

/-! ## The next word of the queue (R241, R335) -/

/-- The rows of some lanes of a tile changed. -/
def Tile.mapRows (t : Tile) (lanes : List Nat) (g : Nat → List Word32 → List Word32) : Tile :=
  lanes.foldl (fun u i => u.setRow i (g i (u.row i))) t

/-- What a lane's entry of a list holds. -/
def laneEntry (xs : List (Nat × α)) (i : Nat) : Option α := (xs.find? fun p => p.1 == i).map Prod.snd

/-- An accepted `mma` executed on its tile: its rows as array row *a* computes them, its flags, and what the comparator finds
(R340 to R343). -/
def State.runMma (s : State) (core : Nat) (op : MatrixOp) (red : Bool) (flag : Nat)
    (res : Nat → List Word32 → List (Word32 × Bool)) : State :=
  let k := s.core core
  let t := k.tile op.tile
  let rows := op.lanes.map fun i => (i, (res i (t.row i)).map Prod.fst)
  let beyond := op.lanes.filter fun i => (res i (t.row i)).any Prod.snd
  (((s.putCore (k.setTile op.tile (rows.foldl (fun u r => u.setRow r.1 (s.rowCopy k 0 r.1 r.2)) t))).landUnit op
    (beyond.map fun i => .pred i flag true))).markFailed core op (s.mismatch k op red rows)

/-- One accepted word executed on its tile. -/
def State.matrixRun (s : State) (core : Nat) (op : MatrixOp) : State :=
  let k := s.core core
  let t := k.tile op.tile
  let put (u : Tile) : State := s.putCore (k.setTile op.tile u)
  match op.kind with
  | .mma ta tb sat red a aS b bS flag =>
    s.runMma core op red flag fun i r => mmaRow ta tb sat ((laneEntry a i).getD []) ((laneEntry aS i).getD []) b bS r
  | .alloc => put { t with rows := [] }
  | .free => put { t with rows := [] }
  | .zero => put (t.mapRows op.lanes fun _ _ => List.replicate 256 0#32)
  | .load rows => put (t.mapRows op.lanes fun i r => (laneEntry rows i).getD r)
  | .store dst =>
    op.lanes.foldl (fun u i => u.putRow core op i 4 ((laneEntry dst i).getD []) ((t.row i).map BitVec.toNat)) s
  | .drain ta tb rm sat clr bands dst =>
    let s1 := op.lanes.foldl (fun u i =>
      u.putRow core op i (tb.width / 8) ((laneEntry dst i).getD [])
        ((t.row i).map fun x => drainElement ta tb rm.toNat sat ((laneEntry bands i).getD none) x)) s
    if clr then
      s1.putCore ((s1.core core).setTile op.tile (t.mapRows op.lanes fun _ _ => List.replicate 256 0#32))
    else s1
  | .rd g dst =>
    s.landUnit op (op.lanes.flatMap fun i => (List.range 8).map fun j => .vec i (dst + j) (t.at i (8 * g + j)))
  | .wr g vals =>
    put (t.mapRows op.lanes fun i r =>
      match laneEntry vals i with
      | some v => r.take (8 * g) ++ v ++ r.drop (8 * g + 8)
      | none => r)
  | .mov source => put (t.mapRows op.lanes fun i _ => (k.tile source).row i)

/-- The unit completes the next accepted word of a core's queue. -/
def State.matrixExec (s : State) (core : Nat) : State :=
  match (s.core core).matrixQueue with
  | [] => s
  | op :: rest => (s.putCore { s.core core with matrixQueue := rest }).matrixRun core op

/-- The unit completes words while a test picks some word of the queue. -/
def State.matrixWhile (core : Nat) (p : MatrixOp → Bool) : Nat → State → State
  | 0, s => s
  | n + 1, s => if (s.core core).matrixQueue.any p then State.matrixWhile core p n (s.matrixExec core) else s

/-- Every accepted word of a cohort completes (R352): the state, and the cohort as it then stands. -/
def State.matrixDrain (s : State) (c : Cohort) : State × Cohort :=
  let mine (o : MatrixOp) : Bool := o.of c || c.landings.any fun l => l.unitWord == some o.id
  let s1 := State.matrixWhile c.core mine (s.core c.core).matrixQueue.length (s.putCohort c)
  (s1, (s1.cohort? c.uid).getD c)

/-- The trap of a failed word (R343, R451). -/
def FailedWord.trap (f : FailedWord) : TrapInfo :=
  { code := .tilemism, addr := f.addr, detail := f.handle % 8 + 8 * (f.row % 32) + 256 * (f.column % 256) }

/-! ## Tile sets that leave a core (R181, R353) -/

/-- A tag's tiles read out of a core once the words that name them have completed (R353): the blocks with their
handles, and the core without them (R333). -/
def State.readOutTiles (s : State) (core : Nat) (tag : BitVec 32) : List (Nat × List (List Word32)) × State :=
  let s1 := State.matrixWhile core (fun o => o.tag == tag) (s.core core).matrixQueue.length s
  let k := s1.core core
  let ts := k.tilesOf tag
  (ts.map fun t => (t.1, (List.range 32).map (k.tile t.2).row),
   if ts.isEmpty then s1
   else s1.putCore { k with tiles := k.tiles.map fun t => if t.owner.elim false fun o => o.1 == tag then Tile.blank else t })

/-- A record that carries a tile set (R181). -/
def Record.load (r : Record) (ts : List (Nat × List (List Word32))) : Record :=
  { r with heavy := true, tileData := ts, tiles := handleBits (ts.map Prod.fst), stored := false }

/-- The record of a tag that holds the lowest lane (R181): a forced one; of a tag with none, whose tile set waits on the core with no
cohort, any, as a waiting record takes it in the worked example of R489. -/
def State.lowestRecord (s : State) (tag : BitVec 32) : Option Record :=
  let low (r : Record) : Nat := (r.fibres.map Fibre.lane).foldl min 32
  let rs := s.records.filter fun r => r.tag == tag && s.tagged r && !r.inTransit
  let forced := rs.filter fun r => r.kind == .forced
  (if forced.isEmpty then rs else forced).foldl (fun m r => match m with
    | some b => if low r < low b then some r else m
    | none => some r) none

/-- A tag's tile set saved in the record of its lowest lane (R181, R434 step 4); of a tag with none, in the cohort that has been formed
and waits for its core. -/
def State.saveTag (s : State) (core : Nat) (tag : BitVec 32) : State :=
  let (ts, s1) := s.readOutTiles core tag
  match s1.lowestRecord tag with
  | some r => s1.putRecord (r.load ts)
  | none => match s1.unplaced.find? fun u => u.cohort.tag == tag with
    | some u => { s1 with unplaced := s1.unplaced.map fun (v : Unplaced) =>
        if v.cohort.uid == u.cohort.uid then { v with heavy := true, tileData := ts } else v }
    | none => s1

end Sys2Proof.Machine
end

