-- ==== Sys2Proof/Machine/Exchange.lean ====
section
/-! DEFINITION. Exchange stores at the member core (spec/12 R366, R367), the miss-status entries of a core and the reads that
they stand for (spec/02 R60, R64, R65), and release steps with what they wait for (spec/04 R126). -/

namespace Sys2Proof.Machine

open Sys2Proof

/-! ## Acceptance of an exchange store -/

/-- The 128-byte rows that a flight's bytes touch. -/
def XstFlight.rows (x : XstFlight) : List Nat := (x.bytes.map fun b => b.1 / 128 * 128).eraseDups

/-- The member core of a flight. -/
def State.memberOf (s : State) (x : XstFlight) : Option Nat := (s.team? x.launch x.team).bind fun t => t.members[x.member]?

/-- Whether a shadow entry is the one of a flight's row on a core (R367). -/
def XstFlight.entryOf (x : XstFlight) (core row : Nat) (e : Shadow) : Bool :=
  e.core == core && e.of x.launch x.team x.barrier && e.row == row

/-- The rows for which a flight needs a new entry. -/
def State.newRows (s : State) (x : XstFlight) (core : Nat) : List Nat :=
  x.rows.filter fun r => !s.shadows.any (x.entryOf core r)

/-- Check 4 of R366 and the limits of R367 at the member core. -/
def State.xstRefused (s : State) (x : XstFlight) : Option TrapCode :=
  match s.team? x.launch x.team, s.memberOf x with
  | some t, some core =>
    let mine := s.shadows.countP fun e => e.core == core && e.launch == x.launch && e.team == x.team
    let all := s.shadows.countP fun e => e.core == core
    let need := (s.newRows x core).length
    if !(t.bar x.barrier).valid then some .barinv
    else if 64 < mine + need || 256 < all + need then some .xstfull
    else none
  | _, _ => some .xstaddr

/-- Bytes merged into an entry, in their order: a later byte replaces an earlier one (R367). -/
def Shadow.merge (e : Shadow) (bs : List (Nat × Byte)) : Shadow :=
  bs.foldl (fun y b =>
    if b.1 / 128 * 128 == y.row then
      { y with mask := y.mask ||| (1#128 <<< (b.1 % 128)), data := y.data.set (b.1 % 128) b.2 }
    else y) e

/-- The member core takes a flight's bytes into its shadow bank (R367). -/
def State.acceptFlight (s : State) (x : XstFlight) : State :=
  match s.memberOf x with
  | none => s
  | some core =>
    let made := (s.newRows x core).map fun r =>
      ({ core, launch := x.launch, team := x.team, barrier := x.barrier, row := r, mask := 0#128
         data := List.replicate 128 0#8 } : Shadow)
    { s with shadows := (s.shadows ++ made).map fun e =>
        if e.core == core && e.of x.launch x.team x.barrier then e.merge x.bytes else e }

/-- Every flight of a word accepted, or the trap of the first refused (R366: all of them or none). -/
def State.acceptFlights (s : State) : List XstFlight → State × Option TrapCode
  | [] => (s, none)
  | x :: xs =>
    match s.xstRefused x with
    | some t => (s, some t)
    | none =>
      match (s.acceptFlight x).acceptFlights xs with
      | (_, some t) => (s, some t)
      | r => r

/-- An exchange store that its member core accepts ends, with its word performed, and STEP to come where it was asked for; one that
is refused leaves its trap to be raised (R366, R454). -/
def State.acceptOne (s : State) (c : Cohort) (xs : List XstFlight) (word : Word64) : State :=
  match s.acceptFlights xs with
  | (u, none) =>
    u.putCohort { c.advance.drainU with
      wait := .none, skip := false, stepping := false, stepDue := if c.stepping then some word else none, readyTime := u.clock }
  | (_, some t) => s.putCohort { c with wait := .refused t.code }

/-- The exchange stores of a core meet their member cores (R126, R149). -/
def State.acceptCore (s : State) (core : Nat) : State :=
  s.cohorts.foldl (fun t c =>
    match c.wait with
    | .xst xs w => if c.core == core then t.acceptOne c xs w else t
    | _ => t) s

/-- The trap that a refusal's code stands for. -/
def refusedBy (code : Nat) : TrapCode :=
  if code == TrapCode.barinv.code then .barinv else if code == TrapCode.xstfull.code then .xstfull else .xstaddr

/-! ## Miss-status entries (R64, R65) -/

/-- The entries of a core that are taken: by the sectors that loads wait for, by grants, one for each line request of writes,
one for each sector asked of a peer, and one for each exchange store on its way (R64, R366). -/
def State.missUsed (s : State) (core : Nat) : Nat :=
  (s.core core).misses.length + ((s.core core).grants.map Prod.snd).sum +
    (((s.pendingStores.filter fun p => p.core == core && p.entry).map PendingStore.request).eraseDups).length +
    (((s.peerReqs.filter fun r => r.core == some core && r.isOpen && r.kind != .translate && r.lane < postedLane).map fun r =>
      (r.pkg, r.addr / 64)).eraseDups).length +
    s.cohorts.countP fun c => c.core == core && (match c.wait with | .xst _ _ => true | _ => false)

/-- The entries that a cohort's grant holds, and whether it has one. -/
def Core.granted (k : Core) (uid : Nat) : Nat := ((k.grants.filter fun m => m.1 == uid).map Prod.snd).sum
def Core.grantOf (k : Core) (uid : Nat) : Bool := k.grants.any fun m => m.1 == uid

/-- Whether a word that needs entries may go on now: it needs none, its grant holds them, or no instruction waits
and enough are free (R65). -/
def State.missReady (s : State) (c : Cohort) (need : Nat) : Bool :=
  let k := s.core c.core
  need ≤ k.granted c.uid || (k.grantQueue == [] && s.missUsed c.core - k.granted c.uid + need ≤ Config.missEntries)

/-- A cohort's grant is spent. -/
def State.spendGrant (s : State) (c : Cohort) : State :=
  let k := s.core c.core
  if k.grantOf c.uid then s.putCore { k with grants := k.grants.filter fun m => m.1 != c.uid } else s

/-- A sector that loads wait for takes an entry, unless one is outstanding, to which the load attaches (R64); `fills` says that
its fill goes into the L1 (R60). -/
def Core.takeMiss (k : Core) (m : MissEntry) : Core :=
  if k.misses.any fun x => x.key == m.key then
    { k with misses := k.misses.map fun x => if x.key == m.key then { x with fills := x.fills || m.fills } else x }
  else { k with misses := k.misses ++ [m] }

/-- A cohort joins the grant queue, with no grant that holds too few: in place, or giving up its issue slot under CTXMEM.RETRY (R65, R410). -/
def State.queueMisses (s : State) (c : Cohort) (need : Nat) : State :=
  let k := s.core c.core
  let retry := bitOf (s.reg (fnOf c.ctx) (0x1500 + slotOf c.ctx * 8)) 0
  (s.putCore { k with grants := k.grants.filter (fun m => m.1 != c.uid), grantQueue := if k.grantQueue.contains c.uid then k.grantQueue else k.grantQueue ++ [c.uid] }).putCohort
    { c with wait := .misses need, issue := if retry then none else c.issue
             readyTime := if retry then s.clock else c.readyTime }

/-! ## Fills and the reads they serve (R60, R123, R237) -/

/-- The slice has served a core's load of a sector, and its data have come. -/
def State.slicesGive (s : State) (core pa : Nat) : State :=
  let s1 := match s.requests.find? fun r =>
      r.core == some core && r.kind == .load && r.line == pa / 256 && r.sectors.getLsbD (sectorNo pa) with
    | some r => s.serveTo r.id
    | none => s
  match s1.l2Line? pa with
  | some l => if l.want.getLsbD (sectorNo pa) then s1.l2Arrive l pa else s1
  | none => s1

/-- The location of a sector. -/
def keyBase : Loc → Loc
  | .hbm n => .hbm (64 * n)
  | .host n => .host (64 * n)
  | .peer p n => .peer p (64 * n)

/-- A fill into a core's L1, which posts the parity error of a line that it finds bad (R61, R462, R466). -/
def State.fillL1 (s : State) (core pa : Nat) : State :=
  (if s.l1Bad.contains (core, pa / 256) then s.coreError 5 0 core (l1Set pa) 0xFFFF else s).l1Fill core pa

/-- The fill of a sector returns to a core: into its L1, where its entry says so, and to the reads that wait for it; and the
entry frees (R60, R64). -/
def State.fillReturn (s : State) (core : Nat) (key : Loc) : State :=
  let k := s.core core
  let s1 := match key with
    | .hbm n =>
      let t := s.slicesGive core (64 * n)
      if k.misses.any fun m => m.key == key && m.fills then t.fillL1 core (64 * n) else t
    | _ => s
  let s2 := s1.giveSector core (keyBase key)
  if k.misses.any fun m => m.key == key then
    s2.putCore { s2.core core with misses := (s2.core core).misses.filter fun m => m.key != key }
  else s2

/-- The old value of an atomic operation comes: its request, and those before it, are served (R72, R124). -/
def State.oldReturn (s : State) (id : Nat) : State :=
  let s1 := match s.pendingStores.find? fun p => p.id == id with
    | some p => s.serveTo p.request
    | none => s
  s1.drainStores fun p => p.id == id

/-- The reads of a core that a test picks perform, with all that they wait for. -/
def State.gather (s : State) (core : Nat) (p : PendingRead → Bool) : State :=
  let mine := s.reads.filter fun r => r.core == core && p r && r.bytes.isNone
  let keys := sortedKeys ((mine.filter fun r => r.kind == .plain || r.kind == .cell).map fun r => sectorKey r.loc)
  let s1 := keys.foldl (fun t k => t.fillReturn core k) s
  mine.foldl (fun t r => match r.kind with
    | .old id => t.oldReturn id
    | _ => t) s1

/-- Whether a pending read is one of a cohort's lanes. -/
def PendingRead.of (r : PendingRead) (c : Cohort) : Bool := r.placed == c.placed && c.fibres.any fun f => f.lane == r.lane

/-! ## Release steps (R120, R126) -/

/-- A release step of agents on a core at a scope: their earlier reads, which `reads` picks, have returned, and what it drains has
performed. -/
def State.releaseAt (s : State) (core scope : Nat) (reads : PendingRead → Bool) : State :=
  let s1 := s.gather core reads
  if 2 ≤ scope then (((s1.acceptCore core).serveCore core).releaseStep core scope) else s1

end Sys2Proof.Machine
end

