-- ==== Sys2Proof/Machine/Images.lean ====
section
/-! DEFINITION. Where record images and Attic frames stand (spec/05 R155, R158, spec/02 R69): the chains of bays of a function's
Cellar and Attic with their link tables, and the dies' record buffers. -/

namespace Sys2Proof.Machine

open Sys2Proof

/-- How far a rank's transfer with its peer has come. -/
def EngineOp.transferred (e : EngineOp) : Nat :=
  if e.coll.progress != 0 then e.coll.progress
  else ((e.coll.received.find? fun p => p.1 == e.coll.peer).elim 0 fun p => p.2.length) % collBytes e

/-- The engine block (R387). The layout within the stage state is the model's (log 28). -/
def EngineOp.block (e : EngineOp) : List Byte :=
  toBytes 1 e.opcode.toNat ++ toBytes 1 (e.mod.toNat + 16 * e.cnt.toNat) ++ toBytes 1 e.co.toNat ++ toBytes 1 e.obj ++
    toBytes 2 e.core ++ toBytes 2 0 ++ toBytes 8 e.done ++
    ((List.range 6).flatMap fun i => toBytes 8 (e.arg i)) ++
    (if e.isColl then toBytes 4 e.coll.stage ++ toBytes 4 e.coll.peer ++ toBytes 8 e.transferred ++ toBytes 48 0
     else toBytes 64 0)

/-! ## Bays (R155) -/

/-- The base and the size of the Cellar or the Attic of a function. -/
def State.imageBase (s : State) (fn : Nat) (attic : Bool) : Nat := s.cellarReg fn (if attic then 0x10 else 0)
def State.imageSize (s : State) (fn : Nat) (attic : Bool) : Nat := s.cellarReg fn (if attic then 0x18 else 8)

/-- The address of a bay, and of its entry in the bay link table. -/
def State.bayPa (s : State) (fn : Nat) (attic : Bool) (bay : Nat) : Nat := s.imageBase fn attic + 256 * bay
def State.linkPa (s : State) (fn : Nat) (attic : Bool) (bay : Nat) : Nat :=
  s.imageBase fn attic + s.imageSize fn attic - s.imageSize fn attic / 64 + 4 * bay

/-- Whether a chain is the one of a subject: of a record, or of an Attic frame. -/
def Chain.of (c : Chain) (attic : Bool) (id : Nat) : Bool := c.attic == attic && c.id == id

/-- The bays of a subject, in the order of its chain. -/
def State.baysAt (s : State) (attic : Bool) (id : Nat) : List Nat := ((s.chains.find? fun c => c.of attic id).map Chain.bays).getD []

/-- The first bay's address of a record and of an Attic frame (R164, R169). -/
def State.recordPa (s : State) (r : Record) : Nat := s.bayPa (fnOf r.ctx) false ((s.baysAt false r.uid).headD 0)
def State.framePa (s : State) (fn id : Nat) : Nat := s.bayPa fn true ((s.baysAt true id).headD 0)

/-- Free bays of a range, the lowest first (log 13). -/
def State.freeBays (s : State) (fn : Nat) (attic : Bool) (n : Nat) : List Nat :=
  let held := (s.chains.filter fun c => c.fn == fn && c.attic == attic).flatMap Chain.bays
  ((List.range (held.length + n)).filter fun b => !held.contains b).take n

/-- A subject's chain holds `n` bays: it keeps its first ones, and takes free ones for the rest. -/
def State.fitChain (s : State) (fn : Nat) (attic : Bool) (id n : Nat) : State :=
  let own := s.baysAt attic id
  { s with chains := { fn, attic, id, bays := own.take n ++ s.freeBays fn attic (n - own.length) } ::
      s.chains.filter fun c => !c.of attic id }

/-- The link entries of a chain: each names the next bay, and the last the end. -/
def chainLinks (bays : List Nat) : List (Nat × Nat) := bays.zip (bays.drop 1 ++ [0xFFFFFFFF])

/-! ## The record buffers (R158) -/

/-- The sectors of a bay that its die's buffer has lost: they are entered, and posted (R462, R464, R466). -/
def State.loseBay (s : State) (b : BufferBay) (sev fn : Nat) : State :=
  let pa := s.bayPa b.fn b.attic b.bay
  ((List.range 4).foldl (fun t i => t.listSector (pa + 64 * i)) s).postError 2 sev 0 b.die 0xFFFF b.way pa fn

/-- A bay of the buffer written to its home slice (R69), unless the buffer cannot read it. -/
def State.bufferOut (s : State) (b : BufferBay) : State :=
  let t : State := { s with buffer := s.buffer.erase b }
  if b.bad then t.loseBay b 2 0xFFFF else t.agentWrite b.fn (s.bayPa b.fn b.attic b.bay) b.bytes false

/-- When the record of a bay entered its bin; the bays of waiting records and of Attic frames stay longer than those of binned
ones (log 13). -/
def State.bufferAge (s : State) (b : BufferBay) : Nat :=
  if b.attic then 0
  else (s.records.find? fun r => r.uid == b.id && r.place == .bin).elim 0 fun r => r.arrival + 1

/-- The bay that a die's buffer evicts first, among the ways of a mask: that of the record that entered its bin last. -/
def State.bufferVictim (s : State) (die mask : Nat) : Option BufferBay :=
  (s.buffer.filter fun b => b.die == die && bitOf mask b.way).foldl (fun m b => match m with
    | some x => if s.bufferAge x < s.bufferAge b then some b else m
    | none => some b) none

/-- A way of a mask with room in a die's buffer, which holds 1,024 bays in each. -/
def State.bufferWay (s : State) (die mask : Nat) : Option Nat :=
  (List.range 16).find? fun w => bitOf mask w && s.buffer.countP (fun b => b.die == die && b.way == w) < 1024

/-- A bay of an image written: into the buffer, where the tenant has ways of it, else to HBM as an uncached transfer. -/
def State.putBay (s : State) (die fn : Nat) (attic : Bool) (id bay : Nat) (bytes : List Byte) : State :=
  let mask := s.wayMask fn
  if mask == 0 then s.agentWrite fn (s.bayPa fn attic bay) bytes true
  else
    let s1 : State := { s with buffer := s.buffer.filter fun b => !(b.fn == fn && b.attic == attic && b.bay == bay) }
    let s2 := if (s1.bufferWay die mask).isSome then s1 else (s1.bufferVictim die mask).elim s1 s1.bufferOut
    { s2 with buffer := s2.buffer ++ [{ die, way := (s2.bufferWay die mask).getD 0, fn, attic, id, bay, bytes }] }

/-- An image written into its bays, and its chain into the link table. -/
def State.putImage (s : State) (die fn : Nat) (attic : Bool) (id : Nat) (image : List Byte) : State :=
  let s1 := s.fitChain fn attic id (ceilDiv image.length 256)
  let bays := s1.baysAt attic id
  let s2 := (chainLinks bays).foldl (fun t l => t.agentWrite fn (t.linkPa fn attic l.1) (toBytes 4 l.2) (t.wayMask fn == 0)) s1
  bays.zipIdx.foldl (fun t b => t.putBay die fn attic id b.1 ((image.drop (256 * b.2)).take 256)) s2

/-- The bays of a subject that a die's buffer does not hold: their addresses. -/
def State.baysOut (s : State) (fn : Nat) (attic : Bool) (id : Nat) : List Nat :=
  ((s.baysAt attic id).filter fun b => !s.buffer.any fun x => x.fn == fn && x.attic == attic && x.bay == b).map (s.bayPa fn attic)

/-- An image read from its bays: the Cellar traffic of those that no buffer holds. -/
def State.getImage (s : State) (fn : Nat) (attic : Bool) (id : Nat) : State :=
  (s.baysOut fn attic id).foldl (fun t pa => t.askRange fn pa 256 .load (t.wayMask fn == 0)) s

/-- The bays of a subject that a buffer holds and cannot read. -/
def State.lostBays (s : State) (attic : Bool) (id : Nat) : List BufferBay :=
  s.buffer.filter fun b => b.bad && b.attic == attic && b.id == id

/-- The first sector of a subject's bays with an uncorrectable error (R462), in a buffer or behind it. -/
def State.badBay (s : State) (fn : Nat) (attic : Bool) (id : Nat) : Option Nat :=
  ((s.lostBays attic id).head?.map fun b => s.bayPa fn attic b.bay).or
    ((s.baysOut fn attic id).findSome? fun pa => s.badIn (.hbm pa) 256)

/-- Ways of the buffers that change owner at a slot edge are treated as the L2's are: written back, and empty (R158, R434). -/
def State.bufferEdge (s : State) (ways : List Nat) : State :=
  (s.buffer.filter fun b => ways.contains b.way).foldl State.bufferOut s

/-! ## Images follow their subjects -/

/-- The image of a record as it stands. -/
def State.recordImage (s : State) (r : Record) : List Byte :=
  r.image (s.framePa (fnOf r.ctx)) ((r.engine.bind s.engine?).elim [] EngineOp.block)

/-- Chains, and bays in the buffers, whose record or frame is gone are free. -/
def State.freeChains (s : State) : State :=
  let lives (attic : Bool) (id : Nat) : Bool :=
    if attic then s.attic.any fun a => a.id == id else s.records.any fun r => r.uid == id
  { s with chains := s.chains.filter fun c => lives c.attic c.id
           buffer := s.buffer.filter fun b => lives b.attic b.id }

/-- CELLARCTL.EN of a function: without it, it has no work, and no bays (R156). -/
def State.cellarOn (s : State) (fn : Nat) : Bool := bitOf (s.cellarReg fn 0x38) 0

/-- The images of frames and of records that are new or have changed are written: the frames' first, whose addresses the records
name. -/
def State.writeImages (s : State) : State :=
  let fs := s.attic.filter fun a => !a.stored && s.cellarOn a.fn
  let s1 := fs.foldl (fun t a => if (t.baysAt true a.id).isEmpty then t.fitChain a.fn true a.id 1 else t) s
  let s2 := fs.foldl (fun t a => t.putImage a.die a.fn true a.id (a.image (t.framePa a.fn))) s1
  let s3 := (s2.records.filter fun r => !r.stored && s.cellarOn (fnOf r.ctx)).foldl (fun t r => t.putImage r.die (fnOf r.ctx) false r.uid (t.recordImage r)) s2
  { s3 with attic := s3.attic.map fun a => { a with stored := true }
            records := s3.records.map fun r => { r with stored := true } }

/-- What stands in the Cellars and the Attics follows the records and the frames. -/
def State.settleImages (s : State) : State :=
  let s1 := if s.chains.length == s.records.length + s.attic.length && s.records.all Record.stored && s.attic.all AtticFrame.stored
    then s else s.freeChains
  if s1.records.all Record.stored && s1.attic.all AtticFrame.stored then s1 else s1.writeImages

/-- Bays that hold images: STORED of CELLAROCC and of ATTICOCC (R156). -/
def State.storedBays (s : State) (fn : Nat) (attic : Bool) : Nat :=
  ((s.chains.filter fun c => c.fn == fn && c.attic == attic).map fun c => c.bays.length).sum

end Sys2Proof.Machine
end

