-- ==== Sys2Proof/Machine/Ops.lean ====
section
/-! DEFINITION. The operations that every word shares: fetching words and headers (spec/08 R248 to R251,
spec/09 R299), taking a trap and the return from one (spec/15 R450 to R456), suspension (spec/06 R196, R198),
suspending faults (spec/01 R38), and the drivers of the uniform and the vector side (spec/07 R229 to R238). -/

namespace Sys2Proof.Machine

open Sys2Proof

/-! ## Fetch -/

/-- What a fetch of one word gives. -/
inductive Fetched where
  | ok (w : Word64)
  | trap (t : TrapInfo)
  | suspend (f : PageFault)
  /-- The peer's bytes are wanted, or else its frame (R49). -/
  | peer (read : Bool) (pkg page addr va : Nat)
  deriving DecidableEq, Repr

/-- The line of 16 words that holds an address (R251). -/
def lineOf (va : Nat) : Nat := va / 128 * 128

/-- The fetch line that a core holds (R299). -/
def State.fetchLine? (s : State) (core ctx va : Nat) : Option FetchLine :=
  s.fetchLines.find? fun l => !l.bad && l.core == core && l.ctx == ctx && l.line == lineOf va

/-- The 128 bytes of a line, at its translation. -/
def State.lineBytes (s : State) (c : Cohort) (l : Loc) : Option (List Byte) :=
  match l with
  | .peer _ f => s.peerReply c.uid 0 f 128
  | l => some (s.performedRead l 128)

/-- A fetch (R15, R110, R251, R299): a held line, else the line's bytes in memory. -/
def State.fetch (s : State) (c : Cohort) (va : Nat) : Fetched :=
  match s.fetchLine? c.core c.ctx va with
  | some l => .ok (l.words.getD (va % 128 / 8) 0#64)
  | none =>
    match s.xlate c c.leadTeam (lineOf va) 8 .fetch with
    | .mem l _ _ =>
      match l, s.lineBytes c l with
      | .hbm pa, some bs =>
        if (s.viewOf pa).isSome then .trap { code := .fmtacc, addr := va }
        else if s.sectorBad (pa + va % 128) then .trap { code := .memerr, addr := va, detail := s.sectorCode (pa + va % 128) }
        else .ok (bytesWord ((bs.drop (va % 128)).take 8))
      | _, some bs => .ok (bytesWord ((bs.drop (va % 128)).take 8))
      | .peer pkg f, none => .peer true pkg f f va
      | _, none => .trap { code := .badframe, addr := va }
    | .trap t => .trap { t with addr := va }
    | .suspend f => .suspend { f with va }
    | .askPeer pkg page addr => .peer false pkg page addr va
    | .pad _ _ => .trap { code := .xprot, addr := va }

/-- The request of a fetch line at its home slice (R69). -/
def State.askLine (s : State) (c : Cohort) (l : Loc) (va : Nat) : State :=
  match l with
  | .hbm pa =>
    (rangeReqs (fnOf c.ctx) pa 128 .load (s.isUncached (fnOf c.ctx) 0)
      (s.pageRef (some c.core) (dieOf c.core) c.ctx va 4)).foldl (fun t r => t.ask { r with core := some c.core }) s
  | .host _ => s.countHost (s.pageRef (some c.core) (dieOf c.core) c.ctx va 4) 2
  | .peer _ _ => s

/-- What a fetch from a peer leaves of its lease: spent, when it served this access alone (R50), or asked for again (R51). -/
def State.fetchLease (s : State) (c : Cohort) (va : Nat) (x : Xlate) : State :=
  (s.renewLease c.uid (some c.core) (dieOf c.core) c.ctx va x).spendOnce c.uid

/-- Whether a line has a sector that cannot be read: no core keeps it (R463). -/
def State.lineBad (s : State) (l : Loc) : Bool := (s.badIn l 128).isSome

/-- A core's fetch lines with a line put in, unless a sector of it cannot be read, in place of one with a parity error (R462). -/
def State.putLine (s : State) (l : Loc) (x : FetchLine) : State :=
  let same (y : FetchLine) : Bool := y.core == x.core && y.ctx == x.ctx && y.line == x.line
  let t := if s.fetchLines.any same then s.parityError (some x.core) (dieOf x.core) else s
  { t with fetchLines := if s.lineBad l then t.fetchLines else x :: t.fetchLines.filter fun y => !same y }

/-- The line kept in the core, and its translation in the TLBs (R29, R299). -/
def State.fetchKeep (s : State) (c : Cohort) (va : Nat) : State :=
  match s.fetchLine? c.core c.ctx va with
  | some _ => s
  | none =>
    let x := s.xlate c c.leadTeam (lineOf va) 8 .fetch
    match x with
    | .mem l _ _ =>
      match s.lineBytes c l with
      | some bs =>
        let s1 := s.notePaged (some c.core) (dieOf c.core) c.ctx va 4
        let s2 := s1.putLine l { core := c.core, ctx := c.ctx, line := lineOf va
                                 words := (List.range 16).map fun i => bytesWord ((bs.drop (8 * i)).take 8) }
        ({ s2 with peerReqs := s2.peerReqs.filter fun r =>
             !(r.uid == c.uid && (match l with | .peer _ f => r.addr == f | _ => false)) }.askLine c l va).fetchLease c va x
      | none => s
    | _ => s

/-- What stands at the address of a header. -/
inductive HeaderAt where
  | good (h : Header)
  | bad (w : Word64)
  | unread (f : Fetched)
  deriving DecidableEq, Repr

/-- The header at an address, checked under R249. -/
def State.headerAt (s : State) (c : Cohort) (va : Nat) : HeaderAt :=
  match s.fetch c va with
  | .ok w => match parseHeader va w with
    | some h => .good h
    | none => .bad w
  | f => .unread f

/-! ## Waits -/

/-- A cohort waits, and its issue slot goes (R410). -/
def State.hold (s : State) (c : Cohort) (w : Wait) : State :=
  s.putCohort { c with wait := w, issue := none, readyTime := s.clock }

/-- A cohort waits for its requests to peers, and for its core's writes to them (R49, R126, R472). One that found no port is over
already. -/
def State.holdPeer (s : State) (c : Cohort) : State :=
  let txns := s.openTxns c.uid ++ (s.peerPending c.core).filterMap PendingStore.txn
  if txns.isEmpty && !s.routeOpenNow then s.putCohort c else s.hold c (.peer txns)

/-- The same wait where the cohort keeps its issue slot: that of a release fence's drain, and of `fence.sc` (R410). -/
def State.holdDrain (s : State) (c : Cohort) : State :=
  let t := s.holdPeer c
  match t.cohort? c.uid with
  | some d => t.putCohort { d with issue := c.issue, readyTime := c.readyTime }
  | none => t

/-- A release step of a cohort at a scope (R126), which waits in place for its core's writes to peers from `.pod` up. -/
def State.withRelease (s : State) (c : Cohort) (scope : Nat) (reads : PendingRead → Bool) (k : State → State) : State :=
  if 5 ≤ scope && s.peerOpen c then s.holdPeer c else k (s.releaseAt c.core scope reads)

/-- The release steps that fences of a cohort have left complete before a write of it (R120). -/
def State.payRelease (s : State) (c : Cohort) (k : State → State) : State :=
  match s.owedBy c.uid with
  | none => k s
  | some (scope, mark) =>
    if 5 ≤ scope && s.peerOpen c then s.holdDrain c
    else
      let t := s.releaseAt c.core scope fun r => r.of c && r.landing < mark
      k { t with owed := t.owed.filter fun o => o.1 != c.uid }

/-- Where a release step of `.pod` or `.sys` is left, a write waits in place for its core's writes to peers (R126). -/
def State.awaitPeers (s : State) (c : Cohort) (k : State → State) : State :=
  if (s.owedBy c.uid).any fun o => 5 ≤ o.1 && s.peerOpen c then s.holdDrain c else k s

/-- The base of the debug window of the core that a cohort runs on (R458). -/
def State.debugBase (s : State) (c : Cohort) : Nat := 0x10000 + s.denseCore (fnOf c.ctx) c.core * 0x200

/-- A free cohort slot of a core (R194). -/
def State.freeSlot (s : State) (core : Nat) : Option Nat :=
  (List.range Config.cohortSlots).find? fun n => !s.cohorts.any fun c => c.core == core && c.slot == n

/-! ## What a core has free (R54, R218, R436) -/

/-- The rows of a cohort's allocation: its stack, rounded up to 16 (R218). -/
def Cohort.rowAlloc (c : Cohort) : Nat := (c.stackRows + 15) / 16 * 16

/-- The stack rows of a core that are allocated: once for each placement, whose sub-cohorts share them. -/
def State.usedRows (s : State) (core : Nat) : Nat :=
  (((s.cohorts.filter fun c => c.core == core).map fun c => (c.placed, c.rowAlloc)).eraseDups.map Prod.snd).sum

/-- The free stack rows of a core. -/
def State.freeRows (s : State) (core : Nat) : Nat := Config.fileRows - s.usedRows core

/-- The array rows of scratchpad under a split code (R54). -/
def padRows (code : Nat) : Nat := match code with | 0 => 3584 | 1 => 3072 | 2 => 2048 | _ => 1024

/-- The save volume of a core (R436). -/
def State.saveVolume (s : State) (core : Nat) : Nat :=
  128 * s.usedRows core + 32768 * (s.core core).tiles.countP (fun t => t.owner.isSome) +
    ((s.allocs.filter fun a => a.core == core).map Alloc.size).sum + 45056

/-- A function's SAVECAP, in bytes (R419). -/
def State.saveCap (s : State) (fn : Nat) : Nat :=
  let cap := s.field 0 (0xA010 + fn * 0x40) 41 32
  1024 * (if cap == 0 || 1004 < cap then 1004 else cap)

/-! ## Suspension -/

/-- A fault, continuation or trap record's count and trace (R412, R414). -/
def State.countRecords (s : State) (before : Nat) (core : Nat) (kind cause : Record → Nat) : State :=
  (s.records.drop before).foldl (fun t r =>
    t.decide (kind r) (cause r) r.fibres.length r.flags r.ctx core r.tag r.launch r.resume) s

/-- The class of an event key (R176). -/
def Event.cls (e : Event) : Nat := e.key / 2 ^ 60

/-- A cohort's fibres go into records, counted as suspensions (R196, R412). Its matrix words have completed. -/
def State.intoRecords (s : State) (c : Cohort) (k : Cause) (ev : Fibre → Event) : State :=
  let n := s.records.length
  (s.writeRecords c k ev).countRecords n c.core (fun _ => 1)
    fun r => if r.kind == .trap then 16 else r.event.cls

/-- What the end of a segment waits for (R139, R352): the matrix words of the cohort, its reads, the exchange stores of its core
(R126), and what its agents have written to this package. The state, and the cohort as it then stands. -/
def State.closeOut (s : State) (c : Cohort) : State × Cohort :=
  let (s1, c1) := s.matrixDrain c
  let s2 := s1.releaseAt c.core 5 fun r => r.of c1
  let (s3, c3) := s2.takeReads ((s2.cohort? c.uid).getD c1) fun _ => true
  (s3.putCohort c3, c3)

/-- The end of a segment, which waits in place for the core's writes to peers (R126, R139). -/
def State.closing (s : State) (c : Cohort) (k : State → Cohort → State) : State :=
  let (s1, c1) := s.matrixDrain c
  if s1.peerOpen c1 then s1.holdPeer c1 else
    let (s2, c2) := s1.closeOut c1
    k s2 c2

/-- What a record that resumes at the current word holds (R38, R161). -/
def Cohort.reissueCause (c : Cohort) (kind : RecordKind) : Cause :=
  { kind, resume := c.pc, reissue := true, block := c.block, kept := true, vcnt := c.window, ucnt := 160
    trap := none, pd := 0, watch := none, skip := c.skip, stepping := c.stepping, stepDue := c.stepDue
    check := if c.parked then .passed else c.check }

/-- A suspension at the next block's header (R198, R199): what its records hold. -/
def headerCause (va : Nat) (h : Header) : Cause :=
  { kind := .continuation, resume := va, reissue := false, block := 0, kept := h.kept, vcnt := h.liveV
    ucnt := h.lives, trap := none, pd := 0, watch := none, skip := false, stepping := false, stepDue := none }

/-! ## Launches that end on a fatal trap (R455) -/

/-- The fatal descriptor rings served: pending descriptors written while there is room (R455). -/
def State.postFatals (s : State) : State :=
  s.fatalPending.foldl (fun t p =>
    if t.ringFull p.1 0x1E40 0x1E48 then { t with fatalPending := t.fatalPending ++ [p] }
    else (t.ringPut p.1 0x1E40 0x1E48 p.2).signal p.1 1) { s with fatalPending := [] }

/-- A fatal descriptor (R455). -/
def fatalBytes (code why die dense ctx : Nat) (launch tag : BitVec 32) (va addr : Nat) : List Byte :=
  toBytes 2 code ++ toBytes 1 why ++ toBytes 1 die ++ toBytes 2 dense ++ toBytes 2 ctx ++
    toBytes 4 launch.toNat ++ toBytes 4 tag.toNat ++ toBytes 8 va ++ toBytes 8 addr

/-- A fatal descriptor handed to the ring; with no ring it is dropped (R455). -/
def State.reportFatal (s : State) (fn : Nat) (d : List Byte) : State :=
  if ringLen (s.reg fn 0x1E40) == 0 then s
  else { s with fatalPending := s.fatalPending ++ [(fn, d)] }.postFatals

/-- The tiles of tags of which no fibre remains are freed and zeroed (R290, R333). -/
def State.sweepTiles (s : State) : State :=
  let live := s.cohorts.map Cohort.tag ++ s.unplaced.map (fun u => u.cohort.tag) ++
    (s.records.filter s.tagged).map Record.tag
  { s with cores := s.cores.map fun k =>
      { k with tiles := k.tiles.map fun t => match t.owner with
          | some o => if live.contains o.1 then t else { owner := none, rows := [] }
          | none => t } }

/-- The accepted matrix words of some tags complete, as those of a halted cohort do (R351). -/
def State.finishTags (s : State) (tags : List (BitVec 32)) : State :=
  s.cores.foldl (fun t k => State.matrixWhile k.id (fun o => tags.contains o.tag) k.matrixQueue.length t) s

/-- Split entries whose sub-cohorts are all gone are freed. -/
def State.sweepSplits (s : State) : State :=
  { s with cores := s.cores.map fun k =>
      { k with splitTable := k.splitTable.map fun e =>
          if s.cohorts.any fun c => c.core == k.id && c.tag == e.tag then e else { e with valid := false } } }

/-- What the reads, fences and waits of cohorts that are gone have left: their reads, the releases they owe, their places in the
grant queues and the answers to them. -/
def State.dropTraces (s : State) (gone : List Cohort) : State :=
  let uid (n : Nat) : Bool := gone.any fun c => c.uid == n
  { s with
    reads := s.reads.filter fun r => !gone.any fun c => r.placed == c.placed
    owed := s.owed.filter fun o => !uid o.1
    peerReqs := s.peerReqs.filter fun r => !(uid r.uid && (r.reply.isSome || r.aborted))
    oneTime := s.oneTime.filter fun x => !uid x.1
    cores := s.cores.map fun k =>
      { k with grantQueue := k.grantQueue.filter fun n => !uid n, grants := k.grants.filter fun g => !uid g.1 } }

/-- The record of an operation whose end waits for the page of its status block. -/
def State.endsLater (s : State) (r : Record) : Bool := (r.engine.bind s.engine?).elim false fun e => e.ended.isSome

/-- A launch's cohorts, records, operations and teams are gone; its status stands (R402, R455). -/
def State.endLaunch (s : State) (num : BitVec 32) (status : Nat) : State :=
  let fn := ((s.launches.find? fun l => l.num == num).map Launch.fn).getD 0
  let s0 := s.finishTags ((s.cohorts.filter fun c => c.launch == num).map Cohort.tag)
  let s1 := (s0.engines.filter fun e => e.launch == num).foldl State.abortEngine s0
  let gone := s1.cohorts.filter fun c => c.launch == num
  let late := (s1.unplaced.map Unplaced.cohort).filter fun c => c.launch == num
  let attic := ((gone ++ late).flatMap Cohort.fibres ++ (s1.records.filter fun r => r.launch == num).flatMap Record.fibres).flatMap
    fun f => f.frames.filterMap Frame.attic
  let s2 := attic.foldl State.leaveAttic s1
  let s3 : State :=
    { s2 with
      cohorts := s2.cohorts.filter fun c => c.launch != num
      unplaced := s2.unplaced.filter fun u => u.cohort.launch != num
      records := s2.records.filter fun r => r.launch != num || s2.endsLater r
      teams := s2.teams.filter fun t => t.launch != num
      allocs := s2.allocs.filter fun a => a.launch != num
      shadows := s2.shadows.filter fun x => x.launch != num
      launches := s2.launches.map fun l => if l.num == num then { l with status } else l }
  ((s3.dropTraces gone).sweepTiles.sweepSplits).wakeCharge fn

/-! ## Records that cannot be read (R169) -/

/-- A fatal trap that a record reports (R169, R212, R455). -/
def State.fatalRecord (s : State) (r : Record) (code : TrapCode) (va : Nat) : State :=
  (s.endLaunch r.launch 1).reportFatal (fnOf r.ctx)
    (fatalBytes code.code 0 (dieOf r.core) (s.denseCore (fnOf r.ctx) r.core) r.ctx r.launch r.tag va 0)

/-- The charges of a record (R171, R174): its Cellar bays, one of an operation's, and the Attic bays of its fibres' frames. -/
def Record.charge (r : Record) : Nat := if r.kind == .engine then 1 else 18 * r.fibres.length + 128 * r.tileData.length
def Record.atticCharge (r : Record) : Nat := (r.fibres.flatMap fun f => f.frames.map fun x => frameCharge x.k).sum

/-- The first sector with an uncorrectable error of a record's image. -/
def State.badImage (s : State) (r : Record) : Option Nat := s.badBay (fnOf r.ctx) false r.uid

/-- A malformed record, or one that cannot be read (R462), is discarded: its charges stay held until the tenant's reset (R169). -/
def State.discardBad (s : State) (r : Record) : State :=
  let s1 := (s.badImage r).elim s fun b => match s.lostBays false r.uid with
    | x :: _ => (s.loseBay x 1 (fnOf r.ctx)).hurryTests 2 r.core
    | [] => (s.enterError b (fnOf r.ctx)).hurryTests 1 r.core
  { s1.dropRecord r.uid with lost := s1.lost ++ [(fnOf r.ctx, r.charge, r.atticCharge)] }.fatalRecord r .record (s.recordPa r)

/-- An operation leaves its record and returns to the queue of its die (R387, R489): the record is read from its bays. One that cannot be
read is discarded, and its operation with it. -/
def State.engineResume (s : State) (op : Nat) : State :=
  match s.records.find? fun r => r.engine == some op with
  | none => s.engineBack op
  | some r =>
    let t := s.getImage (fnOf r.ctx) false r.uid
    if (t.badImage r).isNone then t.engineBack op
    else
      { t with engines := t.engines.filter fun d => d.id != op }.discardBad r

/-! ## Taking a trap -/

/-- TRAPENT of a context. -/
def State.trapEnt (s : State) (ctx : Nat) : Nat := s.reg (fnOf ctx) (0x1E00 + slotOf ctx * 8)
/-- The handler's entry header. -/
def handlerEntry (t : Nat) : Nat := slice t 48 7 * 128
/-- Whether an address lies in the handler range (R453). -/
def inHandler (t va : Nat) : Bool :=
  handlerEntry t ≤ va && va < handlerEntry t + max 1 (slice t 55 49) * 4096

/-- Why a trap is fatal (R453), or `none`. A handler header that is on a page not present is found out when
the record resumes there (State.reachHeader). -/
def State.fatalWhy (s : State) (c : Cohort) (t : TrapInfo) : Option Nat :=
  let ent := s.trapEnt c.ctx
  if 0x80 ≤ t.code.code then some 0
  else if !bitOf ent 63 then some 1
  else if inHandler ent (t.site.getD c.pc) then some 2
  else match s.headerAt c (handlerEntry ent) with
    | .good h => if h.entry && h.susp then none else some 3
    | .bad _ => some 3
    | .unread (.trap _) => some 3
    | .unread _ => none

/-- The registers `s152` to `s159` of a trap frame (R452): `at_` is what `s156` names, and the header that
`s157` names. -/
def trapFrame (c : Cohort) (word : Word64) (t : TrapInfo) (lane : Nat) (at_ : Nat × Nat) (heart : Nat) :
    List Word64 :=
  [BitVec.ofNat 64 (t.code.code + lane * 2 ^ 16), word, BitVec.ofNat 64 t.addr, BitVec.ofNat 64 t.detail,
   BitVec.ofNat 64 at_.1, BitVec.ofNat 64 (slice at_.2 48 3 * 8), BitVec.ofNat 64 c.tag.toNat,
   BitVec.ofNat 64 heart]

/-- A fatal trap: the launch ends and its descriptor is posted, with the cohort's pc as the trapping word's address (R453, R455). -/
def State.fatal (s : State) (c : Cohort) (code why addr : Nat) : State :=
  let d := fatalBytes code why (dieOf c.core) (s.denseCore (fnOf c.ctx) c.core) c.ctx c.launch c.tag c.pc addr
  (s.endLaunch c.launch 1).reportFatal (fnOf c.ctx) d

/-- The structure whose error a trap reports (R451, R462, R463), or 0. -/
def TrapInfo.structure_ (t : TrapInfo) : Nat :=
  match t.code with
  | .memerr | .stateerr => t.detail
  | .tilemism => 7
  | _ => 0

/-- A trap taken once the cohort's matrix words have completed: fatal, or into trap records (R452 to R455). -/
def State.enterTrap (s : State) (c0 : Cohort) (word : Word64) (t : TrapInfo) (lane : Nat) (at_ : Nat × Nat) : State :=
  match s.fatalWhy c0 t with
  | some why => (s.hurryTests t.structure_ c0.core).fatal { c0 with pc := t.site.getD c0.pc } t.code.code why t.addr
  | none =>
    let c := c0.drain.landAll
    let regs := (c.sregs.take 152) ++ trapFrame c word t lane at_ s.heart
    s.intoRecords { c with sregs := regs }
      { kind := .trap, resume := handlerEntry (s.trapEnt c.ctx), reissue := false, block := 0, kept := true
        vcnt := c.window, ucnt := 160
        trap := some { code := BitVec.ofNat 16 t.code.code, lane, word, addr := BitVec.ofNat 64 t.addr
                       detail := BitVec.ofNat 64 t.detail }
        pd := 0, watch := none, skip := false, stepping := false, stepDue := none, check := .handler }
      fun _ => .none

/-- What an earlier word of a cohort has left to raise at its boundary: a matrix word that failed (R343, R352), its own state that cannot
be read into a record (R462), or a landing in error that no `lwait` has met (R463; log 12). -/
def Cohort.failure (c : Cohort) : Option TrapInfo :=
  match c.failed, c.bad with
  | some f, _ => some f.trap
  | none, _ :: _ => some { code := .stateerr, detail := 6 }
  | none, [] => (c.landings.findSome? Landing.error).map fun x =>
      { code := .memerr, lane := some x.lane, addr := x.addr, detail := x.code }

/-- That trap taken, with the record of an error of a register structure (R466). -/
def State.enterFailure (s : State) (c : Cohort) (word : Word64) (t : TrapInfo) (low : Nat) (at_ : Nat × Nat) : State :=
  (if t.code == .stateerr then s.coreError 6 1 c.core 0 (fnOf c.ctx) else s).enterTrap { c with failed := none, bad := [] } word t
    (t.lane.getD low) at_

/-- The word at a cohort's boundary, as a trap frame shows it. -/
def State.wordAt (s : State) (c : Cohort) : Word64 := match s.fetch c c.pc with | .ok w => w | _ => 0#64

/-- Taking a trap at a word, with the resume point that its frame names (R452 to R456). What the cohort has left to raise takes its
place (R343, R352), at the lowest active lane where it names none; but MEMERR of a word comes before that of a landing. -/
def State.trapTo (s : State) (c0 : Cohort) (word : Word64) (t : TrapInfo) (low : Nat) (at_ : Nat × Nat) : State :=
  s.closing c0 fun s1 c =>
    match c.failure.filter fun f => f.code != .memerr || t.code != .memerr with
    | none => s1.enterTrap c word t (t.lane.getD low) at_
    | some f => s1.enterFailure c word f low at_

/-- The end of a segment at its boundary: a failed matrix word makes it a trap there (R352), else `k`. -/
def State.ending (s : State) (c0 : Cohort) (k : State → Cohort → State) : State :=
  s.closing c0 fun s1 c =>
    match c.failure with
    | none => k s1 c
    | some f => s1.enterFailure c (s1.wordAt c) f c.lowLane (c.pc, c.block)

/-- A suspension's records, counted as suspensions (R196, R412). -/
def State.suspendInto (s : State) (c : Cohort) (k : Cause) (ev : Fibre → Event) : State :=
  s.ending c fun s1 d => s1.intoRecords d k ev

/-- A suspension that executes the current word again (R38, R174): one record for each team, under `e`. -/
def State.suspendHere (s : State) (c : Cohort) (e : Event) : State :=
  s.suspendInto c (c.reissueCause .continuation) fun _ => e

/-- A forced suspension, binned at once (R196, R205, R211, R434), with the cause of its trace record. At a slot edge the last cohort of
a tag to go leaves the tag's tile set in its heavy record (R181). -/
def State.forceOut (s : State) (c : Cohort) (cause : Nat) : State :=
  s.ending c fun s1 d =>
    let s2 := s1.writeRecords d (d.reissueCause .forced) fun _ => .yielded
    let s3 := if cause == 0 && !((s2.core d.core).tilesOf d.tag).isEmpty && s2.cohorts.all (fun x => x.tag != d.tag) then
        s2.saveTag d.core d.tag else s2
    s3.countRecords s1.records.length d.core (fun _ => 2) fun _ => cause

/-- The first of some lanes that a record has, else its lowest lane. -/
def Record.firstOf (r : Record) (lanes : List Nat) : Nat :=
  ((lanes.filter fun l => r.fibres.any fun f => f.lane == l) ++ r.fibres.map Fibre.lane).headD 0

/-- Taking a trap whose frame names the trapping word itself: the shared entry of every exception. The
reporting lane is the trap's own, else the lowest of `lanes` (R452). -/
def State.takeTrap (s : State) (c : Cohort) (word : Word64) (t : TrapInfo) (lanes : List Nat) : State :=
  s.trapTo c word t ((lanes ++ [c.lowLane]).headD 0) (c.pc, c.block)

/-- Whether `s156` and `s157` break R454 by themselves. -/
def badReturn (c : Cohort) : Bool :=
  2 ^ 49 ≤ c.sreg 156 || c.sreg 156 % 8 != 0 || slice (c.sreg 157) 63 49 != 0 || bitOf (c.sreg 157) 2

/-- Whether a trap return's frame is good (R454): the header that `s157` names and the word of `s156`. -/
def State.returnHeader (s : State) (c : Cohort) : Option Header :=
  let pc := c.sreg 156
  let blk := slice (c.sreg 157) 48 3 * 8
  if badReturn c then none
  else match s.headerAt c blk with
    | .good h => if blk ≤ pc && pc ≤ blk + 8 * h.len then some h else none
    | _ => none

/-! ## Suspending faults (R38, R39) -/

/-- Records parked last that a repeated walk finds no longer faulting go straight to their bins (R42). -/
def State.rewalk (s : State) (n die ctx : Nat) (f : PageFault) : State :=
  if s.rewalkOk die ctx f then (s.records.drop n).foldl State.release s else s

/-- A suspending fault at the current word: NOSERVICE where the context has no fault queue (R40), else the
record waits on the page. -/
def State.faultHere (s : State) (c : Cohort) (word : Word64) (f : PageFault) (lanes : List Nat) : State :=
  let die := dieOf c.core
  if ringLen (s.ctxReg c.ctx 0x28) == 0 then
    s.takeTrap c word { code := .noservice, addr := f.va } lanes
  else s.closing c fun s0 d =>
    match d.failure with
    | some f => s0.enterFailure d (s0.wordAt d) f d.lowLane (d.pc, d.block)
    | none =>
      let n := s0.records.length
      let full := (s0.faultEntry? die c.ctx (faultPage f.va)).isNone && !s0.faultRoom die c.ctx
      let s1 := s0.intoRecords d (d.reissueCause .continuation) fun _ => .page c.ctx (faultPage f.va)
      let s2 : State := { s1 with records := s1.records.take n ++ (s1.records.drop n).map fun r =>
          { r with va := f.va, faultLane := r.firstOf lanes, place := if full then .faultOverflow else r.place } }
      (s2.parkPage die c.ctx f).rewalk n die c.ctx f

/-- A word that cannot be read is an error consumed: its sector is entered (R463, R464). -/
def State.fetchError (s : State) (c : Cohort) (va : Nat) : State :=
  match s.xlate c c.leadTeam (lineOf va) 8 .fetch with
  | .mem (.hbm pa) _ _ =>
    if s.sectorBad (pa + va % 128) then s.enterError ((pa + va % 128) / 64 * 64) (fnOf c.ctx) else s
  | _ => s

/-- What a fetch that gives no word does at the current word. -/
def State.fetchFailed (s : State) (c : Cohort) (word : Word64) (f : Fetched) : State :=
  match f with
  | .ok _ => s
  | .trap t => ((s.walkNote (some c.core) (dieOf c.core) c.ctx t.addr).fetchError c t.addr).takeTrap c word t c.lanes
  | .suspend pf => (s.walkNote (some c.core) (dieOf c.core) c.ctx pf.va).faultHere c word pf c.lanes
  | .peer read pkg page addr va =>
    (s.askPeer c ⟨pkg, page, addr, va, 4, 0, s.leaseOf c.uid (dieOf c.core) c.ctx va,
      if read then .read 128 else .translate⟩).holdPeer c

/-! ## The return from a trap (R454) -/

/-- The record of a trap return: every fibre, at the word of `s156`. -/
def State.returnRecord (s : State) (c : Cohort) (lane : Nat) : State :=
  let team := ((c.fibre? lane).map Fibre.team).getD c.leadTeam
  let k : Cause :=
    { kind := .continuation, resume := c.sreg 156, reissue := true, block := slice (c.sreg 157) 48 3 * 8
      kept := true, vcnt := c.window, ucnt := 160, trap := none, pd := 0, watch := none
      skip := bitOf (c.sreg 157) 0, stepping := bitOf (c.sreg 157) 1, stepDue := none, check := .passed }
  let (s2, c2) := s.spillFrames c.quiesced fun _ => 0
  let (uid, s3) := s2.fresh
  let r := s3.makeRecord c2 k team .none uid c2.fibres
  (({ s3 with records := s3.records ++ [r] }).leaveCore c2).decide 1 0 r.fibres.length r.flags r.ctx c.core
    r.tag r.launch r.resume

/-- The return from a trap: its header is fetched first, as any word's is; then every fibre goes into one record, or the trap is
fatal with BADRET. -/
def State.trapReturn (s : State) (c : Cohort) (word : Word64) (lane : Nat) : State :=
  match badReturn c, s.headerAt c (slice (c.sreg 157) 48 3 * 8) with
  | false, .unread (.suspend f) => s.faultHere c word f []
  | false, .unread (.peer read pkg page addr va) => s.fetchFailed c word (.peer read pkg page addr va)
  | _, _ => s.closing c fun s1 d =>
    match d.failure with
    | some f => s1.enterFailure d word f d.lowLane (d.pc, d.block)
    | none => if (s1.returnHeader d).isNone then s1.fatal d TrapCode.badret.code 4 0 else s1.returnRecord d lane

/-! ## Moving on -/

/-- A word has been performed: SKIP is over, and STEP comes next when it was asked for (R454). -/
def State.performed (s : State) (c : Cohort) (word : Word64) : State :=
  s.putCohort { c with skip := false, stepping := false, stepDue := if c.stepping then some word else none }

/-- A word performed in place: the pc moves past it. -/
def State.finish (s : State) (c : Cohort) (word : Word64) : State := s.performed c.advance word

/-- A word performed by a transfer to a header, which the next step enters. A cohort that has held its slot
for 1,024 cycles gives it up (R213). -/
def State.transfer (s : State) (c : Cohort) (word : Word64) (target : Nat) : State :=
  let long := 1024 ≤ s.clock - c.slotSince
  s.performed { c with pc := target, block := target, atHeader := true
                       issue := if long then none else c.issue
                       readyTime := if long then s.clock else c.readyTime } word

/-! ## The issue of a word -/

/-- The word that an instruction stands for, as `s153` shows it (R452). -/
def wordOf (i : Instr) : Word64 := (encode i).getD 0#64

/-- The cohort whose word the step executes. -/
def State.current (s : State) : Option Cohort := s.cur.bind s.cohort?

/-- Whether R265 admits a word. -/
def admitted (i : Instr) : Bool := i.wf

/-- The common part of every word's meaning: the current cohort, and ILLEGAL where R265 calls for it. -/
def onCohort (i : Instr) (s : State) (k : Cohort → State) : Host.Outcome State Fault Refusal :=
  match s.current with
  | none => .fault .noCohort
  | some c =>
    if admitted i then .next (k c) else .next (s.takeTrap c (wordOf i) { code := .illegal } [])

/-- A uniform word: its result, written under R230 with latency 2 (R277). -/
def issueUniform (i : Instr) (s : State) (dst : Nat) (val : Cohort → Nat) : Host.Outcome State Fault Refusal :=
  onCohort i s fun c =>
    let r : InFlightU := { left := 2, reg := dst, val := BitVec.ofNat 64 (val c) }
    s.finish ({ c with flightU := c.flightU ++ [r] }.tickU) (wordOf i)

/-- What a vector word names and does (R301 to R303). -/
structure VectorOp where
  guard : Guard
  /-- Its source fields, for latches. -/
  srcs : List Src
  /-- The registers it reads. -/
  reads : List RegRun
  /-- The registers it writes. -/
  writes : List RegRun
  wbs : Bool
  latency : Nat
  /-- It draws generator words (R304). -/
  draws : Bool := false
  /-- The predicates it writes. -/
  preds : List Nat := []

/-- The trap that a vector word meets before its own (R266). -/
def Cohort.vectorTrap (c : Cohort) (v : VectorOp) : Option TrapCode :=
  if c.outside (v.reads ++ v.writes) then some .regbound
  else if c.readsDead v.srcs || (c.latchLive && 24 ≤ c.liveRun) then some .latch
  else if c.hazard (v.reads ++ v.writes) || c.predHazard (v.guard.psel.toNat :: v.preds) then some .landhaz
  else none

/-- A result in flight on the vector side, and the end of its issue cycle on both sides: a passed vector word
is an issue cycle of the uniform side (R224, R229, R230). -/
def Cohort.issueVec (c : Cohort) (v : VectorOp) (writes : List RegWrite) (latch : Option Latch) : Cohort :=
  let r : InFlightV := { left := v.latency, writes := if v.wbs then [] else writes, latch }
  let d := c.killed v.srcs
  ({ d with flightV := d.flightV ++ [r]
            liveRun := if c.latchLive then c.liveRun + 1 else 0
            conv := if v.draws then c.conv + 1 else c.conv }).tickV.tickU

/-- The latch entry of a vector result: live under WBS, dead otherwise; zero in inactive lanes (R234, R301). -/
def latchFor (live : Bool) (vals : List (Nat × Nat)) : Latch :=
  { live, cols := (List.range 32).map fun l =>
      BitVec.ofNat 64 (((vals.find? fun p => p.1 == l).map Prod.snd).getD 0) }

/-- The writes of a result to a register or a pair in each lane given (R253). -/
def vecWrites (pair : Bool) (dst : Nat) (vals : List (Nat × Nat)) : List RegWrite :=
  vals.flatMap fun p =>
    RegWrite.vec p.1 dst (BitVec.ofNat 32 p.2) ::
      (if pair then [RegWrite.vec p.1 (dst + 1) (BitVec.ofNat 32 (p.2 / 2 ^ 32))] else [])

/-- The lanes of fibres. -/
def lanesOf (fs : List Fibre) : List Nat := fs.map Fibre.lane

/-- A vector word that writes a vector register: `val` gives each active lane's result (R301). -/
def issueVector (i : Instr) (s : State) (v : VectorOp) (pair : Bool) (dst : Nat)
    (val : Cohort → Fibre → Nat) : Host.Outcome State Fault Refusal :=
  onCohort i s fun c =>
    match c.vectorTrap v with
    | some t => s.takeTrap c (wordOf i) { code := t } (lanesOf (c.active v.guard))
    | none =>
      let vals := (c.active v.guard).map fun f => (f.lane, val c f % 2 ^ (if pair then 64 else 32))
      s.finish (c.issueVec v (vecWrites pair dst vals) (some (latchFor v.wbs vals))) (wordOf i)

/-- A vector word that writes a predicate (R303, R309). -/
def issuePred (i : Instr) (s : State) (v : VectorOp) (dst : Nat) (val : Cohort → Fibre → Bool) :
    Host.Outcome State Fault Refusal :=
  onCohort i s fun c =>
    match c.vectorTrap v with
    | some t => s.takeTrap c (wordOf i) { code := t } (lanesOf (c.active v.guard))
    | none =>
      s.finish (c.issueVec v ((c.active v.guard).map fun f => RegWrite.pred f.lane dst (val c f)) none) (wordOf i)

/-- Whether the unit issues writes for a word. -/
def MatrixKind.writes : MatrixKind → Bool
  | .store _ | .drain _ _ _ _ _ _ _ => true
  | _ => false

/-- The writes of the tile words that a cohort's tag has had accepted are issued (R347, R120; log 26): the
state, and the cohort as it then stands. -/
def State.tileStores (s : State) (c : Cohort) : State × Cohort :=
  let q := (s.core c.core).matrixQueue
  let mine (o : MatrixOp) : Bool := o.tag == c.tag && o.kind.writes
  if q.any mine then
    let s1 := State.matrixWhile c.core mine q.length (s.putCohort c)
    (s1, (s1.cohort? c.uid).getD c)
  else (s, c)

/-- A cohort at a potential stall point (R232): both sides drain, but for the uniform one while a vector word that captured its
uniform operands as it was passed has still to use them (R224, R230). -/
def Cohort.atStop (c : Cohort) (passed : Bool) : Cohort := if passed then c.drainV else c.drain

/-- Once such a word is performed, the uniform side has drained too. -/
def State.drained (s : State) (uid pc : Nat) : State :=
  match s.cohort? uid with
  | some c => if c.pc == pc then s else s.putCohort c.drainU
  | none => s

/-- The traps that a word may meet at its stall point beside TILEMISM: all of them; all but LANDHAZ, of a prefetch (R361); or none, of a
wait with no active lane (R369). -/
inductive StopTraps where
  | all | noHazard | none
  deriving DecidableEq, Repr

/-- The trap of a word at its stall point: REGBOUND, LATCH where a latch value is live (R235), and LANDHAZ for the registers and
predicates that it names (R238). -/
def Cohort.stopTrap (d : Cohort) (ts : StopTraps) (g : Guard) (runs : List RegRun) (preds : List Nat) : Option TrapCode :=
  if ts == .none then none
  else if d.outside runs then some .regbound
  else if d.latchLive then some .latch
  else if ts == .all && (d.hazard runs || d.predHazard (g.psel.toNat :: preds)) then some .landhaz
  else none

/-- A potential stall point (R232): TILEMISM where a matrix word has failed (R343), the word's own traps, and the latches clear. -/
def atStopWith (passed : Bool) (ts : Cohort → StopTraps) (i : Instr) (s0 : State) (g : Guard) (runs : List RegRun) (preds : List Nat)
    (k : State → Cohort → State) : Host.Outcome State Fault Refusal :=
  onCohort i s0 fun c =>
    let (s, d) := s0.tileStores (c.atStop passed)
    match d.failed, d.stopTrap (ts d) g runs preds with
    | some f, _ => s.takeTrap d (wordOf i) f.trap (lanesOf (d.active g))
    | none, some t => s.takeTrap d (wordOf i) { code := t } (lanesOf (d.active g))
    | none, none =>
      let t := k s { d with latches := deadLatches, liveRun := 0 }
      if passed then t.drained d.uid d.pc else t

/-- A word that meets every trap at its stall point. -/
def atStop (passed : Bool) (i : Instr) (s : State) (g : Guard) (runs : List RegRun) (preds : List Nat)
    (k : State → Cohort → State) : Host.Outcome State Fault Refusal := atStopWith passed (fun _ => .all) i s g runs preds k

/-- A word of the uniform side, or a meeting word, at its stall point. -/
def atStall (i : Instr) (s : State) (g : Guard) (runs : List RegRun) (preds : List Nat) (k : State → Cohort → State) :
    Host.Outcome State Fault Refusal := atStop false i s g runs preds k

/-- A word's own trap: the lowest active lane reports, unless the trap names a lane. -/
def State.ownTrap (s : State) (i : Instr) (c : Cohort) (t : TrapInfo) (g : Guard) : State :=
  s.takeTrap c (wordOf i) t (lanesOf (c.active g))

end Sys2Proof.Machine
end

