-- ==== Sys2Proof/Machine/Agents.lean ====
section
/-! DEFINITION. What the part does next by itself: the word of a cohort that holds an issue slot
(spec/13 R409 to R411), the header that a cohort stands at (spec/08 R249, spec/06 R203), breakpoints
(spec/15 R459), and the enabled events of the other agents, in the model's order (log 2). -/

namespace Sys2Proof.Machine

open Sys2Proof

/-- The cohorts that can issue: they hold a slot and wait for nothing (R409). -/
def State.issuing (s : State) : List Cohort :=
  s.cohorts.filter fun c => c.issue.isSome && c.wait == .none && !c.parked

/-- The issue slot whose turn it is: the slots take turns, by core and number, so that the cohort that holds one issues within a
bounded number of turns (R214, log 2). -/
def State.slotTurn (s : State) (c : Cohort) : Bool := c.issue == some (s.turn % 1025 % 2) && c.core == s.turn % 1025 / 2

/-- The cohort whose word or header comes next: the one whose slot has the turn, or, among several, a free value (log 2). -/
def State.pick (s : State) : Option Cohort :=
  match s.issuing with
  | [] => none
  | [c] => some c
  | c :: cs => ((c :: cs).find? s.slotTurn).or (some ((c :: cs).getD (s.free % (cs.length + 1)) c))

/-- The breakpoint that matches a word: BP0 to BP3 of the core's debug window (R459). -/
def State.breakpoint (s : State) (c : Cohort) : Option Nat :=
  if c.skip then none
  else (List.range 4).find? fun n =>
    let b := s.reg (fnOf c.ctx) (0x10000 + s.denseCore (fnOf c.ctx) c.core * 0x200 + 8 * n)
    bitOf b 63 && slice b 48 3 * 8 == c.pc

/-- The cohort enters the block of a header (R248, R249). -/
def Cohort.enter (c : Cohort) (va : Nat) (h : Header) : Cohort :=
  let d := { c with pc := va + 8, block := va, len := h.len, reconv := h.reconv, kept := h.kept, atHeader := false, check := .plain }
  if h.len == 0 then { d with block := va + 8, atHeader := true } else d

/-- The RECONV address of an entry. -/
def State.splitEntry? (s : State) (c : Cohort) : Option SplitEntry :=
  c.split.bind fun e => (s.core c.core).splitTable[e]?

/-- A sub-cohort parks at its entry's header, and the parked ones fuse once all are there (R203). -/
def State.park (s : State) (c : Cohort) (e : Nat) : State :=
  let s1 := s.putCohort { c with parked := true, issue := none }
  ((s1.putCore ((s1.core c.core).modEntry e fun x => { x with parked := x.parked + 1 })).fuseAll c.core)

/-- The header that control stands at: checked, but where it has passed (R161). -/
def State.headerHere (s : State) (c : Cohort) : HeaderAt :=
  match c.check, s.fetch c c.pc with
  | .passed, .ok w => .good (headerFields w)
  | _, _ => s.headerAt c c.pc

/-- Whether what stands at a handler's header makes the trap that brought the cohort there fatal (R453). -/
def HeaderAt.noHandler : HeaderAt → Bool
  | .good h => !(h.entry && h.susp)
  | .bad _ => true
  | .unread (.trap _) => true
  | .unread _ => false

/-- That trap, from its frame: its launch ends. -/
def State.fatalHandler (s : State) (c : Cohort) : State :=
  let code := c.sreg 152 % 2 ^ 16
  s.fatal { c with pc := if code == TrapCode.step.code then c.stepAt else c.sreg 156 } code 3 (c.sreg 154)

/-- Control stands at a header: it is checked (R249, R453), and the cohort parks or enters its block (R203, R249). -/
def State.reachHeader (s : State) (c : Cohort) : State :=
  if c.check == .handler && (s.headerHere c).noHandler then s.fatalHandler c
  else match s.headerHere c with
  | .good h =>
    let s1 := s.fetchKeep c c.pc
    match s.splitEntry? c, c.split with
    | some x, some e => if x.reconv == c.pc then s1.park c e else s1.putCohort (c.enter c.pc h)
    | _, _ => s1.putCohort (c.enter c.pc h)
  | .bad w => s.takeTrap c w { code := .badheader, addr := c.pc } []
  | .unread f => s.fetchFailed c 0#64 f

/-- A cohort that a REISSUE record resumed within a block takes up the header that governs its word, which is not checked again
(R161). -/
def State.resumeBlock (s : State) (c : Cohort) : State :=
  match s.fetch c c.block with
  | .ok w =>
    let h := headerFields w
    (s.fetchKeep c c.block).putCohort { c with len := h.len, reconv := h.reconv, kept := h.kept, atHeader := false }
  | f => s.fetchFailed c 0#64 f

/-- What a cohort that stands at a header does. -/
def State.headerStep (s : State) (c : Cohort) : State := if c.pc == c.block then s.reachHeader c else s.resumeBlock c

end Sys2Proof.Machine
end

