-- ==== Sys2Proof/Machine/Access.lean ====
section
/-! DEFINITION. The checks and the course of every word that accesses memory: the addresses of its lanes
(spec/08 R259), the checks of spec/12 R359 under spec/01 R30 and R31, watchpoints (spec/15 R459), access counts
(spec/01 R44), memory errors (spec/15 R463) and accesses of peers (spec/01 R49). -/

namespace Sys2Proof.Machine

open Sys2Proof

/-- One access of a word: its lane, or none for the uniform agent, its team, its address, and what the
address translates to. -/
structure Acc where
  lane : Option Nat
  team : BitVec 32
  va : Nat
  x : Xlate
  deriving DecidableEq, Repr

/-- The address of a lane, or of the uniform access (R259). -/
def memAddress (c : Cohort) (w : MemWord) (f : Option Fibre) : Nat :=
  let o : Int := match w.off with
    | .vreg n => (f.elim 0 fun g => g.reg n.toNat : Nat)
    | .ureg n => c.sreg n.toNat
    | .imm v => v.toInt
    | .latch _ => 0
  lowBits 64 (c.sreg w.base.toNat + o + w.disp.toInt)

/-- Who accesses memory for a word: each active lane, or the uniform agent when some lane is active (R358). -/
def memAgents (c : Cohort) (w : MemWord) : List (Option Fibre) :=
  if w.ua then (if (c.active w.guard).isEmpty then [] else [none]) else (c.active w.guard).map some

/-- What a leaf whose access suspends says of the page (R37): its frame and attributes, for the word's own checks. -/
def State.leafAccess (s : State) (f : PageFault) : Xlate :=
  .mem (s.locOf (entryAddr f.entry + f.va % pageSize f.level)) (cacheOf (slice f.entry 59 58)) (bitOf f.entry 60)

/-- The checks of R359 for one access of `n` bytes; `chk` makes the word's own access checks, whose trap comes before the suspension of
a leaf that is there (R31). -/
def State.checkAccess (s : State) (c : Cohort) (team : BitVec 32) (va n : Nat) (acc : Access)
    (chk : Xlate → Option TrapCode) : Xlate :=
  if va % n != 0 then .trap { code := .misalign, addr := va }
  else
    let x := s.xlate c team va n acc
    match x with
    | .trap _ => x
    | .suspend f =>
      if f.cls == 1 || f.cls == 2 then (chk (s.leafAccess f)).elim x fun t => .trap { code := t, addr := va } else x
    | _ => match chk x with
      | some t => .trap { code := t, addr := va }
      | none => x

/-- The accesses of a MEM word, checked. -/
def State.memAccs (s : State) (c : Cohort) (w : MemWord) (n : Nat) (acc : Access) (chk : Xlate → Option TrapCode) :
    List Acc :=
  (memAgents c w).map fun f =>
    let va := memAddress c w f
    let team := f.elim c.leadTeam Fibre.team
    { lane := f.map Fibre.lane, team, va, x := s.checkAccess c team va n acc chk }

/-- Whether an access failed a check. -/
def Acc.failed (a : Acc) : Bool :=
  match a.x with
  | .trap _ | .suspend _ => true
  | _ => false

/-- Whether an access raises a trap. -/
def Acc.traps (a : Acc) : Bool :=
  match a.x with
  | .trap _ => true
  | _ => false

/-- The access that a word reports (R31): of the lowest-numbered lane that fails, its first trap, else its first failure. -/
def firstFailure (accs : List Acc) : Option Acc :=
  (accs.find? Acc.failed).map fun a => (accs.find? fun b => b.lane == a.lane && b.traps).getD a

/-- The walks of a word's accesses, one of which fails (R28, R30). -/
def State.walkAccs (s : State) (c : Cohort) (accs : List Acc) : State :=
  accs.foldl (fun t a => t.walkNote (some c.core) (dieOf c.core) c.ctx a.va) s

/-- What the failing access of a word raises: nothing of the word is performed. -/
def State.failAccess (s : State) (c : Cohort) (word : Word64) (a : Acc) (lanes : List Nat) : State :=
  match a.x with
  | .trap t => s.takeTrap c word { t with lane := a.lane } lanes
  | .suspend f => s.faultHere c word f (a.lane.toList ++ lanes)
  | _ => s

/-! ## Watchpoints (R459) -/


/-- Whether watchpoint `n` matches an access of `len` bytes. -/
def State.watchMatches (s : State) (c : Cohort) (rd wr : Bool) (len n : Nat) (a : Acc) : Bool :=
  let fn := fnOf c.ctx
  let ctl := s.reg fn (s.debugBase c + 0x40 + 8 * n)
  let size := 2 ^ min (slice ctl 5 3) 6
  let base := slice (s.reg fn (s.debugBase c + 0x20 + 8 * n)) 48 0 / size * size
  let meets (x : Nat) : Bool := x < base + size && base < x + len
  ((rd && bitOf ctl 0) || (wr && bitOf ctl 1)) &&
    (if bitOf ctl 2 then
       (match a.x with
        | .pad p off => p.core == c.core && meets off
        | _ => false)
     else meets a.va)

/-- The WATCH trap of a word's accesses: the lowest matching lane reports. -/
def State.watchTrap (s : State) (c : Cohort) (rd wr : Bool) (len : Nat) (accs : List Acc) : Option TrapInfo :=
  if c.skip then none
  else accs.findSome? fun a =>
    ((List.range 4).find? fun n => s.watchMatches c rd wr len n a).map fun n =>
      { code := .watch, lane := a.lane, addr := a.va, detail := n }

/-! ## What a translated access leaves behind -/

/-- ACC of R40 for an access. -/
def accBits (rd wr : Bool) : Nat := (if rd then 1 else 0) + (if wr then 2 else 0)

/-- What the accesses of a word leave in the TLBs, the counters and the leases. -/
def State.noteAccs (s : State) (c : Cohort) (rd wr : Bool) (accs : List Acc) : State :=
  accs.foldl (fun t a =>
    (t.notePaged (some c.core) (dieOf c.core) c.ctx a.va (accBits rd wr)).renewLease c.uid (some c.core) (dieOf c.core) c.ctx
      a.va a.x) s

/-! ## Peers (R49, R472) -/

/-- Whether the core of a cohort has a write to a peer pending to some bytes of an access. -/
def State.peerBehind (s : State) (c : Cohort) (len : Nat) (p : Nat × Nat × Acc) : Bool :=
  (s.peerPending c.core).any fun w => overlap w.loc w.op.len (.peer p.1 p.2.1) len

/-- The translations of peer pages that the accesses want, each asked for the first lane that wants it. -/
def wantedPeers (acc : Nat) (accs : List Acc) : List Ask :=
  accs.foldl (fun out a => match a.x with
    | .askPeer pkg page addr =>
      if out.any fun (q : Ask) => q.pkg == pkg && q.page == page then out
      else out ++ [⟨pkg, page, addr, a.va, acc, a.lane.getD 0, 0, .translate⟩]
    | _ => out) []

/-- The peer locations that the accesses name. -/
def peerLocs (accs : List Acc) : List (Nat × Nat × Acc) :=
  accs.filterMap fun a => match a.x with
    | .mem (.peer pkg f) _ _ => some (pkg, f, a)
    | _ => none

/-- The requests a word still lacks an answer to, sent once the core's own writes there have performed (R123, R124); `kind` says what
each access asks, and `len` how many bytes answer it. -/
def State.askData (s : State) (c : Cohort) (accs : List Acc) (kind : Acc → PeerKind) (len : Nat) : Option State :=
  let missing := (peerLocs accs).filter fun p => (s.peerReply c.uid (p.2.2.lane.getD 0) p.2.1 len).isNone
  if missing.isEmpty then none
  else if missing.any (s.peerBehind c len) then some (s.holdPeer c)
  else some ((missing.foldl (fun t p =>
    t.askPeer c ⟨p.1, p.2.1, p.2.1, p.2.2.va, 0, p.2.2.lane.getD 0, t.leaseOf c.uid (dieOf c.core) c.ctx p.2.2.va, kind p.2.2⟩)
    s).holdPeer c)

/-- The answers that a word has used are gone, and with them a translation that served one access (R50). -/
def State.usedPeers (s : State) (c : Cohort) (accs : List Acc) : State :=
  if (peerLocs accs).isEmpty then s
  else
    { s.spendOnce c.uid with
      peerReqs := s.peerReqs.filter fun r =>
        !(r.uid == c.uid && r.reply.isSome && (peerLocs accs).any fun p => p.2.1 == r.addr) }

/-! ## The course of a word (R30, R31, R359) -/

/-- Whether an access of a write stands in pending(c) before it performs: a release step before it then waits there with it, and no
later read waits (R120, R126). -/
def Acc.lazy (a : Acc) : Bool :=
  match a.x with
  | .mem (.peer _ _) _ _ | .pad _ _ => false
  | _ => true

/-- The checked accesses of a word acted on: the first failing one, an aborted request, translations still
wanted, or a watchpoint; else `k`, after the release steps that a write has to wait for (R120). -/
def State.withAccs (s : State) (i : Instr) (c : Cohort) (g : Guard) (accs : List Acc) (rd wr : Bool) (len : Nat)
    (k : State → State) : State :=
  match firstFailure accs with
  | some a => (s.walkAccs c accs).failAccess c (wordOf i) a (lanesOf (c.active g))
  | none =>
    match s.abortedReq c.uid with
    | some r =>
      s.ownTrap i c { code := .peerabort, addr := r.va } g
    | none =>
      if !(wantedPeers (accBits rd wr) accs).isEmpty then
        ((wantedPeers (accBits rd wr) accs).foldl (fun t p => t.askPeer c p) s).holdPeer c
      else match s.watchTrap c rd wr len accs with
        | some t => s.ownTrap i c t g
        | none =>
          if wr && !accs.all Acc.lazy then s.payRelease c fun t => k (t.noteAccs c rd wr accs)
          else if wr then s.awaitPeers c fun t => k (t.noteAccs c rd wr accs)
          else k (s.noteAccs c rd wr accs)

/-! ## Memory errors (R463, R464) -/

/-- The sector of an access that holds an uncorrectable error. -/
def State.badSector? (s : State) (x : Xlate) : Option Nat :=
  match x with
  | .mem (.hbm pa) _ _ => if s.sectorBad pa then some (pa / 64 * 64) else none
  | _ => none

/-- The structure code of an access (R462): scratchpad, the L2's data, or HBM. -/
def State.errCode (s : State) (a : Acc) : Nat :=
  match a.x with
  | .pad _ _ => 4
  | .mem (.hbm pa) _ _ => s.sectorCode pa
  | _ => 1

/-- Whether an access of `n` bytes meets an uncorrectable error. -/
def State.accBad (s : State) (n : Nat) (a : Acc) : Bool :=
  match a.x with
  | .pad p off => s.padBad p off n
  | x => (s.badSector? x).isSome

/-- The errors of a word's accesses entered and posted (R464, R466). -/
def State.enterErrors (s : State) (c : Cohort) (n : Nat) (accs : List Acc) : State :=
  accs.foldl (fun t a => match a.x with
    | .pad p off =>
      if t.padBad p off n then
        t.coreError 4 1 p.core (((t.padWords p off n).headD (0, 0, 0)).2.1) (fnOf c.ctx)
      else t
    | x => match s.badSector? x with
      | some b => t.enterError b (fnOf c.ctx)
      | none => t) s

/-- The first access of a word that meets an error. -/
def State.errorAcc (s : State) (n : Nat) (accs : List Acc) : Option Acc := accs.find? (s.accBad n)

/-- MEMERR at an access (R451, R463). -/
def State.memerr (s : State) (a : Acc) : TrapInfo := { code := .memerr, lane := a.lane, addr := a.va, detail := s.errCode a }

/-- MEMERR at a word, whose errors are entered as it is raised. -/
def State.errorTrap (s : State) (i : Instr) (c : Cohort) (g : Guard) (n : Nat) (accs : List Acc) (a : Acc) : State :=
  if s.peerOpen c then s.holdPeer c else (s.enterErrors c n accs).ownTrap i c (s.memerr a) g

/-! ## Entries that a word needs (R64) -/

/-- Whether an access of a load still has its sector to come: in this package one that the L1 cannot serve, unless `l1` is
false, and at a peer one with no answer yet. -/
def State.misses (s : State) (c : Cohort) (l1 : Bool) (n : Nat) (a : Acc) : Bool :=
  match a.x with
  | .mem (.peer _ f) _ _ => (s.peerReply c.uid (a.lane.getD 0) f n).isNone
  | .mem l _ _ => !(l1 && (s.l1Hit c.core l).isSome)
  | _ => false

/-- The sectors that a load has to ask for, in ascending order. -/
def State.missedSectors (s : State) (c : Cohort) (l1 : Bool) (n : Nat) (accs : List Acc) : List Loc :=
  sortedKeys ((accs.filter (s.misses c l1 n)).filterMap fun a => match a.x with
    | .mem l _ _ => some (sectorKey l)
    | _ => none)

/-- Whether a sector of a peer has been asked for on a core already. -/
def State.peerAsked (s : State) (core : Nat) : Loc → Bool
  | .peer p n => s.peerReqs.any fun r =>
      r.core == some core && r.isOpen && r.kind != .translate && r.lane < postedLane && r.pkg == p && r.addr / 64 == n
  | _ => false

/-- The entries of a load: one for each such sector that has none outstanding on the core. -/
def State.loadNeed (s : State) (c : Cohort) (l1 : Bool) (n : Nat) (accs : List Acc) : Nat :=
  (s.missedSectors c l1 n accs).countP fun k => !((s.core c.core).misses.any fun m => m.key == k) && !s.peerAsked c.core k

/-- The entries of a store or an atomic: one for each line that has still to be asked for. -/
def State.lineNeed (s : State) (c : Cohort) (n : Nat) (accs : List Acc) : Nat :=
  (((accs.filter (s.misses c false n)).filterMap fun a => match a.x with
    | .mem l _ _ => some (lineKey l)
    | _ => none).eraseDups).length

/-- A word that needs entries goes on, or joins the grant queue. -/
def State.withMisses (s : State) (c : Cohort) (need : Nat) (k : State → State) : State :=
  if s.missReady c need then k (s.spendGrant c) else s.queueMisses c need

/-! ## Accesses to common bytes (R120, R124) -/

/-- Whether an access meets a byte of a range. -/
def Acc.meets (a : Acc) (len : Nat) (l : Loc) (n : Nat) : Bool :=
  match a.x with
  | .mem m _ _ => overlap m len l n
  | _ => false

/-- What must perform before the accesses of a word: earlier reads and atomic operations of the same agents to common bytes, and
before a write every atomic operation of its core there. -/
def State.settle (s : State) (c : Cohort) (wr : Bool) (len : Nat) (accs : List Acc) : State :=
  let s1 := s.gather c.core fun r => r.of c && accs.any fun a => a.lane == some r.lane && a.meets len r.loc r.len
  let due (p : PendingStore) : Bool := p.core == c.core && p.isRmw &&
    accs.any fun a => (wr || (p.placed == c.placed && p.lane == a.lane)) && a.meets len p.loc p.op.len
  (s1.pendingStores.filter due).foldl (fun t p => t.oldReturn p.id) s1

end Sys2Proof.Machine
end

