-- ==== Sys2Proof/Machine/MemOps.lean ====
section
/-! DEFINITION. Memory words: spec/12 R357 to R368, with the steps of spec/04 R116 to R126, R132, R133, R154. -/

namespace Sys2Proof.Machine

open Sys2Proof

/-! ## Marks (R116, R360) -/

/-- The scope of a marked word: `.pkg` when none is written. -/
def markScope (w : MemWord) : Nat := if w.scope == 0#3 then 4 else w.scope.toNat
/-- Whether a pending read is an active lane's. -/
def readOfLanes (c : Cohort) (g : Guard) (r : PendingRead) : Bool :=
  r.placed == c.placed && (c.active g).any fun f => f.lane == r.lane
/-- The release step of `.rel` and `.ar`, before the accesses (R120): it is left for the writes that the word issues, so that no later
read waits for it (R126), or completes at the word where they do not stand in pending(c). -/
def State.relMark (s : State) (c : Cohort) (w : MemWord) (accs : List Acc) (k : State → State) : State :=
  if !w.ord.getLsbD 1 then k s
  else if accs.all Acc.lazy then
    let s1 := s.gather c.core fun r => readOfLanes c w.guard r && r.kind == .cell
    let s2 := if 2 ≤ markScope w then s1.acceptCore c.core else s1
    State.awaitPeers { s2 with owed := s2.owed ++ (if accs.isEmpty then [] else [(c.uid, markScope w, s2.nextUid)]) } c k
  else s.withRelease c (markScope w) (readOfLanes c w.guard) k
/-- The acquire step of `.acq` and `.ar`, after them and once every earlier read has returned (R126). -/
def State.acqMark (s : State) (c : Cohort) (w : MemWord) : State :=
  if w.ord.getLsbD 0 then (s.gather c.core (readOfLanes c w.guard)).acquireStep c.core (markScope w) else s

/-- The tag that a word returns under, when it returns to vector registers. -/
def returnTag (w : MemWord) : Option Nat := if w.ua || w.wbs then none else some w.ltag.toNat

/-- The registers that a MEM word names: DATA, when it is a vector, and a vector offset. -/
def memRuns (w : MemWord) (regs : Nat) : List RegRun :=
  (if w.ua then [] else [(w.data.toNat, regs)]) ++ srcRun .n32 w.off

/-- A MEM word at its stall point: LANDHAZ on its tag (R238), and nothing at all for a uniform form with no
active lane (R358). -/
def atMemory (i : Instr) (w : MemWord) (s : State) (runs : List RegRun) (tag : Option Nat)
    (k : State → Cohort → State) : Host.Outcome State Fault Refusal :=
  atStop (!w.ua) i s w.guard runs [] fun s c =>
    if tag.elim false c.tagBusy then s.ownTrap i c { code := .landhaz } w.guard
    else if w.ua && (c.active w.guard).isEmpty then s.finish c (wordOf i)
    else k s c

/-! ## Results -/

/-- Bytes in a uniform register (R358). -/
def loadUniform (sz : BitVec 3) (bs : List Byte) : Word64 :=
  let x := ofBytes bs
  match sz.toNat with
  | 1 => BitVec.ofInt 64 (signedOf 8 x)
  | 3 => BitVec.ofInt 64 (signedOf 16 x)
  | _ => BitVec.ofNat 64 x

/-- A tag outstanding, whose landing has an identifier (R237). -/
def Cohort.startLanding (c : Cohort) (id tag : Nat) (fs : List Fibre) (run : RegRun) (err : Option LandError) : Cohort :=
  { c with landings := c.landings ++
      [{ id, tag, rows := c.rowsOf fs [run], pred := none, writes := [], unitWord := none, landed := false, error := err }] }

/-- A lane's registers as data. -/
def Fibre.words (f : Fibre) (n cnt : Nat) : List Word32 := (List.range cnt).map fun j => BitVec.ofNat 32 (f.reg (n + j))

/-- What a peer returned to an access of a core, with the core's own pending writes over it (R123). -/
def State.peerBytes (s : State) (c : Cohort) (lane : Option Nat) (l : Loc) (f n : Nat) : List Byte :=
  ((s.peerReply c.uid (lane.getD 0) f n).getD []).zipIdx.map fun (b, i) => (s.pendingByte c.core (c.placed, lane) (locPlus l i)).getD b

/-- The bytes that an access reads at once: of a peer's reply, of scratchpad, or of what the core sees (R123, R125). -/
def State.bytesNow (s : State) (c : Cohort) (a : Acc) (n : Nat) : List Byte :=
  match a.x with
  | .mem (.peer p f) _ _ => s.peerBytes c a.lane (.peer p f) f n
  | .mem l _ _ => s.coreRead c.core (c.placed, a.lane) l n
  | .pad p off => s.padRead p off n
  | _ => []

/-- What such a read leaves behind. -/
def State.readNow (s : State) (c : Cohort) (a : Acc) (n : Nat) : State :=
  match a.x with
  | .mem (.peer _ _) _ _ => s
  | .mem l _ _ => s.readDone c.core l n
  | _ => s

/-! ## The reads of a word (R60, R62, R64, R237) -/

/-- A returning word's read for one access, as its landing keeps it. -/
def readOf (c : Cohort) (w : MemWord) (sz : BitVec 3) (id n : Nat) (kind : ReadKind) (a : Acc) : PendingRead :=
  { landing := id, core := c.core, placed := c.placed, lane := a.lane.getD uniformLane, va := a.va
    loc := match a.x with | .mem l _ _ => l | _ => .hbm 0
    len := match a.x with | .mem _ _ _ => n | _ => 0
    sz, dst := w.data.toNat, kind, bytes := none }

/-- A read is issued: what returns at once has its bytes; any other waits for its sector. -/
def State.issueRead (s : State) (c : Cohort) (w : MemWord) (id n : Nat) (kind : ReadKind) (a : Acc) : State :=
  let r := readOf c w w.sz id n kind a
  if s.misses c (kind == .plain) n a then { s with reads := s.reads ++ [r] }
  else { s with reads := s.reads ++ [{ r with bytes := some (s.bytesNow c a n) }] }.readNow c a n

/-- Whether a load's fill goes into the L1 (R60), and whether it travels as an uncached transfer (R71, R73). -/
def Acc.fills (a : Acc) : Bool := match a.x with | .mem _ cache _ => cache == 0 | _ => false
def State.loadUncached (s : State) (c : Cohort) (l1 : Bool) (a : Acc) : Bool :=
  match a.x with
  | .mem _ cache _ => !l1 || s.isUncached (fnOf c.ctx) cache
  | _ => false

/-- The line request of the sectors of a line that a load wants (R62). -/
def State.loadReq (s : State) (c : Cohort) (l1 : Bool) (line : Nat) (keys : List Loc) (accs : List Acc) : SliceReq :=
  let mine (a : Acc) : Bool := match a.x with | .mem (.hbm pa) _ _ => pa / 256 == line | _ => false
  { id := 0, fn := fnOf c.ctx, core := some c.core, line, kind := .load
    sectors := keys.foldl (fun m k => match k with | .hbm n => if n / 4 == line then m ||| (1#4 <<< (n % 4)) else m | _ => m) 0#4
    bytes := 0#256, lanes := [], uncached := (accs.filter mine).any (s.loadUncached c l1)
    page := (accs.find? mine).bind fun a => s.pageRef (some c.core) (dieOf c.core) c.ctx a.va 1
    link := none }

/-- The page that a sector of host memory counts against (R44). -/
def State.hostPage (s : State) (c : Cohort) (k : Loc) (accs : List Acc) : Option PageRef :=
  match k with
  | .host _ =>
    (accs.find? fun a => match a.x with | .mem l _ _ => sectorKey l == k | _ => false).bind fun a =>
      s.pageRef (some c.core) (dieOf c.core) c.ctx a.va 1
  | _ => none

/-- The line requests for the sectors of some keys, in ascending line address (R62), and the counts of those in host memory (R44). -/
def State.askKeys (s : State) (c : Cohort) (l1 : Bool) (keys : List Loc) (accs : List Acc) : State :=
  keys.foldl (fun t k => t.countHost (s.hostPage c k accs) 1)
    (((keys.filterMap fun k => match k with | .hbm n => some (n / 4) | _ => none).eraseDups).foldl
      (fun t line => t.ask (s.loadReq c l1 line keys accs)) s)

/-- A load asks for the sectors that it misses: one request for each line, in ascending line address, and an entry for each
sector that has none (R62, R64). -/
def State.askLoads (s : State) (c : Cohort) (l1 : Bool) (n : Nat) (accs : List Acc) : State :=
  let keys := (s.missedSectors c l1 n accs).filter fun k => !isPeerLoc k
  let new := keys.filter fun k => !(s.core c.core).misses.any fun m => m.key == k
  let fills (k : Loc) : Bool := l1 && accs.any fun a => a.fills && (match a.x with | .mem l _ _ => sectorKey l == k | _ => false)
  let s1 := s.askKeys c l1 new accs
  if keys.isEmpty then s1
  else s1.putCore (keys.foldl (fun k x => k.takeMiss { key := x, fills := fills x }) (s1.core c.core))

/-- The result of a returning word: a uniform one is waited for, a marked one is complete before its acquire step, and any other
lands under its tag. An error leaves the destination unchanged (R463). -/
def State.returned (s : State) (i : Instr) (c : Cohort) (w : MemWord) (id : Nat) (err : Option Acc) : State :=
  let s1 := (if w.ua || w.ord.getLsbD 0 then s.gather c.core fun r => r.landing == id else s).acqMark c w
  if w.ua then
    let bs := ((s1.reads.find? fun r => r.landing == id).map PendingRead.data).getD []
    { s1 with reads := s1.reads.filter fun r => r.landing != id }.finish (c.setSreg w.data.toNat (loadUniform w.sz bs)) (wordOf i)
  else
    let e := err.map fun a => ({ lane := a.lane.getD 0, addr := a.va, code := s1.errCode a } : LandError)
    s1.finish (c.startLanding id w.ltag.toNat (c.active w.guard) (w.data.toNat, szRegs w.sz) e) (wordOf i)

/-- The course of a word that reads (R30, R31, R64). -/
def State.reading (s : State) (i : Instr) (c : Cohort) (w : MemWord) (n : Nat) (kind : ReadKind) (accs : List Acc) : State :=
  let plain := kind == .plain
  s.withMisses c (s.loadNeed c plain n accs) fun s1 =>
    match s1.askData c accs (fun _ => .read n) n with
    | some s2 => s2
    | none =>
      let s2 := s1.settle c false n accs
      let err := s2.errorAcc n accs
      match w.ua, err with
      | true, some a => s2.errorTrap i c w.guard n accs a
      | _, _ =>
        let (id, s3) := ((s2.enterErrors c n accs).askLoads c plain n accs).fresh
        ((accs.foldl (fun t a => t.issueRead c w id n kind a) s3).usedPeers c accs).returned i c w id err

/-! ## `ld`, `st` and `pref` -/

/-- A load (R360). -/
def execLd (w : MemWord) (s : State) : Host.Outcome State Fault Refusal :=
  let n := szBytes w.sz
  atMemory (.ld w) w s (memRuns w (szRegs w.sz)) (returnTag w) fun s c =>
    let accs := s.memAccs c w n .read fun _ => none
    s.withAccs (.ld w) c w.guard accs true false n fun s1 => s1.reading (.ld w) c w n .plain accs

/-- The bytes that a store's source holds (R360). -/
def storeBytes (c : Cohort) (w : MemWord) (lane : Option Nat) : List Byte :=
  let n := szBytes w.sz
  match lane.bind c.fibre? with
  | some f => ((f.words w.data.toNat (szRegs w.sz)).flatMap fun x => toBytes 4 x.toNat).take n
  | none => toBytes n (c.sreg w.data.toNat)

/-- Accesses whose location no later one of the word names: where lanes store to one byte, the highest
stands (R63). -/
def lastWriters : List Acc → List Acc
  | [] => []
  | a :: rest => if rest.any fun b => b.x == a.x then lastWriters rest else a :: lastWriters rest

/-- The agents of a cohort as writers: their line requests hold entries (R64). -/
def Cohort.writer (c : Cohort) : Writer := { uid := c.uid, core := c.core, placed := c.placed, ctx := c.ctx, entry := true }

/-- An access as a write of memory; one of scratchpad is none. -/
def State.writeOf (s : State) (c : Cohort) (acc : Nat) (op : WriteOp) (a : Acc) : Option Write :=
  match a.x with
  | .mem l cache exact =>
    some { lane := a.lane, va := a.va, loc := l, op, grain := none
           uncached := s.isUncached (fnOf c.ctx) cache && !(exact && acc == 3)
           page := s.pageRef (some c.core) (dieOf c.core) c.ctx a.va acc }
  | _ => none

/-- The sectors that the accesses of one store cover whole (R69, R464). -/
def wholeSectors (n : Nat) (accs : List Acc) : List Nat :=
  let bytes := accs.filterMap fun a => match a.x with
    | .mem (.hbm pa) _ _ => some pa
    | _ => none
  (bytes.map fun pa => pa / 64 * 64).eraseDups.filter fun b =>
    64 ≤ n * (bytes.filter fun pa => pa / 64 * 64 == b).length

/-- The accesses of a store that are dropped: a partial write of a sector with an error (R463). -/
def State.droppedAccs (s : State) (n : Nat) (accs : List Acc) : List Acc :=
  accs.filter fun a => match a.x with
    | .mem (.hbm pa) _ _ => s.accBad n a && !(wholeSectors n accs).contains (pa / 64 * 64)
    | _ => false

/-- The first access of a store narrower than a bank word that meets an error in the word it reads (R463). -/
def State.padPartial (s : State) (n : Nat) (accs : List Acc) : Option Acc :=
  if n < 4 then accs.find? fun a => s.errCode a == 4 && s.accBad n a else none

/-- A write of scratchpad performs as it is issued (R125). -/
def State.padStore (s : State) (a : Acc) (bs : List Byte) : State :=
  match a.x with
  | .pad p off => s.padWrite p off bs
  | _ => s

/-- The stores of a word: scratchpad's at once, and the others into pending(c) (R63, R122). -/
def State.stores (s : State) (c : Cohort) (accs : List Acc) (bytes : Acc → List Byte) : State :=
  let ws := lastWriters accs
  (ws.foldl (fun t a => t.padStore a (bytes a)) s).issueLines c.writer .store
    (ws.filterMap fun a => s.writeOf c 2 (.store ((bytes a).map some)) a)

/-- A store (R360, R63). A partial write of a sector with an error is dropped and logged (R463). -/
def execSt (w : MemWord) (s : State) : Host.Outcome State Fault Refusal :=
  let n := szBytes w.sz
  atMemory (.st w) w s (memRuns w (szRegs w.sz)) none fun s c =>
    let accs := s.memAccs c w n .write fun _ => none
    s.withAccs (.st w) c w.guard accs false true n fun s1 =>
      match s1.padPartial n accs with
      | some a => s1.errorTrap (.st w) c w.guard n [a] a
      | none => s1.relMark c w accs fun s2 => s2.withMisses c (s2.lineNeed c n accs) fun s3 =>
        let s4 := (s3.settle c true n accs).enterErrors c n (s3.droppedAccs n accs)
        ((s4.stores c accs fun a => storeBytes c w a.lane).spendOnce c.uid).finish c (wordOf (.st w))

/-- What `pref` knows of a lane's address without a walk (R361): the heap triple, or the core's own TLB. -/
def State.prefXlate (s : State) (c : Cohort) (va : Nat) : Option Acc :=
  if ownWindow ≤ va then none
  else
    let x := if s.isHeap c.ctx va then s.heapXlate c.ctx va .read
      else match s.tlbHit (.core c.core) c.ctx va with
        | some t => s.leafXlate none (dieOf c.core) c.ctx va t.leaf.toNat t.size (some t.frame) .read
        | none => .pad ⟨0, 0#32, 0#32⟩ 0
    match x with
    | .mem (.hbm pa) _ false => if (s.viewOf pa).isSome then none else some { lane := none, team := 0#32, va, x }
    | _ => none

/-- A sector brought into the L1 as well (R361), which its attribute lets in (R60). -/
def State.prefetch (s : State) (core : Nat) (a : Acc) : State :=
  match a.x with
  | .mem (.hbm pa) 0 _ =>
    if s.sectorBad pa || (s.l1Hit core (.hbm pa)).isSome then s else (s.slicesGive core pa).fillL1 core pa
  | _ => s

/-- A prefetch (R361): it asks the home slices for its sectors, and for those that its L1 lacks when it fills the L1; it takes no
miss-status entry and changes no value. -/
def execPref (w : MemWord) (s : State) : Host.Outcome State Fault Refusal :=
  atStopWith (!w.ua) (fun _ => .noHazard) (.pref w) s w.guard (srcRun .n32 w.off) [] fun s c =>
    if w.ua && (c.active w.guard).isEmpty then s.finish c (wordOf (.pref w)) else
    let l1 := w.sz == 4#3
    let accs := (memAgents c w).filterMap fun f => s.prefXlate c (memAddress c w f)
    let keys := s.missedSectors c l1 64 accs
    let s1 := s.askKeys c true keys accs
    (if l1 then accs.foldl (fun t a => t.prefetch c.core a) s1 else s1).finish c (wordOf (.pref w))

/-! ## Atomic operations -/

/-- Whether the host carries an atomic of a function (R363, R469). -/
def hostCarries (op : AtomicOp) : Bool := op == .add || op == .xch || op == .cas

/-- The access checks of an atomic (R363). -/
def State.atomicCheck (s : State) (c : Cohort) (op : AtomicOp) : Xlate → Option TrapCode
  | .mem l _ exact =>
    if exact then some .exactacc
    else match l with
      | .hbm pa => if (s.viewOf pa).isSome then some .fmtacc else none
      | .host _ => if hostCarries op && s.atomicsOn.contains (fnOf c.ctx) then none else some .hostatom
      | .peer _ _ => none
  | _ => none

/-- The operand of an atomic and the comparand of `acas` (R362). -/
def atomicOperands (op : AtomicOp) (c : Cohort) (w : MemWord) (lane : Option Nat) : Nat × Nat :=
  let pair := w.sz == 5#3
  let d := w.data.toNat
  let get (n : Nat) : Nat := match lane.bind c.fibre? with
    | some f => f.value pair n
    | none => c.sreg n % 2 ^ (if pair then 64 else 32)
  if op == .cas then (get (d + (if pair && !w.ua then 2 else 1)), get d) else (get d, 0)

/-- What an access of an atomic word does there. -/
def atomicOp (op : AtomicOp) (c : Cohort) (w : MemWord) (a : Acc) : WriteOp :=
  let d := atomicOperands op c w a.lane
  .atomic op (w.sz == 5#3) (BitVec.ofNat 64 d.1) (BitVec.ofNat 64 d.2)

/-- One read-modify-write of scratchpad, which is performed as it is issued (R125): the old value, and the state. -/
def State.padRmw (s : State) (a : Acc) (op : WriteOp) : List Byte × State :=
  match a.x with
  | .pad p off =>
    let old := s.padRead p off op.len
    (old, s.padWrite p off (op.apply old))
  | _ => ([], s)

/-- The read-modify-writes of a word, in ascending lane order: scratchpad's at once, and the others as operations that wait for
their step at the home slice (R124, R362). `note` gets each access with the old value that has come, if it has. -/
def State.rmws (s : State) (c : Cohort) (op : Acc → WriteOp) (accs : List Acc) (note : State → Acc → ReadKind → Option (List Byte) → State) :
    State :=
  let s1 := s.issueLines c.writer .atomic (accs.filterMap fun a => match a.x with
    | .mem (.peer _ _) _ _ => none
    | _ => s.writeOf c 3 (op a) a)
  accs.foldl (fun t a => match a.x with
    | .pad _ _ =>
      let (old, u) := t.padRmw a (op a)
      note u a .plain (some old)
    | .mem (.peer p f) _ _ => note t a .plain (some (t.peerBytes c a.lane (.peer p f) f (op a).len))
    | .mem l _ _ =>
      match t.pendingStores.find? fun p => s.nextUid ≤ p.id && p.lane == a.lane && p.loc == l with
      | some p => note t a (.old p.id) none
      | none => t
    | _ => t) s1

/-- A read-modify-write performs at once, with all that comes before it. -/
def State.rmwNow (s : State) (c : Cohort) (a : Acc) (op : WriteOp) : State :=
  match a.x with
  | .pad _ _ => (s.padRmw a op).2
  | _ =>
    let t := s.issueLines c.writer .atomic (s.writeOf c 3 op a).toList
    (t.pendingStores.filter fun p => s.nextUid ≤ p.id).foldl (fun u p => u.oldReturn p.id) t

/-- The registers of an atomic's DATA. -/
def atomicRegs (op : AtomicOp) (w : MemWord) : Nat := (if w.sz == 5#3 then 2 else 1) * (if op == .cas then 2 else 1)

/-- What a returning atomic's operation leaves for its landing. -/
def State.noteOld (c : Cohort) (w : MemWord) (id n : Nat) (t : State) (a : Acc) (k : ReadKind) (old : Option (List Byte)) : State :=
  { t with reads := t.reads ++ [{ readOf c w w.sz id n k a with bytes := old }] }

/-- The operations of an atomic word issued, with a landing when it returns. -/
def State.atomics (s : State) (i : Instr) (c : Cohort) (w : MemWord) (op : AtomicOp) (accs : List Acc) (err : Option Acc) : State :=
  let n := szBytes w.sz
  if w.wbs then
    (((s.rmws c (atomicOp op c w) accs fun t _ _ _ => t).usedPeers c accs).acqMark c w).finish c (wordOf i)
  else
    let (id, s1) := s.fresh
    ((s1.rmws c (atomicOp op c w) accs (State.noteOld c w id n)).usedPeers c accs).returned i c w id err

/-- An atomic word (R362, R363). A non-returning one that meets an error is dropped and logged, a uniform one too
(R463; log 37). -/
def execAtomic (i : Instr) (w : MemWord) (op : AtomicOp) (s : State) : Host.Outcome State Fault Refusal :=
  let n := szBytes w.sz
  atMemory i w s (memRuns w (atomicRegs op w)) (returnTag w) fun s c =>
    let accs := s.memAccs c w n .rmw (s.atomicCheck c op)
    s.withAccs i c w.guard accs true true n fun s1 =>
      let ask (a : Acc) : PeerKind :=
        let d := atomicOperands op c w a.lane
        .atomic op (n == 8) (BitVec.ofNat 64 d.1) (BitVec.ofNat 64 d.2)
      s1.relMark c w accs fun s2 => s2.withMisses c (s2.lineNeed c n accs) fun s3 =>
        match s3.askData c accs ask n with
        | some s4 => s4
        | none =>
          let s4 := s3.settle c true n accs
          let err := s4.errorAcc n accs
          match err.filter fun a => if w.wbs then s4.errCode a == 4 else w.ua with
          | some a => s4.errorTrap i c w.guard n accs a
          | none => (s4.enterErrors c n accs).atomics i c w op accs err

/-- `aadd` (R362). -/
def execAadd (w : MemWord) (s : State) : Host.Outcome State Fault Refusal := execAtomic (.aadd w) w .add s
/-- `amin` (R362). -/
def execAmin (w : MemWord) (s : State) : Host.Outcome State Fault Refusal := execAtomic (.amin w) w .min s
/-- `amax` (R362). -/
def execAmax (w : MemWord) (s : State) : Host.Outcome State Fault Refusal := execAtomic (.amax w) w .max s
/-- `aand` (R362). -/
def execAand (w : MemWord) (s : State) : Host.Outcome State Fault Refusal := execAtomic (.aand w) w .and s
/-- `aor` (R362). -/
def execAor (w : MemWord) (s : State) : Host.Outcome State Fault Refusal := execAtomic (.aor w) w .or s
/-- `axor` (R362). -/
def execAxor (w : MemWord) (s : State) : Host.Outcome State Fault Refusal := execAtomic (.axor w) w .xor s
/-- `axch` (R362). -/
def execAxch (w : MemWord) (s : State) : Host.Outcome State Fault Refusal := execAtomic (.axch w) w .xch s
/-- `acas` (R362). -/
def execAcas (w : MemWord) (s : State) : Host.Outcome State Fault Refusal := execAtomic (.acas w) w .cas s

/-! ## Exact cells -/

/-- Whether a location stands in a format view, where no exact operation may go (R110). -/
def State.inView (s : State) : Loc → Bool
  | .hbm pa => (s.viewOf pa).isSome
  | _ => false

/-- The checks of `xadd` (R110, R364): NOTEXACT, FMTACC, then NOWAY. -/
def State.xaddCheck (s : State) (c : Cohort) : Xlate → Option TrapCode
  | .mem l _ true => if s.inView l then some .fmtacc else if s.wayMask (fnOf c.ctx) == 0 then some .noway else none
  | .askPeer _ _ _ => none
  | .mem l _ false => if s.inView l then some .fmtacc else some .notexact
  | _ => some .notexact

/-- The checks of `xrd` (R110, R365). -/
def State.xrdCheck (s : State) : Xlate → Option TrapCode
  | .mem l _ true => if s.inView l then some .fmtacc else none
  | .askPeer _ _ _ => none
  | .mem l _ false => if s.inView l then some .fmtacc else some .notexact
  | _ => some .notexact

/-- What an access of an `xadd` does there (R364). -/
def addendOp (c : Cohort) (w : MemWord) (a : Acc) : WriteOp :=
  .cell w.sz (BitVec.ofNat 32 (match a.lane.bind c.fibre? with
    | some f => f.reg w.data.toNat
    | none => c.sreg w.data.toNat))

/-- `xadd` (R364, R101, R151). -/
def execXadd (w : MemWord) (s : State) : Host.Outcome State Fault Refusal :=
  atMemory (.xadd w) w s (memRuns w 1) none fun s c =>
    let accs := s.memAccs c w 64 .rmw (s.xaddCheck c)
    s.withAccs (.xadd w) c w.guard accs true true 64 fun s1 =>
      s1.relMark c w accs fun s2 => s2.withMisses c (s2.lineNeed c 64 accs) fun s3 =>
        let good := accs.filter fun a => (s3.badSector? a.x).isNone
        (((s3.settle c true 64 accs).enterErrors c 64 accs).rmws c (addendOp c w) good fun t _ _ _ => t).finish c (wordOf (.xadd w))

/-- `xrd` (R365, R102): the cell as its last entry, once the core's own writes there have performed (R124). -/
def execXrd (w : MemWord) (s : State) : Host.Outcome State Fault Refusal :=
  atMemory (.xrd w) w s (memRuns w 1) (returnTag w) fun s c =>
    let accs := s.memAccs c w 64 .read s.xrdCheck
    s.withAccs (.xrd w) c w.guard accs true false 64 fun s1 => s1.reading (.xrd w) c w 64 .cell accs

/-! ## Exchange stores -/

/-- The barrier that an exchange store names: bits 5:2 (R259). -/
def xstBarrier (w : MemWord) : Nat := w.ord.toNat * 4 + w.scope.toNat / 2

/-- The trap of an exchange store to an address that is not in the slice window (R366): WPROT, and PROTECT, come before it at a
heap address (R16, R24). -/
def State.xstAway (s : State) (c : Cohort) (va : Nat) : Xlate :=
  match if s.isHeap c.ctx va then s.heapXlate c.ctx va .write else .trap { code := .xstaddr, addr := va } with
  | .trap t => .trap t
  | _ => .trap { code := .xstaddr, addr := va }

/-- The checks of R366 on one lane's address: R359's, and XSTADDR outside the slice window. -/
def State.xstXlate (s : State) (c : Cohort) (team : BitVec 32) (va n : Nat) : Xlate :=
  if va % n != 0 then .trap { code := .misalign, addr := va }
  else if 2 ^ 49 ≤ va then .trap { code := .noncanon, addr := va }
  else if reservedSpace ≤ va then .trap { code := .reserved, addr := va }
  else if va < sliceWindow then s.xstAway c va
  else s.xlate c team va n .write true

/-- The member index that an address of the slice window names (R13). -/
def memberIndex (va : Nat) : Nat := (va - sliceWindow) / 0x80000

/-- The accesses of an exchange store, checked: check 3 makes the first lane that names another member fail
(R366). -/
def State.xstAccs (s : State) (c : Cohort) (w : MemWord) : List Acc :=
  let accs := (c.active w.guard).map fun f =>
    let va := memAddress c w (some f)
    ({ lane := some f.lane, team := f.team, va, x := s.xstXlate c f.team va (szBytes w.sz) } : Acc)
  let m := (accs.head?.map fun a => memberIndex a.va).getD 0
  if accs.any Acc.failed then accs
  else accs.map fun a => if memberIndex a.va == m then a else { a with x := .trap { code := .xstaddr, addr := a.va } }

/-- The flights of an exchange store: one for each team of its lanes, the bytes in ascending lane order. -/
def xstFlights (c : Cohort) (w : MemWord) (accs : List Acc) : List XstFlight :=
  (accs.map Acc.team).eraseDups.map fun team =>
    let mine := accs.filter fun a => a.team == team
    { launch := c.launch, team, member := (mine.head?.map fun a => memberIndex a.va).getD 0, barrier := xstBarrier w
      bytes := mine.flatMap fun a =>
        (storeBytes c w a.lane).zipIdx.map fun (b, j) => ((a.va - sliceWindow) % 0x80000 + j, b) }

/-- `xst` (R366): NOTEAM, the checks at issue, and the wait for the member core's answer. -/
def execXst (w : MemWord) (s : State) : Host.Outcome State Fault Refusal :=
  atMemory (.xst w) w s (memRuns w (szRegs w.sz)) none fun s c =>
    if (c.active w.guard).isEmpty then s.finish c (wordOf (.xst w))
    else if (c.active w.guard).any fun f => f.team == 0xFFFFFFFF#32 then
      s.ownTrap (.xst w) c { code := .noteam } w.guard
    else
      let accs := s.xstAccs c w
      s.withAccs (.xst w) c w.guard accs false true (szBytes w.sz) fun s1 =>
        s1.withMisses c 1 fun s2 => s2.hold c (.xst (xstFlights c w accs) (wordOf (.xst w)))

/-! ## Fences -/

/-- An acquire step of every agent of a cohort, once their earlier reads have returned (R126). -/
def State.acquireAll (s : State) (c : Cohort) (scope : Nat) : State :=
  (s.gather c.core fun r => r.of c).acquireStep c.core scope

/-- `fence` (R368): its steps, for the whole cohort whatever the guard. A release step completes before the next write of the
cohort, and no read waits for it (R120, R126). -/
def execFence (w : MemWord) (s : State) : Host.Outcome State Fault Refusal :=
  atStall (.fence w) s w.guard [] [] fun s c =>
    let s1 : State := if w.ord.getLsbD 1 then { s with owed := s.owed ++ [(c.uid, w.scope.toNat, s.nextUid)] } else s
    (if w.ord.getLsbD 0 then s1.acquireAll c w.scope.toNat else s1).finish c (wordOf (.fence w))

/-- Every earlier access of a cohort completes (R120, R132), host writes and writes to peers too. -/
def State.completeAll (s : State) (c : Cohort) (k : State → State) : State :=
  if s.peerOpen c then s.holdDrain c
  else
    let t := (s.releaseAt c.core 5 fun r => r.of c).drainCore c.core
    k { t with owed := t.owed.filter fun o => o.1 != c.uid }

/-- `fence.sc` (R132): a release step at `.pkg`, then the wait in place for the next package tick, which ends
with the acquire step. -/
def execFenceSc (w : MemWord) (s : State) : Host.Outcome State Fault Refusal :=
  atStall (.fenceSc w) s w.guard [] [] fun s c => s.completeAll c fun s1 =>
    let k := s1.core c.core
    (s1.putCore { k with scSeq := k.scSeq + 1 }).putCohort { c with wait := .tick s1.heart }

/-- A word that may suspend at the next block: the cohort's matrix words complete first (R352), and its core's writes to peers
(R126), then the traps of R198 and R199; `k` gets the cohort as it then stands, and the header. -/
def State.withResume (s : State) (i : Instr) (c0 : Cohort) (g : Guard) (k : State → Cohort → Header → State) : State :=
  let (s1, c) := s.matrixDrain c0
  match c.failed with
  | some f => s1.ownTrap i c f.trap g
  | none =>
    if s1.peerOpen c then s1.holdPeer c
    else if !c.lastWord then s1.ownTrap i c { code := .badsusp } g
    else match s1.headerAt c (c.pc + 8) with
      | .unread f => s1.fetchFailed c (wordOf i) f
      | .bad _ => s1.ownTrap i c { code := .badsusp } g
      | .good h => if h.susp && h.liveV ≤ c.window then k s1 c h else s1.ownTrap i c { code := .badsusp } g

/-- A suspension at the next block of every fibre of a cohort, each under its own event (R196, R198). -/
def State.suspendNext (s : State) (c : Cohort) (h : Header) (ev : Fibre → Event) : State :=
  s.suspendInto c { headerCause (c.pc + 8) h with stepDue := if c.stepping then some (s.wordAt c) else none } ev

/-- `fence.sc.pod` (R133): a release step at `.pod`, then suspension until the next pod tick. -/
def execFenceScPod (w : MemWord) (s : State) : Host.Outcome State Fault Refusal :=
  atStall (.fenceScPod w) s w.guard [] [] fun s c0 =>
    s.withResume (.fenceScPod w) c0 w.guard fun s1 c h =>
      s1.completeAll c fun s2 => s2.suspendNext c h fun _ => .tick (s2.podTick + 1)

/-- Whether some format window is active. -/
def State.anyWindow (s : State) : Bool := (List.range 8).any s.windowActive

/-- `fence.fmt` (R154): a release step at `.pkg`, then suspension until a format flush started after it has
completed; with no active window, its steps are those of `fence.ar.pkg`. -/
def execFenceFmt (w : MemWord) (s : State) : Host.Outcome State Fault Refusal :=
  atStall (.fenceFmt w) s w.guard [] [] fun s c0 =>
    s.withResume (.fenceFmt w) c0 w.guard fun s0 c h => s0.completeAll c fun s1 =>
      if !s1.anyWindow then (s1.acquireAll c 4).finish c (wordOf (.fenceFmt w))
      else
        let seq := s1.flushSeq + 1
        ({ s1 with flushSeq := seq, flushing := s1.flushing ++ [seq] }).suspendNext c h
          fun _ => .flush (BitVec.ofNat 32 seq)

end Sys2Proof.Machine
end

