-- ==== Sys2Proof/Machine/Control.lean ====
section
/-! DEFINITION. Control words: spec/09 R282 to R294, with the split of spec/06 R202 to R205, the frames of
spec/07 R219 to R222, and the exit of a spawned fibre (spec/04 R144). -/

namespace Sys2Proof.Machine

open Sys2Proof

/-- A word that stands only as the last of its block: ILLEGAL in any other place (R250), and otherwise a marker
or a stall point (R282). -/
def atControl (i : Instr) (s : State) (g : Guard) (k : State → Cohort → State) (preds : List Nat := []) :
    Host.Outcome State Fault Refusal :=
  if s.current.elim true Cohort.lastWord then atStall i s g [] preds k
  else onCohort i s fun c => s.takeTrap c (wordOf i) { code := .illegal } []

/-- The target of a relative transfer (R282). -/
def ctlTarget (c : Cohort) (w : CtlWord) : Nat := lowBits 64 ((c.pc : Int) + 8 * w.off.toInt)

/-- A transfer's target header, whose BADHEADER is precise at the transferring word (R249, R282). -/
def State.toHeader (s : State) (i : Instr) (c : Cohort) (g : Guard) (target : Nat) (k : Header → State) : State :=
  match s.headerAt c target with
  | .good h => k h
  | .bad _ => s.ownTrap i c { code := .badheader, addr := target } g
  | .unread f => s.fetchFailed c (wordOf i) f

/-- A transfer to a header. -/
def State.jump (s : State) (i : Instr) (c : Cohort) (target : Nat) : State :=
  s.toHeader i c Guard.always target fun _ => s.transfer c (wordOf i) target

/-- `bra` (R283). -/
def execBra (w : CtlWord) (s : State) : Host.Outcome State Fault Refusal :=
  atControl (.bra w) s Guard.always fun s c => s.jump (.bra w) c (ctlTarget c w)

/-- The condition of `brc` (R284). -/
def branchHolds (c : Cohort) (w : CtlWord) : Bool :=
  let ty := (Ty.ofCode w.ty).getD .n64
  ccInt w.cc.toNat (intOf ty (c.sreg w.ua.toNat)) (intOf ty (c.usrc w.sb))

/-- `brc` (R284). -/
def execBrc (w : CtlWord) (s : State) : Host.Outcome State Fault Refusal :=
  atControl (.brc w) s Guard.always fun s c =>
    if branchHolds c w then s.jump (.brc w) c (ctlTarget c w) else s.finish c (wordOf (.brc w))

/-! ## Splits (R202, R205) -/

/-- A split-table entry not in use. -/
def SplitEntry.unused : SplitEntry :=
  { valid := false, parent := none, tag := 0#32, reconv := 0, mask := 0#32, live := 0, parked := 0 }

/-- A free entry of a core's split table. -/
def Core.freeEntry (k : Core) : Option Nat :=
  (List.range Config.splitEntries).find? fun n => !(k.splitTable.getD n SplitEntry.unused).valid

/-- An entry of the split table taken. -/
def Core.takeEntry (k : Core) (n : Nat) (e : SplitEntry) : Core :=
  { k with splitTable := ((List.range Config.splitEntries).map fun i => k.splitTable.getD i SplitEntry.unused).set n e }

/-- The mask of a cohort's lanes. -/
def Cohort.mask (c : Cohort) : BitVec 32 := c.lanes.foldl (fun m l => m ||| (1#32 <<< l)) 0#32

/-- RECONV of the branch's block (R202). -/
def Cohort.reconvAt (c : Cohort) : Nat := lowBits 64 ((c.block : Int) + 8 * c.reconv)

/-- The two sub-cohorts of a split: the taken lanes at the target, the others at the next header. Outstanding tags stay outstanding
in both, each for its own lanes, and each frees its own (log 47); so do the release steps that fences have left. -/
def State.splitInto (s : State) (word : Word64) (c : Cohort) (taken : List Nat) (target slot : Nat)
    (entry : Option Nat) : State :=
  let (uid, s1) := s.fresh
  let stay := { c with split := entry, fibres := c.fibres.filter fun f => !taken.contains f.lane }
  let go : Cohort :=
    { c with uid, slot, issue := none, readyTime := s.clock, split := entry, pc := target, block := target
             atHeader := true, fibres := c.fibres.filter fun f => taken.contains f.lane }
  let s2 := { s1 with cohorts := s1.cohorts ++ [go]
                      owed := s1.owed ++ (s1.owed.filter fun (o : Nat × Nat × Nat) => o.1 == c.uid).map fun (o : Nat × Nat × Nat) => (uid, o.2) }.putCohort stay
  (s2.performed go word).finish stay word

/-- A split: with a RECONV it takes a table entry, and without one both keep the current entry, which then counts one sub-cohort
more (log 47). -/
def State.split (s : State) (i : Instr) (c : Cohort) (taken : List Nat) (target : Nat) : State :=
  match s.freeSlot c.core with
  | none => s.hold c .split
  | some slot =>
    let k := s.core c.core
    if c.reconv == 0 then
      (match c.split with
       | some e => s.putCore (k.modEntry e fun x => { x with live := x.live + 1 })
       | none => s).splitInto (wordOf i) c taken target slot c.split
    else match k.freeEntry with
      | none => s.hold c .split
      | some n =>
        (s.putCore (k.takeEntry n { valid := true, parent := c.split, tag := c.tag, reconv := c.reconvAt, mask := c.mask
                                    live := 2, parked := 0 })).splitInto (wordOf i) c taken target slot (some n)

/-- `brv` (R285): PRED is its condition, and every lane of the mask is active (R246). -/
def execBrv (w : CtlWord) (s : State) : Host.Outcome State Fault Refusal :=
  atControl (.brv w) s Guard.always (preds := [w.guard.psel.toNat]) fun s c =>
    let taken := lanesOf (c.active w.guard)
    let target := ctlTarget c w
    if taken.length == c.fibres.length then s.jump (.brv w) c target
    else if taken.isEmpty then s.finish c (wordOf (.brv w))
    else s.toHeader (.brv w) c Guard.always target fun _ => s.split (.brv w) c taken target

/-! ## Calls -/

/-- Every landing of a cohort written to its rows; the tags stay outstanding (R221). -/
def State.deliver (s : State) (c : Cohort) : State × Cohort :=
  let mine (o : MatrixOp) : Bool := c.landings.any fun l => l.unitWord == some o.id
  let s1 := (State.matrixWhile c.core mine (s.core c.core).matrixQueue.length (s.putCohort c)).gather c.core fun r => r.of c
  let (s2, d) := s1.takeReads ((s1.cohort? c.uid).getD c) fun _ => true
  (s2, { d.landings.foldl Cohort.land d with landings := d.landings.map fun l => { l with landed := true } })

/-- A call's new frame of one fibre (R221): `w` registers of window, on a stack of `rows` rows. -/
def Fibre.pushFrame (f : Fibre) (w rows k call : Nat) : Fibre :=
  { f with
    base := (f.base + k) % rows
    regs := (f.regs.drop k ++ List.replicate k 0#32).take w
    frames := { k, call, rows := (f.regs ++ List.replicate k 0#32).take k, attic := none, slot := 0 } :: f.frames }

/-- How many of the newest resident frames the stack can hold beside the window (R221). -/
def framesFit : Nat → List Frame → Nat
  | _, [] => 0
  | room, r :: rest => if r.attic.isNone && r.k ≤ room then 1 + framesFit (room - r.k) rest else 0

/-- A call to a header: NOENTRY and ATTICFULL before any effect, then the link, and the frames of a `k` that is
not 0 (R286, R221, R171). -/
def State.callTo (s : State) (i : Instr) (c : Cohort) (target k : Nat) : State :=
  s.toHeader i c Guard.always target fun h =>
    if !h.entry then s.ownTrap i c { code := .noentry, addr := target } Guard.always
    else if 1 ≤ k && s.atticBays (fnOf c.ctx) < s.atticCharged (fnOf c.ctx) + c.fibres.length * frameCharge k then
      s.ownTrap i c { code := .atticfull } Guard.always
    else
      let link := BitVec.ofNat 64 (c.pc + 8 + (if k == 0 then 0 else 1))
      let d0 := c.setSreg 0 link
      if k == 0 then s.transfer d0 (wordOf i) target
      else
        let (s1, d1) := s.deliver d0
        let (call, s2) := s1.fresh
        let d2 := { d1 with fibres := d1.fibres.map fun f => f.pushFrame d1.window d1.stackRows k call }
        let (s3, d3) := s2.spillFrames d2 fun f => framesFit (d2.stackRows - d2.window) f.frames
        s3.transfer d3 (wordOf i) target

/-- *k* of a CTL word: its small immediate. -/
def immCount : Src → Nat
  | .imm v => v.toNat
  | _ => 0

/-- `call` (R286). -/
def execCall (w : CtlWord) (s : State) : Host.Outcome State Fault Refusal :=
  atControl (.call w) s Guard.always fun s c => s.callTo (.call w) c (ctlTarget c w) (immCount w.sb)

/-- `callr` (R286): BADHEADER when the register holds no word address. -/
def execCallr (w : CtlWord) (s : State) : Host.Outcome State Fault Refusal :=
  atControl (.callr w) s Guard.always fun s c =>
    let x := c.sreg w.ua.toNat
    if slice x 63 49 != 0 || slice x 2 0 != 0 then s.ownTrap (.callr w) c { code := .badheader, addr := x } Guard.always
    else s.callTo (.callr w) c x (immCount w.sb)

/-- A fibre's newest frame ended (R221, R287). -/
def Fibre.popFrame (f : Fibre) (w rows : Nat) : Fibre :=
  match f.frames with
  | [] => f
  | r :: rest =>
    { f with base := (f.base + rows - r.k % rows) % rows, regs := (r.rows ++ f.regs).take w, frames := rest }

/-- The Attic frames that a `ret` of a cohort fills from, one for each fibre whose newest frame is not resident. -/
def Cohort.fills (c : Cohort) : List Nat := c.fibres.filterMap fun f => f.frames.head?.bind Frame.attic

/-- A sector with an uncorrectable error among the bays of those frames (log 13). -/
def State.badFill (s : State) (c : Cohort) : Option Nat := c.fills.findSome? (s.badBay (fnOf c.ctx) true)

/-- `ret` (R287). -/
def execRet (w : CtlWord) (s : State) : Host.Outcome State Fault Refusal :=
  atControl (.ret w) s Guard.always fun s c =>
    let x := c.sreg 0
    let target := x / 8 * 8
    if slice x 63 49 != 0 || slice x 2 1 != 0 then s.ownTrap (.ret w) c { code := .badret } Guard.always
    else if bitOf x 0 && c.fibres.any fun f => f.frames.isEmpty then
      s.ownTrap (.ret w) c { code := .noframe } Guard.always
    else s.toHeader (.ret w) c Guard.always target fun _ =>
      if !bitOf x 0 then s.transfer c (wordOf (.ret w)) target
      else
        match s.badFill c with
        | some b => if s.peerOpen c then s.holdPeer c
          else (s.enterError b (fnOf c.ctx)).ownTrap (.ret w) c { code := .memerr, detail := s.sectorCode b } Guard.always
        | none =>
          let (s1, d) := s.deliver c
          let s2 := (d.fills.foldl (fun t id => (t.getImage (fnOf c.ctx) true id).leaveAttic id) s1).putCohort
            { d with fibres := d.fibres.map fun f => f.popFrame d.window d.stackRows }
          ((s2.wakeCharge (fnOf c.ctx))).transfer ((s2.cohort? c.uid).getD d) (wordOf (.ret w)) target

/-- `jtab` (R288). -/
def execJtab (w : CtlWord) (s : State) : Host.Outcome State Fault Refusal :=
  atControl (.jtab w) s Guard.always fun s c =>
    let i := c.sreg w.ua.toNat
    if i < immCount w.sb then s.jump (.jtab w) c (lowBits 64 ((ctlTarget c w : Nat) + 16 * (i : Int)))
    else s.finish c (wordOf (.jtab w))

/-! ## Exit -/

/-- The check of a join counter's place (R379): device memory or the heap, and a place for an atomic (R18,
R110). -/
def State.counterCheck (s : State) : Xlate → Option TrapCode
  | .mem (.hbm pa) _ exact =>
    if exact then some .exactacc else if (s.viewOf pa).isSome then some .fmtacc else none
  | _ => some .watchacc

/-- The join-counter accesses of exiting fibres (R290). -/
def State.exitAccs (s : State) (c : Cohort) (fs : List Fibre) : List Acc :=
  fs.filterMap fun f => f.join.map fun j =>
    { lane := some f.lane, team := f.team, va := j.addr, x := s.checkAccess c f.team j.addr 8 .rmw s.counterCheck }

/-- A number added to a counter, modulo 2⁶⁴ (R209). -/
def counterOp (n : Int) : WriteOp := .atomic .add true (BitVec.ofInt 64 n) 0#64

/-- The exit of one fibre, up to its removal (R290, steps 1 to 3). -/
def State.exitFibre (s : State) (c : Cohort) (accs : List Acc) (f : Fibre) : State :=
  let mine (r : PendingRead) : Bool := r.placed == c.placed && r.lane == f.lane
  let s1 := s.releaseAt c.core (max 5 (f.join.elim 0 JoinRef.scope)) mine
  let s2 := match accs.find? fun a => a.lane == some f.lane with
    | some a => s1.rmwNow c a (counterOp (-1))
    | none => s1
  (f.frames.filterMap Frame.attic).foldl State.leaveAttic { s2 with reads := s2.reads.filter fun r => !mine r }

/-- The exited lanes removed: the segment ends when none is left (R290, R197). -/
def State.removeLanes (s : State) (i : Instr) (c : Cohort) (gone : List Nat) : State :=
  let rest := c.fibres.filter fun f => !gone.contains f.lane
  (if rest.isEmpty then (s.leaveCore c).sweepTiles.sweepTeams
   else
    (match c.split with
     | none => s
     | some _ => s.putCore ((s.core c.core).unmask gone c.split)).finish { c with fibres := rest } (wordOf i)).sweepTeams.wakeCharge
    (fnOf c.ctx)

/-- `exit` (R290), after the matrix words of its cohort (R352). -/
def execExitW (w : CtlWord) (s : State) : Host.Outcome State Fault Refusal :=
  atStall (.exitW w) s w.guard [] [] fun s c0 =>
    if (c0.active w.guard).isEmpty then s.finish c0 (wordOf (.exitW w))
    else
      let (s1, c) := s.matrixDrain c0
      match c.failed with
      | some f => s1.ownTrap (.exitW w) c f.trap w.guard
      | none =>
        let fs := c.active w.guard
        let accs := s1.exitAccs c fs
        s1.withAccs (.exitW w) c w.guard accs true true 8 fun s2 =>
          s2.withRelease c 5 (readOfLanes c w.guard) fun s3 => s3.withMisses c (s3.lineNeed c 8 accs) fun s4 =>
            (fs.foldl (fun t f => t.exitFibre c accs f) (s4.enterErrors c 8 accs)).removeLanes (.exitW w) c (lanesOf fs)

/-! ## Traps, markers and yields -/

/-- `trap` (R291), and the trap return (R454). -/
def execTrap (w : CtlWord) (s : State) : Host.Outcome State Fault Refusal :=
  atStall (.trap w) s w.guard [] [] fun s c =>
    let num := w.off.toNat % 2 ^ 16
    let ent := s.trapEnt c.ctx
    if (c.active w.guard).isEmpty then s.finish c (wordOf (.trap w))
    else if num == 0xFFFF && bitOf ent 63 && inHandler ent c.pc then
      s.trapReturn c (wordOf (.trap w)) ((lanesOf (c.active w.guard)).headD 0)
    else s.ownTrap (.trap w) c { code := .software, detail := num } w.guard

/-- `brk` (R292): it counts as performed, and its frame names the next word. -/
def execBrk (w : CtlWord) (s : State) : Host.Outcome State Fault Refusal :=
  atStall (.brk w) s w.guard [] [] fun s c =>
    if (c.active w.guard).isEmpty then s.finish c (wordOf (.brk w))
    else if s.peerOpen c then s.holdPeer c
    else
      let d := c.advance
      s.trapTo c (wordOf (.brk w)) { code := .break_, detail := 7 } ((lanesOf (c.active w.guard)).headD 0) (d.pc, d.block)

/-- `nop` (R293): its marker alone. -/
def execNop (w : CtlWord) (s : State) : Host.Outcome State Fault Refusal :=
  atStall (.nop w) s Guard.always [] [] fun s c => s.finish c (wordOf (.nop w))

/-- `yield` (R294). -/
def execYield (w : CtlWord) (s : State) : Host.Outcome State Fault Refusal :=
  atStall (.yield w) s w.guard [] [] fun s c0 =>
    s.withResume (.yield w) c0 w.guard fun s1 c h =>
      if (c.active w.guard).isEmpty then s1.finish c (wordOf (.yield w))
      else s1.suspendNext c h fun _ => .yielded

end Sys2Proof.Machine
end

