-- ==== Sys2Proof/Machine/SyncWords.lean ====
section
/-! DEFINITION. Synchronisation words: barriers, semaphores, watches, spawn, join and `lwait` (spec/12 R369 to
R380, spec/04 R143 to R148, spec/05 R175, spec/06 R193, R206). -/

namespace Sys2Proof.Machine

open Sys2Proof

/-- The TEAM of a spawned fibre (R193). -/
def noTeam : BitVec 32 := 0xFFFFFFFF#32

/-- A SYN word at its stall point; with no active lane it does nothing (R369). -/
def atSync (i : Instr) (w : SynWord) (s : State) (runs : List RegRun) (preds : List Nat)
    (k : State → Cohort → State) :
    Host.Outcome State Fault Refusal :=
  atStall i s w.guard runs preds fun s c => if (c.active w.guard).isEmpty then s.finish c (wordOf i) else k s c

/-- A release step of a word's active lanes, after those that fences of the cohort have left, and what follows it (R120, R126). -/
def State.releaseFor (s : State) (c : Cohort) (scope : Nat) (g : Guard) (k : State → State) : State :=
  s.payRelease c fun t => t.withRelease c scope (readOfLanes c g) k

/-- A SYN word that may suspend at the next block; with no active lane it raises only the traps of R198 and R265 (R369). -/
def atWait (i : Instr) (w : SynWord) (s : State) (runs : List RegRun) (preds : List Nat)
    (k : State → Cohort → Header → State) : Host.Outcome State Fault Refusal :=
  atStopWith false (fun d => if (d.active w.guard).isEmpty then .none else .all) i s w.guard runs preds fun s c0 =>
    s.withResume i c0 w.guard fun s1 c h =>
      if (c.active w.guard).isEmpty then s1.finish c (wordOf i) else k s1 c h

/-! ## Barriers -/

/-- The scope of a team's barriers: its span (R187). -/
def Team.scope (t : Team) : Nat := t.span + 1

/-- The scope of the barriers of a launch's teams that a cohort's active fibres name. -/
def State.barScope (s : State) (c : Cohort) (fs : List Fibre) : Nat :=
  fs.foldl (fun m f => max m ((s.team? c.launch f.team).elim 1 Team.scope)) 1

/-- The lead team of a cohort, unless it is absent or a spawned fibre is active (R193, R371). -/
def State.leadOf (s : State) (c : Cohort) (fs : List Fibre) : Option Team :=
  if fs.any fun f => f.team == noTeam then none else s.team? c.launch c.leadTeam

/-- The trap of a word that acts on the barrier of each active fibre's team (R371, R373). -/
def State.memberTrap (s : State) (c : Cohort) (fs : List Fibre) (bar : Nat) : Option TrapCode :=
  if fs.any fun f => (s.team? c.launch f.team).isNone then some .noteam
  else if fs.any fun f => !((s.team? c.launch f.team).elim false fun t => (t.bar bar).valid) then some .barinv
  else none

/-- `bar.init` (R372). -/
def execBarInit (w : SynWord) (s : State) : Host.Outcome State Fault Refusal :=
  atSync (.barInit w) w s [] [] fun s c =>
    let a := c.sreg w.ua.toNat
    let b := c.sreg w.ub.toNat
    match s.leadOf c (c.active w.guard) with
    | none => s.ownTrap (.barInit w) c { code := .noteam } w.guard
    | some t =>
      if 65536 < a || 2 ^ 48 ≤ b || (a == 0 && b == 0) then s.ownTrap (.barInit w) c { code := .bararg } w.guard
      else if s.records.any fun r => r.waitsOn c.launch t.num w.bar.toNat then
        s.ownTrap (.barInit w) c { code := .barbusy } w.guard
      else
        ((s.putBar t w.bar.toNat { Barrier.fresh with valid := true, expA := a, expB := b }).dropShadows c.launch t.num
          w.bar.toNat).finish c (wordOf (.barInit w))

/-- `bar.arrive` (R373): a release step, then one arrival for each active fibre in ascending lane order. -/
def execBarArrive (w : SynWord) (s : State) : Host.Outcome State Fault Refusal :=
  atSync (.barArrive w) w s [] [] fun s c =>
    let fs := c.active w.guard
    match s.memberTrap c fs w.bar.toNat with
    | some t => s.ownTrap (.barArrive w) c { code := t } w.guard
    | none =>
      s.releaseFor c (s.barScope c fs) w.guard fun s1 =>
        (fs.foldl (fun t f => t.arrive c.launch f.team w.bar.toNat f.fidx) s1).finish c (wordOf (.barArrive w))

/-- Whether a fibre's wait on its barrier completes at once (R375). -/
def State.waitDone (s : State) (c : Cohort) (bar : Nat) (f : Fibre) : Bool :=
  (s.team? c.launch f.team).elim true fun t => (t.bar bar).parity f.fidx != (t.bar bar).phase

/-- What the barrier gives a completing fibre's predicate: 0 when the latest flip was void (R375). -/
def State.waitValue (s : State) (c : Cohort) (bar : Nat) (f : Fibre) : Bool :=
  (s.team? c.launch f.team).elim true fun t => !(t.bar bar).lastVoid

/-- The parity of a fibre set to its barrier's phase (R375). -/
def State.markWaited (s : State) (c : Cohort) (bar : Nat) (f : Fibre) : State :=
  match s.team? c.launch f.team with
  | some t => s.putBar t bar ((t.bar bar).setParity f.fidx (t.bar bar).phase)
  | none => s

/-- The event of a fibre that waits on its barrier (R176). -/
def State.waitEvent (s : State) (c : Cohort) (bar : Nat) (f : Fibre) : Event :=
  .barrier f.team bar ((s.team? c.launch f.team).elim false fun t => (t.bar bar).phase)

/-- The new records from `n` on, each with the predicate that its wait writes and what it watches. -/
def State.markRecords (s : State) (n pd : Nat) (watch : Record → Option WatchCond) : State :=
  { s with records := s.records.take n ++ (s.records.drop n).map fun r => { r with pd, watch := watch r } }

/-- Where the waits of a word's fibres stand: the state, the lanes that have completed with what each one's predicate
receives, and the fibres that wait. -/
abbrev Waits := State × List (Nat × Bool) × List Fibre

/-- A fibre completes its wait on its barrier (R375). -/
def State.completeWait (s : State) (c : Cohort) (bar : Nat) (done : List (Nat × Bool)) (f : Fibre) : State × List (Nat × Bool) :=
  (s.markWaited c bar f, done ++ [(f.lane, s.waitValue c bar f)])

/-- One fibre's wait, an operation on its barrier (R371, R375), and the flip that may follow it, which completes the fibres of its
team that wait (R374). -/
def waitOne (c : Cohort) (bar : Nat) (x : Waits) (f : Fibre) : Waits :=
  let (s, done, held) := x
  let (s1, done1, held1) : Waits :=
    if s.waitDone c bar f then
      let y := s.completeWait c bar done f
      (y.1, y.2, held)
    else (s, done, held ++ [f])
  if (s1.team? c.launch f.team).elim false fun t => (t.bar bar).full then
    let freed := held1.filter fun g => g.team == f.team
    let z := freed.foldl (fun y g => State.completeWait y.1 c bar y.2 g) (s1.settleBar c.launch f.team bar, done1)
    (z.1, z.2, held1.filter fun g => g.team != f.team)
  else (s1, done1, held1)

/-- `bar.wait` (R375, R196). -/
def execBarWait (w : SynWord) (s : State) : Host.Outcome State Fault Refusal :=
  atWait (.barWait w) w s [] [w.pd.toNat] fun s1 c h =>
    let bar := w.bar.toNat
    let fs := c.active w.guard
    match s1.memberTrap c fs bar with
    | some t => s1.ownTrap (.barWait w) c { code := t } w.guard
    | none =>
      let (s2, done, held) := fs.foldl (waitOne c bar) (s1, [], [])
      let d := done.foldl (fun x p => x.mapLane p.1 fun y => y.setPred w.pd.toNat p.2) c
      if held.isEmpty then
        (s2.acquireAll c (max w.scope.toNat (s1.barScope c fs))).finish d (wordOf (.barWait w))
      else
        (s2.suspendNext d h fun f => if (lanesOf held).contains f.lane then s2.waitEvent c bar f else .none).markRecords
          s2.records.length w.pd.toNat fun _ => none

/-- `bar.inval` (R376). -/
def execBarInval (w : SynWord) (s : State) : Host.Outcome State Fault Refusal :=
  atSync (.barInval w) w s [] [] fun s c =>
    let bar := w.bar.toNat
    match s.leadOf c (c.active w.guard) with
    | none => s.ownTrap (.barInval w) c { code := .noteam } w.guard
    | some t =>
      if !(t.bar bar).valid then s.ownTrap (.barInval w) c { code := .barinv } w.guard
      else s.releaseFor c t.scope w.guard fun s1 =>
        let x := { t.bar bar with valid := false, cntA := 0, cntB := 0, voidB := 0 }
        (((s1.putBar t bar x).dropShadows c.launch t.num bar).releaseBar c.launch t.num bar false).finish c
          (wordOf (.barInval w))

/-! ## Semaphores -/

/-- `sem.inc` (R377, R147). -/
def execSemInc (w : SynWord) (s : State) : Host.Outcome State Fault Refusal :=
  atSync (.semInc w) w s [] [] fun s c =>
    s.releaseFor c 1 w.guard fun s1 =>
      (s1.semAdd (fnOf c.ctx) c.core w.sem.toNat (BitVec.ofNat 32 (c.sreg w.ua.toNat))).finish c (wordOf (.semInc w))

/-- `sem.wait` (R377, R147). -/
def execSemWait (w : SynWord) (s : State) : Host.Outcome State Fault Refusal :=
  atWait (.semWait w) w s [] [] fun s1 c h =>
    let th := BitVec.ofNat 32 (c.sreg w.ua.toNat)
    if semReached (s1.sem (fnOf c.ctx) c.core w.sem.toNat) th then
      (s1.acquireAll c (max w.scope.toNat 1)).finish c (wordOf (.semWait w))
    else
      let act := lanesOf (c.active w.guard)
      s1.suspendNext c h fun f => if act.contains f.lane then .semaphore c.core w.sem.toNat th else .none

/-! ## Watches -/

/-- The access checks of a watch (R378). -/
def State.watchCheck (s : State) (c : Cohort) : Xlate → Option TrapCode
  | .mem (.hbm pa) _ exact =>
    if exact then some .watchacc
    else if (s.viewOf pa).isSome then some .fmtacc
    else if s.wayMask (fnOf c.ctx) == 0 then some .noway
    else none
  | _ => some .watchacc

/-- The scope that SCOPE 0 gives: `.pkg` (R262). -/
def synScope (w : SynWord) : Nat := if w.scope == 0#3 then 4 else w.scope.toNat

/-- The condition that a `waitv` makes of a location. -/
def waitCond (c : Cohort) (w : SynWord) (pa : Nat) : WatchCond :=
  { pa, overflow := false, cc := BitVec.ofNat 3 w.mod.toNat, signed := !w.mod.getLsbD 3, comparand := BitVec.ofNat 32 (c.sreg w.ub.toNat) }

/-- The watched location of an access. -/
def Acc.devicePa (a : Acc) : Nat :=
  match a.x with
  | .mem (.hbm pa) _ _ => pa
  | _ => 0

/-- The accesses of a `waitv`, checked. -/
def State.watchAccs (s : State) (c : Cohort) (w : SynWord) : List Acc :=
  (c.active w.guard).map fun f =>
    let va := (c.sreg w.ua.toNat + f.reg w.vx.toNat) % 2 ^ 64
    { lane := some f.lane, team := f.team, va, x := s.checkAccess c f.team va 4 .read (s.watchCheck c) }

/-- The first read of watched locations of `n` bytes at their home slices, with the entries that it takes (R64, R69, R148): the cohort's
own writes there come first (R120), and the core has then seen their last entries (R127). -/
def State.watchRead (s : State) (c : Cohort) (n : Nat) (accs : List Acc) (k : State → State) : State :=
  s.withMisses c (s.loadNeed c false n accs) fun s1 =>
    let s2 := accs.foldl (fun t a => t.performOwn c.core (.hbm a.devicePa) n) (s1.settle c true n accs)
    let s3 := (s2.missedSectors c false n accs).foldl (fun t x => t.fillReturn c.core x) (s2.askLoads c false n accs)
    k (accs.foldl (fun t a => t.sawLast c.core (.hbm a.devicePa) (t.performedRead (.hbm a.devicePa) n)) s3)

/-- A suspension whose records watch what `cond` names for each (R148, R378). -/
def State.suspendWatch (s : State) (c : Cohort) (h : Header) (ev : Fibre → Event) (cond : Record → Option WatchCond) : State :=
  let s1 := s.settleWatches
  ((s1.suspendNext c h ev).markRecords s1.records.length 0 cond).parkWatches s1.records.length

/-- `waitv` (R378, R148): each fibre whose condition holds completes at once, and the others wait. -/
def execWaitv (w : SynWord) (s : State) : Host.Outcome State Fault Refusal :=
  atWait (.waitv w) w s [(w.vx.toNat, 1)] [] fun s1 c h =>
    let accs := s1.watchAccs c w
    s1.withAccs (.waitv w) c w.guard accs true false 4 fun s2 =>
      match s2.errorAcc 4 accs with
      | some a => s2.errorTrap (.waitv w) c w.guard 4 accs a
      | none => s2.watchRead c 4 accs fun s3 =>
        let held := accs.filter fun a => !s3.watchHolds (waitCond c w a.devicePa)
        if held.isEmpty then (s3.acquireAll c (synScope w)).finish c (wordOf (.waitv w))
        else
          s3.suspendWatch c h (fun f => match held.find? fun a => a.lane == some f.lane with
            | some a => .watch a.va
            | none => .none) fun r => match r.event with
              | .watch va => (held.find? fun a => a.va == va).map fun a => waitCond c w a.devicePa
              | _ => none

/-! ## Spawn and join -/

/-- The lanes of a `spawn` that succeed, in ascending order (R175): `charged` bays with the children granted so
far. -/
def grantSpawns (bays reserve : Nat) : Nat → List Fibre → List Fibre
  | _, [] => []
  | charged, f :: rest =>
    if f.depth < 32 && charged + 18 + reserve ≤ bays then f :: grantSpawns bays reserve (charged + 18) rest
    else grantSpawns bays reserve charged rest

/-- A child (R206, R193): its payload is `cnt` registers from `vx`. -/
def Fibre.child (f : Fibre) (vx cnt : Nat) (join : Option JoinRef) : Fibre :=
  { lane := f.lane, fidx := 0xFFFF#16, team := noTeam, depth := f.depth + 1, preds := 0#8, base := 0
    regs := f.words vx cnt, frames := [], join }

/-- The spawn record of a word's children (R206, R172), under a tag of its own (log 24); `kept` is KEPT of the entry's header
(R161). -/
def State.spawnRecord (s : State) (c : Cohort) (entry cnt : Nat) (kept : Bool) (kids : List Fibre) : State :=
  let (tag, s1) := s.newTag (dieOf c.core)
  let (uid, s2) := s1.fresh
  { s2 with records := s2.records ++ [
      { uid, kind := .spawn, kept := c.pinned || kept, heavy := false, reissue := false, ctx := c.ctx, win := c.win
        stack := c.stack, pinned := c.pinned, vcnt := cnt, ucnt := 0, tiles := 0#8, tmap := handleMap [], homecore := 0
        tag, resume := entry, launch := c.launch, team := noTeam, event := .none, conv := 0#32, block := 0
        fibres := kids, trap := none, va := 0, faultLane := 0, engine := none, sregs := [], uq := [], vq := [], tileData := [], pd := 0
        watch := none, semCore := none, skip := false, stepping := false, stepDue := none, place := s2.binPlace (fnOf c.ctx) (dieOf c.core)
        die := dieOf c.core, core := c.core, arrival := s2.clock, bad := false, stored := false }] }

/-- A join counter's access by the uniform side (R379), for a counter that is not 0. -/
def State.counterAcc (s : State) (c : Cohort) (va : Nat) (acc : Access) : List Acc :=
  if va == 0 then []
  else [{ lane := none, team := c.leadTeam, va, x := s.checkAccess c c.leadTeam va 8 acc s.counterCheck }]

/-- The scope of a join counter, from the scopes that the spawns since it was last 0 have named (R144). -/
def State.counterScope (s : State) (pa : Nat) : Nat := ((s.joinScopes.find? fun x => x.1 == pa).map Prod.snd).getD 0

/-- A spawn names a scope for its counter. -/
def State.noteScope (s : State) (scope : Nat) (a : Acc) : State :=
  let old := if s.counter a.devicePa == 0 then 0 else s.counterScope a.devicePa
  { s with joinScopes := (a.devicePa, max scope old) :: s.joinScopes.filter fun x => x.1 != a.devicePa }

/-- The effect of a `spawn` that has passed its checks (R379, R143). -/
def State.spawnNow (s : State) (c : Cohort) (w : SynWord) (entry : Nat) (kept : Bool) (accs : List Acc) : State :=
  let fn := fnOf c.ctx
  let act := c.active w.guard
  let kids := grantSpawns (s.cellarBays fn) (s.spawnReserve fn) (s.cellarCharged fn) act
  let won := lanesOf kids
  let d := act.foldl (fun x f => x.mapLane f.lane fun y => y.setPred w.pd.toNat (won.contains f.lane)) c
  if kids.isEmpty then s.finish d (wordOf (.spawn w))
  else
    s.releaseFor c 5 w.guard fun s0 => s0.withMisses c (s0.lineNeed c 8 accs) fun s1 =>
      let s2 := accs.foldl (fun t a => (t.noteScope (synScope w) a).rmwNow c a (counterOp kids.length)) (s1.enterErrors c 8 accs)
      let join : Option JoinRef :=
        if c.sreg w.ub.toNat == 0 then none else some { addr := c.sreg w.ub.toNat, scope := synScope w }
      (s2.spawnRecord c entry w.cnt.toNat kept (kids.map fun f => f.child w.vx.toNat w.cnt.toNat join)).finish d
        (wordOf (.spawn w))

/-- `spawn` (R379): LANDHAZ of the payload's registers, its checks in order, then the test of R175 for each active lane. With no payload
check 4 is of `v`X−1, as written (log 54). -/
def execSpawn (w : SynWord) (s : State) : Host.Outcome State Fault Refusal :=
  atSync (.spawn w) w s [] [w.pd.toNat] fun s c =>
    let entry := c.sreg w.ua.toNat
    let run : RegRun := (w.vx.toNat, w.cnt.toNat)
    if c.hazard [run] then s.ownTrap (.spawn w) c { code := .landhaz } w.guard
    else if entry % 8 != 0 then s.ownTrap (.spawn w) c { code := .badheader, addr := entry } w.guard
    else s.toHeader (.spawn w) c w.guard entry fun h =>
      if !(h.entry && h.susp) then s.ownTrap (.spawn w) c { code := .noentry, addr := entry } w.guard
      else
        let accs := s.counterAcc c (c.sreg w.ub.toNat) .rmw
        s.withAccs (.spawn w) c w.guard accs true true 8 fun s1 =>
          if c.outside [run] then s1.ownTrap (.spawn w) c { code := .regbound } w.guard
          else s1.spawnNow c w entry h.kept accs

/-- `join` (R380, R144): its completion is an acquire at the counter's scope, too. -/
def execJoinW (w : SynWord) (s : State) : Host.Outcome State Fault Refusal :=
  atWait (.joinW w) w s [] [] fun s1 c h =>
    let va := c.sreg w.ua.toNat
    let accs := s1.counterAcc c va .read
    s1.withAccs (.joinW w) c w.guard accs true false 8 fun s2 =>
      match accs with
      | [] => (s2.acquireAll c (synScope w)).finish c (wordOf (.joinW w))
      | a :: _ =>
        if s2.accBad 8 a then s2.errorTrap (.joinW w) c w.guard 8 accs a
        else s2.watchRead c 8 accs fun s3 =>
          if s3.counter a.devicePa == 0 then
            (s3.acquireAll c (max (synScope w) (s3.counterScope a.devicePa))).finish c (wordOf (.joinW w))
          else
            let act := lanesOf (c.active w.guard)
            s3.suspendWatch c h (fun f => if act.contains f.lane then .join va else .none) fun r => match r.event with
              | .join _ => some { pa := a.devicePa, overflow := false, cc := 0#3, signed := false, comparand := 0#32 }
              | _ => none

/-! ## `lwait` -/

/-- The tag mask of `lwait`: bits 50:35 (R262). -/
def tagMask (w : SynWord) : Nat := w.ua.toNat * 2 ^ 8 + w.ub.toNat

/-- A cohort whose stall-point wait has ended: its slot released it, and it is ready again (R410). -/
def Cohort.waited (c : Cohort) (now : Nat) (wait : Bool) : Cohort := if wait then { c with issue := none, readyTime := now } else c

/-- `lwait` (R370, R237): every tag of the mask lands and frees; an error that one carries is MEMERR (R463). Where one has still to land
the slot releases the cohort for the wait, which ends within the step. -/
def execLwait (w : SynWord) (s : State) : Host.Outcome State Fault Refusal :=
  atStall (.lwait w) s Guard.always [] [] fun s c =>
    let named (l : Landing) : Bool := bitOf (tagMask w) l.tag
    let mine (o : MatrixOp) : Bool := c.landings.any fun l => named l && l.unitWord == some o.id
    let s1 := State.matrixWhile c.core mine (s.core c.core).matrixQueue.length (s.putCohort c)
    let d := (s1.cohort? c.uid).getD c
    let (s2, e) := (s1.gather c.core fun r => d.landings.any fun l => named l && r.ofLanding d l).takeReads d named
    let due := e.landings.filter named
    let e1 := { due.foldl Cohort.land e with landings := e.landings.filter fun l => !named l }
    match due.findSome? Landing.error with
    | some x =>
      if s2.peerOpen e then s2.holdPeer e
      else s2.takeTrap e1 (wordOf (.lwait w)) { code := .memerr, lane := some x.lane, addr := x.addr, detail := x.code } []
    | none => s2.finish (e1.waited s2.clock (c.landings.any fun l => named l && !l.landed)) (wordOf (.lwait w))

end Sys2Proof.Machine
end

