-- ==== Sys2Proof/Machine/EngineWords.lean ====
section
/-! DEFINITION. Engine words: the issue side of spec/12 R381, R382 and R386, and `eng.q` (R388). -/

namespace Sys2Proof.Machine

open Sys2Proof

/-- Whether a value lies in a range. -/
def within (lo hi x : Nat) : Bool := lo ≤ x && x ≤ hi
/-- Whether both halves of a register of lengths and rows are not zero (R382). -/
def bothHalves (x : Nat) : Bool := slice x 31 0 != 0 && slice x 63 32 != 0

/-- Whether the operands of an engine word break R381's fourth check. -/
def engineBad (op : Nat) (mod : Nat) (r : List Nat) : Bool :=
  let a (i : Nat) : Nat := r.getD i 0
  let body :=
    match op, mod with
    | 0xCA, 0 => within 1 (2 ^ 40) (a 3)
    | 0xCA, _ => bothHalves (a 3)
    | 0xCB, _ | 0xCC, _ => bothHalves (a 4)
    | _, _ => slice (a 4) 39 0 != 0 && [0x02, 0x06, 0x03, 0x11, 0x12].contains (slice (a 4) 44 40) && slice (a 4) 47 45 < 3
  a 0 % 16 != 0 || ownWindow ≤ a 0 || !body

/-- Whether a die's engine queue has an entry for a function, within its quota (R381, R441). -/
def State.engineRoom (s : State) (die fn : Nat) : Bool :=
  let q := s.engines.filter fun e => dieOf e.core == die && e.state == .queued
  q.length < 1024 && q.countP (fun e => e.fn == fn) < s.quota 1024 fn

/-- The operation that an engine word issues. -/
def engineOf (w : SynWord) (op : Nat) (c : Cohort) (id : Nat) (regs : List Word64) : EngineOp :=
  { id, opcode := BitVec.ofNat 8 op, mod := w.mod, cnt := w.cnt, co := w.co
    obj := if w.co == 2#3 then w.sem.toNat else w.bar.toNat, fn := fnOf c.ctx, ctx := c.ctx, launch := c.launch
    team := c.leadTeam, core := c.core, tag := c.tag, win := c.win, regs, done := 0, counted := 0, chunk := 0, moves := [], state := .queued, since := 0, stops := false
    borrowed := none
    ended := none
    coll := { stage := 0, peer := 0, progress := 0, checked := false, group := 0, seq := 0, received := [] } }

/-- An engine word (R381): NOTEAM, BARINV and ENGARG in that order, the hold for a queue entry, the charge, and
acceptance, which is a write for the purposes of R120. -/
def execEngine (i : Instr) (w : SynWord) (op : Nat) (s0 : State) : Host.Outcome State Fault Refusal :=
  atSync i w s0 [] [] fun s c =>
    let regs := (List.range w.cnt.toNat).map fun j => c.sregs.getD (w.ua.toNat + j) 0#64
    let fn := fnOf c.ctx
    let lead := s.leadOf c (c.active w.guard)
    if w.co == 1#3 && lead.isNone then s.ownTrap i c { code := .noteam } w.guard
    else if w.co == 1#3 && !(lead.elim false fun t => (t.bar w.bar.toNat).valid) then
      s.ownTrap i c { code := .barinv } w.guard
    else if engineBad op w.mod.toNat (regs.map BitVec.toNat) then s.ownTrap i c { code := .engarg } w.guard
    else if !s.engineRoom (dieOf c.core) fn then s.putCohort c
    else if s.cellarBays fn < s.cellarCharged fn + 1 then s.suspendHere c .charge
    else s.payRelease c fun s1 =>
      { s1 with engines := s1.engines ++ [engineOf w op c s1.nextUid regs], nextUid := s1.nextUid + 1 }.finish c (wordOf i)

/-- `copy` (R382). -/
def execCopy (w : SynWord) (s : State) : Host.Outcome State Fault Refusal := execEngine (.copy w) w 0xCA s
/-- `copy.2d` (R382). -/
def execCopy2d (w : SynWord) (s : State) : Host.Outcome State Fault Refusal := execEngine (.copy2d w) w 0xCA s
/-- `gath` (R382). -/
def execGath (w : SynWord) (s : State) : Host.Outcome State Fault Refusal := execEngine (.gath w) w 0xCB s
/-- `scat` (R382). -/
def execScat (w : SynWord) (s : State) : Host.Outcome State Fault Refusal := execEngine (.scat w) w 0xCC s
/-- `coll` (R386). -/
def execColl (w : SynWord) (s : State) : Host.Outcome State Fault Refusal := execEngine (.coll w) w 0xCD s

/-- The operation of a context that a status address names: the latest issued (log 27). -/
def State.engineAt (s : State) (ctx addr : Nat) : Option EngineOp :=
  (s.engines.filter fun e => e.ctx == ctx && e.arg 0 == addr).getLast?

/-- What `eng.q` writes of an operation in progress, and of a status block (R388). -/
def progressWord (done : Nat) : Word64 := BitVec.ofNat 64 (done * 2 ^ 16 + 0xFF)
def statusWord (bs : List Byte) : Word64 := BitVec.ofNat 64 (ofBytes (bs.drop 8) * 2 ^ 16 + ofBytes (bs.take 1))

/-- The sectors that the reads of a word want, asked for and returned before the word ends (R60, R62, R64). -/
def State.readSectors (s : State) (c : Cohort) (n : Nat) (accs : List Acc) : State :=
  ((s.missedSectors c true n accs).filter fun k => !isPeerLoc k).foldl (fun t k => t.fillReturn c.core k) (s.askLoads c true n accs)

/-- `eng.q` (R388). -/
def execEngQ (w : SynWord) (s0 : State) : Host.Outcome State Fault Refusal :=
  atSync (.engQ w) w s0 [] [] fun s c =>
    let va := c.sreg w.ua.toNat
    let done (t : State) (x : Word64) : State := t.finish (c.setSreg w.ub.toNat x) (wordOf (.engQ w))
    if va == 0 then done s 0xFE#64
    else match s.engineAt c.ctx va with
      | some e => done s (progressWord e.done)
      | none =>
        let accs : List Acc :=
          [{ lane := none, team := c.leadTeam, va, x := s.checkAccess c c.leadTeam va 16 .read fun _ => none }]
        s.withAccs (.engQ w) c w.guard accs true false 16 fun s1 =>
          s1.withMisses c (s1.loadNeed c true 16 accs) fun s2 =>
            match s2.askData c accs (fun _ => .read 16) 16 with
            | some s3 => s3
            | none =>
              match s2.errorAcc 16 accs with
              | some a => s2.errorTrap (.engQ w) c w.guard 16 accs a
              | none =>
                let s3 := (s2.settle c false 16 accs).readSectors c 16 accs
                done ((accs.foldl (fun t a => t.readNow c a 16) s3).usedPeers c accs)
                  (statusWord (accs.flatMap fun a => s3.bytesNow c a 16))

end Sys2Proof.Machine
end

