-- ==== Sys2Proof/Machine/Events.lean ====
section
/-! DEFINITION. What the events of the other agents share: an event has a subject, and a write to a register
aperture is dropped until the boot has set READY (spec/16 R478). -/

namespace Sys2Proof.Machine

open Sys2Proof

/-- An event whose subject exists; one without a subject changes nothing, since nothing makes it (log 2). -/
def onSubject (s : State) (ok : Bool) (t : State) : Host.Outcome State Fault Refusal := .next (if ok then t else s)

/-- An event about the subject that a search finds, if it finds one. -/
def onFound (s : State) (x : Option α) (k : α → State) : Host.Outcome State Fault Refusal := .next (x.elim s k)

/-- BOOTSTAT.READY (R478). -/
def State.booted (s : State) : Bool := bitOf (s.reg 0 0xF9F0) 0

/-- A write to an aperture: dropped until READY is set (R478). -/
def onWrite (ok : Bool) (s t : State) : Host.Outcome State Fault Refusal := onSubject s ok (if s.booted then t else s)

/-- A function's number, and a context slot's (R10, R415). -/
def isFn (fn : Nat) : Bool := fn < Config.functionCount
def isSlot (slot : Nat) : Bool := slot < 8
/-- A context's number, and a die's. -/
def isCtx (ctx : Nat) : Bool := ctx < 8 * Config.functionCount
def isDie (die : Nat) : Bool := die < 4

/-- The cycle at which the current package tick ends. -/
def State.tickEnd (s : State) : Nat := (s.clock / 256 + 1) * 256

/-- Whether a cycle comes before the next package tick, so that its event is due (log 5). -/
def State.due (s : State) (t : Nat) : Bool := t < s.tickEnd

/-- The package at a cycle. -/
def State.atCycle (s : State) (t : Nat) : State := { s with clock := max s.clock t }

/-- The events that come next, ahead of those of the agenda that are not due (log 2). -/
def State.soon (s : State) (is : List Instr) : State := { s with agenda := is.map (fun i => (0, i)) ++ s.agenda }

end Sys2Proof.Machine
end

