-- ==== Sys2Proof/Machine/Transc.lean ====
section
/-! DEFINITION. The functions of the transcendental words (spec/10 R315), as exact values where the
function is rational, and otherwise as fractions with 512 fractional bits and an error far below the
distance of any result of a 24-bit argument from a boundary of its rounding (DEDUCED, log 21). -/

namespace Sys2Proof.Machine

open Sys2Proof

/-- Fractional bits of the fixed-point values here. -/
def fxBits : Nat := 512
def fxOne : Int := ((2 ^ fxBits : Nat) : Int)

/-- The fraction as fixed point, rounded down. -/
def fxOf (neg : Bool) (n d : Nat) : Int :=
  let m : Int := ((n * 2 ^ fxBits / d : Nat) : Int)
  if neg then -m else m

/-- A fixed-point product. -/
def fxMul (a b : Int) : Int := a * b / fxOne

/-- A fixed-point value as a real. -/
def fxReal (x : Int) : RealVal := .fin (x < 0) x.natAbs (2 ^ fxBits)

/-- The floor of the square root, one bit at a time from bit `k - 1`. -/
def isqrtFrom : Nat → Nat → Nat → Nat
  | 0, _, r => r
  | k + 1, n, r =>
    let t := r + 2 ^ k
    isqrtFrom k n (if t * t ≤ n then t else r)

/-- The floor of the square root. -/
def isqrt (n : Nat) : Nat := isqrtFrom (n.log2 / 2 + 1) n 0

/-- √(n/d) with a sticky bit below 2 to the −200, so that its rounding is that of the exact root. -/
def sqrtReal (n d : Nat) : RealVal :=
  -- √(n/d) = √(n d) / d, with 400 more bits under the root
  let m := n * d * 2 ^ 800
  let r := isqrt m
  .fin false (2 * r + (if r * r == m then 0 else 1)) (2 * d * 2 ^ 400)

/-- `Σ x^(2i+1) / (2i+1)` from term `i` for `fuel` terms, with `t` the power `x^(2i+1)` and `x2` the square
of `x`, which may be negative. -/
def atanSeries : Nat → Nat → Int → Int → Int
  | 0, _, _, _ => 0
  | fuel + 1, i, t, x2 => t / (2 * i + 1 : Nat) + atanSeries fuel (i + 1) (fxMul t x2) x2

/-- The inverse hyperbolic tangent of a fixed-point value of magnitude at most 1/3. -/
def fxAtanh (x : Int) : Int := atanSeries 170 0 x (fxMul x x)

/-- The inverse tangent of `1 / n`. -/
def fxAtanInv (n : Nat) : Int := atanSeries 240 0 (fxOne / n) (-(fxOne / (n * n : Nat)))

/-- ln 2 = 2 atanh(1/3). -/
def fxLn2 : Int := 2 * fxAtanh (fxOne / 3)

/-- `Σ x^i / i!` from term `i`, with `t` the term. -/
def expSeries : Nat → Nat → Int → Int → Int
  | 0, _, _, _ => 0
  | fuel + 1, i, t, x => t + expSeries fuel (i + 1) (fxMul t x / (i + 1 : Nat)) x

/-- e to a fixed-point power between 0 and ln 2. -/
def fxExp (x : Int) : Int := expSeries 110 0 fxOne x

/-- 2 to the power `k + f / 2^512`, with the power of two kept exact. -/
def pow2Real (k : Int) (f : Int) : RealVal := (fxReal (fxExp (fxMul f fxLn2))).scale k

/-- e to the power of a fraction whose magnitude is below 512. -/
def expReal (neg : Bool) (n d : Nat) : RealVal :=
  let x := fxOf neg n d
  let k := x / fxLn2
  (fxReal (fxExp (x - k * fxLn2))).scale k

/-- A positive value below, and one above, every finite value of the formats. -/
def tinyReal : RealVal := .fin false 1 (2 ^ 600)
def hugeReal : RealVal := .fin false (2 ^ 600) 1

/-- `fexp2` (R315). -/
def fexp2Val : RealVal → RealVal
  | .nan => .nan
  | .inf neg => if neg then .fin false 0 1 else .inf false
  | .fin neg n d =>
    if n == 0 then .fin false 1 1
    else if n ≥ 512 * d then (if neg then tinyReal else hugeReal)
    else
      let fl : Int := if neg then -((ceilDiv n d : Nat) : Int) else ((n / d : Nat) : Int)
      if n % d == 0 then RealVal.scale fl (.fin false 1 1)
      else pow2Real fl (fxOf neg n d - fl * fxOne)

/-- `fexp` (R315). -/
def fexpVal : RealVal → RealVal
  | .nan => .nan
  | .inf neg => if neg then .fin false 0 1 else .inf false
  | .fin neg n d =>
    if n == 0 then .fin false 1 1
    else if n ≥ 512 * d then (if neg then tinyReal else hugeReal)
    else expReal neg n d

/-- `flog2` (R315): the power of two apart, `2 atanh((m − 1)/(m + 1)) / ln 2`. -/
def flog2Val : RealVal → RealVal
  | .nan => .nan
  | .inf neg => if neg then .nan else .inf false
  | .fin neg n d =>
    if n == 0 then .inf true
    else if neg then .nan
    else
      let k := floorLog2 n d
      -- the fraction m = n'/d' lies in [1, 2)
      let n' := if 0 ≤ k then n else n * 2 ^ (-k).toNat
      let d' := if 0 ≤ k then d * 2 ^ k.toNat else d
      if n' == d' then .fin (k < 0) k.natAbs 1
      else
        let t := fxOf false (n' - d') (n' + d')
        fxReal (k * fxOne + 2 * fxAtanh t * fxOne / fxLn2)

/-- `frcp` (R315). -/
def frcpVal : RealVal → RealVal
  | .nan => .nan
  | .inf neg => .fin neg 0 1
  | .fin neg n d => if n == 0 then .inf neg else .fin neg d n

/-- `fsqrt` (R315). -/
def fsqrtVal : RealVal → RealVal
  | .nan => .nan
  | .inf neg => if neg then .nan else .inf false
  | .fin neg n d => if n == 0 then .fin neg 0 1 else if neg then .nan else sqrtReal n d

/-- `frsq` (R315). -/
def frsqVal : RealVal → RealVal
  | .nan => .nan
  | .inf neg => if neg then .nan else .fin false 0 1
  | .fin neg n d => if n == 0 then .inf neg else if neg then .nan else sqrtReal d n

/-- π/2 with 256 more fractional bits than the other values, by Machin's formula. -/
def halfPiWide : Int :=
  let one : Int := ((2 ^ 768 : Nat) : Int)
  let rec go : Nat → Nat → Int → Int → Int
    | 0, _, _, _ => 0
    | fuel + 1, i, t, n2 => t / (2 * i + 1 : Nat) + go fuel (i + 1) (-(t / n2)) n2
  2 * (4 * go 180 0 (one / 5) 25 - go 80 0 (one / 239) 57121)

/-- The argument less the nearest multiple of π/2, with that multiple mod 4: the magnitude of a fraction. -/
def reduceAngle (n d : Nat) : Nat × Int :=
  let x : Int := ((n * 2 ^ 768 / d : Nat) : Int)
  let k := (x + halfPiWide / 2) / halfPiWide
  ((k % 4).toNat, (x - k * halfPiWide) / ((2 ^ 256 : Nat) : Int))

/-- `Σ (−1)^i x^(2i+j) / (2i+j)!` from the term `t` of degree `k`. -/
def sinSeries : Nat → Nat → Int → Int → Int
  | 0, _, _, _ => 0
  | fuel + 1, k, t, x2 =>
    t + sinSeries fuel (k + 2) (-(fxMul t x2 / ((k + 1) * (k + 2) : Nat))) x2

def fxSin (x : Int) : Int := sinSeries 60 1 x (fxMul x x)
def fxCos (x : Int) : Int := sinSeries 60 0 fxOne (fxMul x x)

/-- Whether a magnitude is below 2 to the −40: there a few terms of a series, as exact fractions, say
which side of each boundary the result lies on. -/
def smallArg (n d : Nat) : Bool := n * 2 ^ 40 < d

/-- `fsin` (R315). -/
def fsinVal : RealVal → RealVal
  | .nan => .nan
  | .inf _ => .nan
  | .fin neg n d =>
    if n == 0 then .fin neg 0 1
    else if smallArg n d then .fin neg (n * (6 * d * d - n * n)) (6 * d * d * d)
    else
      let (k, r) := reduceAngle n d
      let v := match k with | 0 => fxSin r | 1 => fxCos r | 2 => -fxSin r | _ => -fxCos r
      fxReal (if neg then -v else v)

/-- `fcos` (R315). -/
def fcosVal : RealVal → RealVal
  | .nan => .nan
  | .inf _ => .nan
  | .fin _ n d =>
    if n == 0 then .fin false 1 1
    else if smallArg n d then .fin false (2 * d * d - n * n) (2 * d * d)
    else
      let (k, r) := reduceAngle n d
      fxReal (match k with | 0 => fxCos r | 1 => -fxSin r | 2 => -fxCos r | _ => fxSin r)

/-- `ftanh` (R315): `(1 − e^(−2a)) / (1 + e^(−2a))`. -/
def ftanhVal : RealVal → RealVal
  | .nan => .nan
  | .inf neg => .fin neg 1 1
  | .fin neg n d =>
    if n == 0 then .fin neg 0 1
    else if smallArg n d then .fin neg (n * (3 * d * d - n * n)) (3 * d * d * d)
    else if n ≥ 128 * d then .fin neg (2 ^ 400 - 1) (2 ^ 400)
    else
      match expReal true (2 * n) d with
      | .fin _ m e => .fin neg (e - m) (e + m)
      | x => x

end Sys2Proof.Machine
end

