-- ==== Sys2Proof/Machine/VectorInt.lean ====
section
/-! DEFINITION. Vector integer words: spec/10 R301 to R309. -/

namespace Sys2Proof.Machine

open Sys2Proof

/-- What a VR word names: the registers it reads, and whether its destination is a pair (R301, R302). -/
def vrOp (w : VrWord) (reads : List RegRun) (pair : Bool) (latency : Nat) : VectorOp :=
  { guard := w.guard, srcs := [w.a, w.b, w.c], reads
    writes := if w.wbs then [] else [(w.dst.toNat, if pair then 2 else 1)], wbs := w.wbs, latency }

/-- A VR word that writes a predicate. -/
def vrPredOp (w : VrWord) (reads : List RegRun) (latency : Nat) : VectorOp :=
  { guard := w.guard, srcs := [w.a, w.b, w.c], reads, writes := [], wbs := false, latency
    preds := [w.dst.toNat] }

/-- What a VI word names. -/
def viOp (w : ViWord) (reads : List RegRun) (pair : Bool) (latency : Nat) : VectorOp :=
  { guard := w.guard, srcs := [w.a], reads
    writes := if w.wbs then [] else [(w.dst.toNat, if pair then 2 else 1)], wbs := w.wbs, latency }

/-- A VI word that writes a predicate. -/
def viPredOp (w : ViWord) (reads : List RegRun) (latency : Nat) : VectorOp :=
  { guard := w.guard, srcs := [w.a], reads, writes := [], wbs := false, latency, preds := [w.dst.toNat] }

/-- The registers of the first `n` sources, all read at TY. -/
def vrReads (w : VrWord) (n : Nat) : List RegRun := ([w.a, w.b, w.c].take n).flatMap (srcRun w.ty)

/-- The result of an integer word in one lane, in the bits of its destination (R306, R307). -/
def vectorResult (op : IntOp) (ty : Ty) (cc : BitVec 3) (sat : Bool) (a b c : Nat) : Nat :=
  narrow ty (tyRegBits ty) (satIf sat ty (op.eval ty cc.toNat (intOf ty a) (intOf ty b) (intOf ty c)))

/-- A VR word of R306 whose `n` sources are read at TY. -/
def execVr (i : Instr) (w : VrWord) (n : Nat) (op : IntOp) (s : State) : Host.Outcome State Fault Refusal :=
  issueVector i s (vrOp w (vrReads w n) w.ty.pair 4) w.ty.pair w.dst.toNat fun c f =>
    vectorResult op w.ty w.rm (w.mod.getLsbD 0) (c.vsrc f w.ty w.a) (c.vsrc f w.ty w.b) (c.vsrc f w.ty w.c)

/-- A VI word of R306: IMM stands for *b* (R258). -/
def execVi (i : Instr) (w : ViWord) (op : IntOp) (s : State) : Host.Outcome State Fault Refusal :=
  issueVector i s (viOp w (srcRun w.ty w.a) w.ty.pair 4) w.ty.pair w.dst.toNat fun c f =>
    vectorResult op w.ty w.rm false (c.vsrc f w.ty w.a) (wideImm w.ty w.imm) 0

/-- `vadd` (R306). -/
def execVadd (w : VrWord) (s : State) : Host.Outcome State Fault Refusal := execVr (.vadd w) w 2 .add s
/-- `vsub` (R306). -/
def execVsub (w : VrWord) (s : State) : Host.Outcome State Fault Refusal := execVr (.vsub w) w 2 .sub s
/-- `vmul` (R306). -/
def execVmul (w : VrWord) (s : State) : Host.Outcome State Fault Refusal := execVr (.vmul w) w 2 .mul s
/-- `vmulh` (R306). -/
def execVmulh (w : VrWord) (s : State) : Host.Outcome State Fault Refusal := execVr (.vmulh w) w 2 .mulh s
/-- `vmad` (R306). -/
def execVmad (w : VrWord) (s : State) : Host.Outcome State Fault Refusal := execVr (.vmad w) w 3 .mad s
/-- `vmin` (R306). -/
def execVmin (w : VrWord) (s : State) : Host.Outcome State Fault Refusal := execVr (.vmin w) w 2 .min s
/-- `vmax` (R306). -/
def execVmax (w : VrWord) (s : State) : Host.Outcome State Fault Refusal := execVr (.vmax w) w 2 .max s
/-- `vabs` (R306). -/
def execVabs (w : VrWord) (s : State) : Host.Outcome State Fault Refusal := execVr (.vabs w) w 1 .abs s
/-- `vand` (R306). -/
def execVand (w : VrWord) (s : State) : Host.Outcome State Fault Refusal := execVr (.vand w) w 2 .and s
/-- `vor` (R306). -/
def execVor (w : VrWord) (s : State) : Host.Outcome State Fault Refusal := execVr (.vor w) w 2 .or s
/-- `vxor` (R306). -/
def execVxor (w : VrWord) (s : State) : Host.Outcome State Fault Refusal := execVr (.vxor w) w 2 .xor s
/-- `vandn` (R306). -/
def execVandn (w : VrWord) (s : State) : Host.Outcome State Fault Refusal := execVr (.vandn w) w 2 .andn s
/-- `vshl` (R306). -/
def execVshl (w : VrWord) (s : State) : Host.Outcome State Fault Refusal := execVr (.vshl w) w 2 .shl s
/-- `vshr` (R306). -/
def execVshr (w : VrWord) (s : State) : Host.Outcome State Fault Refusal := execVr (.vshr w) w 2 .shr s
/-- `vrot` (R306). -/
def execVrot (w : VrWord) (s : State) : Host.Outcome State Fault Refusal := execVr (.vrot w) w 2 .rot s
/-- `vext` (R306). -/
def execVext (w : VrWord) (s : State) : Host.Outcome State Fault Refusal := execVr (.vext w) w 2 .ext s
/-- `vpop` (R306). -/
def execVpop (w : VrWord) (s : State) : Host.Outcome State Fault Refusal := execVr (.vpop w) w 1 .pop s
/-- `vclz` (R306). -/
def execVclz (w : VrWord) (s : State) : Host.Outcome State Fault Refusal := execVr (.vclz w) w 1 .clz s
/-- `vadd` with IMM (R306). -/
def execVaddImm (w : ViWord) (s : State) : Host.Outcome State Fault Refusal := execVi (.vaddImm w) w .add s
/-- `vmul` with IMM (R306). -/
def execVmulImm (w : ViWord) (s : State) : Host.Outcome State Fault Refusal := execVi (.vmulImm w) w .mul s
/-- `vand` with IMM (R306). -/
def execVandImm (w : ViWord) (s : State) : Host.Outcome State Fault Refusal := execVi (.vandImm w) w .and s
/-- `vor` with IMM (R306). -/
def execVorImm (w : ViWord) (s : State) : Host.Outcome State Fault Refusal := execVi (.vorImm w) w .or s
/-- `vxor` with IMM (R306). -/
def execVxorImm (w : ViWord) (s : State) : Host.Outcome State Fault Refusal := execVi (.vxorImm w) w .xor s

/-- `vcmp` (R309). -/
def execVcmp (w : VrWord) (s : State) : Host.Outcome State Fault Refusal :=
  issuePred (.vcmp w) s (vrPredOp w (vrReads w 2) 4) w.dst.toNat fun c f =>
    cmpInt w.ty w.rm.toNat (c.vsrc f w.ty w.a) (c.vsrc f w.ty w.b)

/-- `vcmp` with IMM (R309). -/
def execVcmpImm (w : ViWord) (s : State) : Host.Outcome State Fault Refusal :=
  issuePred (.vcmpImm w) s (viPredOp w (srcRun w.ty w.a) 4) w.dst.toNat fun c f =>
    cmpInt w.ty w.rm.toNat (c.vsrc f w.ty w.a) (wideImm w.ty w.imm)

/-- An operand moved through the low bits of an integer type, extended (R253); a float's bits unchanged. -/
def movedBits (ty : Ty) (x : Nat) : Nat := if ty.intBit then narrow ty (tyRegBits ty) (intOf ty x) else x

/-- `vsel` (R309): *b* when *a* CC 0 holds, else *c*. -/
def execVsel (w : VrWord) (s : State) : Host.Outcome State Fault Refusal :=
  issueVector (.vsel w) s (vrOp w (vrReads w 3) w.ty.pair 4) w.ty.pair w.dst.toNat fun c f =>
    movedBits w.ty (c.vsrc f w.ty (if cmpInt w.ty w.rm.toNat (c.vsrc f w.ty w.a) 0 then w.b else w.c))

/-- `vsel` with IMM (R309): *a* when *a* CC 0 holds, else IMM. -/
def execVselImm (w : ViWord) (s : State) : Host.Outcome State Fault Refusal :=
  issueVector (.vselImm w) s (viOp w (srcRun w.ty w.a) w.ty.pair 4) w.ty.pair w.dst.toNat fun c f =>
    let a := c.vsrc f w.ty w.a
    movedBits w.ty (if cmpInt w.ty w.rm.toNat a 0 then a else wideImm w.ty w.imm)

/-- `vmov` (R306; float types, log 20). -/
def execVmov (w : VrWord) (s : State) : Host.Outcome State Fault Refusal :=
  issueVector (.vmov w) s (vrOp w (vrReads w 1) w.ty.pair 4) w.ty.pair w.dst.toNat fun c f =>
    movedBits w.ty (c.vsrc f w.ty w.a)

/-- `vmov` with IMM (R306). -/
def execVmovImm (w : ViWord) (s : State) : Host.Outcome State Fault Refusal :=
  issueVector (.vmovImm w) s (viOp w [] w.ty.pair 4) w.ty.pair w.dst.toNat fun _ _ =>
    movedBits w.ty (wideImm w.ty w.imm)

/-- `vbfx` (R307): *b* and *c* are read as `.n32`. -/
def execVbfx (w : VrWord) (s : State) : Host.Outcome State Fault Refusal :=
  issueVector (.vbfx w) s (vrOp w (srcRun w.ty w.a ++ srcRun .n32 w.b ++ srcRun .n32 w.c) w.ty.pair 4) w.ty.pair
    w.dst.toNat fun c f =>
      narrow w.ty (tyRegBits w.ty)
        (bfxBits w.ty (intOf w.ty (c.vsrc f w.ty w.a)) (c.vsrc f .n32 w.b) (c.vsrc f .n32 w.c))

/-- `vbfi` (R307): MOD holds *k* − 1, and *b* is read as `.n32`. -/
def execVbfi (w : VrWord) (s : State) : Host.Outcome State Fault Refusal :=
  issueVector (.vbfi w) s (vrOp w (srcRun w.ty w.a ++ srcRun .n32 w.b ++ srcRun w.ty w.c) w.ty.pair 4) w.ty.pair
    w.dst.toNat fun c f =>
      bfiBits w.ty.width (c.vsrc f w.ty w.a) (c.vsrc f .n32 w.b % w.ty.width) (c.vsrc f w.ty w.c) (w.mod.toNat + 1)

/-- A source of `vdot4`'s bytes: 32 bits, a small immediate sign-extended to them (log 22). -/
def Cohort.wordSrc (c : Cohort) (f : Fibre) (x : Src) : Nat := c.vsrc f .i32 x

/-- `vdot4` (R308). -/
def execVdot4 (w : VrWord) (s : State) : Host.Outcome State Fault Refusal :=
  issueVector (.vdot4 w) s (vrOp w ([w.a, w.b, w.c].flatMap (srcRun .n32)) false 4) false w.dst.toNat fun c f =>
    let signed := w.ty == .i8
    let ty : Ty := if signed then .i32 else .n32
    narrow ty 32 (satIf (w.mod.getLsbD 0) ty
      (dot4 signed (signed && !w.mod.getLsbD 1) (c.wordSrc f w.a) (c.wordSrc f w.b)
        (intOf ty (c.wordSrc f w.c))))

end Sys2Proof.Machine
end

