-- ==== Sys2Proof/Machine/VectorFloat.lean ====
section
/-! DEFINITION. Vector floating-point words: spec/10 R304, R305, R310 to R315. -/

namespace Sys2Proof.Machine

open Sys2Proof

/-- The variate of result `j` in a lane (R304, R93, R94): 0 where the mode draws none. -/
def State.drawn (s : State) (c : Cohort) (rm : BitVec 3) (lane j : Nat) : Nat :=
  if rm == 4#3 then
    variate (cohortWord c.tag c.conv (BitVec.ofNat 64 (s.reg (fnOf c.ctx) 0x1600)) c.pc j) lane
  else 0

/-- Half `h` of a packed value, or the whole of another (R305). -/
def partOf (ty : Ty) (x h : Nat) : Nat := if ty.packed then (x >>> (16 * h)) % 2 ^ 16 else x

/-- A result formed half by half for a packed type (R305). -/
def byParts (ty : Ty) (g : Nat → Nat) : Nat := if ty.packed then g 0 + 2 ^ 16 * g 1 else g 0

/-- The latency of the words of rows `0x50` to `0x5A` (R310). -/
def floatLatency (ty : Ty) : Nat := if ty == .f64 then 8 else 4

/-- The operations that round (R310). -/
inductive FloatOp where
  | add | sub | mul | fma
  deriving DecidableEq, Repr

/-- The exact result of R310 before its one rounding. -/
def FloatOp.exact (op : FloatOp) (rm : Nat) (a b c : RealVal) : RealVal :=
  match op with
  | .add => a.add rm b
  | .sub => a.add rm b.neg
  | .mul => a.mul b
  | .fma => (a.mul b).add rm c

/-- A rounding word in one lane: `u` gives the variate of each half (R305). -/
def floatResult (op : FloatOp) (ty : Ty) (rm : BitVec 3) (sat : Bool) (u : Nat → Nat) (a b c : Nat) : Nat :=
  byParts ty fun h =>
    roundTo ty (op.exact rm.toNat (valueOf ty (partOf ty a h)) (valueOf ty (partOf ty b h)) (valueOf ty (partOf ty c h)))
      rm.toNat sat (u h)

/-- A VR word of R310 that rounds, with `n` sources. -/
def execFr (i : Instr) (w : VrWord) (n : Nat) (op : FloatOp) (s : State) : Host.Outcome State Fault Refusal :=
  issueVector i s { vrOp w (vrReads w n) w.ty.pair (floatLatency w.ty) with draws := w.rm == 4#3 } w.ty.pair w.dst.toNat
    fun c f => floatResult op w.ty w.rm (w.mod.getLsbD 0) (s.drawn c w.rm f.lane)
      (c.vsrc f w.ty w.a) (c.vsrc f w.ty w.b) (c.vsrc f w.ty w.c)

/-- A VI word of R310 that rounds: IMM supplies *b*. -/
def execFi (i : Instr) (w : ViWord) (op : FloatOp) (s : State) : Host.Outcome State Fault Refusal :=
  issueVector i s { viOp w (srcRun w.ty w.a) w.ty.pair (floatLatency w.ty) with draws := w.rm == 4#3 } w.ty.pair
    w.dst.toNat
    fun c f => floatResult op w.ty w.rm false (s.drawn c w.rm f.lane) (c.vsrc f w.ty w.a) (wideImm w.ty w.imm) 0

/-- `fmin` and `fmax` half by half (R311). -/
def minmaxResult (ty : Ty) (isMax : Bool) (a b : Nat) : Nat :=
  byParts ty fun h => fminmax ty isMax (partOf ty a h) (partOf ty b h)

/-- A word over codes, half by half: `g` maps the codes of *a* and *b* (R311, R312). -/
def execFbits (i : Instr) (w : VrWord) (n : Nat) (g : Nat → Nat → Nat) (s : State) : Host.Outcome State Fault Refusal :=
  issueVector i s (vrOp w (vrReads w n) w.ty.pair (floatLatency w.ty)) w.ty.pair w.dst.toNat fun c f =>
    byParts w.ty fun h => g (partOf w.ty (c.vsrc f w.ty w.a) h) (partOf w.ty (c.vsrc f w.ty w.b) h)

/-- The sign bit of a type's codes. -/
def signBit (ty : Ty) : Nat := 2 ^ (ty.width - 1)

/-- `fadd` (R310). -/
def execFadd (w : VrWord) (s : State) : Host.Outcome State Fault Refusal := execFr (.fadd w) w 2 .add s
/-- `fsub` (R310). -/
def execFsub (w : VrWord) (s : State) : Host.Outcome State Fault Refusal := execFr (.fsub w) w 2 .sub s
/-- `fmul` (R310). -/
def execFmul (w : VrWord) (s : State) : Host.Outcome State Fault Refusal := execFr (.fmul w) w 2 .mul s
/-- `ffma` (R310). -/
def execFfma (w : VrWord) (s : State) : Host.Outcome State Fault Refusal := execFr (.ffma w) w 3 .fma s
/-- `fadd` with IMM (R310). -/
def execFaddImm (w : ViWord) (s : State) : Host.Outcome State Fault Refusal := execFi (.faddImm w) w .add s
/-- `fmul` with IMM (R310). -/
def execFmulImm (w : ViWord) (s : State) : Host.Outcome State Fault Refusal := execFi (.fmulImm w) w .mul s
/-- `fmin` (R311). -/
def execFmin (w : VrWord) (s : State) : Host.Outcome State Fault Refusal :=
  execFbits (.fmin w) w 2 (fminmax w.ty false) s
/-- `fmin` with IMM (R311). -/
def execFminImm (w : ViWord) (s : State) : Host.Outcome State Fault Refusal :=
  issueVector (.fminImm w) s (viOp w (srcRun w.ty w.a) w.ty.pair (floatLatency w.ty)) w.ty.pair w.dst.toNat fun c f =>
    minmaxResult w.ty false (c.vsrc f w.ty w.a) (wideImm w.ty w.imm)
/-- `fmax` (R311). -/
def execFmax (w : VrWord) (s : State) : Host.Outcome State Fault Refusal :=
  execFbits (.fmax w) w 2 (fminmax w.ty true) s
/-- `fmax` with IMM (R311). -/
def execFmaxImm (w : ViWord) (s : State) : Host.Outcome State Fault Refusal :=
  issueVector (.fmaxImm w) s (viOp w (srcRun w.ty w.a) w.ty.pair (floatLatency w.ty)) w.ty.pair w.dst.toNat fun c f =>
    minmaxResult w.ty true (c.vsrc f w.ty w.a) (wideImm w.ty w.imm)
/-- `fabs` (R312): the sign bit cleared. -/
def execFabs (w : VrWord) (s : State) : Host.Outcome State Fault Refusal :=
  execFbits (.fabs w) w 1 (fun a _ => a % signBit w.ty) s
/-- `fneg` (R312): the sign bit inverted. -/
def execFneg (w : VrWord) (s : State) : Host.Outcome State Fault Refusal :=
  execFbits (.fneg w) w 1 (fun a _ => a ^^^ signBit w.ty) s
/-- `fcsgn` (R312): the sign bit taken from *b*. -/
def execFcsgn (w : VrWord) (s : State) : Host.Outcome State Fault Refusal :=
  execFbits (.fcsgn w) w 2 (fun a b => a % signBit w.ty + (b &&& signBit w.ty)) s
/-- `fcmp` (R313): MOD[0] takes the high halves of a packed type. -/
def execFcmp (w : VrWord) (s : State) : Host.Outcome State Fault Refusal :=
  issuePred (.fcmp w) s (vrPredOp w (vrReads w 2) (floatLatency w.ty)) w.dst.toNat fun c f =>
    let h := w.mod.toNat % 2
    cmpFloat w.ty w.rm.toNat (partOf w.ty (c.vsrc f w.ty w.a) h) (partOf w.ty (c.vsrc f w.ty w.b) h)
/-- `fclass` (R314): a mask of one register whatever the type. -/
def execFclass (w : VrWord) (s : State) : Host.Outcome State Fault Refusal :=
  issueVector (.fclass w) s (vrOp w (vrReads w 1) false (floatLatency w.ty)) false w.dst.toNat fun c f =>
    byParts w.ty fun h => 2 ^ classBit w.ty (partOf w.ty (c.vsrc f w.ty w.a) h)

/-- A transcendental word (R315): the exact function value, rounded once. -/
def execTrans (i : Instr) (w : VrWord) (fn : RealVal → RealVal) (s : State) : Host.Outcome State Fault Refusal :=
  issueVector i s (vrOp w (vrReads w 1) false 12) false w.dst.toNat fun c f =>
    byParts w.ty fun h => roundTo w.ty (fn (valueOf w.ty (partOf w.ty (c.vsrc f w.ty w.a) h))) w.rm.toNat false 0

/-- `frcp` (R315). -/
def execFrcp (w : VrWord) (s : State) : Host.Outcome State Fault Refusal := execTrans (.frcp w) w frcpVal s
/-- `frsq` (R315). -/
def execFrsq (w : VrWord) (s : State) : Host.Outcome State Fault Refusal := execTrans (.frsq w) w frsqVal s
/-- `fsqrt` (R315). -/
def execFsqrt (w : VrWord) (s : State) : Host.Outcome State Fault Refusal := execTrans (.fsqrt w) w fsqrtVal s
/-- `fexp2` (R315). -/
def execFexp2 (w : VrWord) (s : State) : Host.Outcome State Fault Refusal := execTrans (.fexp2 w) w fexp2Val s
/-- `flog2` (R315). -/
def execFlog2 (w : VrWord) (s : State) : Host.Outcome State Fault Refusal := execTrans (.flog2 w) w flog2Val s
/-- `fsin` (R315). -/
def execFsin (w : VrWord) (s : State) : Host.Outcome State Fault Refusal := execTrans (.fsin w) w fsinVal s
/-- `fcos` (R315). -/
def execFcos (w : VrWord) (s : State) : Host.Outcome State Fault Refusal := execTrans (.fcos w) w fcosVal s
/-- `ftanh` (R315). -/
def execFtanh (w : VrWord) (s : State) : Host.Outcome State Fault Refusal := execTrans (.ftanh w) w ftanhVal s
/-- `fexp` (R315). -/
def execFexp (w : VrWord) (s : State) : Host.Outcome State Fault Refusal := execTrans (.fexp w) w fexpVal s

end Sys2Proof.Machine
end

