-- ==== Sys2Proof/Machine/EngineRun.lean ====
section
/-! DEFINITION. How an engine operation runs: channels (spec/14 R431), the accesses of a chunk (spec/12 R382,
R383), parking and ends (R384, R385, spec/01 R43), checkpoints (R387) and collectives (R386). -/

namespace Sys2Proof.Machine

open Sys2Proof

/-! ## Channels (R381, R425, R426, R431) -/

/-- The LIST record of a function in the entry in force. -/
def State.listRec (s : State) (fn : Nat) : Option ListRec :=
  s.entry.bind fun x => (x.list.filterMap id).find? fun r => r.fn == fn

/-- How many channels of a kind a function has on each die. -/
def State.channels (s : State) (fn : Nat) (coll : Bool) : Nat :=
  if s.tableOn then
    (s.listRec fn).elim 0 fun r => if coll then popCount 4 r.cch.toNat else popCount 16 r.tch.toNat
  else if fn == 0 then (if coll then 4 else 16) else 0

/-- How many channels of a function on a die hold an operation. -/
def State.channelsHeld (s : State) (die fn : Nat) (coll : Bool) : Nat :=
  s.engines.countP fun e => e.state == .running && e.die == die && e.isColl == coll && e.borrowed.getD e.fn == fn

/-- Whether a channel of a function is idle on a die. -/
def State.channelIdle (s : State) (die fn : Nat) (coll : Bool) : Bool := s.channelsHeld die fn coll < s.channels fn coll

/-- A function's settings of the frame. -/
def State.budget? (s : State) (fn : Nat) : Option Budget := s.budgets.find? fun b => b.fn == fn

/-- DGRP and PRIO of a function, as of the frame boundary (R419). -/
def State.donGroup (s : State) (fn : Nat) : Nat := (s.budget? fn).elim 0 Budget.group
def State.tenantPrio (s : State) (fn : Nat) : Nat := (s.budget? fn).elim 0 Budget.prio

/-- A function of the same donation group with an idle channel. -/
def State.lender (s : State) (e : EngineOp) : Option Nat :=
  ((s.entry.elim [] SlotEntry.list).filterMap id).findSome? fun r =>
    if r.fn != e.fn && s.donGroup e.fn != 0 && s.donGroup r.fn == s.donGroup e.fn &&
        s.channelIdle e.die r.fn e.isColl then some r.fn else none

/-- What is left of ENGBUD on a die in this frame, in channel-cycles; `none` while it is unlimited (R430). -/
def State.engineLeft (s : State) (fn die : Nat) : Option Nat :=
  if s.tableOn then (s.budget? fn).bind fun b => b.engine.map fun e => e.getD die 0 else none

/-- Whether the core that issued an operation lies in its function's save area (R435, R489). -/
def State.engineAway (s : State) (e : EngineOp) : Bool :=
  s.saves.any fun b => b.fn == e.fn && b.dense == s.denseCore e.fn e.core

/-- Whether an operation is kept off its channel: its function leaves its quads (R434) and has not had them
restored since (R489), or its die is power-gated (R387). -/
def State.engineHalted (s : State) (e : EngineOp) : Bool :=
  (s.drain.elim false fun d => d.outgoing.contains e.fn) || s.engineAway e || s.gatedDies.contains e.die

/-- The channel that a queued operation takes: its own function's, or a lender's. -/
def State.channelFor (s : State) (e : EngineOp) : Option (Option Nat) :=
  if s.channelIdle e.die e.fn e.isColl then some none else (s.lender e).map some

/-- Whether a channel is free for an operation that R431 has stopped: one of its own function's, or a lender's whose owner has no
operation waiting for it. -/
def State.channelFree (s : State) (e : EngineOp) : Bool :=
  s.channelIdle e.die e.fn e.isColl || (s.lender e).any fun f => !s.engines.any fun x =>
    x.fn == f && x.state == .queued && x.die == e.die && x.isColl == e.isColl

/-- Whether a queued operation may take a channel now: it is the oldest of its function in the queue of its die
and kind (R381), and nothing holds it back. -/
def State.engineMayStart (s : State) (e : EngineOp) : Bool :=
  !s.engineHalted e && s.engineLeft e.fn e.die != some 0 && (s.channelFor e).isSome &&
    (s.engines.find? fun x => x.state == .queued && x.ended.isNone && x.fn == e.fn && x.die == e.die &&
      x.isColl == e.isColl).map EngineOp.id == some e.id

/-- Whether a rank's `coll` may run, as far as the others of its rank go: an earlier one that has not read its descriptor yet may be on
the same group, and is numbered first (R386). -/
def State.collFirst (s : State) (e : EngineOp) : Bool :=
  !e.isColl || e.coll.checked || s.engines.all fun x =>
    !(x.isColl && !x.coll.checked && x.ended.isNone && x.fn == e.fn && slice (x.arg 4) 63 48 == slice (e.arg 4) 63 48 && x.id < e.id)

/-- Whether an operation can run a chunk or a stage now. -/
def State.engineRuns (s : State) (e : EngineOp) : Bool :=
  s.collFirst e && (match e.state with
  | .running => !s.engineHalted e
  | .queued => e.ended.isNone && s.engineMayStart e
  | _ => false)

/-- An operation on its channel. -/
def State.onChannel (s : State) (e : EngineOp) : EngineOp :=
  match e.state with
  | .queued => { e with state := .running, borrowed := (s.channelFor e).getD none, since := s.clock }
  | _ => e

/-! ## The accesses of an engine -/

/-- What a read by an engine gives. -/
inductive EngRead where
  | ok (bs : List Byte)
  | trap (code : Nat) (sector : Option Nat) (va : Nat)
  | suspend (f : PageFault)
  | ask (a : Ask)
  deriving DecidableEq, Repr

/-- A run of addresses cut at 4 KiB boundaries. -/
def pageParts : Nat → Nat → Nat → List (Nat × Nat)
  | 0, _, _ => []
  | fuel + 1, va, n =>
    let m := min n (4096 - va % 4096)
    if n == 0 then [] else (va, m) :: pageParts fuel (va + m) (n - m)

/-- One part of a read, which lies within a page. -/
def State.engineGetPart (s : State) (e : EngineOp) (va n : Nat) : EngRead :=
  match s.engineXlate e va n .read with
  | .mem (.peer pkg f) _ _ =>
    (match s.peerReply e.id 0 f n with
     | some bs => .ok bs
     | none => .ask ⟨pkg, f, f, va, 9, 0, s.leaseOf e.id e.die e.ctx va, .read n⟩)
  | .mem l _ _ => (match s.badIn l n with
     | some b => .trap 0x28 (some b) va
     | none => .ok (s.performedRead l n))
  | .pad p off => if s.padBad p off n then .trap 0x28 none va else .ok (s.padRead p off n)
  | .trap t => .trap t.code.code none va
  | .suspend f => .suspend f
  | .askPeer pkg page addr => .ask ⟨pkg, page, addr, va, 9, 0, 0, .translate⟩

/-- A read by an engine: its parts in order, or the first that gives no bytes. -/
def State.engineGet (s : State) (e : EngineOp) (va n : Nat) : EngRead :=
  (pageParts (n / 4096 + 2) va n).foldl (fun acc p => match acc with
    | .ok bs => (match s.engineGetPart e p.1 p.2 with
      | .ok b => .ok (bs ++ b)
      | x => x)
    | x => x) (.ok [])

/-- What an access that cannot proceed does to its operation: a trap ends it FAULT (R385), a suspending fault
parks it (R43), and a peer is asked (R49). -/
def State.engineBlocked (s : State) (e : EngineOp) : EngRead → State
  | .ok _ => s.putEngine e
  | .trap code sector va =>
    (match sector with
     | some b => s.enterError b e.fn
     | none => s.walkNote none e.die e.ctx va).engineStop e 3 code
  | .suspend f =>
    let t := s.walkNote none e.die e.ctx f.va
    if ringLen (s.ctxReg e.ctx 0x28) == 0 then t.engineStop e 3 TrapCode.noservice.code else t.enginePark e f false
  | .ask a => (s.putEngine e).askAs e.id none e.die e.ctx a

/-- The target of an access of an engine that has passed its checks, and what it leaves in the TLBs and of its lease. -/
def State.engineTarget (s : State) (e : EngineOp) (va n : Nat) (store : Bool) : Target :=
  match s.engineXlate e va n (if store then .write else .read) with
  | .mem l cache _ => .mem l va (s.isUncached e.fn cache) (s.pageRef none e.die e.ctx va (if store then 10 else 9))
  | .pad p off => .pad p.core p.launch p.team off
  | _ => .pad 0 0#32 0#32 0
def State.engineNote (s : State) (e : EngineOp) (va n : Nat) (store : Bool) : State :=
  (s.notePaged none e.die e.ctx va (if store then 10 else 9)).renewLease e.id none e.die e.ctx va
    (s.engineXlate e va n (if store then .write else .read))

/-- The requests of a read of an engine at the slices (R69, R382), and of host memory (R44). -/
def State.engineAsk (s : State) (e : EngineOp) (va n : Nat) : State :=
  (pageParts (n / 4096 + 2) va n).foldl (fun t p =>
    match t.engineTarget e p.1 p.2 false with
    | .mem (.hbm pa) _ uncached page => t.askRange e.fn pa p.2 .load uncached page
    | .mem (.host b) _ _ page => t.countHost page (sectorCount b p.2)
    | _ => t) s

/-- What a read of an engine leaves: its requests, and in each of its parts what it leaves in the TLBs and of its lease (R51). -/
def State.engineReads (s : State) (e : EngineOp) (va n : Nat) : State :=
  (pageParts (n / 4096 + 2) va n).foldl (fun t p => (t.engineAsk e p.1 p.2).engineNote e p.1 p.2 false) s

/-- What stands in the way of a write by an engine: its translation, or a peer's answer. -/
def State.engineWriteReady (s : State) (e : EngineOp) (va : Nat) (bs : List Byte) : EngRead :=
  match s.engineXlate e va bs.length .write with
  | .mem (.peer pkg f) _ _ =>
    if s.peerReqs.any fun r => r.uid == e.id && r.addr == f && r.kind == .write bs && r.reply.isSome then .ok []
    else .ask ⟨pkg, f, f, va, 10, 0, s.leaseOf e.id e.die e.ctx va, .write bs⟩
  | .trap t => .trap t.code.code none va
  | .suspend f => .suspend f
  | .askPeer pkg page addr => .ask ⟨pkg, page, addr, va, 10, 0, 0, .translate⟩
  | _ => .ok []

/-! ## The chunk of a transfer (R382, R383) -/

/-- Where the index of a piece's row stands, for a gather or a scatter. -/
def State.pieceIndex (s : State) (e : EngineOp) (p : Nat) : Option Nat :=
  if e.opcode == 0xCB#8 || e.opcode == 0xCC#8 then some (e.arg 3 + 4 * (p / s.engineRow e)) else none

/-- The bytes of one piece of a chunk: its row's index is read first, where it has one. -/
def State.pieceBytes (s : State) (e : EngineOp) (p : Nat × Nat) : EngRead :=
  let data := s.engineGet e (s.engineSrc e p.1) p.2
  match s.pieceIndex e p.1 with
  | some va => (match s.engineGet e va 4 with
    | .ok _ => data
    | x => x)
  | none => data

/-! ## Collectives (R386) -/

/-- The group descriptor: its header, with its entries when *N* is in range. -/
def State.collGroup (s : State) (e : EngineOp) : EngRead :=
  match s.engineGet e (e.arg 1) 16 with
  | .ok h =>
    let n := ofBytes (h.take 4)
    if 1 ≤ n && n ≤ 4096 then s.engineGet e (e.arg 1) (16 + 8 * n) else .ok h
  | x => x

/-- *N*, the group identifier and an entry of a descriptor. -/
def groupSize (d : List Byte) : Nat := ofBytes (d.take 4)
def groupId (d : List Byte) : Nat := ofBytes ((d.drop 4).take 4)
def groupEntry (d : List Byte) (k : Nat) : Nat := ofBytes ((d.drop (16 + 8 * k)).take 8)
/-- The package and the function of a rank. -/
def groupPkg (d : List Byte) (k : Nat) : Nat := slice (groupEntry d k) 9 0
def groupFn (d : List Byte) (k : Nat) : Nat := slice (groupEntry d k) 24 16

/-- The own rank of an operation, its package's number, and the operation code. -/
def EngineOp.rank (e : EngineOp) : Nat := slice (e.arg 4) 63 48
def EngineOp.redOp (e : EngineOp) : Nat := slice (e.arg 4) 47 45

/-- Whether a descriptor and the count fail the checks of R386. -/
def State.collBad (s : State) (e : EngineOp) (d : List Byte) : Bool :=
  let n := groupSize d
  let count := slice (e.arg 4) 39 0
  !(1 ≤ n && n ≤ 4096) || ofBytes ((d.drop 8).take 8) != 0 || n ≤ e.rank ||
    groupPkg d e.rank != s.pkgNum || groupFn d e.rank != e.fn ||
    ((e.mod == 1#4 || e.mod == 4#4) && count % n != 0)

/-- How many `coll` words of a rank have run on a group. -/
def State.collCount (s : State) (fn group rank : Nat) : Nat :=
  ((s.collCounts.find? fun c => c.fn == fn && c.group == group && c.rank == rank).map CollCount.count).getD 0

/-- The next number of a rank's `coll` on a group taken. -/
def State.collTake (s : State) (fn group rank : Nat) : State :=
  { s with collCounts := { fn, group, rank, count := s.collCount fn group rank + 1 } ::
      s.collCounts.filter fun c => !(c.fn == fn && c.group == group && c.rank == rank) }

/-- The other ranks of a group. -/
def otherRanks (d : List Byte) (k : Nat) : List Nat := (List.range (groupSize d)).filter (· != k)

/-- The function and the rank that collective data for another package name first (R474; log 28). -/
def rankBytes (d : List Byte) (k : Nat) : List Byte := toBytes 2 (groupFn d k) ++ toBytes 2 k

/-- The abort that a failed rank sends to every other rank it names: for a rank of this package it is kept until
its operation takes it, for another package it leaves as collective data (R386, R471). -/
def State.collAbortAll (s : State) (e : EngineOp) (d : List Byte) (seq : Nat) : State :=
  ((List.range (if groupSize d ≤ 4096 then groupSize d else 0)).filter (· != e.rank)).foldl (fun t k =>
    if groupPkg d k == s.pkgNum then
      { t with collAborts := t.collAborts ++ [{ fn := groupFn d k, group := groupId d, rank := k, count := seq }] }
    else
      t.sendFlit 16 (groupPkg d k) e.fn (groupId d) seq (rankBytes d k)) s

/-- Whether an abort waits for an operation. -/
def State.collAborted (s : State) (e : EngineOp) : Bool :=
  s.collAborts.any fun a => a.fn == e.fn && a.group == e.coll.group && a.rank == e.rank && a.count == e.coll.seq

/-- What a rank has of another's send buffer, and whether that is all of it. -/
def EngineOp.from_ (e : EngineOp) (k : Nat) : List Byte := ((e.coll.received.find? fun p => p.1 == k).map Prod.snd).getD []
def EngineOp.has (e : EngineOp) (k : Nat) : Bool := collBytes e ≤ (e.from_ k).length

/-- A rank whose descriptor has passed its checks takes its send buffer in (R386, R136; log 27); then `k`. -/
def State.collSend (s : State) (e : EngineOp) (k : State → EngineOp → State) : State :=
  if e.has e.rank then k s e
  else match s.engineGet e (e.arg 2) (collBytes e) with
    | .ok own =>
      let f := { e with coll := { e.coll with received := [(e.rank, own)] } }
      k ((s.engineReads e (e.arg 2) (collBytes e)).putEngine f) f
    | x => s.engineBlocked e x

/-- A rank's first run (R386): the descriptor read, checked and numbered, and the send buffer taken in; then `k`. An operation
that has run goes on at once. -/
def State.collRun (s : State) (e : EngineOp) (k : State → EngineOp → State) : State :=
  if e.coll.checked then s.collSend e k
  else match s.collGroup e with
    | .ok d =>
      let seq := s.collCount e.fn (groupId d) e.rank
      let s1 := (s.engineReads e (e.arg 1) d.length).collTake e.fn (groupId d) e.rank
      if s.collBad e d then (s1.collAbortAll e d seq).engineStop e 3 TrapCode.engarg.code
      else
        let f := { e with coll := { e.coll with checked := true, group := groupId d, seq } }
        (s1.putEngine f).collSend f k
    | x => s.engineBlocked e x

/-- The ranks whose data an operation still lacks: a rank of a broadcast needs rank 0's alone. -/
def EngineOp.lacks (e : EngineOp) (d : List Byte) : List Nat :=
  (otherRanks d e.rank).filter fun k => !e.has k && !(e.mod == 3#4 && e.rank != 0 && k != 0)

/-- Element `i` of bytes. -/
def elemOf (n : Nat) (bs : List Byte) (i : Nat) : Nat := ofBytes ((bs.drop (i * n)).take n)

/-- One step of a reduction, over the accumulator's codes: `.bf16` accumulates in `.f32` (R386). -/
def redStep (ty : Ty) (op a b : Nat) : Nat :=
  match ty with
  | .f32 | .bf16 =>
    if op == 0 then roundTo .f32 ((valueOf .f32 a).add 0 (valueOf .f32 b)) 0 false 0 else fminmax .f32 (op == 2) a b
  | _ =>
    let w := ty.width
    let signed := ty != .n32
    let v (x : Nat) : Int := if signed then signedOf w x else x % 2 ^ w
    if op == 0 then (a + b) % 2 ^ w
    else if op == 1 then (if v b < v a then b else a) else (if v a < v b then b else a)

/-- An element reduced over all ranks, in ascending rank. -/
def EngineOp.reduce (e : EngineOp) (n i : Nat) : Nat :=
  let ty := collType e
  let sz := ty.width / 8
  let widen (x : Nat) : Nat := if ty == .bf16 then x * 2 ^ 16 else x
  let acc := (List.range (n - 1)).foldl (fun a k => redStep ty e.redOp a (widen (elemOf sz (e.from_ (k + 1)) i)))
    (widen (elemOf sz (e.from_ 0) i))
  if ty == .bf16 then roundTo .bf16 (valueOf .f32 acc) 0 false 0 else acc

/-- Byte `k` of an own rank's receive buffer after completion. -/
def EngineOp.collByte (e : EngineOp) (n k : Nat) : Byte :=
  let len := collBytes e
  let sz := (collType e).width / 8
  match e.mod.toNat with
  | 0 => (toBytes sz (e.reduce n (k / sz))).getD (k % sz) 0#8
  | 1 => (toBytes sz (e.reduce n (e.rank * (len / n) / sz + k / sz))).getD (k % sz) 0#8
  | 2 => (e.from_ (k / len)).getD (k % len) 0#8
  | 3 => (e.from_ 0).getD k 0#8
  | _ => (e.from_ (k / (len / n))).getD (e.rank * (len / n) + k % (len / n)) 0#8

/-! ## One chunk (R383) -/

/-- The bytes of every piece of a chunk, or the first that cannot be read. -/
def State.chunkData (s : State) (e : EngineOp) (ps : List (Nat × Nat)) : List (Nat × EngRead) :=
  ps.map fun p =>
    (p.1, if e.isColl then .ok ((List.range p.2).map fun i => e.collByte ((s.collRanks e).getD 1) (p.1 + i))
          else s.pieceBytes e p)

/-- What a read gave, as bytes. -/
def EngRead.bytes : EngRead → List Byte
  | .ok bs => bs
  | _ => []
/-- Whether a read gave no bytes. -/
def EngRead.stuck : EngRead → Bool
  | .ok _ => false
  | _ => true

/-- A piece of a chunk cut where its destination passes a sector and its source a page: offsets and lengths. -/
def cutMoves (src dst : Nat) : Nat → Nat → Nat → List (Nat × Nat)
  | 0, _, _ => []
  | fuel + 1, o, n =>
    let m := min n (min (64 - (dst + o) % 64) (4096 - (src + o) % 4096))
    if n == 0 then [] else (o, m) :: cutMoves src dst fuel (o + m) (n - m)

/-- Whether a target is at a peer. -/
def Target.atPeer : Target → Bool
  | .mem l _ _ _ => isPeerLoc l
  | .pad _ _ _ _ => false

/-- The moves of a piece whose bytes can be read: those of a collective and those of a peer have come already. -/
def State.pieceMoves (s : State) (e : EngineOp) (k : Nat) (bs : List Byte) : List EngMove :=
  let src := s.engineSrc e k
  let dst := s.engineDst e k
  (cutMoves src dst (bs.length / 32 + 4) 0 bs.length).map fun p =>
    let from_ := if e.isColl then .pad 0 0#32 0#32 0 else s.engineTarget e (src + p.1) p.2 false
    { src := from_, bytes := if e.isColl || from_.atPeer then some ((bs.drop p.1).take p.2) else none
      dst := s.engineTarget e (dst + p.1) p.2 true, len := p.2 }

/-- What an operation's next chunk meets before any byte of it is written: its pieces with what their reads give, and the first that
stands in its way (R383, R385). -/
def State.chunkReads (s : State) (e : EngineOp) : List (Nat × EngRead) := s.chunkData e (s.nextChunk e)
def State.chunkStuck (s : State) (e : EngineOp) : Option EngRead :=
  let data := s.chunkReads e
  ((data.map Prod.snd).find? EngRead.stuck).or
    ((data.map fun d => s.engineWriteReady e (s.engineDst e d.1) d.2.bytes).find? EngRead.stuck)

/-- An operation begins a chunk that nothing stands in the way of. -/
def State.beginChunk (s : State) (e : EngineOp) : State × EngineOp :=
  let data := s.chunkReads e
  let f := { e with chunk := (data.map fun d => d.2.bytes.length).sum, moves := data.flatMap fun d => s.pieceMoves e d.1 d.2.bytes }
  let s1 := data.foldl (fun t d =>
    let n := d.2.bytes.length
    let t1 := (s.pieceIndex e d.1).elim t fun va => t.engineReads e va 4
    let u := if e.isColl then t1 else t1.engineReads e (s.engineSrc e d.1) n
    u.engineNote e (s.engineDst e d.1) n true) s
  ({ s1.spendOnce e.id with peerReqs := s1.peerReqs.filter fun r => r.uid != e.id || r.lane != 0 }.putEngine f, f)

/-- The next chunk of an operation on its channel, completed: one that it has begun already, else one that it begins once every
access of it has passed its checks (R383, R385). -/
def State.engineChunk (s : State) (e : EngineOp) : State :=
  if e.chunk != 0 then (s.finishChunk e).1
  else match s.peerReqs.find? fun r => r.uid == e.id && r.aborted with
  | some _ => s.engineStop e 3 TrapCode.peerabort.code
  | none =>
    match s.chunkStuck e with
    | some x => s.engineBlocked e x
    | none =>
      let (s1, f) := s.beginChunk e
      (s1.finishChunk f).1

/-- Whether an operation has what its chunks write: a rank of a collective, every send buffer that it needs. -/
def State.collReady (s : State) (e : EngineOp) : Bool :=
  !e.isColl || (e.coll.checked && (match s.collGroup e with
    | .ok d => (e.lacks d).isEmpty
    | _ => false))

/-- What an operation may do of its chunk in a step of some other agent (R136; log 2): begin it, or read a piece of it, or write one,
in any order but that of `scat`'s rows, whose highest stands (R382). -/
def State.engineDrift (s : State) (e0 : EngineOp) : State :=
  let k := s.choice (4 * e0.id + 2)
  if !s.engineRuns e0 || e0.ended.isSome || s.engineTotal e0 ≤ e0.done || !s.collReady e0 || k % 2 == 0 then s
  else if e0.chunk == 0 then
    let e := s.onChannel e0
    if (s.chunkStuck e).isSome then s else (s.beginChunk e).1
  else
    let i := if e0.opcode == 0xCC#8 then 0 else k / 2 % e0.moves.length
    match e0.moves[i]? with
    | some m =>
      if m.bytes.isNone && k / 2 / e0.moves.length % 2 == 0 then
        s.putEngine { e0 with moves := e0.moves.set i { m with bytes := some (s.readTarget m.src m.len) } }
      else (s.putEngine { e0 with moves := e0.moves.eraseIdx i }).engineMove e0.fn m
    | none => s

/-- Every operation's part in a step. -/
def State.enginesDrift (s : State) : State := s.engines.foldl State.engineDrift s

/-! ## The events of an operation -/

/-- ENGINE_CHUNK_DONE (R383). A collective writes its receive buffer once it has every rank's data. -/
def execEngineChunkDone (op : Nat) (s : State) : Host.Outcome State Fault Refusal :=
  onFound s ((s.engine? op).filter fun e => s.engineRuns e && (!e.coll.checked || e.done < s.engineTotal e)) fun e0 =>
    let e := s.onChannel e0
    if e.isColl then
      s.collRun e fun t f => match t.collGroup f with
        | .ok d => if (f.lacks d).isEmpty then t.engineChunk f else t.putEngine f
        | x => t.engineBlocked f x
    else s.engineChunk e

/-- ENGINE_OP_DONE (R383, R384): the status block, then the last count, then the charge; not while its function's quads are away
(R489). -/
def execEngineOpDone (op : Nat) (s : State) : Host.Outcome State Fault Refusal :=
  onFound s ((s.engine? op).filter fun e => (e.state == .running || e.state == .queued) && !s.engineAway e &&
      (e.ended.isSome || (e.done == s.engineTotal e && (!e.isColl || e.coll.checked)))) fun e =>
    s.engineStop e (e.ended.getD (0, 0)).1 (e.ended.getD (0, 0)).2

/-- ENGINE_CHECKPOINT (R387): an operation on a channel that is asked to leave it writes its record. -/
def execEngineCheckpoint (op : Nat) (s : State) : Host.Outcome State Fault Refusal :=
  onFound s ((s.engine? op).filter fun e => e.state == .running && e.coll.progress == 0) fun e =>
    s.engineSave e .none .waiting false

/-- The operations whose records return to the engine queue: nothing keeps them off their channels any more, their budget is not spent,
and a channel is free (R387, R431, R489). -/
def State.settleEngines (s : State) : State :=
  (s.records.filter fun r => r.kind == .engine && r.place == .waiting && r.event == .none).foldl (fun t r =>
    match r.engine.bind t.engine? with
    | some e => if t.engineHalted e || t.engineLeft e.fn e.die == some 0 || !t.channelFree e then t else t.engineResume e.id
    | none => t) s

/-- The operation of a rank of this package that meets a stage of another. -/
def State.collPeer (s : State) (e : EngineOp) (d : List Byte) (peer : Nat) : Option EngineOp :=
  s.engines.find? fun x => x.isColl && x.has x.rank && x.coll.group == e.coll.group && x.coll.seq == e.coll.seq &&
    x.rank == peer && x.fn == groupFn d peer && x.id != e.id

/-- Data of a rank taken in behind what has come. -/
def EngineOp.receive (e : EngineOp) (peer : Nat) (bs : List Byte) : EngineOp :=
  { e with coll := { e.coll with
      peer, received := e.coll.received.filter (fun p => p.1 != peer) ++ [(peer, e.from_ peer ++ bs)] } }

/-- The next 4 KiB of another rank's send buffer that a rank has not. -/
def EngineOp.takeChunk (e x : EngineOp) (peer : Nat) : EngineOp :=
  e.receive peer (((x.from_ peer).drop (e.from_ peer).length).take 4096)

/-- One exchange of a stage with a peer rank (R386): within the package both ranks take the next chunk of the other's send buffer, and
the stage is over with the last one; with another package the data arrive in the event, and the own leave as collective data that
name the peer's function and rank (R474). -/
def State.collExchange (s : State) (e : EngineOp) (d : List Byte) (peer : Nat) (data : List Byte) : State :=
  let started (x : EngineOp) : EngineOp := { x with coll := { x.coll with progress := collBytes e } }
  if groupPkg d peer == s.pkgNum then
    match s.collPeer e d peer with
    | some x =>
      let f := e.takeChunk x peer
      (s.putEngine (if f.has peer then started f else f)).putEngine (if x.has e.rank then x else x.takeChunk e e.rank)
    | none => s.putEngine e
  else
    (s.putEngine (started (e.receive peer data))).sendFlit 16 (groupPkg d peer) e.fn e.coll.group e.coll.seq
      (rankBytes d peer ++ e.from_ e.rank)

/-- COLLECTIVE_DATA (R386). Data of another package that are not a send buffer are the answer of a completer of last
resort: the operation ends ABORTED (R444). -/
def execCollectiveData (op peer : Nat) (data : List Byte) (s : State) : Host.Outcome State Fault Refusal :=
  onFound s ((s.engine? op).filter fun e => e.isColl && s.engineRuns e && e.coll.progress == 0 && !e.has peer) fun e0 =>
    s.collRun (s.onChannel e0) fun t e => match t.collGroup e with
      | .ok d =>
        if !(otherRanks d e.rank).contains peer then t.putEngine e
        else if groupPkg d peer != t.pkgNum && data.length != collBytes e then t.abortEngine e
        else t.collExchange e d peer data
      | x => t.engineBlocked e x

/-- COLLECTIVE_STAGE_DONE (R386): the stage in progress is over; an operation asked to leave its channel writes its record (R387,
R431). -/
def execCollectiveStageDone (op : Nat) (s : State) : Host.Outcome State Fault Refusal :=
  onFound s ((s.engine? op).filter fun e => e.isColl && e.state == .running && e.coll.progress != 0) fun e =>
    let f := { e with coll := { e.coll with stage := e.coll.stage + 1, progress := 0 } }
    if s.engineHalted e then s.engineSave f .none .waiting false
    else if e.stops then s.engineSave { f with stops := false } .none .waiting false
    else s.putEngine f

/-- COLLECTIVE_ABORT (R386): a rank that fails its descriptor checks ends FAULT with ENGARG and sends its aborts, and
so ends each rank that an abort meets. -/
def execCollectiveAbort (op : Nat) (s : State) : Host.Outcome State Fault Refusal :=
  onFound s ((s.engine? op).filter EngineOp.isColl) fun e =>
    if e.coll.checked then
      { s with collAborts := s.collAborts.filter fun a =>
          !(a.fn == e.fn && a.group == e.coll.group && a.rank == e.rank && a.count == e.coll.seq) }.engineStop e 3
        TrapCode.engarg.code
    else s.collRun e fun t f => t.engineStop f 3 TrapCode.engarg.code

end Sys2Proof.Machine
end

