-- ==== Sys2Proof/Machine/MemEvents.lean ====
section
/-! DEFINITION. The events of the memory system: the slices of the L2 and the DRAM behind them (spec/02 R67 to R79,
spec/17 R480, R481), fills and acknowledgements (R60, R64, R65), landings (spec/07 R237), exchange stores
(spec/12 R366, R367), hash masks (R76 to R78) and format windows (spec/03 R106, R111). -/

namespace Sys2Proof.Machine

open Sys2Proof

/-! ## DRAM and the slices (R69, R79) -/

/-- Whether a bank may be refreshed: no request of it is older than 256 cycles (R79). -/
def State.mayRefresh (s : State) (bank : BankId) : Bool := !s.dramQueue.any fun r => r.bank == bank && 256 < s.clock - r.since

/-- DRAM_REFRESH (R79): the bank's row is closed first. Refresh is not counted (R480). -/
def execDramRefresh (bank : BankId) (s : State) : Host.Outcome State Fault Refusal :=
  onSubject s (bank.stack < 16 && bank.channel < 32 && bank.pc < 2 && bank.group < 4 && bank.bank < 4 && s.mayRefresh bank)
    (s.closeRow bank)

/-- ROW_IDLE_CLOSE (R79): a row that no request has used for 128 cycles closes. -/
def execRowIdleClose (bank : BankId) (s : State) : Host.Outcome State Fault Refusal :=
  onFound s (s.dramRows.find? fun r => r.bank == bank && s.due (r.used + 128)) fun r => (s.atCycle (r.used + 128)).closeRow bank

/-- SLICE_REQUEST (R69): the home slice serves an outstanding request of a function for the sector. -/
def execSliceRequest (fn pa : Nat) (store : Bool) (s : State) : Host.Outcome State Fault Refusal :=
  onFound s (s.requests.find? fun r =>
    r.fn == fn && r.line == pa / 256 && r.sectors.getLsbD (sectorNo pa) && r.writes == store) fun r => s.serveTo r.id

/-- SECTOR_FILL (R69, R107): a wanted sector arrives. -/
def execSectorFill (pa : Nat) (s : State) : Host.Outcome State Fault Refusal :=
  onFound s ((s.l2Line? pa).filter fun l => l.want.getLsbD (sectorNo pa)) fun l => s.l2Arrive l pa

/-! ## Fills, acknowledgements and entries (R60, R64, R65) -/

/-- L1_FILL (R60): the fill of a sector that the core waits for returns. -/
def execL1Fill (core pa : Nat) (s : State) : Host.Outcome State Fault Refusal :=
  onSubject s ((s.core core).misses.any fun m => m.key == .hbm (pa / 64)) (s.fillReturn core (.hbm (pa / 64)))

/-- STORE_ACK (R64, R122): a write of the core to the location has performed, with those that come before it, and its line
request's entry is free. -/
def execStoreAck (core : Nat) (loc : Loc) (s : State) : Host.Outcome State Fault Refusal :=
  onFound s (s.pendingStores.find? fun p => p.core == core && p.here && (locWithin loc p.loc p.op.len).isSome) fun p =>
    (s.serveTo p.request).drainStores fun q => q.id == p.id

/-- The head of a core's grant queue, with what it needs. -/
def State.grantHead (s : State) (core : Nat) : Option (Cohort × Nat) :=
  (s.core core).grantQueue.head?.bind fun uid =>
    (s.cohort? uid).bind fun c => match c.wait with
      | .misses n => some (c, n)
      | _ => none

/-- MISS_STATUS_GRANT (R65): the head has all the entries it needs. In place its word goes on; under
CTXMEM.RETRY it is issued again 2 cycles later. -/
def execMissStatusGrant (core : Nat) (s : State) : Host.Outcome State Fault Refusal :=
  onFound s ((s.grantHead core).filter fun h => s.missUsed core + h.2 ≤ Config.missEntries) fun h =>
    let (c, need) := h
    let k := s.core core
    let retry := bitOf (s.reg (fnOf c.ctx) (0x1500 + slotOf c.ctx * 8)) 0
    (s.putCore { k with grantQueue := k.grantQueue.drop 1, grants := k.grants ++ [(c.uid, need)] }).putCohort
      { c with wait := if retry then .misses 0 else .none }

/-- RETRY_REISSUE (R65): the cohort is ready again. -/
def execRetryReissue (uid : Nat) (s : State) : Host.Outcome State Fault Refusal :=
  onFound s ((s.cohort? uid).filter fun c => c.wait == .misses 0 && (s.core c.core).grantOf uid) fun c =>
    s.putCohort { c with wait := .none, readyTime := s.clock + 2 }

/-- LANDING (R237): the result of a tag stands in its rows; the tag stays outstanding until an `lwait`. A result of the matrix
unit comes with its word. -/
def execLanding (uid tag : Nat) (s : State) : Host.Outcome State Fault Refusal :=
  onFound s ((s.cohort? uid).bind fun c =>
      (c.landings.find? fun l => l.tag == tag && !l.landed && l.unitWord.isNone).map fun l => (c, l)) fun p =>
    let (t, c) := (s.gather p.1.core fun r => r.ofLanding p.1 p.2).takeReads p.1 fun l => l.id == p.2.id
    match c.landings.find? fun l => l.id == p.2.id with
    | some l =>
      let d := c.land l
      t.putCohort { d with landings := d.landings.map fun x => if x.id == l.id then { x with landed := true } else x }
    | none => t

/-- The lanes of a word in which its guard holds. -/
def xstLanes (c : Cohort) (word : Word64) : List Nat :=
  match rawDecode word with
  | some (.xst w) => lanesOf (c.active w.guard)
  | _ => c.lanes

/-- The trap of an exchange store that its member core has refused (R366): the lowest active lane reports (R452). -/
def State.raiseRefused (s : State) (c : Cohort) (code : Nat) : State :=
  let word := s.wordAt c
  s.takeTrap { c with wait := .none } word { code := refusedBy code } (xstLanes c word)

/-- XST_ACCEPT (R366, R367): the member core accepts every byte of the word, which then ends, or refuses them all, and
the word takes the trap. -/
def execXstAccept (uid : Nat) (s : State) : Host.Outcome State Fault Refusal :=
  onFound s (s.cohort? uid) fun c => match c.wait with
    | .refused code => s.raiseRefused c code
    | .xst xs w =>
      let t := s.acceptOne c xs w
      match t.cohort? uid with
      | some d => (match d.wait with
        | .refused code => t.raiseRefused d code
        | _ => t)
      | none => t
    | _ => s

/-! ## Hash masks (R76 to R78) -/

/-- A die's HASHCTL. -/
def hashCtl (die : Nat) : Nat := 0x2030 + die * 0x40
/-- OPEN and READY of a die. -/
def State.hashOpen (s : State) (die : Nat) : Bool := bitOf (s.reg 0 (hashCtl die)) 0
def State.hashReady (s : State) (die : Nat) : Bool := bitOf (s.reg 0 (hashCtl die)) 1

/-- HASH_OPEN (R78). -/
def execHashOpen (die : Nat) (s : State) : Host.Outcome State Fault Refusal :=
  onWrite (isDie die) s (if s.allIdle then s.regSet 0 (hashCtl die) 1 else s.regSet 0 (hashCtl die) 4)

/-- Whether a location is homed on a die. -/
def homedOn (die : Nat) : Loc → Bool
  | .hbm pa => homeDie pa == die
  | _ => false

/-- HASH_READY (R78): the slices of the die hold nothing, no L1 holds a line of it, and its controllers are quiet. -/
def execHashReady (die : Nat) (s : State) : Host.Outcome State Fault Refusal :=
  onSubject s (isDie die && s.hashOpen die && !s.hashReady die)
    (let s0 := (s.drainStores fun p => homedOn die p.loc).serveWhere fun r => homeDie (r.line * 256) == die
     let s1 := (s0.fillAll.l2Flush fun l => homeDie (l.line * 256) == die).dramQuiet fun r => r.bank.stack / 4 == die
     { s1 with l1 := s1.l1.filter fun x => homeDie x.sector != die }.regSet 0 (hashCtl die) 2)

/-- Whether a mask keeps the hash a bijection (R76). -/
def maskGood (reg val : Nat) : Bool :=
  if reg < 5 then slice val 12 8 == 2 ^ reg && !bitOf val 19 else slice val 12 8 == 0 && bitOf val 19

/-- The bytes of a die's range are undefined until written (R78). -/
def State.undefRange (s : State) (lo hi : Nat) : State := { s with undef := s.undef ++ [(lo, hi)] }

/-- HASH_MASK_WRITE (R76, R78): HASHCH0 to HASHCH4 are registers 0 to 4, and HASHPC is 5. A request that waits at a controller goes where
the masks in force send it when its command issues (R481). -/
def execHashMaskWrite (die reg : Nat) (val : Word64) (s : State) : Host.Outcome State Fault Refusal :=
  let off := 0x2000 + die * 0x40 + 8 * reg
  let v := val.toNat &&& maskBits 35 8
  onWrite (isDie die && reg < 6) s
    (if !s.hashReady die || !maskGood reg val.toNat then s.regSet 0 (hashCtl die) 4
     else if v == s.reg 0 off then s
     else
       let t := (s.setReg 0 off v).undefRange (die * 0x3000000000) (die * 0x3000000000 + 0x3000000000 - 1)
       { t with dramQueue := t.dramQueue.map fun r => { r with bank := t.bankOf r.pa } })

/-- HASH_CLOSE (R78). -/
def execHashClose (die : Nat) (s : State) : Host.Outcome State Fault Refusal :=
  onWrite (isDie die) s (s.regClear 0 (hashCtl die) 3)

/-! ## Format windows (R106, R111) -/

/-- The offset of FWVIEW of a window. -/
def winOff (w : Nat) : Nat := 0x2200 + w * 0x40

/-- Whether an address lies in a range of a window. -/
def Window.covers (w : Window) (pa : Nat) : Bool := w.ranges.any fun r => r.1 ≤ pa && pa < r.1 + r.2

/-- FORMAT_WINDOW_ENABLE (R106): the lines of the three ranges are written back and go, and EN is set. -/
def execFormatWindowEnable (win : Nat) (s : State) : Host.Outcome State Fault Refusal :=
  onWrite (win < 8) s
    (if s.windowOn win then s
     else if !s.allIdle || s.windowBad win then s.regSet 0 (winOff win + 0x30) 2
     else (s.l2Flush fun l => (s.window win).covers (l.line * 256)).regSet 0 (winOff win + 0x20) 1)

/-- FORMAT_WINDOW_ACTIVE (R106). -/
def execFormatWindowActive (win : Nat) (s : State) : Host.Outcome State Fault Refusal :=
  onSubject s (win < 8 && s.windowOn win && !s.windowActive win) (s.regSet 0 (winOff win + 0x30) 1)

/-- FORMAT_WINDOW_DISABLE (R106): a format flush of the window, and then ACTIVE is clear; the DRAM behind the view range has
undefined contents. -/
def execFormatWindowDisable (win : Nat) (s : State) : Host.Outcome State Fault Refusal :=
  let w := s.window win
  onWrite (win < 8) s
    (if !s.windowOn win then s
     else if !s.allIdle then s.regSet 0 (winOff win + 0x30) 2
     else
       let s1 := (s.drainStores fun _ => true).flushViews fun v => v == win
       ((s1.regClear 0 (winOff win + 0x20) 1).regClear 0 (winOff win + 0x30) 1).undefRange w.view (w.view + w.size - 1))

/-- FORMAT_FLUSH_DONE (R111, R154): the active windows are flushed for a fence, which has a flush of its own (log 47). -/
def execFormatFlushDone (seq : Nat) (s : State) : Host.Outcome State Fault Refusal :=
  onSubject s (s.flushing.contains seq)
    (let s1 := s.flushViews fun _ => true
     ({ s1 with flushing := s1.flushing.filter (· != seq) }).releaseWhere (fun r => r.event == Event.flush (BitVec.ofNat 32 seq)) id)

end Sys2Proof.Machine
end

