-- ==== Sys2Proof/Machine/MatrixWords.lean ====
section
/-! DEFINITION. Matrix words: spec/11 R331 to R354. -/

namespace Sys2Proof.Machine

open Sys2Proof

/-! ## Common parts -/

/-- The physical tile of a handle of a cohort's tag. -/
def State.tileOf (s : State) (c : Cohort) (h : Nat) : Option Nat :=
  (((s.core c.core).tilesOf c.tag).find? fun t => t.1 == h).map Prod.snd

/-- A matrix word whose handle must be owned: NOTILE before any effect (R332). Its uniform operands are those of the pass
(R335). -/
def atTile (i : Instr) (w : MmaWord) (s0 : State) (runs : List RegRun) (preds : List Nat) (tag : Option Nat)
    (k : State → Cohort → Nat → State) : Host.Outcome State Fault Refusal :=
  atStop true i s0 w.guard runs preds fun s c =>
    if tag.elim false c.tagBusy then s.ownTrap i c { code := .landhaz } w.guard
    else match s.tileOf c w.th.toNat with
      | none => s.ownTrap i c { code := .notile } w.guard
      | some t => k s c t

/-- The unit completes words until its queue has room (R335, R241). -/
def State.queueRoom (core : Nat) : Nat → State → State
  | 0, s => s
  | n + 1, s => if 4 ≤ (s.core core).matrixQueue.length then State.queueRoom core n (s.matrixExec core) else s

/-- A word accepted into the queue (R335), for the tile and handle given; `mark` is what it leaves in its
cohort, under its identifier. -/
def State.accept (s : State) (c0 : Cohort) (word : Word64) (handle tile : Nat) (lanes : List Nat)
    (tagOut : Option Nat) (mark : Nat → Cohort → Cohort) (kind : MatrixKind) : State :=
  let s1 := State.queueRoom c0.core (s.core c0.core).matrixQueue.length (s.putCohort c0)
  let c := (s1.cohort? c0.uid).getD c0
  let (id, s2) := s1.fresh
  let op : MatrixOp := { id, issuer := c.lanes, placed := c.placed, ctx := c.ctx, tag := c.tag, handle, tile, addr := c.pc, tagOut, lanes, kind }
  let k := s2.core c.core
  (s2.putCore { k with matrixQueue := k.matrixQueue ++ [op] }).finish (mark id c) word

/-- A word claims the unit's store buffer (R335): the row words to memory before it have issued their writes, and every such write has
been acknowledged, for which it waits in place where a peer has still to answer. -/
def State.withStoreBuffer (s : State) (c : Cohort) (k : State → Cohort → State) : State :=
  let row (p : PendingStore) : Bool := p.core == c.core && !p.entry
  let s1 := State.matrixWhile c.core (fun o => o.kind.writes) (s.core c.core).matrixQueue.length (s.putCohort c)
  let s2 := ((s1.pendingStores.filter fun p => row p && p.here).foldl (fun t p => t.serveTo p.request) s1).drainStores fun p => row p && p.here
  let d := (s2.cohort? c.uid).getD c
  if s2.pendingStores.any row then s2.holdPeer d else k s2 d

/-- A word claims the unit's load buffer (R335): the unit has written the rows of those before it. -/
def State.withLoadBuffer (s : State) (c : Cohort) (k : State → Cohort → State) : State :=
  let s1 := State.matrixWhile c.core (fun o => match o.kind with | .load _ => true | _ => false) (s.core c.core).matrixQueue.length (s.putCohort c)
  k s1 ((s1.cohort? c.uid).getD c)

/-- What most words leave in their cohort: nothing. -/
def noMark (_ : Nat) (c : Cohort) : Cohort := c

/-- A landing that waits for a matrix word (R341, R350). -/
def waitLanding (tag : Nat) (rows : List Nat) (pred : Option Nat) (id : Nat) (c : Cohort) : Cohort :=
  { c with landings := c.landings ++
      [{ id, tag, rows, pred, writes := [], unitWord := some id, landed := false, error := none }] }

/-! ## `mma` -/

/-- The scratchpad of a team on a cohort's core. -/
def padOf (c : Cohort) (team : BitVec 32) : Pad := { core := c.core, launch := c.launch, team }

/-- The size of a team's allocation on a cohort's core; none is 0. -/
def State.padSize (s : State) (c : Cohort) (team : BitVec 32) : Nat := (s.alloc? (padOf c team)).elim 0 Alloc.size

/-- BASE and PITCH of a B operand (R338). -/
def operandBase (x : Nat) : Nat := slice x 31 0
def operandPitch (x : Nat) : Nat := slice x 47 32

/-- A scratchpad access of `n` bytes, as a watchpoint sees it. -/
def padAcc (c : Cohort) (lane : Option Nat) (team : BitVec 32) (off : Nat) : Acc :=
  { lane, team, va := ownWindow + off, x := .pad (padOf c team) off }

/-- The operands of an `mma`: each is a register and the bytes of its vectors (64) or scales (16). -/
def mmaOperands (c : Cohort) (w : MmaWord) (tb : Ty) : List (Nat × Nat) :=
  (c.sreg w.ub.toNat, 64) :: if tb == .bs4 then [(c.sreg w.uc.toNat, 16)] else []

/-- The rows, and the scale bytes, that each active lane names: lane, team, offset, size (R337). -/
def mmaRows (fs : List Fibre) (w : MmaWord) (ta : Ty) : List (Nat × BitVec 32 × Nat × Nat) :=
  fs.flatMap fun f =>
    (f.lane, f.team, f.reg w.vx.toNat, 64) ::
      if ta == .bs4 then [(f.lane, f.team, f.reg (w.vx.toNat + 1), 16)] else []

/-- The checks 2 to 6 of R339. -/
def State.mmaTrap (s : State) (c : Cohort) (w : MmaWord) (ta tb : Ty) (fs : List Fibre) : Option TrapInfo :=
  let ops := mmaOperands c w tb
  let rows := mmaRows fs w ta
  if ops.any fun o => slice o.1 63 48 != 0 then some { code := .matopnd }
  else match ops.find? fun o => operandBase o.1 % o.2 != 0 || operandPitch o.1 % o.2 != 0 with
  | some o => some { code := .misalign, addr := ownWindow + operandBase o.1 }
  | none =>
    match ops.find? fun o => s.padSize c c.leadTeam < operandBase o.1 + 255 * operandPitch o.1 + o.2 with
    | some o => some { code := .spbound, addr := ownWindow + operandBase o.1 }
    | none =>
      match rows.find? fun r => r.2.2.1 % r.2.2.2 != 0 with
      | some r => some { code := .misalign, lane := some r.1, addr := ownWindow + r.2.2.1 }
      | none =>
        (rows.find? fun r => s.padSize c r.2.1 < r.2.2.1 + r.2.2.2).map fun r =>
          { code := .spbound, lane := some r.1, addr := ownWindow + r.2.2.1 }

/-- The WATCH trap of an `mma`'s gathers and B reads (R459). -/
def State.mmaWatch (s : State) (c : Cohort) (w : MmaWord) (ta tb : Ty) (fs : List Fibre) : Option TrapInfo :=
  let gathers := (mmaRows fs w ta).findSome? fun r =>
    s.watchTrap c true false r.2.2.2 [padAcc c (some r.1) r.2.1 r.2.2.1]
  let columns := if fs.isEmpty then none else (mmaOperands c w tb).findSome? fun o =>
    s.watchTrap c true false o.2
      ((List.range 256).map fun n => padAcc c none c.leadTeam (operandBase o.1 + n * operandPitch o.1))
  gathers.or columns

/-- The error that an `mma`'s gathers and B reads meet (R463). -/
def State.mmaBad (s : State) (c : Cohort) (w : MmaWord) (ta tb : Ty) (fs : List Fibre) : Option (Nat × Acc) :=
  if s.badWords.isEmpty then none
  else
    let gathers := (mmaRows fs w ta).map fun r => (r.2.2.2, padAcc c (some r.1) r.2.1 r.2.2.1)
    let columns := (mmaOperands c w tb).flatMap fun o =>
      (List.range 256).map fun n => (o.2, padAcc c none c.leadTeam (operandBase o.1 + n * operandPitch o.1))
    (gathers ++ columns).find? fun p => s.accBad p.1 p.2

/-- The 256 columns of a B operand. -/
def State.columns (s : State) (c : Cohort) (x n : Nat) : List (List Byte) :=
  (List.range 256).map fun j => s.padRead (padOf c c.leadTeam) (operandBase x + j * operandPitch x) n

/-- What an `mma` gathers and reads at its issue (R337, R338). -/
def State.mmaKind (s : State) (c : Cohort) (w : MmaWord) (ta tb : Ty) (fs : List Fibre) : MatrixKind :=
  .mma ta tb w.sat w.red
    (fs.map fun f => (f.lane, s.padRead (padOf c f.team) (f.reg w.vx.toNat) 64))
    (if ta == .bs4 then fs.map fun f => (f.lane, s.padRead (padOf c f.team) (f.reg (w.vx.toNat + 1)) 16) else [])
    (s.columns c (c.sreg w.ub.toNat) 64)
    (if tb == .bs4 then s.columns c (c.sreg w.uc.toNat) 16 else [])
    (w.mod.toNat % 8)

/-- The flag predicate of an `mma`, when it has one (R341). -/
def flagOf (w : MmaWord) : Option Nat := if w.sat && w.mod.toNat % 8 != 0 then some (w.mod.toNat % 8) else none

/-- `mma` (R336 to R341). -/
def execMma (w : MmaWord) (s0 : State) : Host.Outcome State Fault Refusal :=
  let ta := (Ty.ofCode w.ta).getD .bf16
  let tb := (Ty.ofCode w.tb).getD .bf16
  let flag := flagOf w
  let tag := flag.map fun _ => w.ltag.toNat
  atTile (.mma w) w s0 [(w.vx.toNat, if ta == .bs4 then 2 else 1)] flag.toList tag fun s c tile =>
    let fs := c.active w.guard
    match (s.mmaTrap c w ta tb fs).or (s.mmaWatch c w ta tb fs) with
    | some t => s.ownTrap (.mma w) c t w.guard
    | none =>
      if fs.isEmpty then s.finish c (wordOf (.mma w))
      else match s.mmaBad c w ta tb fs with
      | some p => (s.enterErrors c p.1 [p.2]).ownTrap (.mma w) c (s.memerr p.2) w.guard
      | none => s.accept c (wordOf (.mma w)) w.th.toNat tile (lanesOf fs) tag
        (fun id d => match flag with
          | some n => waitLanding w.ltag.toNat [] (some n) id d
          | none => d)
        (s.mmaKind c w ta tb fs)

/-! ## Allocation -/

/-- A core's tile set of a tag that has records and no cohort, if there is one (R344): the first in the order of the tiles (log 53). -/
def State.idleTag (s : State) (core : Nat) : Option (BitVec 32) :=
  (((s.core core).tiles.filterMap fun t => t.owner.map Prod.fst).find? fun tag =>
    s.cohorts.all (fun c => c.tag != tag) && s.unplaced.all (fun u => u.cohort.tag != tag) &&
      s.records.any fun r => r.tag == tag && s.tagged r && !r.inTransit)

/-- A tag's tile set written into one of its records, which becomes heavy (R181, R344; log 53). -/
def State.evictTag (s : State) (core : Nat) (tag : BitVec 32) : State := s.saveTag core tag

/-- A free physical tile of a core (R240). -/
def Core.freeTile (k : Core) : Option Nat := (List.range 8).find? fun n => (k.tile n).owner.isNone

/-- A handle given to a tag, on a free tile (R344). -/
def State.giveTile (s : State) (c : Cohort) (word : Word64) (h tile : Nat) : State :=
  let k := s.core c.core
  (s.putCore (k.setTile tile { k.tile tile with owner := some (c.tag, h) })).accept c word h tile [] none noMark .alloc

/-- `tile.alloc` (R344). A tile beyond the function's SAVECAP is not free (R436). -/
def execTileAlloc (w : MmaWord) (s0 : State) : Host.Outcome State Fault Refusal :=
  atStall (.tileAlloc w) s0 Guard.always [] [] fun s c =>
    let h := w.th.toNat
    let fn := fnOf c.ctx
    if (s.tileOf c h).isSome then s.ownTrap (.tileAlloc w) c { code := .tileheld } Guard.always
    else if s.cellarBays fn < s.cellarCharged fn + 128 then s.suspendHere c .charge
    else match (s.core c.core).freeTile.filter fun _ => s.saveVolume c.core + 32768 ≤ s.saveCap fn with
      | some t => s.giveTile c (wordOf (.tileAlloc w)) h t
      | none =>
        match s.idleTag c.core with
        | none => s.forceOut c 3
        | some tag =>
          let s1 := (s.putCohort c).evictTag c.core tag
          s1.giveTile ((s1.cohort? c.uid).getD c) (wordOf (.tileAlloc w)) h (((s1.core c.core).freeTile).getD 0)

/-- `tile.free` (R345, R333). -/
def execTileFree (w : MmaWord) (s0 : State) : Host.Outcome State Fault Refusal :=
  atTile (.tileFree w) w s0 [] [] none fun s c tile =>
    let k := s.core c.core
    ((s.putCore (k.setTile tile { k.tile tile with owner := none })).accept c (wordOf (.tileFree w)) w.th.toNat tile []
      none noMark .free).wakeCharge (fnOf c.ctx)

/-! ## Row words within the unit -/

/-- A word that acts on the rows of the active lanes; with none it takes no effect. -/
def State.rowWord (s : State) (i : Instr) (c : Cohort) (w : MmaWord) (tile : Nat) (kind : List Fibre → MatrixKind) :
    State :=
  let fs := c.active w.guard
  if fs.isEmpty then s.finish c (wordOf i)
  else s.accept c (wordOf i) w.th.toNat tile (lanesOf fs) none noMark (kind fs)

/-- `tile.zero` (R346). -/
def execTileZero (w : MmaWord) (s0 : State) : Host.Outcome State Fault Refusal :=
  atTile (.tileZero w) w s0 [] [] none fun s c tile => s.rowWord (.tileZero w) c w tile fun _ => .zero

/-- `tile.mov` (R346): NOTILE for TH first, then for the source. -/
def execTileMov (w : MmaWord) (s0 : State) : Host.Outcome State Fault Refusal :=
  atTile (.tileMov w) w s0 [] [] none fun s c tile =>
    match s.tileOf c (w.mod.toNat % 8) with
    | none => s.ownTrap (.tileMov w) c { code := .notile } w.guard
    | some src => s.rowWord (.tileMov w) c w tile fun _ => .mov src

/-- The column group of R350. -/
def columnGroup (c : Cohort) (w : MmaWord) : Nat := c.sreg w.ub.toNat % 32

/-- `tile.rd` (R350): its registers land under LTAG when the unit reaches the word. -/
def execTileRd (w : MmaWord) (s0 : State) : Host.Outcome State Fault Refusal :=
  atTile (.tileRd w) w s0 [(w.vx.toNat, 8)] [] (some w.ltag.toNat) fun s c tile =>
    let fs := c.active w.guard
    s.accept c (wordOf (.tileRd w)) w.th.toNat tile (lanesOf fs) (some w.ltag.toNat)
      (fun id d => waitLanding w.ltag.toNat (d.rowsOf fs [(w.vx.toNat, 8)]) none id d)
      (.rd (columnGroup c w) w.vx.toNat)

/-- `tile.wr` (R350): the registers are read at issue. -/
def execTileWr (w : MmaWord) (s0 : State) : Host.Outcome State Fault Refusal :=
  atTile (.tileWr w) w s0 [(w.vx.toNat, 8)] [] none fun s c tile =>
    s.rowWord (.tileWr w) c w tile fun fs => .wr (columnGroup c w) (fs.map fun f => (f.lane, f.words w.vx.toNat 8))

/-! ## Row words to memory (R347) -/

/-- The address of a row. -/
def rowAddress (c : Cohort) (w : MmaWord) (i : Nat) : Nat :=
  (c.sreg w.ub.toNat + i * slice (c.sreg (w.ub.toNat + 1)) 31 0) % 2 ^ 64

/-- The checks 2 and 3 of R347 that name no translation; `minPitch` is the row length for a store. -/
def State.rowTrap (c : Cohort) (w : MmaWord) (minPitch : Nat) (fs : List Fibre) : Option TrapInfo :=
  let p := c.sreg (w.ub.toNat + 1)
  if slice p 63 32 != 0 || p % 64 != 0 || slice p 31 0 < minPitch then some { code := .matopnd }
  else (fs.find? fun f => rowAddress c w f.lane % 64 != 0).map fun f =>
    { code := .misalign, lane := some f.lane, addr := rowAddress c w f.lane }

/-- The accesses of one lane's row, 64 bytes each. -/
def State.rowAccs (s : State) (c : Cohort) (w : MmaWord) (len : Nat) (acc : Access) (f : Fibre) : List Acc :=
  (List.range (len / 64)).map fun j =>
    let va := (rowAddress c w f.lane + 64 * j) % 2 ^ 64
    { lane := some f.lane, team := f.team, va, x := s.xlate c f.team va 64 acc }

/-- What an access of 64 bytes writes to. -/
def State.targetOf (s : State) (c : Cohort) (a : Acc) : Target :=
  match a.x with
  | .mem l cache _ => .mem l a.va (s.isUncached (fnOf c.ctx) cache) (s.pageRef (some c.core) (dieOf c.core) c.ctx a.va 2)
  | .pad p off => .pad p.core p.launch p.team off
  | _ => .mem (.hbm 0) 0 false none

/-- The rows' targets, lane by lane. -/
def State.rowTargets (s : State) (c : Cohort) (accs : List Acc) (fs : List Fibre) : List (Nat × List Target) :=
  fs.map fun f => (f.lane, (accs.filter fun a => a.lane == some f.lane).map (s.targetOf c))

/-- A loaded row's elements (R348). -/
def rowElements (ty : Ty) (bs : List Byte) : List Word32 :=
  if ty == .b32 then (List.range 256).map fun c => BitVec.ofNat 32 (ofBytes ((bs.drop (4 * c)).take 4))
  else (List.range 256).map fun c =>
    BitVec.ofNat 32 (roundTo .f32 (valueOf ty (ofBytes ((bs.drop (2 * c)).take 2))) 0 false 0)

/-- The bytes of a memory type in a row of 256 elements. -/
def rowLength (ty : Ty) : Nat := 256 * (ty.width / 8)

/-- The sectors that the reads before a word's acceptance want: asked for with no miss-status entry, and returned (R335, R347). -/
def State.bufferReads (s : State) (c : Cohort) (n : Nat) (accs : List Acc) : State :=
  let keys := (s.missedSectors c true n accs).filter fun k => !isPeerLoc k
  keys.foldl (fun t k => match k with
    | .hbm m => t.slicesGive c.core (64 * m)
    | _ => t) (s.askKeys c true keys accs)

/-- What those reads leave behind. -/
def State.buffered (s : State) (c : Cohort) (n : Nat) (accs : List Acc) : State :=
  (accs.foldl (fun t a => t.readNow c a n) s).usedPeers c accs

/-- `tile.ld` (R347, R348): its rows are read before it is accepted. -/
def execTileLd (w : MmaWord) (s0 : State) : Host.Outcome State Fault Refusal :=
  let ty := (Ty.ofCode w.ta).getD .b32
  atTile (.tileLd w) w s0 [] [] none fun s c tile =>
    let fs := c.active w.guard
    match State.rowTrap c w 0 fs with
    | some t => s.ownTrap (.tileLd w) c t w.guard
    | none =>
      let accs := fs.flatMap (s.rowAccs c w (rowLength ty) .read)
      s.withAccs (.tileLd w) c w.guard accs true false 64 fun s0 => s0.withLoadBuffer c fun s1 c =>
        match s1.askData c accs (fun _ => .read 64) 64 with
        | some s2 => s2
        | none =>
          match s1.errorAcc 64 accs with
          | some a =>
            (s1.enterErrors c 64 accs).ownTrap (.tileLd w) c (s1.memerr a) w.guard
          | none =>
            let s2 := (s1.settle c false 64 accs).bufferReads c 64 accs
            let rows := fs.map fun f =>
              (f.lane, rowElements ty ((accs.filter fun a => a.lane == some f.lane).flatMap fun a => s2.bytesNow c a 64))
            (s2.buffered c 64 accs).rowWord (.tileLd w) c w tile fun _ => .load rows

/-- `tile.st` (R347, R348). -/
def execTileSt (w : MmaWord) (s0 : State) : Host.Outcome State Fault Refusal :=
  atTile (.tileSt w) w s0 [] [] none fun s c tile =>
    let fs := c.active w.guard
    match State.rowTrap c w 1024 fs with
    | some t => s.ownTrap (.tileSt w) c t w.guard
    | none =>
      let accs := fs.flatMap (s.rowAccs c w 1024 .write)
      s.withAccs (.tileSt w) c w.guard accs false true 64 fun s0 => s0.withStoreBuffer c fun s1 c =>
        (s1.spendOnce c.uid).rowWord (.tileSt w) c w tile fun fs => .store (s1.rowTargets c accs fs)

/-! ## `tile.drain` (R349) -/

/-- The address of a lane's band scale. -/
def bandAddress (c : Cohort) (w : MmaWord) (i : Nat) : Nat :=
  (c.sreg w.uc.toNat + 2 * ((slice (c.sreg (w.uc.toNat + 1)) 31 0 + i) / 64)) % 2 ^ 64

/-- The checks of the band pair. -/
def bandTrap (c : Cohort) (w : MmaWord) : Option TrapInfo :=
  if slice (c.sreg (w.uc.toNat + 1)) 63 32 != 0 then some { code := .matopnd }
  else if c.sreg w.uc.toNat % 2 != 0 then some { code := .misalign, addr := c.sreg w.uc.toNat }
  else none

/-- The band-scale access of a lane. -/
def State.bandAcc (s : State) (c : Cohort) (w : MmaWord) (f : Fibre) : Acc :=
  { lane := some f.lane, team := f.team, va := bandAddress c w f.lane
    x := s.checkAccess c f.team (bandAddress c w f.lane) 2 .read fun _ => none }

/-- Of two traps of a word, that of the lower lane, the first of one lane's (R459). -/
def lowerTrap (a b : Option TrapInfo) : Option TrapInfo :=
  match a, b with
  | some x, some y => if y.lane.getD 32 < x.lane.getD 32 then some y else some x
  | x, y => x.or y

/-- `tile.drain`: the band scales are read before it is accepted. -/
def execTileDrain (w : MmaWord) (s0 : State) : Host.Outcome State Fault Refusal :=
  let ta := (Ty.ofCode w.ta).getD .f32
  let tb := (Ty.ofCode w.tb).getD .f32
  let banded := w.mod.getLsbD 0
  atTile (.tileDrain w) w s0 [] [] none fun s c tile =>
    let fs := c.active w.guard
    let matopnd (t : Option TrapInfo) : Option TrapInfo := t.filter fun x => x.code == .matopnd
    let rowT := State.rowTrap c w (rowLength tb) fs
    let bandT := if banded then bandTrap c w else none
    match (matopnd rowT).or ((matopnd bandT).or (bandT.or rowT)) with
    | some t => s.ownTrap (.tileDrain w) c t w.guard
    | none =>
      let bands (f : Fibre) : List Acc := if banded then [s.bandAcc c w f] else []
      let rows := fs.flatMap (s.rowAccs c w (rowLength tb) .write)
      let scales := fs.flatMap bands
      s.withAccs (.tileDrain w) c w.guard (fs.flatMap fun f => bands f ++ s.rowAccs c w (rowLength tb) .write f)
        false false 64 fun s0 => s0.withStoreBuffer c fun s1 c =>
        match s1.askData c scales (fun _ => .read 2) 2 with
        | some s2 => s2
        | none =>
          match lowerTrap (s1.watchTrap c true false 2 scales) (s1.watchTrap c false true 64 rows) with
          | some t => s1.ownTrap (.tileDrain w) c t w.guard
          | none =>
            match s1.errorAcc 2 scales with
            | some a =>
              (s1.enterErrors c 2 scales).ownTrap (.tileDrain w) c (s1.memerr a) w.guard
            | none =>
              let s2 := (s1.settle c false 2 scales).bufferReads c 2 scales
              let scale (f : Fibre) : Option (BitVec 16) :=
                (bands f).head?.map fun a => BitVec.ofNat 16 (ofBytes (s2.bytesNow c a 2))
              s2.payRelease c fun s3 =>
                ((((s3.buffered c 2 scales).noteAccs c true false scales).noteAccs c false true rows).spendOnce c.uid).rowWord
                  (.tileDrain w) c w tile fun fs =>
                    .drain ta tb w.rm w.sat (w.mod.getLsbD 1) (fs.map fun f => (f.lane, scale f)) (s3.rowTargets c rows fs)

end Sys2Proof.Machine
end

