-- ==== Sys2Proof/Machine/System.lean ====
section
/-! DEFINITION. Special registers and system words: spec/09 R295 to R299, with the mailbox of spec/15 R461, the
numbers of spec/14 R416 and the shootdowns of spec/01 R32 to R35. -/

namespace Sys2Proof.Machine

open Sys2Proof

/-! ## Special registers -/

/-- What a special register of a cohort reads (R264, R416); the registers of a fibre are not here. -/
def State.special (s : State) (c : Cohort) (n : Nat) : Nat :=
  let fn := fnOf c.ctx
  match n with
  | 0x08 => c.launch.toNat
  | 0x09 => s.denseCore fn c.core
  | 0x0A => s.denseQuad fn (c.core / 4)
  | 0x0B => dieOf c.core
  | 0x0C => s.field 0 0xF918 9 0
  | 0x0D => s.clock
  | 0x0E => s.heart
  | 0x0F => Config.queueDepth - c.uq.length
  | 0x10 => Config.queueDepth - c.vq.length
  | _ => fn

/-- What a special register reads in one fibre's lane (R264). -/
def State.specialLane (s : State) (c : Cohort) (f : Fibre) (n : Nat) : Nat :=
  match n with
  | 0x00 => f.fidx.toNat
  | 0x01 => f.lane
  | 0x02 => f.team.toNat
  | 0x03 => f.depth
  | _ => s.special c n

/-- `srd` (R295). -/
def execSrd (w : UrWord) (s : State) : Host.Outcome State Fault Refusal :=
  issueUniform (.srd w) s w.dst.toNat fun c => s.special c w.mod.toNat

/-- `srdv` (R295). -/
def execSrdv (w : VrWord) (s : State) : Host.Outcome State Fault Refusal :=
  issueVector (.srdv w) s (vrOp w [] false 4) false w.dst.toNat fun c f => s.specialLane c f w.mod.toNat

/-- `srd` of MBIN (R295, R461): IFULL and the inbound bits, and IFULL cleared. -/
def execSrdMbin (w : UrWord) (s : State) : Host.Outcome State Fault Refusal :=
  onCohort (.srdMbin w) s fun c =>
    let fn := fnOf c.ctx
    let b := s.debugBase c
    let x := slice (s.reg fn (b + 0x70)) 62 0 + (if bitOf (s.reg fn (b + 0x80)) 0 then 2 ^ 63 else 0)
    let r : InFlightU := { left := 2, reg := w.dst.toNat, val := BitVec.ofNat 64 x }
    (s.regClear fn (b + 0x80) 1).finish ({ c with flightU := c.flightU ++ [r] }.tickU) (wordOf (.srdMbin w))

/-- `swr` (R297, R461). -/
def execSwr (w : UrWord) (s : State) : Host.Outcome State Fault Refusal :=
  onCohort (.swr w) s fun c =>
    let fn := fnOf c.ctx
    let b := s.debugBase c
    let lost := if bitOf (s.reg fn (b + 0x80)) 1 then 8 else 0
    ((s.setReg fn (b + 0x78) (c.usrc w.a)).regSet fn (b + 0x80) (2 + lost)).finish c.tickU (wordOf (.swr w))

/-- An event of `dbg` counted at its core, and posted to the debug trace (R297; log 25). -/
def State.debugEvent (s : State) (c : Cohort) (num : Nat) : State :=
  { s.regInc (fnOf c.ctx) (s.debugBase c + 0x100 + 8 * num) with debugTrace := s.debugTrace ++ [(fnOf c.ctx, c.core, num)] }

/-- `dbg` (R297). -/
def execDbg (w : SynWord) (s : State) : Host.Outcome State Fault Refusal :=
  atStall (.dbg w) s w.guard [] [] fun s c =>
    if (c.active w.guard).isEmpty then s.finish c (wordOf (.dbg w))
    else (s.debugEvent c w.mod.toNat).finish c (wordOf (.dbg w))

/-! ## Shootdowns (R32 to R35) -/

/-- The bytes of a page of SIZE (R32). -/
def shootUnit (v : Nat) : Nat :=
  match slice v 15 14 with
  | 0 => 2 ^ 16
  | 1 => 2 ^ 21
  | _ => 2 ^ 30

/-- Whether a SHOOT value breaks R32: VAPAGE is not aligned to SIZE. -/
def shootBad (v : Nat) : Bool := slice v 15 14 != 3 && slice v 48 16 * 2 ^ 16 % shootUnit v != 0

/-- The addresses that a SHOOT value covers: the first, and the one past the last. -/
def shootRange (v : Nat) : Nat × Nat :=
  if slice v 15 14 == 3 then (0, 2 ^ 49)
  else (slice v 48 16 * 2 ^ 16, slice v 48 16 * 2 ^ 16 + (slice v 13 0 + 1) * shootUnit v)

/-- Every agent of the package that holds translations (R33). -/
def allAgents : List TlbOwner :=
  (List.range 4).map TlbOwner.die ++ (List.range Config.coreCount).map TlbOwner.core

/-- Whether a shootdown of a context is in progress. -/
def State.shootBusy (s : State) (ctx : Nat) : Bool := bitOf (s.ctxReg ctx 0x48) 16

/-- What every agent drops in a range of addresses of a context: TLB entries, cached pointers and fetch lines (R33, R299). -/
def State.shootAll (s : State) (ctx lo hi : Nat) : State :=
  { s with
    tlbs := s.tlbs.filter fun t => !(t.ctx == ctx && t.page < hi && lo < t.page + t.size)
    walkCache := s.walkCache.filter fun w => !(w.ctx == ctx && w.lo < hi && lo < w.lo + w.size)
    fetchLines := s.fetchLines.filter fun l => !(l.ctx == ctx && lo < l.line + 128 && l.line < hi) }

/-- A shootdown started: every agent takes its new epoch and drops what matches (R33). -/
def State.startShootdown (s : State) (ctx v : Nat) : State :=
  { (s.shootAll ctx (shootRange v).1 (shootRange v).2).regSet (fnOf ctx) (ctxOff ctx 0x48) (2 ^ 16) with
    shootdowns := s.shootdowns ++
      [{ ctx, lo := (shootRange v).1, hi := (shootRange v).2, epoch := s.nextUid, waiting := allAgents, since := s.clock, late := false }] }

/-- A word of the uniform side that the physical function alone may use (R267). -/
def onPrivileged (i : Instr) (s : State) (k : Cohort → State) : Host.Outcome State Fault Refusal :=
  onCohort i s fun c => if fnOf c.ctx == 0 then k c else s.takeTrap c (wordOf i) { code := .priv } []

/-- A result of a held uniform word, under R277. -/
def State.uniformDone (s : State) (c : Cohort) (word : Word64) (dst val : Nat) : State :=
  let r : InFlightU := { left := 2, reg := dst, val := BitVec.ofNat 64 val }
  s.finish ({ c with flightU := c.flightU ++ [r] }.tickU) word

/-- `tlbinv` (R298): its hold for the end of the shootdown it starts is `Wait.shootdown`, which SHOOTDOWN_DONE
ends with the result 0. -/
def execTlbinv (w : UrWord) (s : State) : Host.Outcome State Fault Refusal :=
  onPrivileged (.tlbinv w) s fun c =>
    let v := c.usrc w.a
    let ctx := c.usrc w.b
    if 2055 < ctx then s.uniformDone c (wordOf (.tlbinv w)) w.dst.toNat 2
    else if shootBad v then s.uniformDone c (wordOf (.tlbinv w)) w.dst.toNat 1
    else if s.shootBusy ctx then s.putCohort { c with wait := .shootBusy ctx }
    else (s.startShootdown ctx v).putCohort { c with wait := .shootdown ctx w.dst.toNat }

/-- `icinv` (R299). -/
def execIcinv (w : UrWord) (s : State) : Host.Outcome State Fault Refusal :=
  onPrivileged (.icinv w) s fun c =>
    let ctx := c.usrc w.b
    if 2055 < ctx then s.uniformDone c (wordOf (.icinv w)) w.dst.toNat 2
    else
      ({ s with fetchLines := s.fetchLines.filter fun l => l.ctx != ctx }).uniformDone c (wordOf (.icinv w)) w.dst.toNat 0

end Sys2Proof.Machine
end

