-- ==== Sys2Proof/Machine/Exports.lean ====
section
/-! DEFINITION. The target's side of translation for peers: the import table, the answers to translation requests and the leases
that they grant (spec/01 R49 to R52, spec/16 R473). -/

namespace Sys2Proof.Machine

open Sys2Proof

/-- How many entries the import table has, and where it stands (R473). -/
def State.importSize (s : State) : Nat := let q := s.reg 0 0xF908; if q % 16 == 0 then 0 else 2 ^ min 12 (q % 16)
def State.importBase (s : State) : Nat := s.field 0 0xF908 45 12 * 4096

/-- The entries of the import table. -/
def State.importTable (s : State) : List (List Byte) :=
  (List.range s.importSize).map fun i => s.performedRead (.hbm (s.importBase + 16 * i)) 16

/-- Whether an entry of the import table is valid for a package and a function. -/
def importMatch (pkg fn : Nat) (e : List Byte) : Bool :=
  bitOf (ofBytes ((e.drop 6).take 1)) 0 && ofBytes (e.take 2) == pkg && ofBytes ((e.drop 2).take 2) == fn

/-- The first valid entry for a package and a function: its exporting context and whether it grants W (R473). -/
def State.importEntry (s : State) (pkg fn : Nat) : Option (Nat × Bool) :=
  (s.importTable.find? (importMatch pkg fn)).map
    fun e => (ofBytes ((e.drop 4).take 2), bitOf (ofBytes ((e.drop 6).take 1)) 1)

/-- The requests of that search at the slices: the entries up to the one that it takes (R69). -/
def State.importAsk (s : State) (pkg fn : Nat) : State :=
  let t := s.importTable
  s.physAsk 0 s.importBase (16 * min t.length (t.findIdx (importMatch pkg fn) + 1))

/-- What an export address translates to. -/
inductive Exported where
  | frame (pa : Nat) (writable : Bool)
  | absent (f : PageFault)
  | none
  deriving DecidableEq, Repr

/-- The frame of an export address's 64 KiB page in its exporting context (R21 to R31, R49): a heap exports while its triple is valid
(R22). -/
def State.exportXlate (s : State) (ctx va : Nat) : Exported :=
  let page := faultPage va
  if s.isHeap ctx page then
    if s.badHeap ctx then .none else .frame (lowBits 46 ((page : Int) + s.heapOffset ctx)) (bitOf (s.ctxReg ctx 0x20) 1)
  else if ownWindow ≤ va || !bitOf (s.ctxReg ctx 0) 0 then .none
  else match s.walk 0 ctx page with
    | .leaf e level => if entryKind e == 2 then .none else .frame (entryAddr e + page % pageSize level) (bitOf e 1)
    | .absent e level => .absent ⟨0, va, e, level, 1⟩
    | .fault _ _ => .none

/-- Whether a page has a recall out (R52). -/
def State.recalling (s : State) (ctx page : Nat) : Bool :=
  s.leases.any fun l => l.recalled && l.ctx == ctx && l.page == page

/-- A completion sent on behalf of a function: byte 0 of its payload is 1 when it is aborted. -/
def State.sendDone (s : State) (pkg fn txn : Nat) (aborted : Bool) (bs : List Byte) : State :=
  s.sendFlit 4 pkg fn txn 0 ((if aborted then 1#8 else 0#8) :: bs)

/-- The answer to a translation request (R49, R50, R51, R473). While a recall of the page is out, or the page is being moved, the
request is held (R52); while the exporting function is under reset, it is aborted (R444). A lease stands in the table of the granted
frame's home die (log 47). With that table full, or beyond the function's quota of it (R441), the lease lasts zero ticks: its grant
names expiry 0, and the target honours it within the tick (log 30). -/
def State.answerTranslation (s0 : State) (pkg fn addr txn : Nat) : State :=
  match s0.importEntry pkg fn with
  | none => (s0.importAsk pkg fn).sendFlit 9 pkg 0 txn 0 []
  | some (ctx, w) =>
    let page := faultPage addr
    let s := (s0.importAsk pkg fn).walkNote none 0 ctx page
    if s.resets.contains (fnOf ctx) then s.sendDone pkg (fnOf ctx) txn true []
    else if s.recalling ctx page || s.moving.contains (ctx, page) then { s with held := s.held ++ [(pkg, fn, addr, txn)] }
    else match s.exportXlate ctx addr with
      | .none => s.sendFlit 9 pkg (fnOf ctx) txn 0 []
      | .absent f =>
        ({ s with readyWaits := s.readyWaits ++ [(pkg, ctx, addr)] }.parkPage 0 ctx f).sendFlit 7 pkg (fnOf ctx) txn 0 []
      | .frame pa writable =>
        let die := homeDie pa
        let on (l : Lease) : Bool := homeDie l.frame == die && s.podTick < l.expiry
        let full := 8192 ≤ s.leases.countP on || s.quota 8192 (fnOf ctx) ≤ s.leases.countP fun l => on l && fnOf l.ctx == fnOf ctx
        let ticks := if full then 0 else s.field 0 0x1480 15 0
        let id := s.nextLease
        ({ s with
           nextLease := id + 1
           leases := { id, pkg, fn, ctx, page, frame := pa, writable := writable && w
                       expiry := s.podTick + max 1 ticks, recalled := false } :: s.leases }).sendFlit 6 pkg (fnOf ctx) txn id
          (toBytes 8 pa ++ toBytes 1 (if writable && w then 2 else 0) ++
            toBytes 8 (if ticks == 0 then 0 else s.podTick + ticks))

/-- The requests held back are answered, as far as their pages allow by now (R52). -/
def State.answerHeld (s : State) : State :=
  s.held.foldl (fun t h => t.answerTranslation h.1 h.2.1 h.2.2.1 h.2.2.2) { s with held := [] }

/-- The pages of a range that a test picks are where they will stay (R52). -/
def State.settleMoves (s : State) (ctx lo hi : Nat) (p : Nat → Bool) : State :=
  let over_ (m : Nat × Nat) : Bool := m.1 == ctx && lo ≤ m.2 && m.2 < hi && p m.2
  if s.moving.any over_ then { s with moving := s.moving.filter fun m => !over_ m }.answerHeld else s

/-- A shootdown's end ends the move of a page whose leaf is there: its permissions have changed. Of a page that is not there it is a
free value whether that is all, or the page has been taken away to come back (log 30). -/
def State.remapped (s : State) (ctx lo hi : Nat) : State :=
  s.settleMoves ctx lo hi fun page => match s.walk 0 ctx page with
    | .leaf _ _ => true
    | _ => s.free % 2 == 0

/-- A change of a context's HEAPATTR is made at once, for the pages of its heap. -/
def State.heapChanged (s : State) (ctx : Nat) : State := s.settleMoves ctx (s.ctxReg ctx 8) (s.ctxReg ctx 8 + s.ctxReg ctx 0x10) fun _ => true

/-- Requests held back for a page that the import table exports to them no more are answered (R52, R473). -/
def State.settleImports (s : State) : State :=
  if s.held.any fun h => (s.importEntry h.1 h.2.1).isNone then s.answerHeld else s

/-- A lease ended at its target. -/
def State.endLease (s : State) (lease : Nat) : State :=
  { s with leases := s.leases.filter fun l => l.id != lease }.answerHeld

end Sys2Proof.Machine
end

