-- ==== Sys2Proof/Machine/Translation.lean ====
section
/-! DEFINITION. The events of translation within the package: walks (spec/01 R27 to R30), the fault table and its
answers (R38 to R43), shootdowns (R32 to R36), counter windows (R44) and replicas (R46 to R48). -/

namespace Sys2Proof.Machine

open Sys2Proof

/-- TABLE_WALK (R27, R29): a walk that ends at a leaf fills the TLBs of the die and the core; one that ends in a
fault leaves the fault to the access that asked. -/
def execTableWalk (core ctx va : Nat) (_acc : Access) (s : State) : Host.Outcome State Fault Refusal :=
  onSubject s (core < Config.coreCount && isCtx ctx && s.isPaged ctx va && bitOf (s.ctxReg ctx 0) 0)
    (s.tlbFill (some core) (dieOf core) ctx va)

/-- FAULTPTR_TAIL_WRITE (R40): TAIL is stored, and pending descriptors are written while the ring has room. -/
def execFaultptrTailWrite (fn slot : Nat) (val : Word64) (s : State) : Host.Outcome State Fault Refusal :=
  onWrite (isFn fn && isSlot slot) s
    (s.regField fn (ctxOff slot 0x30) 15 0 (val.toNat % 65536)).postFaults

/-! ## PAGEDONE (R41) -/

/-- The pages that a PAGEDONE value names: context, first byte and the byte past the last; `none` where the write is
ignored. A virtual function names one of its own slots. -/
def pageDone (fn v : Nat) : Option (Nat × Nat × Nat) :=
  let size := match slice v 62 61 with | 0 => 2 ^ 16 | 1 => 2 ^ 21 | _ => 2 ^ 30
  let page := slice v 48 16 * 2 ^ 16
  let ctx := slice v 60 49
  if slice v 62 61 == 3 || page % size != 0 || (fn != 0 && 8 ≤ ctx) then none
  else some (if fn == 0 then ctx else 8 * fn + ctx, page, page + size)

/-- Whether a record waits on a page of a context in a range. -/
def Record.onPage (r : Record) (ctx lo hi : Nat) : Bool :=
  (r.place == .waiting || r.place == .faultOverflow) &&
    (match r.event with
     | .page c p => c == ctx && lo ≤ p && p < hi
     | _ => false)

/-- A page of the overflow list takes an entry of its die's table (R39), and its records its wait list. -/
def State.repostFault (s : State) (e : FaultEntry) : State :=
  { s with
    faults := s.faults.filterMap fun d =>
      if d.id == e.id then (if (s.faultEntry? e.die e.ctx e.page).isSome then none else some { e with overflow := false })
      else some d
    records := s.records.map fun r =>
      if r.place == .faultOverflow && r.die == e.die && r.event == .page e.ctx e.page then { r with place := .waiting }
      else r }

/-- The overflow list re-posted in arrival order as entries free (R39, R40). -/
def State.repostFaults (s : State) : State :=
  ((s.faults.filter FaultEntry.overflow).reverse.foldl (fun t e =>
    if t.faultRoom e.die e.ctx || (t.faultEntry? e.die e.ctx e.page).isSome then t.repostFault e else t) s).postFaults

/-- The entries of a range of pages freed. -/
def State.dropFaults (s : State) (ctx lo hi : Nat) : State :=
  { s with faults := s.faults.filter fun e => !(e.ctx == ctx && lo ≤ e.page && e.page < hi) }.repostFaults

/-- A waiter of a page released: an operation to its queue (R43, R384), fibres to a bin. -/
def State.pageWake (s : State) (r : Record) : State :=
  match r.engine with
  | some op => s.engineResume op
  | none => s.release r

/-- READY sent to each package that waits for a page of a context (R51). -/
def State.sendReady (s : State) (ctx lo hi : Nat) : State :=
  let mine (w : Nat × Nat × Nat) : Bool := w.2.1 == ctx && lo ≤ w.2.2 && w.2.2 < hi
  (s.readyWaits.filter mine).foldl (fun t w => t.sendFlit 8 w.1 (fnOf ctx) 0 0 (toBytes 8 (w.2.2 / 2 ^ 16 * 2 ^ 16)))
    { s with readyWaits := s.readyWaits.filter fun w => !mine w }

/-- Every wait list of a range of pages released (R41). -/
def State.releasePages (s : State) (ctx lo hi : Nat) : State :=
  ((((s.records.filter fun r => r.onPage ctx lo hi).foldl State.pageWake s).dropFaults ctx lo hi).sendReady ctx lo hi).settleMoves
    ctx lo hi fun _ => true

/-- A record turned into a trap record, or its launch ended where the trap is fatal (R452, R453). -/
def State.trapRecord (s : State) (r : Record) (t : TrapInfo) : State :=
  match cohortOf [r] true r.tag r.conv r.uid s.clock with
  | none => s
  | some c0 =>
    let c := { c0 with core := r.core, fibres := r.fibres }
    match s.fatalWhy c t with
    | some why => s.fatal c t.code.code why t.addr
    | none =>
      let word := s.wordAt c
      let regs := (c.sregs.take 152) ++ trapFrame c word t r.faultLane (r.resume, if r.reissue then r.block else r.resume) s.heart
      (s.rewrite { r with
        kind := .trap, kept := true, reissue := false, resume := handlerEntry (s.trapEnt r.ctx), block := 0
        vcnt := 8 * r.win, ucnt := 160, sregs := regs, event := .none, watch := none
        place := s.binPlace (fnOf r.ctx) (s.binDie r), die := s.binDie r, arrival := s.clock
        check := .handler
        trap := some { code := BitVec.ofNat 16 t.code.code, lane := r.faultLane, word, addr := BitVec.ofNat 64 t.addr
                       detail := BitVec.ofNat 64 t.detail } }).decide 1 16 r.fibres.length r.flags r.ctx r.core r.tag
        r.launch (handlerEntry (s.trapEnt r.ctx))

/-- A waiter of a failed page (R41): a PAGEFAIL trap record, an operation's FAULT end, or the loss of its status
block (R384). A record whose launch an earlier one ended is gone. -/
def State.pageFail (s : State) (r : Record) : State :=
  match s.record? r.uid with
  | none => s
  | some _ =>
    match r.engine.bind s.engine? with
    | some e => if e.ended.isSome then s.engineLose e else s.engineStop e 3 TrapCode.pagefail.code
    | none => s.trapRecord r { code := .pagefail, addr := r.va }

/-- The leaf that the walk of an address ends at: its level, and its table entry's address and value. -/
def State.leafOf (s : State) (ctx va : Nat) : Option (Nat × Nat × Nat) :=
  match s.walk 0 ctx va, (s.walkReads 0 ctx va).getLast? with
  | .leaf e level, some pa => some (level, pa, e)
  | _, _ => none

/-- Collapsed pages whose collapse-write descriptor a PAGEDONE answers are remembered (R47): RDUP with W 1. -/
def State.noteCollapse (s : State) (ctx lo hi : Nat) : State :=
  (s.faults.filter fun e => e.ctx == ctx && e.code == 2 && lo ≤ e.page && e.page < hi).foldl (fun t e =>
    match t.leafOf ctx e.va with
    | some (level, _, leaf) =>
      let page := e.va / pageSize level * pageSize level
      if bitOf leaf 61 && bitOf leaf 1 && !t.collapsed.contains (ctx, page) then
        { t with collapsed := (ctx, page) :: t.collapsed, rdupWrites := (ctx, page) :: t.rdupWrites }
      else t
    | none => t) s

/-- PAGEDONE_RELEASE (R41): PAGEDONE with FAIL 0. -/
def execPagedoneRelease (fn : Nat) (val : Word64) (s : State) : Host.Outcome State Fault Refusal :=
  onWrite (isFn fn && !bitOf val.toNat 63) s
    (match pageDone fn val.toNat with
     | some (ctx, lo, hi) => (s.noteCollapse ctx lo hi).releasePages ctx lo hi
     | none => s)

/-- PAGEDONE_FAIL (R41): PAGEDONE with FAIL 1. The entries are freed first: the end of an operation whose status block lies in the same
page waits on an entry of its own (R384). -/
def execPagedoneFail (fn : Nat) (val : Word64) (s : State) : Host.Outcome State Fault Refusal :=
  onWrite (isFn fn && bitOf val.toNat 63) s
    (match pageDone fn val.toNat with
     | some (ctx, lo, hi) =>
       ((s.records.filter fun r => r.onPage ctx lo hi).foldl State.pageFail (s.dropFaults ctx lo hi)).settleMoves ctx lo hi fun _ => true
     | none => s)

/-! ## Shootdowns (R32 to R36) -/

/-- SHOOTDOWN (R32): a write of SHOOT starts a shootdown, or sets CTXSTAT.SDREJ. -/
def execShootdown (fn slot : Nat) (val : Word64) (s : State) : Host.Outcome State Fault Refusal :=
  let ctx := 8 * fn + slot
  onWrite (isFn fn && isSlot slot) s
    (if s.shootBusy ctx || shootBad val.toNat then s.regSet fn (ctxOff ctx 0x58) 4
     else s.startShootdown ctx val.toNat)

/-- Whether an agent still has accesses on their way to a peer under the old epoch (R33). -/
def State.agentBusy (s : State) (o : TlbOwner) (epoch : Nat) : Bool :=
  s.peerReqs.any fun r => r.isOpen && r.kind != .translate && r.txn < epoch &&
    (match o with
     | .core n => r.core == some n
     | .die d => r.core.isNone && r.die == d)

/-- The accesses of an agent under the old epoch complete (R33): a core's tile words, reads and writes, and the chunks that a die's
engines have begun. -/
def State.agentDrain (s : State) (o : TlbOwner) (epoch : Nat) : State :=
  match o with
  | .core n =>
    let s1 := State.matrixWhile n (fun m => m.kind.writes && m.id < epoch) (s.core n).matrixQueue.length s
    ((s1.gather n fun r => r.landing < epoch).acceptCore n).drainStores fun p => p.core == n && p.id < epoch
  | .die d => s.finishChunks fun e => e.die == d

/-- SHOOTDOWN_ACK (R33): an agent whose accesses under the old epoch have completed. -/
def execShootdownAck (ctx : Nat) (agent : TlbOwner) (s : State) : Host.Outcome State Fault Refusal :=
  onFound s ((s.shootdowns.find? fun d => d.ctx == ctx).filter fun d => d.waiting.contains agent && !s.agentBusy agent d.epoch)
    fun d =>
      let s1 := s.agentDrain agent d.epoch
      { s1 with shootdowns := s1.shootdowns.map fun x =>
          if x.ctx == ctx then { x with waiting := x.waiting.filter (· != agent) } else x }

/-- The cohorts that a shootdown's end lets go on: `tlbinv` answers 0 (R298), and one that waited to start its own
issues again. -/
def State.shootWake (s : State) (ctx : Nat) : State :=
  s.cohorts.foldl (fun t c => match c.wait with
    | .shootdown x dst =>
      if x == ctx then t.uniformDone { c with wait := .none, readyTime := s.clock } (t.wordAt c) dst 0 else t
    | .shootBusy x => if x == ctx then t.putCohort { c with wait := .none, readyTime := s.clock } else t
    | _ => t) s

/-- SHOOTDOWN_DONE (R35): every agent has acknowledged, so that every access under a removed translation has performed. -/
def execShootdownDone (ctx : Nat) (s : State) : Host.Outcome State Fault Refusal :=
  onFound s (s.shootdowns.find? fun d => d.ctx == ctx && d.waiting == []) fun d =>
    let s1 : State := { s with shootdowns := s.shootdowns.filter fun x => x.ctx != ctx }
    let off := ctxOff ctx 0x48
    ((((s1.regField (fnOf ctx) off 15 0 ((s1.field (fnOf ctx) off 15 0 + 1) % 65536))).regClear (fnOf ctx) off
      (2 ^ 16)).shootWake ctx).remapped ctx d.lo d.hi

/-- SHOOTDOWN_TIMEOUT (R36): 50 µs after the write TIMEOUT is set, and each agent that has not acknowledged is reported as a hung unit
(R470). -/
def execShootdownTimeout (ctx : Nat) (s : State) : Host.Outcome State Fault Refusal :=
  onFound s (s.shootdowns.find? fun d => d.ctx == ctx && !d.late && s.due (d.since + 50000)) fun d =>
    let s1 : State := { s.atCycle (d.since + 50000) with
      shootdowns := s.shootdowns.map fun (x : Shootdown) => if x.ctx == ctx then { x with late := true } else x }
    d.waiting.foldl (fun t _ => t.signal 0 67) (s1.regSet (fnOf ctx) (ctxOff ctx 0x48) (2 ^ 17))

/-- W of a collapsed page set back to 0 (R47), if its leaf is still one of a read-duplicated page: the entry is written, and a shootdown of its page started (R32); not while another
is in progress. -/
def State.uncollapse (s : State) (ctx page : Nat) : State :=
  if s.shootBusy ctx then s
  else
    let s1 := { s with collapsed := s.collapsed.erase (ctx, page) }
    match s.leafOf ctx page with
    | none => s1
    | some (level, pa, e) =>
      if !bitOf e 61 then s1 else (s1.agentWrite 0 pa (toBytes 8 (e - e / 2 % 2 * 2)) false).startShootdown ctx (page + (3 - level) * 2 ^ 14)

/-- MIGRATION_WINDOW (R44): at a window boundary the counters of a context clear, MIGCTL is in force as it now stands (R23), and a
collapsed page that nothing wrote in the window has W 0 again (R47). -/
def execMigrationWindow (ctx : Nat) (s : State) : Host.Outcome State Fault Refusal :=
  onSubject s (isCtx ctx && s.due (s.nextWindow ctx))
    (let quiet := s.collapsed.filter fun p => p.1 == ctx && !s.rdupWrites.contains p
     let s1 : State :=
       { s.atCycle (s.nextWindow ctx) with
         accessCounts := s.accessCounts.filter fun a => a.ctx != ctx
         hinted := s.hinted.filter fun h => h.2.1 != ctx
         rdupWrites := s.rdupWrites.filter fun p => p.1 != ctx
         migWindows := (ctx, s.ctxReg ctx 0x38, s.nextWindow ctx) :: s.migWindows.filter fun w => w.1 != ctx }
     quiet.foldl (fun t p => t.uncollapse ctx p.2) s1)

/-! ## Replicas (R46, R48) -/

/-- REPKEY, REPFRAME and REPCTL of a die. -/
def repOff (die o : Nat) : Nat := 0x3100 + die * 0x20 + o

/-- The size, context and first byte of the page that REPKEY names. -/
def State.repKey (s : State) (die : Nat) : Nat × Nat × Nat :=
  let k := s.reg 0 (repOff die 0)
  ((match slice k 62 61 with | 0 => 2 ^ 16 | 1 => 2 ^ 21 | _ => 2 ^ 30), slice k 60 49, slice k 48 16 * 2 ^ 16)

/-- RESULT of a command, with BUSY set. -/
def State.repResult (s : State) (die code : Nat) : State :=
  (s.regField 0 (repOff die 0x10) 15 12 code).regSet 0 (repOff die 0x10) 0x100

/-- Whether REPKEY answers BADARG: a reserved SIZE. -/
def State.repBad (s : State) (die : Nat) : Bool := s.field 0 (repOff die 0) 62 61 == 3

/-- A command of REPCTL: ignored while BUSY is 1. -/
def execReplica (die : Nat) (s : State) (k : State) : Host.Outcome State Fault Refusal :=
  onWrite (isDie die) s (if bitOf (s.reg 0 (repOff die 0x10)) 8 then s else k)

/-- Whether a replica's frame breaks R48: BADFRAME. -/
def State.repFrameBad (s : State) (die fn size : Nat) : Bool :=
  let f := s.reg 0 (repOff die 8)
  !isFn fn || f % size != 0 || !Range.inHbm (f, size) || homeDie f != die || homeDie (f + size - 1) != die ||
    !s.assigned fn (f, size) || s.isProtected (f, size)

/-- REPLICA_INSERT (R48). A VAPAGE that is not aligned to SIZE answers BADARG (log 29); of FULL, DUP and BADFRAME the first that holds
(log 52). -/
def execReplicaInsert (die : Nat) (s : State) : Host.Outcome State Fault Refusal :=
  let (size, ctx, page) := s.repKey die
  execReplica die s
    (if s.repBad die || page % size != 0 then s.repResult die 5
     else if isCtx ctx && s.quota 4096 (fnOf ctx) ≤ s.replicas.countP (fun r => r.die == die && fnOf r.ctx == fnOf ctx) then s.repResult die 1
     else if s.replicas.any fun r => r.die == die && r.ctx == ctx && r.page < page + size && page < r.page + r.size then
       s.repResult die 2
     else if s.repFrameBad die (fnOf ctx) size then s.repResult die 4
     else { s with replicas := { die, ctx, page, size, frame := s.reg 0 (repOff die 8) } :: s.replicas }.repResult die 0)

/-- REPLICA_REMOVE (R48). -/
def execReplicaRemove (die : Nat) (s : State) : Host.Outcome State Fault Refusal :=
  let (_, ctx, page) := s.repKey die
  let mine (r : Replica) : Bool := r.die == die && r.ctx == ctx && r.page == page
  execReplica die s
    (if s.repBad die then s.repResult die 5
     else if s.replicas.any mine then { s with replicas := s.replicas.filter fun r => !mine r }.repResult die 0
     else s.repResult die 3)

/-- REPLICA_REMOVE_ALL (R48): VAPAGE is ignored. -/
def execReplicaRemoveAll (die : Nat) (s : State) : Host.Outcome State Fault Refusal :=
  let (_, ctx, _) := s.repKey die
  execReplica die s
    (if s.repBad die then s.repResult die 5
     else { s with replicas := s.replicas.filter fun r => !(r.die == die && r.ctx == ctx) }.repResult die 0)

/-- REPLICA_RESERVED_OP (R48). -/
def execReplicaReservedOp (die : Nat) (s : State) : Host.Outcome State Fault Refusal :=
  execReplica die s (s.repResult die 5)

/-- REPLICA_COMMAND_DONE (R48). -/
def execReplicaCommandDone (die : Nat) (s : State) : Host.Outcome State Fault Refusal :=
  onSubject s (isDie die && bitOf (s.reg 0 (repOff die 0x10)) 8) (s.regClear 0 (repOff die 0x10) 0x100)

end Sys2Proof.Machine
end

