-- ==== Sys2Proof/Machine/PeerEvents.lean ====
section
/-! DEFINITION. The events of the scale-out fabric: leases and translation for peers (spec/01 R49 to R53, spec/16
R473), peer requests and completions (R471, R472) and the route table (R472). The payloads of flits are laid out by
the model (log 28). -/

namespace Sys2Proof.Machine

open Sys2Proof

/-- TRANSLATION_REQUEST (R49, R473). -/
def execTranslationRequest (pkg fn addr txn : Nat) (s : State) : Host.Outcome State Fault Refusal :=
  .next (s.answerTranslation pkg fn addr txn)

/-! ## The requester (R49 to R51) -/

/-- The request of a transaction. -/
def State.peerReq? (s : State) (txn : Nat) : Option PeerReq := s.peerReqs.find? fun r => r.txn == txn && r.reply.isNone && !r.aborted
/-- A request gone. -/
def State.dropReq (s : State) (txn : Nat) : State := { s with peerReqs := s.peerReqs.filter fun r => r.txn != txn }

/-- Whether a cohort still needs what it asked. -/
def State.askerLives (s : State) (uid : Nat) : Bool :=
  s.cohorts.any (fun c => c.uid == uid) || s.engines.any fun e => e.id == uid

/-- Whether a transaction is still to be answered. -/
def State.txnOpen (s : State) (txn : Nat) : Bool := s.peerReqs.any fun r => r.txn == txn && r.isOpen

/-- The waits for peers that are over: what they wait for has been answered, and requests may be sent (R49, R472). -/
def State.peerWake (s : State) : State :=
  { s with cohorts := s.cohorts.map fun c => match c.wait with
      | .peer txns =>
        if txns.any s.txnOpen || s.routeOpenNow then c else { c with wait := .none, readyTime := s.clock }
      | _ => c }

/-- The acknowledgements of recalls whose requests have all completed (R52). A function under reset never acknowledges (R53, R444). -/
def State.ackRecalls (s : State) : State :=
  let busy (x : Nat × Nat × Nat) : Bool :=
    s.peerReqs.any fun r => r.pkg == x.1 && r.lease == x.2.1 && r.kind != .translate && r.isOpen
  let live := s.recalls.filter fun x => !s.resets.contains x.2.2
  (live.filter fun x => !busy x).foldl (fun t x => t.sendFlit 11 x.1 x.2.2 0 x.2.1 []) { s with recalls := live.filter busy }

/-- The resident cohort that holds the lane of a pending write's agent now. -/
def State.writerOf (s : State) (p : PendingStore) : Option Cohort :=
  s.cohorts.find? fun c => c.placed == p.placed && (p.lane.elim true fun l => c.fibres.any fun f => f.lane == l)

/-- A posted write that has been aborted performs nowhere: its cohort takes PEERABORT at its next boundary, if it still runs
(log 10). -/
def State.settleAbort (s : State) (r : PeerReq) : State :=
  match s.pendingStores.find? fun p => p.txn == some r.txn with
  | none => s
  | some p =>
    let s1 := { s with pendingStores := s.pendingStores.filter fun q => q.txn != some r.txn }
    match s.writerOf p with
    | some c => { s1 with peerReqs := s1.peerReqs.map fun (q : PeerReq) => if q.txn == r.txn then { q with uid := c.uid } else q }
    | none => s1.dropReq r.txn
def State.settleAborts (s : State) : State :=
  (s.peerReqs.filter fun r => r.aborted && r.lane == postedLane).foldl State.settleAbort s

/-- What follows an answer: aborted writes are over, waiters go on, and recalls that it held up are acknowledged. -/
def State.answered (s : State) : State := s.settleAborts.peerWake.ackRecalls

/-- A die's remote translation cache with an entry put in: beyond the function's quota, its own least recently used
goes (R441). -/
def State.rtcPut (s0 : State) (x : RtcEntry) : State :=
  let same (r : RtcEntry) : Bool := r.names x.die x.ctx x.pkg x.page
  let s := if s0.rtc.any fun r => r.bad && same r then s0.parityError none x.die else s0
  let rest := s.rtc.filter fun r => !same r
  let mine (r : RtcEntry) : Bool := r.die == x.die && fnOf r.ctx == fnOf x.ctx
  let kept := (rest.filter mine).take (s.quota 4096 (fnOf x.ctx) - 1)
  { s with rtc := x :: (kept ++ rest.filter fun r => !mine r) }

/-- Whether a request is a write that a NACK sent back, of a page. -/
def PeerReq.strayed (r : PeerReq) (ctx pkg page : Nat) : Bool :=
  r.lane == postedLane && r.lease == 0 && r.isOpen && r.ctx == ctx && r.pkg == pkg && r.page == page

/-- The translation that writes sent back need (R51). -/
def State.askAgain (s : State) (r : PeerReq) : State :=
  s.askAs r.uid r.core r.die r.ctx ⟨r.pkg, r.page, r.page, r.va, 2, resendLane, 0, .translate⟩

/-- Writes that a NACK sent back leave again under a new frame (R51): all of a page, or, under a lease of zero ticks, the first of them,
and the others ask for themselves (R50). -/
def State.resendPosted (s : State) (q : PeerReq) (frame lease : Nat) (once : Bool) : State :=
  let strays := s.peerReqs.filter fun r => r.strayed q.ctx q.pkg q.page
  let hit := if once then strays.take 1 else strays
  let mine (r : PeerReq) : Bool := hit.any fun h => h.txn == r.txn
  let moved (r : PeerReq) : PeerReq := { r with addr := frame + r.addr % 2 ^ 16, lease, sent := false }
  let s1 : State :=
    { s with
      peerReqs := s.peerReqs.map fun r => if mine r then moved r else r
      pendingStores := s.pendingStores.map fun (p : PendingStore) => match hit.find? fun r => p.txn == some r.txn with
        | some r => { p with loc := .peer r.pkg (moved r).addr }
        | none => p }
  let s2 := if s.routeOpenNow then s1 else hit.foldl (fun t r => t.dispatchReq (moved r)) s1
  (strays.filter fun r => !mine r).foldl State.askAgain s2

/-- A lease granted to a function, as what a recall of it will find; those that have run out are forgotten (R52, R53). -/
def State.noteLease (s : State) (pkg lease fn expiry : Nat) : State :=
  { s with heldLeases := (pkg, lease, fn, expiry) :: s.heldLeases.filter fun x => s.podTick ≤ x.2.2.2 + 1 }

/-- LEASE_GRANT (R50): the entry is made. A lease that no later access could use (R51), one of zero ticks among them, serves the one
access that asked, and nothing is cached. -/
def execLeaseGrant (txn frame : Nat) (writable : Bool) (lease expiry : Nat) (s : State) :
    Host.Outcome State Fault Refusal :=
  onFound s ((s.peerReq? txn).filter fun r => r.kind == .translate) fun r =>
    let x : RtcEntry := { die := r.die, ctx := r.ctx, pkg := r.pkg, page := faultPage r.page, frame, writable, lease, expiry
                          granted := s.podTick }
    let s0 := (s.dropReq txn).noteLease r.pkg lease r.fn expiry
    let once := expiry ≤ s.podTick + 1
    let s1 := if !once then s0.rtcPut x
      else if r.lane < postedLane then { s0 with oneTime := s0.oneTime ++ [(r.uid, x)] } else s0
    (if r.lane == resendLane then s1.resendPosted r frame lease once else s1).answered

/-- Requests that a test picks end aborted. -/
def State.abortWhere (s : State) (p : PeerReq → Bool) : State :=
  { s with peerReqs := s.peerReqs.map fun q => if p q then { q with aborted := true } else q }

/-- A request that a NACK answers (R51, R473): a translation ends in PEERABORT, but a renewal is only dropped; an access drops its
entry, and translates again as its word or chunk executes again; a write that nothing waits for asks for its page again. -/
def State.nackReq (s : State) (r : PeerReq) : State :=
  let hit (x : RtcEntry) : Bool := x.die == r.die && x.ctx == r.ctx && x.pkg == r.pkg && x.lease == r.lease
  match r.kind with
  | .translate =>
    if r.lane == renewLane then s.dropReq r.txn
    else if r.lane == resendLane then (s.dropReq r.txn).abortWhere fun q => q.strayed r.ctx r.pkg r.page
    else s.abortWhere fun q => q.txn == r.txn
  | _ =>
    let s1 := { s with rtc := s.rtc.filter fun x => !hit x, oneTime := s.oneTime.filter fun x => !(x.1 == r.uid && hit x.2) }
    if r.lane == postedLane then
      { s1 with peerReqs := s1.peerReqs.map fun (q : PeerReq) =>
          if q.txn == r.txn then { q with lease := 0, sent := false } else q }.askAgain r
    else s1.dropReq r.txn

/-- NACK (R51, R182): of a peer request, or of a record sent, which its victim reclaims into its bin with its original
arrival cycle; one that comes after the reclaim changes nothing. -/
def execNack (txn : Nat) (s : State) : Host.Outcome State Fault Refusal :=
  match s.peerReq? txn with
  | some r => .next (s.nackReq r).answered
  | none =>
    match (s.record? txn).filter fun r => match r.place with
      | .sent _ _ _ => true
      | _ => false with
    | some r => .next (s.putRecord { r with place := s.binPlace (fnOf r.ctx) r.die })
    | none => match s.unplaced.find? fun u => u.cohort.uid == txn && u.handoff.isSome with
      | some u => .next { s with unplaced := s.unplaced.map fun v => if v.cohort.uid == txn then { u with handoff := none } else v }
      | none => onFound s (s.reclaimed.find? fun x => x.1 == txn) fun x => { s with reclaimed := s.reclaimed.erase x }

/-- The level of the leaf that an address is translated by. -/
def State.leafLevel (s : State) (ctx va : Nat) : Nat := (s.leafOf ctx va).elim 3 Prod.fst

/-- A requester of a page that is not ready suspends under class 4 (R37, R51). -/
def State.notReady (s : State) (r : PeerReq) : State :=
  let f : PageFault := ⟨4, r.va, 0, s.leafLevel r.ctx r.va, r.acc⟩
  match s.cohort? r.uid with
  | some c => s.faultHere { c with wait := .none } (s.wordAt c) f [r.lane]
  | none => match s.engine? r.uid with
    | some e => s.engineBlocked e (.suspend f)
    | none => s

/-- NOTREADY (R37, R51): the requester suspends, its page remembered for READY. A renewal is only dropped, and writes that a NACK
sent back wait for READY. -/
def execNotready (txn : Nat) (s : State) : Host.Outcome State Fault Refusal :=
  onFound s ((s.peerReq? txn).filter fun r => r.kind == .translate) fun r =>
    let s1 := s.dropReq txn
    let s2 := if postedLane ≤ r.lane then s1 else s1.notReady r
    { s2 with faults := s2.faults.map fun (e : FaultEntry) =>
        if e.die == r.die && e.ctx == r.ctx && e.page == faultPage r.va && e.code == 4 then
          { e with peer := some (r.pkg, faultPage r.page) } else e }.answered

/-- READY (R51): the wait lists of a peer page are released, and writes that a NACK sent back ask for it again. -/
def execReady (pkg page : Nat) (s : State) : Host.Outcome State Fault Refusal :=
  let s1 := (s.faults.filter fun e => e.peer == some (pkg, faultPage page)).foldl
    (fun t e => t.releasePages e.ctx e.page (e.page + 2 ^ 16)) s
  .next ((s1.peerReqs.filter fun r => r.strayed r.ctx pkg (faultPage page)).foldl State.askAgain s1).answered

/-! ## Recalls (R52, R53) -/

/-- The function that holds a lease of another package here, its cache entry evicted or renewed though it may be. -/
def State.holderFn (s : State) (pkg lease : Nat) : Nat :=
  ((s.heldLeases.find? fun x => x.1 == pkg && x.2.1 == lease).map fun x => x.2.2.1).getD 0

/-- RECALL (R52). Of a lease that this package granted, the recall goes out to its holder, and its page begins to move; of another
package's, the holder drops its entry at once, and acknowledges when its requests under the lease have completed. A holder that has
been reset never acknowledges (R53, R444). -/
def execRecall (pkg lease : Nat) (s : State) : Host.Outcome State Fault Refusal :=
  if pkg == s.pkgNum then
    onFound s (s.leases.find? fun l => l.id == lease) fun l =>
      { s with leases := s.leases.map fun (x : Lease) => if x.id == lease then { x with recalled := true } else x
               moving := if s.moving.contains (l.ctx, l.page) then s.moving else (l.ctx, l.page) :: s.moving }.sendFlit 10 l.pkg
        (fnOf l.ctx) 0 lease []
  else
    let fn := s.holderFn pkg lease
    let mine (x : RtcEntry) : Bool := x.pkg == pkg && x.lease == lease
    if s.lostLeases.contains (pkg, lease) || s.resets.contains fn then
      .next { s with lostLeases := s.lostLeases.erase (pkg, lease), rtc := s.rtc.filter fun x => !mine x }
    else
      .next ({ s with heldLeases := s.heldLeases.filter fun x => !(x.1 == pkg && x.2.1 == lease)
                      rtc := s.rtc.filter fun x => !mine x
                      oneTime := s.oneTime.filter fun x => !mine x.2
                      recalls := s.recalls ++ [(pkg, lease, fn)] }.ackRecalls)

/-- RECALL_ACK (R52): a holder has acknowledged its recall. -/
def execRecallAck (pkg lease : Nat) (s : State) : Host.Outcome State Fault Refusal :=
  onFound s (s.leases.find? fun l => l.id == lease && l.pkg == pkg && l.recalled) fun _ => s.endLease lease

/-- LEASE_EXPIRY (R52): one pod tick beyond its expiry, the target waits for no acknowledgement. -/
def execLeaseExpiry (lease : Nat) (s : State) : Host.Outcome State Fault Refusal :=
  onFound s (s.leases.find? fun l => l.id == lease && l.expiry + 1 ≤ s.podTick) fun _ => s.endLease lease

/-! ## Requests of peers (R51, R471, R444) -/

/-- The lease that a peer's request runs under. -/
def State.leaseFor (s : State) (pkg fn lease addr n : Nat) (write : Bool) : Option Lease :=
  s.leases.find? fun l => l.id == lease && l.pkg == pkg && l.fn == fn && !l.recalled && s.podTick < l.expiry &&
    l.frame ≤ addr && addr + n ≤ l.frame + 2 ^ 16 && (!write || l.writable)

/-- A peer's request served under its lease: NACK without one, and an aborted completion where the exporting function is
under reset (R444); else what `k` does and answers, or an aborted completion where it does nothing (log 30). -/
def State.servePeer (s : State) (pkg fn lease addr n txn : Nat) (write : Bool) (k : Nat → Loc → State × Option (List Byte)) : State :=
  match s.leaseFor pkg fn lease addr n write with
  | none => s.sendFlit 9 pkg 0 txn lease []
  | some l =>
    let f := fnOf l.ctx
    if s.resets.contains f then s.sendDone pkg f txn true []
    else match k f (s.locOf addr) with
      | (t, some bs) => t.sendDone pkg f txn false bs
      | (t, none) => t.sendDone pkg f txn true []

/-- A read of some bytes for a peer: an uncorrectable error there is entered and posted, and nothing is read (R464, R466). -/
def State.peerSees (s : State) (fn : Nat) (l : Loc) (n : Nat) (k : State × Option (List Byte)) : State × Option (List Byte) :=
  match s.badIn l n with
  | some b => (s.enterError b fn, none)
  | none => k

/-- What a peer reads and writes here, through the slices (R69, R125); a write heals or is dropped sector by sector (R463, R464). -/
def State.peerGet (s : State) (fn : Nat) (l : Loc) (n : Nat) : State × Option (List Byte) :=
  s.peerSees fn l n (match l with
   | .hbm pa => s.askRange fn pa n .load (s.isUncached fn 0)
   | _ => s, some (s.performedRead l n))
def State.peerPut (s : State) (fn : Nat) (l : Loc) (bs : List Byte) : State :=
  match l with
  | .hbm pa => s.agentWrite fn pa bs (s.isUncached fn 0)
  | _ => s.perform l bs

/-- PEER_READ (R471). -/
def execPeerRead (pkg fn lease addr bytes txn : Nat) (s : State) : Host.Outcome State Fault Refusal :=
  .next (s.servePeer pkg fn lease addr bytes txn false fun f l => s.peerGet f l bytes)

/-- PEER_WRITE (R471). -/
def execPeerWrite (pkg fn lease addr : Nat) (data : List Byte) (txn : Nat) (s : State) :
    Host.Outcome State Fault Refusal :=
  .next (s.servePeer pkg fn lease addr data.length txn true fun f l => (s.peerPut f l data, some []))

/-- Whether a location stands in a format view, where no atomic operation may go (R110). -/
def State.onView (s : State) (l : Loc) : Bool :=
  match l with
  | .hbm pa => (s.viewOf pa).isSome
  | _ => false

/-- PEER_ATOMIC (R471, R362): one that addresses a format view ends aborted (R110; log 30). -/
def execPeerAtomic (pkg fn lease addr : Nat) (op : AtomicOp) (wide : Bool) (operand compare : Word64) (txn : Nat)
    (s : State) : Host.Outcome State Fault Refusal :=
  let n := if wide then 8 else 4
  .next (s.servePeer pkg fn lease addr n txn true fun f l =>
    if s.onView l then (s, none)
    else s.peerSees f l n
      (let old := s.performedRead l n
       (s.peerPut f l ((WriteOp.atomic op wide operand compare).apply old), some old)))

/-- A write of a core to a peer has performed there: it leaves pending(c) (R122). -/
def State.posted (s : State) (txn : Nat) : State :=
  { s.dropReq txn with pendingStores := s.pendingStores.filter fun p => p.txn != some txn }

/-- COMPLETION (R471): its data reach the access; an aborted one is PEERABORT there (R444), of a translation too. -/
def execCompletion (txn : Nat) (data : List Byte) (aborted : Bool) (s : State) : Host.Outcome State Fault Refusal :=
  onFound s ((s.peerReq? txn).filter fun r => r.kind != .translate || aborted) fun r =>
    (if r.kind == .translate then s.nackReq r
     else if r.lane == postedLane then (if aborted then s.abortWhere fun q => q.txn == txn else s.posted txn)
     else if !s.askerLives r.uid then s.dropReq txn
     else if aborted then s.abortWhere fun q => q.txn == txn
     else { s with peerReqs := s.peerReqs.map fun (q : PeerReq) => if q.txn == txn then { q with reply := some data } else q }).answered

/-- PEER_REQUEST_TIMEOUT (R472): PEERABORT at the requesting access; a renewal is only dropped. A request that waits for the route
table counts no time. -/
def execPeerRequestTimeout (txn : Nat) (s : State) : Host.Outcome State Fault Refusal :=
  onFound s ((s.peerReq? txn).filter PeerReq.sent) fun r =>
    (if r.lane == renewLane then s.dropReq txn
     else if r.lane == resendLane then (s.dropReq txn).abortWhere fun q => q.strayed r.ctx r.pkg r.page
     else s.abortWhere fun q => q.txn == txn).answered

/-! ## Links (R462, R471, R470) -/

/-- A port's number. -/
def isPort (port : Nat) : Bool := port < 20

/-- LINK_CREDIT (R471). The flit that the port was retrying has arrived (log 12). -/
def execLinkCredit (port flits : Nat) (s : State) : Host.Outcome State Fault Refusal :=
  onSubject s (isPort port)
    { s with retries := s.retries.filter (fun p => p.1 != port), ports := (port, ((s.ports.find? fun p => p.1 == port).elim 0 Prod.snd) + flits) ::
        s.ports.filter fun p => p.1 != port }

/-- The retries of the flit at a port. -/
def State.retriesOf (s : State) (port : Nat) : Nat := (s.retries.find? fun p => p.1 == port).elim 0 Prod.snd

/-- A lane of a link runs no more (R465). -/
def State.retireLane (s : State) (link lane : Nat) : State := { s with retiredLanes := s.retiredLanes ++ [(link, lane)] }

/-- FLIT_RETRY (R462, R466, R471): the flit goes again, and the error is posted as corrected; after 16 retries of one flit the lane is
marked lasting. Which of the link's four lanes failed is a free value (log 12). -/
def execFlitRetry (port : Nat) (s : State) : Host.Outcome State Fault Refusal :=
  let lane := s.free % 4
  let n := s.retriesOf port + 1
  let t := { s with freeCtr := s.freeCtr + 1, retries := (port, n % 16) :: s.retries.filter fun p => p.1 != port }.postError 8 0 0 0 port lane
    0 0xFFFF
  onSubject s (isPort port) (if n == 16 then (t.postError 8 0 2 0 port lane 0 0xFFFF).retireLane port lane else t)

/-- FABRIC_PORT_STATE_CHANGE (R470). -/
def execFabricPortStateChange (port : Nat) (up : Bool) (s : State) : Host.Outcome State Fault Refusal :=
  let rest := s.portsDown.filter (· != port)
  onSubject s (isPort port) ({ s with portsDown := if up then rest else port :: rest }.signal 0 68)

/-! ## The route table (R472) -/

/-- Whether no request of the package's own is outstanding: those that wait at their issuers are not. -/
def State.fabricQuiet (s : State) : Bool := s.peerReqs.all fun r => !(r.isOpen && r.sent)

/-- ROUTE_OPEN (R472). -/
def execRouteOpen (s : State) : Host.Outcome State Fault Refusal := onWrite true s (s.regSet 0 0xF900 1)

/-- ROUTE_READY (R472). -/
def execRouteReady (s : State) : Host.Outcome State Fault Refusal :=
  onSubject s (s.routeOpenNow && s.fabricQuiet) (s.regSet 0 0xF900 2)

/-- PODRT_WRITE (R472): accepted only while READY is 1. -/
def execPodrtWrite (pkg : Nat) (val : Word64) (s : State) : Host.Outcome State Fault Refusal :=
  onWrite (pkg < 1024) s
    (if bitOf (s.reg 0 0xF900) 1 then s.setReg 0 (0x60000 + pkg * 8) (val.toNat % 2 ^ 20) else s.regSet 0 0xF900 4)

/-- ROUTE_CLOSE (R472): READY clears, and waiting requests take ports under the new masks; writes that a NACK sent back ask for their
page (R51). -/
def execRouteClose (s : State) : Host.Outcome State Fault Refusal :=
  let s1 := s.regClear 0 0xF900 3
  onWrite true s ((s.peerReqs.filter fun r => r.isOpen && !r.sent).foldl (fun t r =>
    if r.lane == postedLane && r.lease == 0 then t.askAgain r else t.dispatchReq r) s1).answered

end Sys2Proof.Machine
end

