-- ==== Sys2Proof/Machine/Records.lean ====
section
/-! DEFINITION. The events of the Cellar: bins and the Cobbler's drains (spec/05 R177 to R181, spec/13 R407), the
handoff of a record between dies and packages (R182, R183), malformed records (R169) and Cellar exhaustion
(spec/06 R212). -/

namespace Sys2Proof.Machine

open Sys2Proof

/-- The formed cohort of an identifier that waits for its core. -/
def State.unplaced? (s : State) (uid : Nat) : Option Unplaced := s.unplaced.find? fun u => u.cohort.uid == uid

/-- A waiting cohort put back under its identifier. -/
def State.putUnplaced (s : State) (u : Unplaced) : State :=
  { s with unplaced := s.unplaced.map fun v => if v.cohort.uid == u.cohort.uid then u else v }

/-! ## The records of a key (R177, R179, R180, R407) -/

/-- A quad whose new owner may be placed on: it is not being handed over (R437, R438). -/
def State.quadOpen (s : State) (q : Nat) : Bool :=
  !(s.drain.elim false fun d => d.quads.contains q) && !s.lateQuads.any fun p => p.1 == q

/-- Whether a function holds cores in the entry in force, on which it may be placed (R407, R437). -/
def State.holdsCores (s : State) (fn : Nat) : Bool :=
  (List.range 128).any fun q => s.quadOwner q == fn && s.backed q && s.quadOpen q

/-- The records of a record's bin, in arrival order. -/
def State.binMates (s : State) (r : Record) : List Record :=
  byArrival (s.records.filter fun q => q.place == .bin && q.die == r.die && q.binIndex == r.binIndex)

/-- The fibres that records hold. -/
def fibreCount (rs : List Record) : Nat := (rs.map fun r => r.fibres.length).sum

/-- The PRIO of a record's launch; a spawn record's is that of its parent's (R407). -/
def State.prioOf (s : State) (r : Record) : Nat := ((s.launches.find? fun l => l.num == r.launch && !l.complete).map Launch.prio).getD 0

/-- The place in the order of R407 of a bin, by its oldest record and its class: the class, its own key, and then the arrival or the
bin. -/
def State.drainOrder (s : State) (r : Record) (k : Nat) : Nat × Nat × Nat :=
  let mates := s.binMates r
  match k with
  | 1 => (1, r.arrival, r.uid)
  | 2 => (2, 8 - (mates.map s.prioOf).foldl max 0, r.arrival)
  | _ => (3, 33 - min 32 ((mates.map fun q => fibreCount (mates.filter (sameKey q))).foldl max 0), r.binIndex)

/-- Whether one place in the order comes before another. -/
def before (a b : Nat × Nat × Nat) : Bool :=
  a.1 < b.1 || (a.1 == b.1 && (a.2.1 < b.2.1 || (a.2.1 == b.2.1 && a.2.2 < b.2.2)))

/-- The class of a bin's drain, by its oldest record (R179, R407); `none` while the bin is not eligible. -/
def State.drainClass (s : State) (r : Record) : Option Nat :=
  let mates := s.binMates r
  if r.place != .bin || (mates.head?.map Record.uid) != some r.uid || !s.holdsCores (fnOf r.ctx) then none
  else if r.arrival + 2048 ≤ s.clock then some 1
  else if mates.any fun q => 32 ≤ fibreCount (mates.filter (sameKey q)) then some 2
  else if s.unplaced.all fun u => u.die != r.die then some 3
  else none

/-- BIN_AGE_EXPIRY (R179): the age makes the bin eligible, which `drainClass` reads; nothing else changes. -/
def execBinAgeExpiry (rec : Nat) (s : State) : Host.Outcome State Fault Refusal :=
  onFound s ((s.record? rec).filter fun r => r.place == .bin && r.arrival + 2048 ≤ s.clock) fun _ => s

/-- The tile set of a tag that a record carries, which is not in transit (R181). -/
def State.savedTiles (s : State) (tag : BitVec 32) : List (Nat × List (List Word32)) :=
  ((s.records.find? fun r => r.tag == tag && r.heavy && !r.inTransit).map Record.tileData).getD []

/-- The saved tile set of a tag leaves the record that carries it (R181). -/
def State.takeTiles (s : State) (tag : BitVec 32) : List (Nat × List (List Word32)) × State :=
  let carries (r : Record) : Bool := r.tag == tag && r.heavy && !r.inTransit
  (s.savedTiles tag,
   { s with records := s.records.map fun r => if carries r then { r with heavy := false, tileData := [], stored := false } else r })

/-- The largest of conversion counts (R95). -/
def largestConv (rs : List Record) : BitVec 32 :=
  rs.foldl (fun m r => if m.toNat < r.conv.toNat then r.conv else m) 0#32

/-! ## Where fibres may run (R144, R188, R195) -/

/-- Whether a record's team lets it be on a core (R188, R195): a member core, or, with no footprint, any core of the
instance; a spawned fibre is bound to none. -/
def State.teamOn (s : State) (launch team : BitVec 32) (core : Nat) : Bool :=
  match s.team? launch team with
  | some t =>
    if t.foot != 0 then t.members.contains core
    else match t.span with
      | 1 => core / 4 == t.inst
      | 3 => true
      | _ => dieOf core == t.inst
  | none => true

/-- The scope of a fibre's join counter, with the core that wrote the fibre's record, which lies in its instance (R144). -/
def joinLimit (r : Record) (f : Fibre) : Option (Nat × Nat) := f.join.map fun j => (j.scope, r.core)

/-- Whether a core lies in the instance of a scope that holds another core. -/
def limitOn (l : Nat × Nat) (core : Nat) : Bool :=
  match l.1 with
  | 1 => core == l.2
  | 2 => core / 4 == l.2 / 4
  | 3 => dieOf core == dieOf l.2
  | _ => true

/-- Whether a record stays in this package, since a join counter's scope does. -/
def Record.stays (r : Record) : Bool := r.fibres.any fun f => f.join.elim false fun j => j.scope ≤ 4

/-- Whether a fibre of a record may be on a core. -/
def State.mayRun (s : State) (x : Record × Fibre) (core : Nat) : Bool :=
  s.teamOn x.1.launch x.2.team core && (joinLimit x.1 x.2).elim true fun l => limitOn l core

/-- The fibres of some records, in the lanes that they take in a cohort of them all (R180). -/
def drainLanes (rs : List Record) : List (Record × Fibre) :=
  let fs := rs.flatMap fun r => r.fibres.map fun f => (r, f)
  if rs.all Record.kept then fs else fs.zipIdx.map fun (x, i) => (x.1, { x.2 with lane := i })

/-- Fibres divided by the core on which they may run (R195): one group where one core will do. -/
def divideBy (ok : α → Nat → Bool) : Nat → List α → List (List α)
  | n + 1, x :: xs =>
    if (List.range Config.coreCount).any fun k => (x :: xs).all fun y => ok y k then [x :: xs]
    else match (List.range Config.coreCount).find? (ok x) with
      | some k => (x :: xs).filter (fun y => ok y k) :: divideBy ok n ((x :: xs).filter fun y => !ok y k)
      | none => [x] :: divideBy ok n xs
  | _, _ => []

/-- What a group takes of records: their fibres in it, in their lanes. -/
def restrict (rs : List Record) (group : List (Record × Fibre)) : List Record :=
  (rs.map fun r => { r with fibres := (group.filter fun x => x.1.uid == r.uid).map Prod.snd }).filter fun r => !r.fibres.isEmpty

/-! ## Drains (R172, R180, R181, R195) -/

/-- The cohort that records of one key form (R172, R180, R181), or one part of it when it is divided (R195): it waits for its core. -/
def State.formCohort (order : Nat × Nat × Nat) (s : State) (rs : List Record) (part : Bool) (cause : Nat) : State :=
  match rs with
  | [] => s
  | r :: _ =>
    let own := r.kept && !part
    let s1 := rs.foldl (fun t q => t.dropRecord q.uid) s
    let ((tag, conv), s2) := if own then ((r.tag, largestConv rs), s1)
      else (((s1.newTag r.die).1, 0#32), (s1.newTag r.die).2)
    let (uid, s3) := s2.fresh
    let (tiles, s4) := match rs.find? Record.heavy with
      | some q => (q.tileData, s3)
      | none => if own then s3.takeTiles tag else ([], s3)
    match cohortOf rs (r.kept || part) tag conv uid s.clock with
    | none => s
    | some c =>
      { s4 with unplaced := s4.unplaced ++
          [{ cohort := c, cause := if tiles.isEmpty then cause else 4, since := s.clock, die := r.die
             writer := some r.core, order
             semCore := rs.findSome? Record.semCore, bound := none, keptFlag := r.kept
             limits := (rs.flatMap fun q => q.fibres.filterMap (joinLimit q)).eraseDups
             heavy := !tiles.isEmpty, overdue := false, fromTeam := false, tileData := tiles }] }

/-- COBBLER_DRAIN (R180): from the key of the bin's oldest record, whose images are read. -/
def execCobblerDrain (rec : Nat) (s : State) : Host.Outcome State Fault Refusal :=
  onFound s ((s.record? rec).bind fun r => (s.drainClass r).map fun k => (r, k)) fun p =>
    let rs := takeRecords 32 ((s.binMates p.1).filter (sameKey p.1))
    let s1 := rs.foldl (fun t r => t.getImage (fnOf r.ctx) false r.uid) s
    match rs.find? fun r => r.bad || (s.badImage r).isSome with
    | some b => s1.discardBad b
    | none =>
      let order := s.drainOrder p.1 p.2
      match divideBy s.mayRun 32 (drainLanes rs) with
      | [_] => s1.formCohort order rs false p.2
      | parts => parts.foldl (fun t g => t.formCohort order (restrict rs g) true p.2) s1

/-! ## Record images read (R159 to R169) -/

/-- An unsigned field of an image. -/
def imageField (bs : List Byte) (i n : Nat) : Nat := ofBytes ((bs.drop i).take n)

/-- KIND (R160). -/
def recordKind (n : Nat) : RecordKind :=
  match n with
  | 1 => .spawn | 2 => .trap | 3 => .engine | 4 => .forced | _ => .continuation

/-- Where the parts of an image begin, by its header: the trap or engine block, the extension entries, the uniform
block and the vector blocks (R159). -/
structure ImageParts where
  block : Nat
  exts : Nat
  unis : Nat
  queues : Nat
  vecs : Nat
  deriving DecidableEq, Repr

def imageParts (bs : List Byte) : ImageParts :=
  let n := imageField bs 2 1
  let block := 64 + 4 * n
  let exts := block + (match imageField bs 0 1 with | 2 => 32 | 3 => 128 | _ => 0)
  let unis := exts + 16 * n
  let queues := unis + 8 * imageField bs 8 1
  { block, exts, unis, queues, vecs := queues + 8 * imageField bs 10 1 + 128 * imageField bs 11 1 }

/-- The vector blocks of an image, and the bytes after them. -/
def imageVecs (bs : List Byte) : Option (List (List Word32) × List Byte) :=
  vecDecodeAll (imageField bs 2 1) (imageField bs 7 1) (bs.drop (imageParts bs).vecs)

/-- Whether a byte of an image stands where R160, R163 or R164 wants zero. -/
def reservedSet (bs : List Byte) : Bool :=
  let p := imageParts bs
  let n := imageField bs 2 1
  8 ≤ imageField bs 1 1 || 2 ^ 12 ≤ imageField bs 4 2 || imageField bs 15 1 != 0 || 2 ^ 9 ≤ imageField bs 16 2 ||
    slice (imageField bs 24 8) 63 49 != 0 || slice (imageField bs 24 8) 2 0 != 0 || imageField bs 52 4 != 0 ||
    slice (imageField bs 56 8) 63 49 != 0 || slice (imageField bs 56 8) 2 0 != 0 ||
    ((List.range n).any fun j => slice (imageField bs (64 + 4 * j) 4) 3 0 != 0 ||
      slice (imageField bs (p.exts + 16 * j) 8) 57 46 != 0 || slice (imageField bs (p.exts + 16 * j + 8) 8) 63 49 != 0 ||
      slice (imageField bs (p.exts + 16 * j + 8) 8) 2 0 == 7) ||
    (imageField bs 0 1 == 2 && imageField bs (p.block + 3) 5 != 0)

/-- Whether an image is malformed (R169). -/
def malformed (bs : List Byte) : Bool :=
  let f := imageField bs
  let kind := f 0 1
  let n := f 2 1
  let reissue := bitOf (f 1 1) 2
  let p := imageParts bs
  4 < kind || 32 < n || (n == 0) != (kind == 3) || (kind == 3 && (f 7 1 != 0 || f 8 1 != 0 || f 10 2 != 0)) || 32 < f 3 1 ||
    ((List.range n).any fun j => 32 < slice (f (p.exts + 16 * j) 8) 63 58) || f 6 1 == 0 || 16 < f 6 1 || 8 * f 6 1 < f 7 1 || 160 < f 8 1 ||
    16 < f 10 1 || 16 < f 11 1 || reservedSet bs || (reissue != (f 56 8 != 0)) ||
    (match imageVecs bs with
     | none => true
     | some (_, rest) =>
       let plain := bs.length - rest.length
       let padded := (plain + 63) / 64 * 64
       let total := padded + (if bitOf (f 1 1) 1 then 32768 * popCount 8 (f 9 1) else 0)
       f 18 2 != total / 64 || bs.length != total ||
         ((bs.drop plain).take (padded - plain)).any fun b => b != 0#8)

/-- Whether a fibre of an image has an Attic chain, which stays with the package that wrote it (log 30). -/
def imageFrames (bs : List Byte) : Bool :=
  (List.range (imageField bs 2 1)).any fun j => bitOf (imageField bs ((imageParts bs).exts + 16 * j) 8) 5

/-- A fibre of an image with no Attic chain. -/
def imageFibre (bs : List Byte) (vecs : List (List Word32)) (j : Nat) : Fibre :=
  let p := imageParts bs
  let idn := imageField bs (64 + 4 * j) 4
  let attic := imageField bs (p.exts + 16 * j) 8
  let join := imageField bs (p.exts + 16 * j + 8) 8
  { lane := slice idn 8 4, fidx := BitVec.ofNat 16 (slice idn 31 16), team := BitVec.ofNat 32 (imageField bs 36 4)
    depth := slice attic 63 58, preds := BitVec.ofNat 8 (slice idn 15 9 * 2), base := 0
    regs := vecs.map fun x => x.getD j 0#32, frames := []
    join := if slice join 2 0 == 0 then none else some { addr := slice join 48 3 * 8, scope := slice join 2 0 } }

/-- The tile blocks of an image, with their handles (R168). -/
def imageTiles (bs : List Byte) : List (Nat × List (List Word32)) :=
  if !bitOf (imageField bs 1 1) 1 then []
  else
    let hs := (List.range 8).filter fun h => bitOf (imageField bs 9 1) h
    let start := bs.length - 32768 * hs.length
    hs.zipIdx.map fun (h, i) => (h, (List.range 32).map fun row => (List.range 256).map fun col =>
      word32At bs (start + 32768 * i + 1024 * row + 4 * col))

/-- The record of an image, under an identifier, PENDING for a package and a die. An image does not say what stack allowance its
launch has, nor whether the launch is pinned: a stack of no extra rows, and pinned where KEPT is set (log 30). Nor has it a place for SKIP
and STEP, or for a STEP that is due (R454): they are clear on arrival (DESIGN CHOICE, log 53). -/
def imageRecord (bs : List Byte) (uid pkg die clock : Nat) : Record :=
  let f := imageField bs
  let p := imageParts bs
  let vecs := ((imageVecs bs).map Prod.fst).getD []
  let flag (i : Nat) : Bool := bitOf (f 1 1) i
  { uid, kind := recordKind (f 0 1), kept := flag 0, heavy := flag 1, reissue := flag 2, ctx := f 4 2, win := f 6 1
    stack := 0, pinned := flag 0, vcnt := f 7 1, ucnt := f 8 1, tiles := BitVec.ofNat 8 (f 9 1)
    tmap := (List.range 8).map fun h => slice (f 12 3) (3 * h + 2) (3 * h), homecore := f 16 2
    tag := BitVec.ofNat 32 (f 20 4), resume := f 24 8, launch := BitVec.ofNat 32 (f 32 4), team := BitVec.ofNat 32 (f 36 4)
    event := .none, conv := BitVec.ofNat 32 (f 48 4), block := f 56 8
    fibres := (List.range (f 2 1)).map (imageFibre bs vecs)
    trap := if f 0 1 == 2 then some
        { code := BitVec.ofNat 16 (f p.block 2), lane := f (p.block + 2) 1, word := BitVec.ofNat 64 (f (p.block + 8) 8)
          addr := BitVec.ofNat 64 (f (p.block + 16) 8), detail := BitVec.ofNat 64 (f (p.block + 24) 8) }
      else none
    va := 0, faultLane := 0, engine := none
    sregs := (List.range (f 8 1)).map fun i => BitVec.ofNat 64 (f (p.unis + 8 * i) 8)
    uq := (List.range (f 10 1)).map fun i => BitVec.ofNat 64 (f (p.queues + 8 * i) 8)
    vq := (List.range (f 11 1)).map fun i => (List.range 32).map fun l =>
      BitVec.ofNat 32 (f (p.queues + 8 * f 10 1 + 128 * i + 4 * l) 4)
    tileData := imageTiles bs, pd := 0, watch := none, semCore := none, skip := false, stepping := false
    stepDue := none, check := if f 0 1 == 2 then .handler else if flag 2 && f 24 8 == f 56 8 then .passed else .plain
    place := .pending pkg die, die, core := Config.coreCount, arrival := clock, bad := malformed bs
    stored := false }

/-! ## The handoff (R182, R183) -/

/-- What stands in a handoff: its place, its identifier, its function and the die that it is counted to. -/
structure Transit where
  place : Place
  uid : Nat
  fn : Nat
  die : Nat
  deriving DecidableEq, Repr

/-- The records and formed cohorts (R405) that are SENT or PENDING. -/
def State.transits (s : State) : List Transit :=
  ((s.records.filter Record.inTransit).map fun r => { place := r.place, uid := r.uid, fn := fnOf r.ctx, die := r.die }) ++
    s.unplaced.filterMap fun u => u.handoff.map fun p => { place := p, uid := u.cohort.uid, fn := fnOf u.cohort.ctx, die := u.die }

/-- Whether a tag's tile set stands on a core, or is carried by a record or a waiting cohort (R181). -/
def State.ownsTiles (s : State) (tag : BitVec 32) : Bool :=
  (s.cores.any fun k => !(k.tilesOf tag).isEmpty) || (s.records.any fun r => r.tag == tag && r.heavy) ||
    s.unplaced.any fun u => u.cohort.tag == tag && !u.tileData.isEmpty

/-- Whether a heavy record is all that its tag has here: other records of a tag keep to its tile set (R181, R354). -/
def State.lone (s : State) (r : Record) : Bool :=
  !r.heavy || ((s.cohorts ++ s.unplaced.map Unplaced.cohort).all (fun c => c.tag != r.tag) &&
    s.records.all fun q => q.uid == r.uid || q.tag != r.tag || !s.tagged q)

/-- Whether a record may be sent to a package: not outside the scope of a join counter (R144), nor away from its team (R188, R217), from
its tag's tile set (R354), or from its Attic frames (log 30). -/
def State.maySend (s : State) (r : Record) (pkg die : Nat) : Bool :=
  if pkg == s.pkgNum then die != r.die && r.fibres.all fun f => (joinLimit r f).elim true fun l => l.1 == 0 || 4 ≤ l.1
  else !r.stays && (r.fibres.all fun f => f.frames.isEmpty && f.team == noTeam) && (r.heavy || !s.ownsTiles r.tag) && s.lone r

/-- Whether the records of a function stay where they are: it is leaving quads (R434 step 1), or under reset (R443). -/
def State.sendsStopped (s : State) (fn : Nat) : Bool := (s.drain.elim false fun d => d.outgoing.contains fn) || s.resets.contains fn

/-- RECORD_SEND (R182 step 1): within the package the reference goes, and to another package the image, which is read from its
bays. -/
def execRecordSend (rec pkg die : Nat) (s : State) : Host.Outcome State Fault Refusal :=
  onFound s ((s.record? rec).filter fun r => r.place == .bin && isDie die && pkg < 1024 && s.maySend r pkg die && !s.sendsStopped (fnOf r.ctx) &&
      !s.reclaimed.any fun x => x.1 == rec)
    fun r =>
      let s1 := s.putRecord { r with place := .sent pkg die s.clock }
      if pkg == s.pkgNum then s1
      else (s1.getImage (fnOf r.ctx) false r.uid).sendFlit 12 pkg (fnOf r.ctx) r.uid 0 (s.recordImage r)

/-- RECORD_DATA (R182 step 2): the thief holds the record as PENDING and answers ACK, or answers NACK when it lacks
the charge or the tenant is under reset (R183). Within the package the reference alone moves. -/
def execRecordData (pkg txn die : Nat) (image : List Byte) (s : State) : Host.Outcome State Fault Refusal :=
  if pkg == s.pkgNum then
    onFound s ((s.record? txn).filter fun r => match r.place with
      | .sent p d _ => p == pkg && d == die
      | _ => false) fun _ => s
  else
    let r := imageRecord image s.nextUid pkg die s.clock
    let fn := fnOf r.ctx
    onSubject s (isDie die && pkg < 1024 && 64 ≤ image.length)
      (if !isFn fn || r.kind == .engine || imageFrames image || s.resets.contains fn || s.cellarBays fn < s.cellarCharged fn + r.charge then
         s.sendFlit 9 pkg fn txn 0 []
       else { s with nextUid := s.nextUid + 1, records := s.records ++ [r] }.sendFlit 13 pkg fn txn 0 [])

/-- Ownership passes to the thief (R182 step 3): the victim's COMMIT, counted as a migration (R412, R414). -/
def State.passOn (s : State) (r : Record) (pkg die : Nat) : State :=
  let s1 := s.decide 3 (if pkg == s.pkgNum then 1 else 2) r.fibres.length r.flags r.ctx r.core r.tag r.launch r.resume
  if pkg == s.pkgNum then s1.putRecord { r with place := .pending pkg r.die, die }
  else ((s1.dropRecord r.uid).sendFlit 14 pkg (fnOf r.ctx) r.uid 0 []).wakeCharge (fnOf r.ctx)

/-- The same for a formed cohort that goes to another die (R405). -/
def State.passCohort (s : State) (u : Unplaced) (die : Nat) : State :=
  let c := u.cohort
  (s.decide 3 1 c.fibres.length ((if u.keptFlag then 1 else 0) + if u.heavy then 2 else 0) c.ctx (u.writer.getD Config.coreCount) c.tag c.launch
    c.pc).putUnplaced { u with handoff := some (.pending s.pkgNum u.die), die }

/-- The victim reclaims a record that it has sent, with its original arrival cycle. -/
def State.reclaim (s : State) (r : Record) : State := s.putRecord { r with place := s.binPlace (fnOf r.ctx) r.die }

/-- A late ACK is answered with REFUSE: within the package, the thief has only to drop its reference. -/
def State.refuseLate (s : State) (pkg rec : Nat) : State := if pkg == s.pkgNum then s else s.sendFlit 15 pkg 0 rec 0 []

/-- ACK (R182 step 3). One that comes after the reclaim, or more than 2,000 cycles after the send, is answered with REFUSE. -/
def execAck (rec : Nat) (s : State) : Host.Outcome State Fault Refusal :=
  match (s.record? rec).map Record.place, s.record? rec with
  | some (.sent pkg die since), some r =>
    .next (if s.clock ≤ since + 2000 then s.passOn r pkg die else (s.reclaim r).refuseLate pkg rec)
  | _, _ => match (s.unplaced? rec).bind Unplaced.handoff, s.unplaced? rec with
    | some (.sent _ die since), some u =>
      .next (if s.clock ≤ since + 2000 then s.passCohort u die else s.putUnplaced { u with handoff := none })
    | _, _ => onFound s (s.reclaimed.find? fun x => x.1 == rec) fun x =>
        { s with reclaimed := s.reclaimed.erase x }.refuseLate x.2.1 rec

/-- HANDOFF_TIMEOUT (R182 step 3): 2,000 cycles from the send the victim reclaims the record, with its original
arrival cycle. -/
def execHandoffTimeout (rec : Nat) (s : State) : Host.Outcome State Fault Refusal :=
  match (s.record? rec).map Record.place, s.record? rec with
  | some (.sent pkg die since), some r =>
    onSubject s (since + 2000 ≤ s.clock)
      { s.reclaim r with reclaimed := s.reclaimed ++ [(rec, pkg, die)] }
  | _, _ => match (s.unplaced? rec).bind Unplaced.handoff, s.unplaced? rec with
    | some (.sent pkg die since), some u =>
      onSubject s (since + 2000 ≤ s.clock)
        { s.putUnplaced { u with handoff := none } with reclaimed := s.reclaimed ++ [(rec, pkg, die)] }
    | _, _ => .next s

/-- The tag that a record from another package takes (R162): the one that the thief's die maps its own to while that is live, else a
new one. -/
def State.mapTag (s : State) (pkg die : Nat) (tag : BitVec 32) : BitVec 32 × State :=
  let live := s.liveTags
  let kept := s.tagMap.filter fun m => live.contains m.2.2.2
  match kept.find? fun m => m.1 == die && m.2.1 == pkg && m.2.2.1 == tag with
  | some m => (m.2.2.2, { s with tagMap := kept })
  | none =>
    let (t, s1) := s.newTag die
    (t, { s1 with tagMap := kept ++ [(die, pkg, tag, t)] })

/-- HOMECORE and TMAP of a record under its tag: those of the tag's tile set, where one stands on a core (R162, R181). -/
def State.homed (s : State) (r : Record) : Record :=
  match s.cores.find? fun k => !(k.tilesOf r.tag).isEmpty with
  | some k => { r with homecore := k.id, tmap := handleMap (k.tilesOf r.tag), stored := false }
  | none => { r with homecore := 0, tmap := handleMap [], stored := false }

/-- COMMIT (R182 step 4): the PENDING record enters a bin of the thief's die, under a mapped tag when it came from
another package. It arrives there in this cycle (log 30). A formed cohort waits for a core of that die (R405). -/
def execCommit (rec : Nat) (s : State) : Host.Outcome State Fault Refusal :=
  match (s.record? rec).map Record.place, s.record? rec with
  | some (.pending pkg _), some r =>
    if pkg == s.pkgNum then .next (s.putRecord { r with place := s.binPlace (fnOf r.ctx) r.die, arrival := s.clock })
    else
      let (tag, s1) := s.mapTag pkg r.die r.tag
      .next (s1.putRecord { s1.homed { r with tag } with place := s1.binPlace (fnOf r.ctx) r.die, arrival := s1.clock })
  | _, _ => match (s.unplaced? rec).bind Unplaced.handoff, s.unplaced? rec with
    | some (.pending _ _), some u => .next (s.putUnplaced { u with handoff := none })
    | _, _ => .next s

/-- REFUSE (R182 step 4): the PENDING copy and its charge go. -/
def execRefuse (rec : Nat) (s : State) : Host.Outcome State Fault Refusal :=
  match (s.record? rec).map Record.place, s.record? rec with
  | some (.pending pkg _), some r =>
    onSubject s (pkg != s.pkgNum) ((s.dropRecord rec).wakeCharge (fnOf r.ctx))
  | _, _ => .next s

/-! ## Cellar exhaustion (R212) -/

/-- The oldest record of an exhausted function: every holder of its charge is a record that waits for charge. -/
def State.exhausted (s : State) (fn : Nat) : Option Record :=
  let rs := s.fnRecords fn
  if (s.fnCohorts fn).isEmpty && (s.engines.all fun e => e.fn != fn) && rs.all (fun r => r.event == .charge) then
    (byArrival rs).head?
  else none

/-- CELLAR_EXHAUSTION (R212): the record becomes a trap record with the fatal trap CELLARFULL, whose launch ends. -/
def execCellarExhaustion (fn : Nat) (s : State) : Host.Outcome State Fault Refusal :=
  onFound s (s.exhausted fn) fun r => s.fatalRecord r .cellarfull r.resume

end Sys2Proof.Machine
end

