-- ==== Sys2Proof/Machine/Distributor.lean ====
section
/-! DEFINITION. The distributor's placements (spec/13 R404 to R408, spec/06 R195, R211), forced suspensions
(R205, spec/07 R236), issue slots (R409) and what a team move needs (R189). -/

namespace Sys2Proof.Machine

open Sys2Proof

/-! ## What a core has free (R54, R56, R218, R436) -/

/-- A distributor load is in progress (R394). -/
def State.distBusy (s : State) : Bool := bitOf (s.reg 0 0x3018) 0

/-- Whether a core can take work of a function at all; a function under reset is not placed (R443). -/
def State.coreOpen (s : State) (fn core : Nat) : Bool :=
  s.ownsCore fn core && !s.resets.contains fn && s.quadOpen (core / 4) && !(s.core core).markedOut && !s.gatedDies.contains (dieOf core)

/-! ## Placement (R404, R405) -/

/-- Whether the word that a waiting cohort executes again is `tile.alloc` (R344). -/
def State.allocates (s : State) (c : Cohort) : Bool :=
  c.pc != c.block && (match s.fetch c c.pc with
    | .ok w => (match rawDecode w with | some (.tileAlloc _) => true | _ => false)
    | _ => false)

/-- The core that holds a tag's tile set, if one does. -/
def State.setCore (s : State) (tag : BitVec 32) : Option Core := s.cores.find? fun k => !(k.tilesOf tag).isEmpty

/-- The tiles that a placement must find room for on a core: those of a set that is not there yet, and the one that its first word
allocates (R181, R344). -/
def State.tilesNeeded (s : State) (u : Unplaced) (core : Nat) : Nat :=
  (if ((s.core core).tilesOf u.cohort.tag).isEmpty then
    u.tileData.length + ((s.setCore u.cohort.tag).elim [] fun k => k.tilesOf u.cohort.tag).length +
      if u.heavy then 0 else (s.savedTiles u.cohort.tag).length
  else 0) + if s.allocates { u.cohort with core } then 1 else 0

/-- The tiles of a core that are free, or whose tag has no cohort and a record that they can be read out into (R181, R210). -/
def State.tileRoom (s : State) (core : Nat) (tag : BitVec 32) : Nat :=
  let k := s.core core
  (List.range 8).countP fun n => match (k.tile n).owner with
    | none => true
    | some o =>
      let rs := s.records.filter fun r => r.tag == o.1 && s.tagged r
      o.1 != tag && s.cohorts.all (fun c => c.tag != o.1) && s.unplaced.all (fun u => u.cohort.tag != o.1) &&
        (rs.isEmpty || rs.any fun r => !r.inTransit)

/-- Whether a tag's tile set can come to a core with a waiting cohort: it is there, or no cohort works on it where it is, no other waiting
cohort has it, and no record in transit (R181). -/
def State.setComes (s : State) (u : Unplaced) (core : Nat) : Bool :=
  let tag := u.cohort.tag
  ((s.setCore tag).elim true fun k => k.id == core || s.cohorts.all fun c => c.tag != tag) &&
    (s.unplaced.all fun v => v.cohort.uid == u.cohort.uid || v.cohort.tag != tag || v.tileData.isEmpty) &&
    s.records.all fun r => !(r.tag == tag && r.heavy && s.tagged r && r.inTransit)

/-- Whether R211 or R408 has cleared a core for other work than a waiting cohort. -/
def State.reserved (s : State) (u : Unplaced) (core : Nat) : Bool :=
  u.bound != some core && (s.unplaced.any (fun v => v.bound == some core) || s.queueViews.any fun v => v.bound == some core)

/-- Whether a waiting cohort fits a core (R144, R404, R436). -/
def State.fits (s : State) (u : Unplaced) (core : Nat) : Bool :=
  let c := u.cohort
  let tiles := s.tilesNeeded u core
  s.coreOpen (fnOf c.ctx) core && (s.freeSlot core).isSome && c.rowAlloc ≤ s.freeRows core && !s.reserved u core &&
    (u.limits.all fun l => limitOn l core) && (c.fibres.all fun f => s.teamOn c.launch f.team core) && s.setComes u core &&
    (tiles == 0 || tiles ≤ s.tileRoom core c.tag) &&
    s.saveVolume core + 128 * c.rowAlloc + 32768 * tiles ≤ s.saveCap (fnOf c.ctx)

/-- A core put into a list by descending free rows, ties to the lowest number. -/
def insertRows (x : Nat × Nat) : List (Nat × Nat) → List (Nat × Nat)
  | [] => [x]
  | y :: ys => if y.2 ≤ x.2 then x :: y :: ys else y :: insertRows x ys

/-- Cores in descending free stack rows, ties to the lowest core number. -/
def State.byRows (s : State) (cores : List Nat) : List Nat :=
  ((cores.map fun k => (k, s.freeRows k)).foldr insertRows []).map Prod.fst

/-- The cores of a die. -/
def coresOfDie (die : Nat) : List Nat := (List.range Config.coresPerDie).map fun k => die * Config.coresPerDie + k

/-- Whether a cohort must be placed on one core: that of the semaphore that released it (R377), or one cleared for it. -/
def Unplaced.onlyCore (u : Unplaced) : Option Nat := u.semCore.or u.bound

/-- The cores that a waiting cohort is tried on, in the order of R405. -/
def State.placeOrder (s : State) (u : Unplaced) : List Nat :=
  match u.onlyCore with
  | some k => [k]
  | none =>
    ((s.setCore u.cohort.tag).map Core.id).toList ++ u.writer.toList.filter (· < Config.coreCount) ++ s.byRows (coresOfDie u.die)

/-- The core that a waiting cohort is placed on, if it fits one; in a handoff it is never placed (R182). -/
def State.placeCore (s : State) (u : Unplaced) : Option Nat :=
  if s.distBusy || u.handoff.isSome then none else (s.placeOrder u).find? (s.fits u)

/-- The core to whose die a cohort is sent that has waited 4,096 cycles with no fit on its own (R405 item 4). -/
def State.farCore (s : State) (u : Unplaced) : Option Nat :=
  if s.distBusy || u.handoff.isSome || s.sendsStopped (fnOf u.cohort.ctx) || u.onlyCore.isSome || (s.setCore u.cohort.tag).isSome || s.clock < u.since + 4096 ||
      (s.placeCore u).isSome then none
  else (s.byRows ((List.range 4).flatMap fun d => if d == u.die then [] else coresOfDie d)).find? (s.fits u)

/-- The class of a waiting cohort among those of its die (R406). -/
def Unplaced.rank (u : Unplaced) : Nat := if u.heavy || u.overdue then 1 else if u.fromTeam then 3 else 2

/-- A core's idle tile sets are read out until it has room (R181). -/
def State.makeTileRoom (core n : Nat) : Nat → State → State
  | 0, s => s
  | fuel + 1, s =>
    if n ≤ (List.range 8).countP (fun i => ((s.core core).tile i).owner.isNone) then s
    else match s.idleTag core with
      | some tag => State.makeTileRoom core n fuel (s.evictTag core tag)
      | none => s

/-- Saved tiles written into free physical tiles of a core (R353), once the unit has done with what named them before (R333). -/
def State.writeTiles (s : State) (core : Nat) (tag : BitVec 32) : List (Nat × List (List Word32)) → State
  | [] => s
  | t :: ts =>
    (match (s.core core).freeTile with
     | some n =>
       let s1 := State.matrixWhile core (fun o => o.tile == n) (s.core core).matrixQueue.length s
       s1.putCore ((s1.core core).setTile n { owner := some (tag, t.1), rows := t.2 })
     | none => s).writeTiles core tag ts

/-- HOMECORE and TMAP of a tag's records name the core that now holds its set (R181). -/
def State.rehome (s : State) (core : Nat) (tag : BitVec 32) : State :=
  let ts := (s.core core).tilesOf tag
  if ts.isEmpty then s
  else { s with records := s.records.map fun r =>
      if r.tag == tag then { r with homecore := core, tmap := handleMap ts, stored := false } else r }

/-- A waiting cohort's tile set comes to its core (R181, R353): what it carries, or what a core gives up. -/
def State.bringTiles (s : State) (u : Unplaced) (core : Nat) : State × Bool :=
  let tag := u.cohort.tag
  let (ts, s1) :=
    if u.heavy then (u.tileData, s)
    else match (s.setCore tag).filter fun k => k.id != core with
      | some k => s.readOutTiles k.id tag
      | none => if (s.setCore tag).isSome then ([], s) else s.takeTiles tag
  (((State.makeTileRoom core (s.tilesNeeded u core) 8 s1).writeTiles core tag ts).rehome core tag, !ts.isEmpty)

/-- A cohort placed on a core (R140, R190, R218, R405): its decisions are a placement, and a migration where another
core wrote its first record (R412, R414). A tile set that moves comes with it as that of a heavy record (R181). -/
def State.place (s : State) (u : Unplaced) (core : Nat) : State :=
  let (s1, heavy) := s.bringTiles u core
  let c := { u.cohort with core, slot := (s.freeSlot core).getD 0, issue := none, readyTime := s.clock
                           placed := u.cohort.uid, placedAt := s.clock }
  let s2 := { s1 with cohorts := s1.cohorts ++ [c], unplaced := s1.unplaced.filter fun v => v.cohort.uid != c.uid }
  let flags := (if u.keptFlag then 1 else 0) + (if heavy then 2 else 0)
  let s3 := (s2.acquireStep core 5).decide 0 (if heavy then 4 else u.cause) c.fibres.length flags c.ctx core c.tag c.launch c.pc
  match u.writer with
  | some w =>
    if w == core then s3
    else s3.decide 3 (if Config.coreCount ≤ w then 2 else if dieOf w == dieOf core then 0 else 1) c.fibres.length flags c.ctx core c.tag c.launch c.pc
  | none => s3

/-- PLACEMENT (R405, R406): on the core chosen, or else the cohort is sent to the die of a core that it fits there. -/
def execPlacement (uid : Nat) (s : State) : Host.Outcome State Fault Refusal :=
  onFound s (s.unplaced? uid) fun u =>
    match s.placeCore u, s.farCore u with
    | some k, _ => s.place u k
    | none, some k => s.putUnplaced { u with handoff := some (.sent s.pkgNum (dieOf k) s.clock) }
    | none, none => s

/-! ## Forced suspension (R205, R211, R236, R408) -/

/-- The parts of a cohort that is halted as a whole: no part parks or fuses any more, and every entry of the tag on the core is free
(R204). -/
def State.unsplit (s : State) (c : Cohort) : State :=
  let part (d : Cohort) : Bool := d.core == c.core && d.tag == c.tag && d.split.isSome
  if s.cohorts.any part then
    let k := s.core c.core
    { s with cohorts := s.cohorts.map fun (d : Cohort) => if part d then { d with split := none, parked := false } else d }.putCore
      { k with splitTable := k.splitTable.map fun (e : SplitEntry) => if e.tag == c.tag then { e with valid := false, live := 0, parked := 0 } else e }
  else s

/-- A halted cohort goes into its records: forced ones, or, for `DBGCTL.HALT` (cause 5), a trap's (R460). All but a split wait
(cause 2) halt it as a whole. -/
def State.haltInto (s : State) (c : Cohort) (cause : Nat) : State :=
  if cause == 2 then s.forceOut c cause
  else
    let t := s.unsplit c
    let d := { c with split := none, parked := false, check := if c.parked then .passed else c.check }
    if cause == 5 then t.takeTrap d (t.wordAt d) { code := .dbghalt } [] else t.forceOut d cause

/-- STEP, once its word has been performed and before anything else (R454). -/
def State.stepTrap (s : State) (c : Cohort) (word : Word64) : State :=
  s.trapTo c word { code := .step, site := some c.stepAt } c.lowLane (c.pc, c.block)

/-- The exchange store that a cohort waits for is accepted or refused first, and so its word performed or its trap left to raise
(R389). -/
def State.settleXst (s : State) (c : Cohort) : State :=
  match c.wait with
  | .xst xs word => s.acceptOne c xs word
  | _ => s

/-- Whether a cohort's word is one whose reads before its acceptance a halt abandons (R351). -/
def State.readsTile (s : State) (c : Cohort) : Bool :=
  !c.atHeader && (match s.fetch c c.pc with
    | .ok w => (match rawDecode w with | some (.tileLd _) | some (.tileDrain _) => true | _ => false)
    | _ => false)

/-- Those reads are abandoned: what they return is discarded. -/
def State.abandonReads (s : State) (c : Cohort) : State :=
  if s.midWord c.uid && s.readsTile c then
    { s with peerReqs := s.peerReqs.filter fun r => !(r.uid == c.uid && r.kind != .translate && r.lane < postedLane) }
  else s

/-- A cohort halts for a cause of R414. A trap that it has to take comes first, and satisfies the halt (R456). -/
def State.haltNow (s : State) (c : Cohort) (cause : Nat) : State :=
  let t := (s.settleXst c).abandonReads c
  match t.cohort? c.uid with
  | none => t
  | some d =>
    match d.wait, d.stepDue, t.abortedWrite d.uid with
    | .refused code, _, _ => t.raiseRefused d code
    | _, some w, _ => t.stepTrap { d with wait := .none } w
    | _, _, some r => t.takeTrap { d with wait := .none } (t.wordAt d) { code := .peerabort, addr := r.va } []
    | _, _, none => t.haltInto { d with wait := .none } cause

/-- Why a cohort is to halt, if it is: for DBGHALT (R460), which as a trap comes before any other (R456); its quad is handed over (R434);
or R211 or R408 chose it. -/
def State.haltWanted (s : State) (c : Cohort) : Option Nat :=
  if s.halts.contains (c.placed, 5) then some 5
  else if (s.drain.elim false fun d => d.quads.contains (c.core / 4) && d.outgoing.contains (fnOf c.ctx)) ||
      s.lateQuads.contains (c.core / 4, fnOf c.ctx) then some 0
  else (s.halts.find? fun h => h.1 == c.placed).map Prod.snd

/-- A boundary at which no latch value is live and no word with its write-back suppressed is in flight (R236). -/
def Cohort.latchFree (c : Cohort) : Bool :=
  !c.latchLive && c.flightV.all fun r => r.latch.elim true fun l => !l.live

/-- Whether a cohort can halt where it stands (R142, R236): at such a boundary, with no accesses at peers begun, but for those of R351;
one that waits for its core's writes to peers already waits to go into its records. -/
def State.canHalt (s : State) (c : Cohort) : Bool :=
  c.latchFree && (!s.midWord c.uid || s.readsTile c) && (match c.wait with | .peer _ => s.readsTile c || !s.peerOpen c | _ => true)

/-- The cause of the halt that a cohort takes now. -/
def State.haltDue (s : State) (c : Cohort) : Option Nat := (s.haltWanted c).filter fun _ => s.canHalt c

/-- HALT_REQUEST (R236). -/
def execHaltRequest (uid cause : Nat) (s : State) : Host.Outcome State Fault Refusal :=
  onFound s ((s.cohort? uid).filter fun c => s.haltDue c == some cause) fun c => s.haltNow c cause

/-- SPLIT_WAIT_TIMEOUT (R205): after 256 cycles the waiting sub-cohort is forcibly suspended. -/
def execSplitWaitTimeout (uid : Nat) (s : State) : Host.Outcome State Fault Refusal :=
  onFound s ((s.cohort? uid).filter fun c => c.wait == .split && c.readyTime + 256 ≤ s.clock && s.canHalt c && !s.peerOpen c) fun c =>
    s.haltNow c 2

/-- A cohort put into a list by the time of its placement. -/
def insertPlaced (x : Cohort) : List Cohort → List Cohort
  | [] => [x]
  | y :: ys => if x.placedAt ≤ y.placedAt then x :: y :: ys else y :: insertPlaced x ys

/-- One of each placement's cohorts. -/
def onePlaced : List Cohort → List Cohort
  | [] => []
  | c :: cs => if cs.any fun d => d.placed == c.placed then onePlaced cs else c :: onePlaced cs

/-- The placements of a function on a core, the longest held first. -/
def State.longest (s : State) (fn core : Nat) : List Cohort :=
  (onePlaced (s.cohorts.filter fun c => c.core == core && fnOf c.ctx == fn)).foldr insertPlaced []

/-- The state without some placements, for asking what would fit. -/
def State.lessCohorts (s : State) (gone : List Nat) : State :=
  { s with cohorts := s.cohorts.filter fun c => !gone.contains c.placed }

/-- A placement put into a list by descending stack rows. -/
def insertWide (x : Cohort) : List Cohort → List Cohort
  | [] => [x]
  | y :: ys => if y.rowAlloc < x.rowAlloc then x :: y :: ys else y :: insertWide x ys

/-- Whether a waiting cohort fits a core without some placements and `n` more of a list, those with the most rows. -/
def State.fitsLess (s : State) (u : Unplaced) (core n : Nat) (gone : List Nat) (rest : List Cohort) : Bool :=
  (s.lessCohorts (gone ++ ((rest.foldr insertWide []).take n).map Cohort.placed)).fits { u with bound := none } core

/-- Of placements, the longest held first, `n` that make a waiting cohort fit without them, each taken where the rest can still be
made up. -/
def State.pickGone (s : State) (u : Unplaced) (core : Nat) : Nat → List Nat → List Cohort → List Nat
  | 0, gone, _ => gone
  | _, gone, [] => gone
  | n + 1, gone, c :: cs =>
    if s.fitsLess u core n (c.placed :: gone) cs then s.pickGone u core n (c.placed :: gone) cs else s.pickGone u core (n + 1) gone cs

/-- The fewest placements of a core that must go for a waiting cohort to fit, the longest held among them (R211). -/
def State.needGone (s : State) (u : Unplaced) (core : Nat) : Option (List Nat) :=
  let cs := s.longest (fnOf u.cohort.ctx) core
  ((List.range (cs.length + 1)).find? fun n => s.fitsLess u core n [] cs).map fun n => s.pickGone u core n [] cs

/-- The core that is cleared, and what goes from it (R211): the one on which the fewest must go, the lowest of equals (log 53). -/
def State.clearCore (s : State) (u : Unplaced) : Option (Nat × List Nat) :=
  (List.range Config.coreCount).foldl (fun best k =>
    if !s.coreOpen (fnOf u.cohort.ctx) k || u.semCore.any (· != k) then best
    else match s.needGone u k, best with
      | some ps, some b => if ps.length < b.2.length then some (k, ps) else best
      | some ps, none => some (k, ps)
      | none, _ => best) none

/-- Whether a drained cohort has waited too long (R211). -/
def State.placeLate (s : State) (u : Unplaced) : Bool :=
  !u.fromTeam && u.handoff.isNone && u.since + 16384 ≤ s.clock && s.holdsCores (fnOf u.cohort.ctx) && (s.placeCore u).isNone

/-- PLACEMENT_WAIT_TIMEOUT (R211): the fewest cohorts that make it fit are to halt on one core, and the waiting cohort
is placed there next. Where it still finds no core, its wait begins again. -/
def execPlacementWaitTimeout (uid : Nat) (s : State) : Host.Outcome State Fault Refusal :=
  onFound s ((s.unplaced? uid).filter s.placeLate) fun u =>
    let best := s.clearCore u
    { s with
      halts := s.halts ++ best.elim [] fun b => b.2.map fun p => (p, 4)
      unplaced := s.unplaced.map fun (v : Unplaced) =>
        if v.cohort.uid == uid then
          { v with overdue := true, bound := best.map Prod.fst, since := if best.isSome then s.clock else v.since
                   cause := if best.isSome then 4 else v.cause }
        else v }

/-! ## Issue slots (R409) -/

/-- Whether a cohort is ready. -/
def Cohort.ready (c : Cohort) : Bool := !c.parked && c.wait == .none && c.issue.isNone

/-- The cohort that a free slot of a core takes: the earliest ready time, ties to the lowest cohort slot. -/
def State.nextReady (s : State) (core : Nat) : Option Cohort :=
  (s.cohorts.filter fun c => c.core == core && c.ready).foldl (fun m c => match m with
    | some b => if c.readyTime < b.readyTime || (c.readyTime == b.readyTime && c.slot < b.slot) then some c else m
    | none => some c) none

/-- When an issue slot was last given up. -/
def State.slotFreed (s : State) (core slot : Nat) : Nat := ((s.slotsFreed.find? fun x => x.1 == core && x.2.1 == slot).map fun x => x.2.2).getD 0

/-- The issue slot of a core that takes a cohort next: slot 0 before slot 1 when both are free, but for one ready cohort the slot that
was free first (R409, R411), slot 0 of those that were given up in one cycle (log 53). -/
def State.nextSlot (s : State) (core : Nat) : Option Nat :=
  let free (n : Nat) : Bool := !s.cohorts.any fun c => c.core == core && c.issue == some n
  let lone := (s.cohorts.filter fun c => c.core == core && c.ready).length == 1
  if free 0 && free 1 then some (if lone && s.slotFreed core 1 < s.slotFreed core 0 then 1 else 0)
  else ([0, 1]).find? free

/-- The issue slots that cohorts have given up since the step before (R411). -/
def State.settleSlots (s : State) : State :=
  let held := s.cohorts.filterMap fun c => c.issue.map fun n => (c.core, n)
  if held == s.slotsHeld then s
  else
    let gone := s.slotsHeld.filter fun x => !held.contains x
    { s with slotsHeld := held
             slotsFreed := (gone.map fun x => (x.1, x.2, s.clock)) ++ s.slotsFreed.filter fun x => !gone.contains (x.1, x.2.1) }

/-- ISSUE_SLOT_TAKE (R409). -/
def execIssueSlotTake (core slot : Nat) (s : State) : Host.Outcome State Fault Refusal :=
  onFound s ((s.nextReady core).filter fun _ => s.nextSlot core == some slot)
    fun c => s.putCohort { c with issue := some slot, slotSince := s.clock }

/-! ## Team moves (R189) -/

/-- The first array row of a free run of a core's scratchpad that holds a size, by its split (R54, R56). -/
def State.padRow (s : State) (core size : Nat) : Option Nat :=
  let rows := (size + 127) / 128
  let mine := s.allocs.filter fun a => a.core == core
  let free (r : Nat) : Bool := mine.all fun a => r + rows ≤ a.row || a.row + (a.size + 127) / 128 ≤ r
  ((0 :: mine.map fun a => a.row + (a.size + 127) / 128).filter fun r =>
    r + rows ≤ padRows (s.core core).splitCode && free r).min?

/-- Whether a team may move: it holds scratchpad, and nothing of it is resident or on its way to its slices. -/
def State.movable (s : State) (t : Team) : Bool :=
  let mine (launch : BitVec 32) (team : BitVec 32) : Bool := launch == t.launch && team == t.num
  t.foot != 0 && s.cohorts.all (fun c =>
    (c.fibres.all fun f => !mine c.launch f.team) &&
      (match c.wait with | .xst xs _ => xs.all fun x => !mine x.launch x.team | _ => true)) &&
    s.engines.all fun e => !mine e.launch e.team

end Sys2Proof.Machine
end

