-- ==== Sys2Proof/Machine/Shake.lean ====
section
/-! DEFINITION. SHAKE256, the hash of the Identity row (spec/00 R3), which images and reports use (spec/13 R393, spec/16 R477). The
manual names it and does not define it: this is the function of FIPS 202 (log 17, PRESUMED). -/

namespace Sys2Proof.Machine

open Sys2Proof

/-- A lane of the 5 by 5 state, whose lane (x, y) stands at x + 5y. -/
def lane (a : List Word64) (x y : Nat) : Word64 := a.getD (x % 5 + 5 * (y % 5)) 0#64

/-- How far each lane is rotated. -/
def laneTurns : List Nat :=
  [0, 1, 62, 28, 27, 36, 44, 6, 55, 20, 3, 10, 43, 25, 39, 41, 45, 15, 21, 8, 18, 2, 61, 56, 14]

/-- The constants of the 24 rounds. -/
def roundConstants : List Word64 :=
  [0x0000000000000001#64, 0x0000000000008082#64, 0x800000000000808A#64, 0x8000000080008000#64,
   0x000000000000808B#64, 0x0000000080000001#64, 0x8000000080008081#64, 0x8000000000008009#64,
   0x000000000000008A#64, 0x0000000000000088#64, 0x0000000080008009#64, 0x000000008000000A#64,
   0x000000008000808B#64, 0x800000000000008B#64, 0x8000000000008089#64, 0x8000000000008003#64,
   0x8000000000008002#64, 0x8000000000000080#64, 0x000000000000800A#64, 0x800000008000000A#64,
   0x8000000080008081#64, 0x8000000000008080#64, 0x0000000080000001#64, 0x8000000080008008#64]

/-- The state made lane by lane. -/
def lanes (f : Nat → Nat → Word64) : List Word64 := (List.range 25).map fun i => f (i % 5) (i / 5)

/-- The steps of a round: columns' parities, rotations and the places of the lanes, rows, and the round's constant. -/
def mixColumns (a : List Word64) : List Word64 :=
  let parity := (List.range 5).map fun x => lane a x 0 ^^^ lane a x 1 ^^^ lane a x 2 ^^^ lane a x 3 ^^^ lane a x 4
  lanes fun x y => lane a x y ^^^ parity.getD ((x + 4) % 5) 0#64 ^^^ (parity.getD ((x + 1) % 5) 0#64).rotateLeft 1
def moveLanes (a : List Word64) : List Word64 :=
  lanes fun x y => let i := (x + 3 * y) % 5 + 5 * x
    (a.getD i 0#64).rotateLeft (laneTurns.getD i 0)
def mixRows (a : List Word64) : List Word64 := lanes fun x y => lane a x y ^^^ (~~~lane a (x + 1) y &&& lane a (x + 2) y)
def hashRound (a : List Word64) (rc : Word64) : List Word64 :=
  match mixRows (moveLanes (mixColumns a)) with
  | x :: xs => (x ^^^ rc) :: xs
  | [] => []

/-- The permutation of the state. -/
def permute (a : List Word64) : List Word64 := roundConstants.foldl hashRound a

/-- A message padded to blocks of a rate's bytes. -/
def padMessage (rate : Nat) (m : List Byte) : List Byte :=
  let q := rate - m.length % rate
  m ++ if q == 1 then [0x9F#8] else 0x1F#8 :: (List.replicate (q - 2) 0#8 ++ [0x80#8])

/-- A block taken into the state. -/
def takeBlock (a : List Word64) (block : List Byte) : List Word64 :=
  permute (a.zipIdx.map fun (x, i) => x ^^^ BitVec.ofNat 64 (ofBytes ((block.drop (8 * i)).take 8)))

/-- The state once a message has been taken in. -/
def absorb (rate : Nat) (m : List Byte) : List Word64 :=
  let p := padMessage rate m
  (List.range (p.length / rate)).foldl (fun a k => takeBlock a ((p.drop (rate * k)).take rate)) (List.replicate 25 0#64)

/-- The bytes of some blocks given out by the state. -/
def squeeze (rate : Nat) : Nat → List Word64 → List Byte
  | 0, _ => []
  | n + 1, a => (a.flatMap fun x => toBytes 8 x.toNat).take rate ++ squeeze rate n (permute a)

/-- The first bytes of SHAKE128, whose rate is 168, and of SHAKE256, whose rate is 136. -/
def shake (rate : Nat) (m : List Byte) (n : Nat) : List Byte := (squeeze rate (ceilDiv n rate) (absorb rate m)).take n

/-- The first 64 bytes of SHAKE256 of a message. -/
def shake256 (m : List Byte) : List Byte := shake 136 m 64

end Sys2Proof.Machine
end

