-- ==== Sys2Proof/Machine/MlDsa.lean ====
section
/-! DEFINITION. ML-DSA-65, the signature of the Identity row (spec/00 R3), which images carry (spec/13 R393, spec/16 R476) and reports get
(spec/16 R477). The manual names it and does not define it: this is the algorithm of FIPS 204 with an empty context string; the vendor's
key and the device's entropy are free (log 17, PRESUMED). -/

namespace Sys2Proof.Machine

open Sys2Proof

/-! ## Numbers modulo 8,380,417 -/

/-- The modulus, and the two bounds of the roundings. -/
def dsaQ : Nat := 8380417
def gamma1 : Nat := 2 ^ 19
def gamma2 : Nat := 261888

def addQ (a b : Nat) : Nat := (a + b) % dsaQ
def subQ (a b : Nat) : Nat := (a + dsaQ - b % dsaQ) % dsaQ
def mulQ (a b : Nat) : Nat := a * b % dsaQ

/-- The distance of a number from 0. -/
def sizeQ (a : Nat) : Nat := min (a % dsaQ) (dsaQ - a % dsaQ)

/-- A power. -/
def powQ (a : Nat) : Nat → Nat
  | 0 => 1
  | n + 1 => mulQ a (powQ a n)

/-! ## Polynomials of 256 coefficients, and vectors of them -/

abbrev Poly := List Nat

def Poly.add (a b : Poly) : Poly := List.zipWith addQ a b
def Poly.sub (a b : Poly) : Poly := List.zipWith subQ a b
/-- The product coefficient by coefficient, as of transforms. -/
def Poly.mul (a b : Poly) : Poly := List.zipWith mulQ a b
def Poly.zero : Poly := List.replicate 256 0
/-- The largest distance of a vector's coefficients from 0. -/
def sizeOfAll (v : List Poly) : Nat := (v.flatMap fun p => p.map sizeQ).foldl max 0

/-- An 8-bit number with its bits reversed. -/
def reverse8 (n : Nat) : Nat := (List.range 8).foldl (fun m i => m + if bitOf n i then 2 ^ (7 - i) else 0) 0

/-- The root of unity of a node of the transform's tree. -/
def rootAt (m : Nat) : Nat := powQ 1753 (reverse8 m)

/-- The transform of `2^d` coefficients below a node: each half, with the other turned by the node's root. -/
def transform : Nat → Nat → Poly → Poly
  | 0, _, p => p
  | d + 1, m, p =>
    let z := rootAt m
    let a := p.take (2 ^ d)
    let b := (p.drop (2 ^ d)).map (mulQ z)
    transform d (2 * m) (Poly.add a b) ++ transform d (2 * m + 1) (Poly.sub a b)

/-- The inverse of `transform`: the inverse of a root is the negative of the power that makes up 256. -/
def untransform : Nat → Nat → Poly → Poly
  | 0, _, p => p
  | d + 1, m, p =>
    let half := (dsaQ + 1) / 2
    let z := subQ 0 (powQ 1753 (256 - reverse8 m))
    let x := untransform d (2 * m) (p.take (2 ^ d))
    let y := untransform d (2 * m + 1) (p.drop (2 ^ d))
    (Poly.add x y).map (mulQ half) ++ (Poly.sub x y).map (mulQ (mulQ half z))

def Poly.hat (p : Poly) : Poly := transform 8 1 p
def Poly.unhat (p : Poly) : Poly := untransform 8 1 p

/-- A matrix times a vector, both transformed. -/
def timesVector (a : List (List Poly)) (v : List Poly) : List Poly :=
  a.map fun row => (List.zipWith Poly.mul row v).foldl Poly.add Poly.zero
/-- A polynomial times each of a vector. -/
def Poly.scale (c : Poly) (v : List Poly) : List Poly := v.map fun p => (c.hat.mul p.hat).unhat

/-! ## Packing -/

/-- The numbers of `n` bits that bytes hold, lowest bits first. -/
def unpackBits (n count : Nat) (bs : List Byte) : List Nat :=
  let x := ofBytes bs
  (List.range count).map fun i => (x >>> (n * i)) % 2 ^ n
def packBits (n : Nat) (p : List Nat) : List Byte :=
  toBytes (n * p.length / 8) (p.foldr (fun x acc => acc * 2 ^ n + x % 2 ^ n) 0)

/-- Polynomials of `n` bits a coefficient, one after another. -/
def unpackAll (n count : Nat) (bs : List Byte) : List Poly :=
  (List.range count).map fun i => unpackBits n 256 ((bs.drop (32 * n * i)).take (32 * n))
/-- Polynomials whose coefficients are stored as their distance below a bound. -/
def unpackBelow (top n count : Nat) (bs : List Byte) : List Poly := (unpackAll n count bs).map fun p => p.map (subQ top)
def packBelow (top n : Nat) (v : List Poly) : List Byte := v.flatMap fun p => packBits n (p.map (subQ top))

/-! ## Sampling -/

/-- The first 256 coefficients that are picked from the blocks of a stream, up to a number of blocks. -/
def pickFrom (rate : Nat) (pick : List Byte → List Nat) : Nat → List Word64 → Poly → Poly
  | 0, _, p => (p ++ Poly.zero).take 256
  | n + 1, a, p =>
    if 256 ≤ p.length then p.take 256 else pickFrom rate pick n (permute a) (p ++ pick (squeeze rate 1 a))
/-- The coefficients that the stream of a seed gives, from at most 64 of its blocks. -/
def sample (rate : Nat) (seed : List Byte) (pick : List Byte → List Nat) : Poly := pickFrom rate pick 64 (absorb rate seed) []

/-- Three bytes as a candidate of 23 bits. -/
def pickUniform (bs : List Byte) : List Nat :=
  (List.range (bs.length / 3)).filterMap fun i =>
    let x := ofBytes ((bs.drop (3 * i)).take 3) % 2 ^ 23
    if x < dsaQ then some x else none
/-- Each half of a byte as a candidate of a coefficient from -4 to 4. -/
def pickSmall (bs : List Byte) : List Nat :=
  (bs.flatMap fun b => [b.toNat % 16, b.toNat / 16]).filterMap fun x => if x < 9 then some (subQ 4 x) else none

/-- The 6 by 5 matrix of a public seed, transformed. -/
def expandA (seed : List Byte) : List (List Poly) :=
  (List.range 6).map fun r => (List.range 5).map fun c => sample 168 (seed ++ toBytes 1 c ++ toBytes 1 r) pickUniform
/-- A short vector of a secret seed, whose polynomials are numbered from `first`. -/
def expandSmall (seed : List Byte) (first count : Nat) : List Poly :=
  (List.range count).map fun i => sample 136 (seed ++ toBytes 2 (first + i)) pickSmall
/-- The masking vector of a try. -/
def expandMask (seed : List Byte) (n : Nat) : List Poly :=
  (List.range 5).flatMap fun i => unpackBelow gamma1 20 1 (shake 136 (seed ++ toBytes 2 (n + i)) 640)

/-- The challenge of a hash: 49 coefficients of 1 or -1, each put at a place no greater than its number and what stood there moved up. -/
def inBall (hash : List Byte) : Poly :=
  let stream := shake 136 hash 1088
  let signs := ofBytes (stream.take 8)
  ((List.range 49).foldl (fun (acc : Poly × List Byte) i =>
    let places := acc.2.dropWhile fun b => 207 + i < b.toNat
    let j := (places.headD 0#8).toNat
    (((acc.1.set (207 + i) (acc.1.getD j 0)).set j (if bitOf signs i then dsaQ - 1 else 1)), places.drop 1))
    (Poly.zero, stream.drop 8)).1

/-! ## Rounding and hints -/

/-- A number as a multiple of `2 * gamma2` and what is over, from just above `-gamma2` to `gamma2`. -/
def decompose (r : Nat) : Nat × Int :=
  let a := r % dsaQ
  let low : Int := if a % (2 * gamma2) ≤ gamma2 then a % (2 * gamma2) else (a % (2 * gamma2) : Int) - 2 * gamma2
  if (a : Int) - low == dsaQ - 1 then (0, low - 1) else (((a : Int) - low).toNat / (2 * gamma2), low)
def highBits (v : List Poly) : List Poly := v.map fun p => p.map fun r => (decompose r).1
def useHint (h : Bool) (r : Nat) : Nat :=
  let (hi, low) := decompose r
  if !h then hi else if 0 < low then (hi + 1) % 16 else (hi + 15) % 16

/-- Hints packed: the places of each polynomial's, then where each polynomial's end. -/
def packHints (hs : List (List Bool)) : List Byte :=
  let places := hs.map fun h => (List.range 256).filter fun i => h.getD i false
  fit 55 (places.flatMap fun p => p.map (BitVec.ofNat 8)) ++
    (List.range 6).map fun i => BitVec.ofNat 8 ((places.take (i + 1)).map List.length).sum
/-- Whether places stand in ascending order. -/
def ascending (p : List Nat) : Bool := (p.zip (p.drop 1)).all fun x => x.1 < x.2
/-- Hints unpacked; none where they are malformed. -/
def unpackHints (bs : List Byte) : Option (List (List Bool)) :=
  let ends := (bs.drop 55).map BitVec.toNat
  let parts := ((0 :: ends).zip ends).map fun (lo, hi) => ((bs.take hi).drop lo).map BitVec.toNat
  if ((0 :: ends).zip ends).all (fun x => x.1 ≤ x.2 && x.2 ≤ 55) && parts.all ascending &&
      ((bs.take 55).drop (ends.getLastD 0)).all (· == 0#8) then
    some (parts.map fun p => (List.range 256).map fun i => p.contains i)
  else none

/-! ## Keys, signatures and their check -/

/-- What is hashed of a message under a key's hash. -/
def messageHash (keyHash m : List Byte) : List Byte := shake 136 (keyHash ++ [0#8, 0#8] ++ m) 64
/-- The hash of a commitment. -/
def commitHash (mu : List Byte) (w1 : List Poly) : List Byte := shake 136 (mu ++ w1.flatMap (packBits 4)) 48

/-- Whether a signature of 3,309 bytes over a message verifies under a public key of 1,952. -/
def dsaVerify (key m sig : List Byte) : Bool :=
  let hash := sig.take 48
  let z := unpackBelow gamma1 20 5 ((sig.drop 48).take 3200)
  match unpackHints (sig.drop 3248) with
  | none => false
  | some hints =>
    let c := inBall hash
    let t := (unpackAll 10 6 (key.drop 32)).map fun p => p.map (mulQ (2 ^ 13))
    let az := timesVector (expandA (key.take 32)) (z.map Poly.hat)
    let w := List.zipWith (fun x y => (Poly.sub x (c.hat.mul (Poly.hat y))).unhat) az t
    let w1 := List.zipWith (fun h p => List.zipWith useHint h p) hints w
    sizeOfAll z < gamma1 - 196 && sig.length == 3309 && commitHash (messageHash (shake 136 key 64) m) w1 == hash

/-- A signing key. -/
structure DsaKey where
  seed : List Byte
  secret : List Byte
  hash : List Byte
  s1 : List Poly
  s2 : List Poly
  t0 : List Poly
  deriving DecidableEq, Repr

/-- The signing key that 32 bytes of entropy give. -/
def dsaKey (entropy : List Byte) : DsaKey :=
  let x := shake 136 (entropy ++ [6#8, 5#8]) 128
  let seed := x.take 32
  let s1 := expandSmall ((x.drop 32).take 64) 0 5
  let s2 := expandSmall ((x.drop 32).take 64) 5 6
  let t := List.zipWith Poly.add ((timesVector (expandA seed) (s1.map Poly.hat)).map Poly.unhat) s2
  let low (a : Nat) : Int := if a % 2 ^ 13 ≤ 2 ^ 12 then a % 2 ^ 13 else (a % 2 ^ 13 : Int) - 2 ^ 13
  let t1 := t.map fun p => p.map fun a : Nat => ((a : Int) - low a).toNat / 2 ^ 13
  { seed, secret := x.drop 96, hash := shake 136 (seed ++ t1.flatMap (packBits 10)) 64, s1, s2
    t0 := t.map fun p => p.map fun a => (low a % (dsaQ : Int)).toNat }

/-- The signature of a message's hash: tries until one shows nothing of the key, up to a number of them. -/
def signTries (k : DsaKey) (mu seed : List Byte) : Nat → Nat → List Byte
  | 0, _ => []
  | fuel + 1, n =>
    let y := expandMask seed n
    let w := (timesVector (expandA k.seed) (y.map Poly.hat)).map Poly.unhat
    let hash := commitHash mu (highBits w)
    let c := inBall hash
    let z := List.zipWith Poly.add y (c.scale k.s1)
    let r := List.zipWith Poly.sub w (c.scale k.s2)
    let ct := c.scale k.t0
    let hints := List.zipWith (fun p q => List.zipWith (fun a b => (decompose a).1 != (decompose (addQ a b)).1) p q) r ct
    let rest := (r.flatMap fun p => p.map fun a => (decompose a).2.natAbs).foldl max 0
    if gamma1 - 196 ≤ sizeOfAll z || gamma2 - 196 ≤ rest || gamma2 ≤ sizeOfAll ct || 55 < (hints.map fun h => h.count true).sum then
      signTries k mu seed fuel (n + 5)
    else hash ++ packBelow gamma1 20 z ++ packHints hints

/-- A signature of a message, with 32 bytes of randomness. -/
def dsaSign (k : DsaKey) (m random : List Byte) : List Byte :=
  let mu := messageHash k.hash m
  signTries k mu (shake 136 (k.secret ++ random ++ mu) 64) 1000 0

end Sys2Proof.Machine
end

