-- ==== Sys2Proof/Machine/Queues.lean ====
section
/-! DEFINITION. Launch queues and the teams of launches (spec/13 R395 to R402, spec/06 R187 to R192), pre-emption by
priority (R408), the distributor's microcode (R391 to R394) and the matrix unit's turn (spec/11 R335). -/

namespace Sys2Proof.Machine

open Sys2Proof

/-! ## Queue control blocks (R395, R396) -/

/-- QBASE of a queue. -/
def queueReg (queue : Nat) : Nat := 0x1800 + queue * 0x10
/-- Whether a queue is enabled. -/
def State.queueOn (s : State) (fn queue : Nat) : Bool := bitOf (s.reg fn (queueReg queue)) 0
/-- The context slot that a queue carries launches of. -/
def State.queueSlot (s : State) (fn queue : Nat) : Nat := s.field fn (queueReg queue) 6 4

/-- What the distributor holds of a queue. -/
def State.view? (s : State) (fn queue : Nat) : Option QueueView := s.queueViews.find? fun v => v.fn == fn && v.queue == queue
def State.putView (s : State) (v : QueueView) : State :=
  { s with queueViews := s.queueViews.map fun x => if x.fn == v.fn && x.queue == v.queue then v else x }

/-- A field of a queue's QCB, and one written. -/
def State.qcb (s : State) (v : QueueView) (off n : Nat) : Nat := ofBytes (s.physRead (v.base + off) n)
def State.setQcb (s : State) (v : QueueView) (off n val : Nat) : State := s.physWrite v.fn (v.base + off) (toBytes n val)

/-- STATE and ERR written. -/
def State.setState (s : State) (v : QueueView) (st err : Nat) : State := s.physWrite v.fn (v.base + 18) (toBytes 1 st ++ toBytes 1 err)

/-! ## Launch descriptors (R398, R399) -/

/-- A field of a descriptor. -/
def descField (d : List Byte) (off n : Nat) : Nat := ofBytes ((d.drop off).take n)

/-- The member cores that a span admits (R187). -/
def spanLimit (span : Nat) : Nat := match span with | 0 => 1 | 1 => 4 | 2 => 128 | _ => 512

/-- Dependence `i`: its queue and its sequence number. -/
def descDep (d : List Byte) (i : Nat) : Nat × Nat :=
  (slice (descField d (40 + 8 * i) 8) 53 48, slice (descField d (40 + 8 * i) 8) 47 0)

/-- The dependences that a descriptor uses. -/
def descDeps (d : List Byte) : List (Nat × Nat) := (List.range (descField d 28 1)).map (descDep d)

/-- Whether a field lies outside its limits, or a zero field is not zero: ERR 1. -/
def descBad (d : List Byte) : Bool :=
  let f := descField d
  f 8 1 == 0 || 16 < f 8 1 || 16 < f 9 1 || 3 < f 10 1 || 8 ≤ f 11 1 || f 12 4 % 128 != 0 || 458752 < f 12 4 ||
    f 16 4 == 0 || f 20 4 == 0 || 65536 < f 20 4 || (f 24 2 == 0) != (f 12 4 == 0) || spanLimit (f 10 1) < f 24 2 ||
    64 < f 26 1 || (3 < f 27 1 && f 27 1 != 255) || 4 < f 28 1 || f 29 3 != 0 || f 32 8 % 8 != 0 ||
    (f 26 1 == 0 && f 32 8 != 0) || ((List.range 4).any fun i => slice (f (40 + 8 * i) 8) 63 54 != 0) ||
    (d.drop 80).any fun b => b != 0#8

/-- Whether HEAD stands beyond the cursor. -/
def QueueView.waiting (v : QueueView) : Bool := v.head != v.tail % 2 ^ 32

/-- The address of the descriptor at a queue's cursor, where the ring may hold one (R396, R399). -/
def State.cursorPa (s : State) (v : QueueView) : Except Nat Nat :=
  let ring := s.qcb v 8 8
  let log := s.qcb v 16 1
  if ring % 128 != 0 || log == 0 || 16 < log || 16 ≤ s.qcb v 17 1 then .error 1
  else if !s.admits v.fn (ring + 128 * (v.tail % 2 ^ log), 128) then .error 3
  else .ok (ring + 128 * (v.tail % 2 ^ log))

/-- The descriptor of the launch at a queue's cursor, as it was read when the launch reached the cursor (R397). -/
def State.cursorDesc (s : State) (v : QueueView) : List Byte :=
  match v.desc, s.cursorPa v with
  | some d, x => if d.1 == v.tail then d.2 else (match x with | .ok pa => s.physRead pa 128 | .error _ => [])
  | none, .ok pa => s.physRead pa 128
  | none, .error _ => []

/-- A descriptor is read once, when its launch reaches the cursor (R397). -/
def State.latchDesc (s : State) (v : QueueView) : State :=
  if v.waiting && v.desc.elim true (fun d => d.1 != v.tail) then
    match s.cursorPa v with
    | .ok pa => (s.physAsk v.fn pa 128).putView { v with desc := some (v.tail, s.physRead pa 128) }
    | .error _ => s
  else s

/-- HEAD read, as an acquire at `.sys` (R397). -/
def State.readHead (s : State) (fn queue : Nat) : State :=
  match s.view? fn queue with
  | some v =>
    if s.queueOn fn queue then
      let w := { v with head := s.qcb v 0 4 }
      ((s.physAsk fn v.base 4).putView w).latchDesc w
    else s
  | none => s

/-- QBELL (R395, R397). -/
def execQbell (fn queue : Nat) (s : State) : Host.Outcome State Fault Refusal :=
  onWrite (isFn fn && queue < 64) s (s.readHead fn queue)

/-- The code of the first check that the launch at a queue's cursor fails (R399); 0 when it passes. -/
def State.cursorErr (s : State) (v : QueueView) : Nat :=
  let ctx := 8 * v.fn + s.queueSlot v.fn v.queue
  match s.cursorPa v with
  | .error e => e
  | .ok _ =>
    let d := s.cursorDesc v
    if descBad d then 1
    else if descField d 0 8 % 128 != 0 || 2 ^ 49 ≤ descField d 0 8 then 2
    else if (descField d 26 1 != 0 && !s.admits v.fn (descField d 32 8, 8 * descField d 26 1)) ||
        (descField d 72 8 != 0 && !s.admits v.fn (descField d 72 8, 8)) then 3
    else if (descDeps d).any fun p => !s.queueOn v.fn p.1 then 4
    else if s.badHeap ctx || !bitOf (s.cellarReg v.fn 0x38) 0 then 5
    else 0

/-- Whether a dependence is met: DONESEQ of its queue is above it (R400). -/
def State.depMet (s : State) (fn : Nat) (p : Nat × Nat) : Bool := (s.view? fn p.1).elim false fun v => p.2 < v.doneSeq

/-! ## Enabling and disabling (R395, R396, R399) -/

/-- A queue started afresh: TAIL, DONESEQ, LAUNCH, NEXT, STATE and ERR are 0. -/
def State.startAfresh (s : State) (v : QueueView) : State :=
  ((s.setQcb v 4 4 0).setState v 0 0).physWrite v.fn (v.base + 20) (toBytes 20 0)

/-- A stopped queue resumed: ERR is clear, and STATE follows from the launch at the cursor, whose checks are made
again. -/
def State.resumeQueue (s : State) (v : QueueView) : State :=
  if !v.waiting then s.setState v 0 0
  else match s.cursorErr v with
    | 0 => s.setState v (if (descDeps (s.cursorDesc v)).all (s.depMet v.fn) then 1 else 2) 0
    | e => s.setState v 3 e

/-- QUEUE_ENABLE (R396). A QCB outside the ranges of R399 is never read or written (log 31). -/
def execQueueEnable (fn queue : Nat) (val : Word64) (s : State) : Host.Outcome State Fault Refusal :=
  let off := queueReg queue
  onWrite (isFn fn && queue < 64 && bitOf val.toNat 0 && !s.queueOn fn queue) s
    (if s.launches.any fun l => l.fn == fn && l.queue == queue && !l.complete then s
     else
       let s1 := s.plainWrite fn off val.toNat
       let base := slice val.toNat 45 7 * 128
       let others := s.queueViews.filter fun v => !(v.fn == fn && v.queue == queue)
       if !s1.admits fn (base, 128) then { s1 with queueViews := others }
       else
         let v0 : QueueView := { fn, queue, base, head := 0, tail := 0, doneSeq := 0, desc := none, since := none, bound := none }
         let done := s1.qcb v0 32 8
         let stopped := s1.qcb v0 18 1 == 3
         let v := { v0 with head := s1.qcb v0 0 4
                            doneSeq := if stopped then done else 0
                            tail := if stopped then done + (s1.qcb v0 4 4 + 2 ^ 32 - done % 2 ^ 32) % 2 ^ 32 else 0 }
         let s2 := ({ s1 with queueViews := others ++ [v] }.physAsk fn base 128).latchDesc v
         if stopped then s2.resumeQueue v else s2.startAfresh v)

/-- QUEUE_DISABLE (R395): no launch starts until the queue is enabled again. -/
def execQueueDisable (fn queue : Nat) (val : Word64) (s : State) : Host.Outcome State Fault Refusal :=
  onWrite (isFn fn && queue < 64 && !bitOf val.toNat 0 && s.queueOn fn queue) s
    (s.plainWrite fn (queueReg queue) val.toNat)

/-! ## Starting a launch (R400) -/

/-- The next launch number: past 0 and every number that a live launch holds. -/
def nextLaunch (live : List (BitVec 32)) : Nat → BitVec 32 → BitVec 32
  | 0, n => n
  | fuel + 1, n => if n == 0#32 || live.contains n then nextLaunch live fuel (n + 1#32) else n

/-- The launch that a descriptor asks for. Its PRIO is the queue's at its start (log 53). -/
def State.launchOf (s : State) (v : QueueView) (num : BitVec 32) (d : List Byte) : Launch :=
  let f := descField d
  { num, fn := v.fn, slot := s.queueSlot v.fn v.queue, queue := v.queue, seq := v.tail, prio := slice (s.qcb v 17 1) 2 0
    entry := f 0 8, win := f 8 1, stack := f 9 1, span := f 10 1, pinned := bitOf (f 11 1) 0, irq := bitOf (f 11 1) 2
    foot := f 12 4, teams := f 16 4, fibres := f 20 4, members := f 24 2, split := f 27 1
    args := (List.range (f 26 1)).map fun i => BitVec.ofNat 64 (ofBytes (s.physRead (f 32 8 + 8 * i) 8))
    doneAddr := f 72 8, next := 0, status := 0, complete := false }

/-- Whether the rules let the launch at a queue's cursor start, its dependences apart. -/
def State.mayStart (s : State) (v : QueueView) : Bool :=
  let mine := s.launches.filter fun l => l.fn == v.fn && l.queue == v.queue && !l.complete
  s.queueOn v.fn v.queue && v.waiting && s.qcb v 18 1 != 3 && !(mine.any fun l => l.seq == v.tail) && mine.length < 4 &&
    s.holdsCores v.fn && !s.resets.contains v.fn && !(List.range 4).any (fun d => bitOf (s.reg 0 (0x2030 + d * 0x40)) 0) &&
    (!bitOf (descField (s.cursorDesc v) 11 1) 1 || mine.isEmpty)

/-- Whether the launch at a queue's cursor waits on a dependence alone or among other things, and STATE does not say so yet (R400). -/
def State.depWait (s : State) (v : QueueView) : Bool :=
  let st := s.qcb v 18 1
  s.queueOn v.fn v.queue && v.waiting && st != 3 && st != 2 && !(s.launches.any fun l => l.fn == v.fn && l.queue == v.queue && !l.complete && l.seq == v.tail) &&
    s.cursorErr v == 0 && !(descDeps (s.cursorDesc v)).all (s.depMet v.fn)

/-- Whether the launch at a queue's cursor starts, or stops its queue (R399, R400). -/
def State.startReady (s : State) (v : QueueView) : Bool :=
  s.mayStart v && (s.cursorErr v != 0 || (descDeps (s.cursorDesc v)).all (s.depMet v.fn))

/-- LAUNCH_START (R399, R400): a failed check stops the queue, an unmet dependence shows in STATE, and otherwise the
launch takes its number. -/
def execLaunchStart (fn queue : Nat) (s : State) : Host.Outcome State Fault Refusal :=
  onFound s ((s.view? fn queue).filter fun v => s.mayStart v || s.depWait v) fun v =>
    match s.cursorErr v with
    | 0 =>
      let d := s.cursorDesc v
      if !(descDeps d).all (s.depMet fn) then s.setState v 2 0
      else
        let live := (s.launches.filter fun l => !l.complete).map Launch.num
        let num := nextLaunch live (live.length + 2) (BitVec.ofNat 32 (s.launchCount + 1))
        let s0 := s.physAsk v.fn (descField d 32 8) (8 * descField d 26 1)
        let s1 := { s0 with launchCount := num.toNat, launches := s.launches ++ [s.launchOf v num d] }
        ((s1.setQcb v 20 4 num.toNat).setQcb v 24 4 0).setState v 1 0
    | e => s.setState v 3 e

/-! ## Creating a team (R401, R404) -/

/-- The split code under which a core can hold a footprint, for a launch's SPLIT (R55, R404). -/
def State.splitFor (s : State) (core foot split : Nat) : Option Nat :=
  let now := (s.core core).splitCode
  if s.allocs.any fun a => a.core == core then (if split == 255 || split == now then some now else none)
  else if split != 255 then some split
  else ([3, 2, 1, 0]).find? fun k => foot ≤ 128 * padRows k

/-- A core with its split changed: its L1 is dropped (R55). -/
def State.setSplit (s : State) (core code : Nat) : State :=
  if (s.core core).splitCode == code then s
  else { s with l1 := s.l1.filter (fun x => x.core != core), l1Bad := s.l1Bad.filter fun b => b.1 != core
                l1Trees := s.l1Trees.filter fun t => t.1 != core }.putCore { s.core core with splitCode := code }

/-- Whether a core counts for a launch's next team (R404): as a member; or, for a team with no footprint, whatever stands on it
(R188), but not while it is handed over (R437). -/
def State.candidate (s : State) (l : Launch) (core : Nat) : Bool :=
  if l.foot == 0 then s.ownsCore l.fn core && !s.resets.contains l.fn && s.quadOpen (core / 4)
  else s.coreOpen l.fn core &&
    (match s.splitFor core l.foot l.split with
     | none => false
     | some k => s.allocs.countP (fun a => a.core == core) < 4 && ((s.setSplit core k).padRow core l.foot).isSome &&
         s.saveVolume core + l.foot ≤ s.saveCap l.fn)

/-- The instance of a span that a core lies in (R187). -/
def instanceOf (span core : Nat) : Nat :=
  match span with
  | 1 => core / 4
  | 3 => 0
  | _ => dieOf core

/-- The instances of a span. -/
def instanceCount (span : Nat) : Nat := match span with | 1 => 128 | 3 => 1 | _ => 4

/-- The instance that a launch's next team is made in, with its candidate cores in the order in which they are taken:
among those with enough candidates the one with the most free rows, ties to the lowest (R404). A core that a
pre-emption has cleared for the team comes first (R408). -/
def State.chooseInstance (s : State) (l : Launch) (bound : Option Nat) : Option (Nat × List Nat) :=
  let cands := (List.range Config.coreCount).filter (s.candidate l)
  let sets := (List.range (instanceCount l.span)).map fun i => (i, cands.filter fun k => instanceOf l.span k == i)
  let good := sets.filter fun p => max 1 l.members ≤ p.2.length && bound.elim true p.2.contains
  let rows (p : Nat × List Nat) : Nat := (p.2.map s.freeRows).sum
  (good.foldl (fun m p => match m with
    | some b => if rows b < rows p then some p else m
    | none => some p) none).map fun p =>
      (p.1, bound.toList ++ (s.byRows p.2).filter fun k => some k != bound)

/-- Numbers in ascending order. -/
def insertNat (x : Nat) : List Nat → List Nat
  | [] => [x]
  | y :: ys => if x ≤ y then x :: y :: ys else y :: insertNat x ys

/-- The launch whose team is next on a queue: started, not ended, with teams to create. -/
def State.creating (s : State) (fn queue : Nat) : Option Launch :=
  s.launches.find? fun l => l.fn == fn && l.queue == queue && !l.complete && l.status == 0 && l.next < l.teams

/-- The first registers of a launch's cohort (R191). -/
def launchSregs (args : List Word64) : List Word64 := (args ++ List.replicate (160 - args.length) 0#64).take 160

/-- Cohort `k` of a team: `FIDX` 32k to 32k + 31 (R190, R191). -/
def Launch.cohort (l : Launch) (uid clock k : Nat) (tag team : BitVec 32) : Cohort :=
  { uid, core := 0, slot := 0, issue := none, readyTime := clock, slotSince := 0, placed := uid, placedAt := clock, tag
    ctx := 8 * l.fn + l.slot, launch := l.num, win := l.win, stack := l.stack, pinned := l.pinned, leadTeam := team
    pc := l.entry, block := l.entry, len := 0, reconv := 0, kept := false, atHeader := true, sregs := launchSregs l.args
    uq := [], vq := [], conv := 0#32, flightU := [], flightV := [], latches := deadLatches, liveRun := 0, landings := []
    split := none, parked := false, wait := .none, skip := false, stepping := false, stepDue := none, failed := none
    fibres := (List.range (min 32 (l.fibres - 32 * k))).map fun j =>
      { lane := j, fidx := BitVec.ofNat 16 (32 * k + j), team, depth := 0, preds := 0#8, base := 0
        regs := List.replicate (8 * l.win) 0#32, frames := [], join := none } }

/-! ## Team moves (R189) -/

/-- The launch of a team. -/
def State.teamLaunch? (s : State) (t : Team) : Option Launch := s.launches.find? fun l => l.num == t.launch && !l.complete

/-- Whether a core can be a new member of a team: in its instance, with room, by its split (R187, R189, R404). -/
def State.newMember (s : State) (t : Team) (l : Launch) (core : Nat) : Bool :=
  core < Config.coreCount && !t.members.contains core && instanceOf t.span core == t.inst && s.candidate l core

/-- Whether cores can become a team's members: one for each index, distinct, each the old one or a new member. -/
def State.canHost (s : State) (t : Team) (members : List Nat) : Bool :=
  (s.teamLaunch? t).elim false fun l =>
    members.length == t.members.length && members.eraseDups == members &&
      (members.zip t.members).all fun p => p.1 == p.2 || s.newMember t l p.1

/-- A member's allocation, with its shadow entries, goes from one core to another, which takes its split (R55, R404). -/
def State.moveMember (t : Team) (l : Launch) (s : State) (p : Nat × Nat) : State :=
  if p.1 == p.2 then s
  else
    let mine (launch team : BitVec 32) (core : Nat) : Bool := launch == t.launch && team == t.num && core == p.2
    let s1 := s.setSplit p.1 ((s.splitFor p.1 l.foot l.split).getD 0)
    let row := (s1.padRow p.1 l.foot).getD 0
    { s1 with
      allocs := s1.allocs.map fun a => if mine a.launch a.team a.core then { a with core := p.1, row } else a
      shadows := s1.shadows.map fun x => if mine x.launch x.team x.core then { x with core := p.1 } else x }

/-- A waiting cohort divided, once no core will do for all of its fibres (R195): each further part takes a new tag. -/
def State.divideUnplaced (s : State) (u : Unplaced) : State :=
  let c := u.cohort
  match divideBy (fun f k => s.teamOn c.launch f.team k && u.limits.all fun l => limitOn l k) 32 c.fibres with
  | [_] => s
  | parts =>
    parts.foldl (fun t fs =>
      let (tag, t1) := t.newTag u.die
      let (uid, t2) := t1.fresh
      { t2 with unplaced := t2.unplaced ++ [{ u with cohort := { c with uid, placed := uid, tag, conv := 0#32, fibres := fs }
                                                     heavy := false, tileData := [] }] })
      { s with unplaced := s.unplaced.filter fun v => v.cohort.uid != c.uid }
def State.divideWaiting (s : State) : State := s.unplaced.foldl State.divideUnplaced s

/-- TEAM_MOVE (R189): every allocation and its shadow entries go to the new members, index for index. Its trace record names the first
member core that changed (R490). -/
def execTeamMove (launch team : Nat) (members : List Nat) (s : State) : Host.Outcome State Fault Refusal :=
  onFound s (((s.team? (BitVec.ofNat 32 launch) (BitVec.ofNat 32 team)).filter fun t => s.movable t && s.canHost t members).bind fun t =>
      (s.teamLaunch? t).map fun l => (t, l)) fun p =>
    let (t, l) := p
    let s1 := ((members.zip t.members).foldl (State.moveMember t l) (s.putTeam { t with members })).divideWaiting
    let first := ((members.zip t.members).find? fun q => q.1 != q.2).elim (members.headD 0) Prod.fst
    s1.decide 3 3 0 0 (8 * t.fn + l.slot) first 0#32 t.launch 0

/-- Members with those that a test picks replaced by cores of a pool, in order. -/
def replaceOut (out : Nat → Bool) : List Nat → List Nat → Option (List Nat)
  | [], _ => some []
  | m :: ms, pool =>
    if out m then
      match pool with
      | [] => none
      | k :: ks => (replaceOut out ms ks).map (k :: ·)
    else (replaceOut out ms pool).map (m :: ·)

/-- The members that a team moves to when a core of its own has been marked out (R465), in the order of R404. -/
def State.moveOut (s : State) (t : Team) : Option (List Nat) :=
  let out (k : Nat) : Bool := (s.core k).markedOut
  if !(t.members.any out && s.movable t) then none
  else (s.teamLaunch? t).bind fun l =>
    (replaceOut out t.members (s.byRows ((List.range Config.coreCount).filter (s.newMember t l)))).filter (s.canHost t)

/-- The cohorts of a new team, each under a new tag of the die, wait for their cores. -/
def State.addCohorts (s : State) (l : Launch) (die : Nat) (bound : Option Nat) : State :=
  (List.range ((l.fibres + 31) / 32)).foldl (fun t k =>
    let (tag, t1) := t.newTag die
    let (uid, t2) := t1.fresh
    { t2 with unplaced := t2.unplaced ++
        [{ cohort := l.cohort uid s.clock k tag (BitVec.ofNat 32 l.next), cause := 0, since := s.clock, die, writer := none
           semCore := none, bound, keptFlag := l.pinned, limits := [], heavy := false, overdue := false, fromTeam := true
           tileData := [] }] }) s

/-- The allocations of a new team on its members. -/
def State.addAllocs (s : State) (l : Launch) (members : List Nat) : State :=
  members.foldl (fun t k =>
    let t1 := t.setSplit k ((t.splitFor k l.foot l.split).getD 0)
    { t1 with allocs := t1.allocs ++ [{ core := k, launch := l.num, team := BitVec.ofNat 32 l.next, size := l.foot
                                        row := (t1.padRow k l.foot).getD 0, data := [] }] }) s

/-- The cursor passes a launch whose last team is made: TAIL advances (R396, R401). -/
def State.passCursor (s : State) (l : Launch) : State :=
  match s.view? l.fn l.queue with
  | some v =>
    if v.tail == l.seq then
      let w := { v with tail := v.tail + 1 }
      ((s.putView w).setQcb w 4 4 (w.tail % 2 ^ 32)).latchDesc w
    else s
  | none => s

/-- Whether the charge of a launch's next team fits (R174, R401). -/
def State.teamCharge (s : State) (l : Launch) : Bool := s.cellarCharged l.fn + 18 * l.fibres ≤ s.cellarBays l.fn

/-- The instance and cores of a queue's next team, if the team can be created now, the turn of its queue apart. -/
def State.readyTeam (s : State) (fn queue : Nat) : Option (Launch × Nat × List Nat) :=
  if s.distBusy then none
  else (s.creating fn queue).bind fun l =>
    if s.teamCharge l then
      (s.chooseInstance l ((s.view? fn queue).bind QueueView.bound)).map fun p => (l, p)
    else none

/-- Of the queues of one function that have a team ready to create, the one whose turn it is (R401): the highest PRIO first; among
equals the next in ascending number after the queue whose team was made last. -/
def State.turnQueue (s : State) (fn : Nat) : Option Nat :=
  let ready := (s.queueViews.filter fun v => v.fn == fn).filterMap fun v => (s.readyTeam fn v.queue).map fun p => (v.queue, p.1.prio)
  let top := (ready.map Prod.snd).foldl max 0
  let last := ((s.teamTurns.find? fun t => t.1 == fn && t.2.1 == top).map fun t => t.2.2).getD 63
  let equals := (ready.filter fun p => p.2 == top).map Prod.fst
  (equals.foldl (fun m q => match m with
    | some b => if (q + 63 - last) % 64 < (b + 63 - last) % 64 then some q else m
    | none => some q) none)

/-- A queue's next team, if it is the one that its function creates next. -/
def State.nextTeam (s : State) (fn queue : Nat) : Option (Launch × Nat × List Nat) :=
  if s.turnQueue fn == some queue then s.readyTeam fn queue else none

/-- TEAM_CREATE (R401): the whole team, NEXT first. -/
def execTeamCreate (fn queue : Nat) (s : State) : Host.Outcome State Fault Refusal :=
  onFound s (s.nextTeam fn queue) fun p =>
    let (l, inst, cores) := p
    let members := (cores.take l.members).foldr insertNat []
    let bound := (s.view? fn queue).bind QueueView.bound
    let team : Team := { launch := l.num, num := BitVec.ofNat 32 l.next, fn, span := l.span, inst, foot := l.foot
                         fibres := l.fibres, members, barriers := List.replicate 16 Barrier.fresh }
    let s1 := match s.view? fn queue with
      | some v => (s.putView { v with since := none, bound := none }).setQcb v 24 4 (l.next + 1)
      | none => s
    let s2 := { s1 with teams := s1.teams ++ [team]
                        teamTurns := (fn, l.prio, queue) :: s1.teamTurns.filter fun t => !(t.1 == fn && t.2.1 == l.prio)
                        launches := s1.launches.map fun (x : Launch) =>
                          if x.num == l.num && !x.complete then { x with next := x.next + 1 } else x }
    let s3 := (s2.addAllocs l members).addCohorts l (dieOf (cores.headD 0)) bound
    if l.next + 1 == l.teams then s3.passCursor l else s3

/-! ## Completion (R402) -/

/-- Whether a launch may complete: every team created, or ended by a fatal trap or a reset (R455), and nothing of it
left. -/
def State.mayComplete (s : State) (l : Launch) : Bool :=
  !l.complete && (l.next == l.teams || l.status != 0) && (s.cohorts.all fun c => c.launch != l.num) &&
    (s.unplaced.all fun u => u.cohort.launch != l.num) && (s.records.all fun r => r.launch != l.num) &&
    s.engines.all fun e => e.launch != l.num

/-- DONESEQ advances past every sequence number whose launch has completed, in order. -/
def State.advanceDone (fn queue : Nat) : Nat → State → State
  | 0, s => s
  | n + 1, s =>
    match s.view? fn queue with
    | none => s
    | some v =>
      let mine (l : Launch) : Bool := l.fn == fn && l.queue == queue && l.seq == v.doneSeq && l.complete
      if s.launches.any mine then
        State.advanceDone fn queue n
          (({ s with launches := s.launches.filter fun l => !mine l }.putView { v with doneSeq := v.doneSeq + 1 }).setQcb v 32 8
            (v.doneSeq + 1))
      else s

/-- STATE is 0 once a queue has no launch and nothing at its cursor. -/
def State.idleQueue (s : State) (fn queue : Nat) : State :=
  match s.view? fn queue with
  | some v =>
    if v.waiting || s.qcb v 18 1 == 3 || s.launches.any (fun l => l.fn == fn && l.queue == queue && !l.complete) then s
    else s.setState v 0 0
  | none => s

/-- The messages of the tenant arbiter whose launches DONESEQ has passed: STATUS 2, and their slots are free (R448). -/
def State.arbiterDone (s : State) (fn queue : Nat) : State :=
  match s.view? fn queue with
  | none => s
  | some v =>
    let past (m : ArbMessage) : Bool := m.dst == fn && m.queue == queue && m.seq < v.doneSeq
    { (s.arbiter.filter past).foldl (fun t m => t.ringWrite m.src m.statusPa [2#8]) s with
      arbiter := s.arbiter.filter fun m => !past m }

/-- A launch completes (R402): the completion word and DONESEQ, as a release at `.sys` after every write of its context (R128; log 10),
and the interrupt (R470). -/
def State.completeLaunch (s : State) (l : Launch) : State :=
  let s0 := s.drainStores fun p => p.ctx == 8 * l.fn + l.slot
  let s1 := if l.doneAddr == 0 then s0 else s0.physWrite l.fn l.doneAddr (toBytes 8 (l.num.toNat + l.status * 2 ^ 32))
  let s2 : State := { s1 with
    teams := s1.teams.filter fun t => t.launch != l.num
    allocs := s1.allocs.filter fun a => a.launch != l.num
    shadows := s1.shadows.filter fun x => x.launch != l.num
    launches := s1.launches.map fun (x : Launch) =>
      if x.num == l.num && !x.complete then { x with complete := true } else x }
  let s3 := State.advanceDone l.fn l.queue s.launches.length (if l.next == l.teams then s2 else s2.passCursor l)
  let s4 := (s3.idleQueue l.fn l.queue).arbiterDone l.fn l.queue
  if l.irq then s4.signal l.fn (2 + l.queue) else s4

/-- LAUNCH_COMPLETE (R402). -/
def execLaunchComplete (launch : Nat) (s : State) : Host.Outcome State Fault Refusal :=
  onFound s ((s.launches.find? fun l => l.num == BitVec.ofNat 32 launch && !l.complete).filter s.mayComplete) s.completeLaunch

/-! ## Pre-emption by priority (R408) -/

/-- The cohorts of lower priority on a core, of a function. -/
def State.lower (s : State) (fn prio core : Nat) : List Cohort :=
  s.cohorts.filter fun c => c.core == core && fnOf c.ctx == fn &&
    (s.launches.any fun l => l.num == c.launch && !l.complete && l.prio < prio)

/-- The core of a function that holds the most cohorts of lower priority, the lowest of equals (log 53). -/
def State.preemptCore (s : State) (fn prio : Nat) : Option Nat :=
  ((List.range Config.coreCount).foldl (fun m k =>
    let n := (s.lower fn prio k).length
    if s.coreOpen fn k && 0 < n && m.elim true (fun b => b.2 < n) then some (k, n) else m) none).map Prod.fst

/-- PRIORITY_PREEMPTION (R408): those cohorts are to halt, and the waiting team is bound to the core. -/
def execPriorityPreemption (fn queue : Nat) (s : State) : Host.Outcome State Fault Refusal :=
  onFound s ((s.view? fn queue).bind fun v => (s.creating fn queue).bind fun l =>
      if bitOf (s.qcb v 17 1) 3 && v.since.elim false (fun t => t + 16384 ≤ s.clock) && (s.chooseInstance l v.bound).isNone then
        (s.preemptCore fn l.prio).map fun k => (v, l, k)
      else none) fun p =>
    let (v, l, k) := p
    let cs := s.lower fn l.prio k
    ({ s with halts := s.halts ++ cs.map fun (c : Cohort) => (c.placed, 1) }.putView { v with since := none, bound := some k }).decide
      4 0 cs.length 0 (8 * fn + l.slot) k 0#32 0#32 0

/-- The queues whose next team has found no core, with PRE: since when (R408). -/
def State.noteWaits (s : State) : State :=
  s.queueViews.foldl (fun t v =>
    match (t.creating v.fn v.queue).filter fun _ => bitOf (t.qcb v 17 1) 3 with
    | some l =>
      let since := if (t.chooseInstance l v.bound).isNone then v.since.or (some t.clock) else none
      if since == v.since then t else t.putView { v with since }
    | none => if v.since.isNone then t else t.putView { v with since := none }) s

/-! ## The distributor's microcode (R391 to R394) -/

/-- The checks of an image's bytes (R393): the code of the first that fails, or 0; its version and its rollback
counter. -/
def imageCheck (magic bs : List Byte) (rollback : Nat) : Nat × Nat × Nat :=
  let len := bs.length
  let head := bs.take 128
  let body := (bs.drop 128).take (len - 3456)
  let sig := bs.drop (len - 3328)
  let version := ofBytes ((head.drop 4).take 4)
  let back := ofBytes ((head.drop 8).take 4)
  let result :=
    if len < 3456 || head.take 4 != magic || ofBytes ((head.drop 12).take 4) != len - 3456 ||
        (head.drop 80).any (fun b => b != 0#8) || (sig.drop 3309).any (fun b => b != 0#8) then 4
    else if !dsaVerify (fit 1952 Config.vendorKey) head (sig.take 3309) then 1
    else if shake256 body != (head.drop 16).take 64 then 2
    else if back < rollback then 3
    else 0
  (result, version, back)

/-- The checks of a staged image: its range first. -/
def State.checkImage (s : State) (magic : List Byte) (base len rollback : Nat) : Nat × Nat × Nat :=
  if !Range.inHbm (base, len) || s.isProtected (base, len) then (5, 0, 0)
  else imageCheck magic (s.performedRead (.hbm base) len) rollback

/-- The reads of a staged image whose range is good. -/
def State.askImage (s : State) (base len : Nat) : State :=
  if Range.inHbm (base, len) && !s.isProtected (base, len) then s.askRange 0 base len .load (s.isUncached 0 0) else s

/-- DIST_LOAD (R392): ignored while BUSY. -/
def execDistLoad (s : State) : Host.Outcome State Fault Refusal := onWrite true s (s.regSet 0 0x3018 1)

/-- DIST_LOAD_DONE (R393). -/
def execDistLoadDone (s : State) : Host.Outcome State Fault Refusal :=
  onSubject s s.distBusy
    (let len := s.reg 0 0x3008
     let (res, version, back) := s.checkImage [0x44#8, 0x49#8, 0x53#8, 0x54#8] (s.reg 0 0x3000) len s.firmware.distRollback
     let s1 := ((s.askImage (s.reg 0 0x3000) len).regField 0 0x3018 15 8 res).regClear 0 0x3018 1
     if res != 0 then s1
     else
       { s1.regField 0 0x3018 63 32 version with
         firmware := { s1.firmware with distVersion := version, distRollback := max s1.firmware.distRollback back
                                        distImage := s.performedRead (.hbm (s.reg 0 0x3000)) len } })

/-! ## The matrix unit -/

/-- MATRIX_UNIT_EXECUTE (R335): the unit completes the next accepted word of a core's queue. -/
def execMatrixUnitExecute (core : Nat) (s : State) : Host.Outcome State Fault Refusal :=
  onSubject s (!(s.core core).matrixQueue.isEmpty) (s.matrixExec core)

end Sys2Proof.Machine
end

