-- ==== Sys2Proof/Machine/Ticks.lean ====
section
/-! DEFINITION. The ticks: the package heartbeat (spec/04 R132, R133, spec/13 R397, spec/14 R447), the pod tick
(spec/16 R475), wheel turns and positions and the frame's budgets (spec/14 R427 to R431). -/

namespace Sys2Proof.Machine

open Sys2Proof

/-! ## The package heartbeat -/

/-- `fence.sc` completes at the first tick after its step 1, with its acquire step (R132). -/
def State.wakeFences (s : State) : State :=
  s.cohorts.foldl (fun t c => match c.wait with
    | .tick n =>
      if n < s.heart then (t.acquireStep c.core 4).finish { c with wait := .none, readyTime := s.clock } (t.wordAt c) else t
    | _ => t) s

/-- The records of class 6 that a package tick releases: those whose pod tick has come, or every one while the pod tick
is off (R133, R475). -/
def State.wakePodFences (s : State) : State :=
  s.releaseWhere (fun r => match r.event with
    | .tick n => n ≤ s.podTick || !bitOf (s.reg 0 0xF910) 63
    | _ => false) id

/-- OUTBOX of a function. -/
def State.outbox (s : State) (fn : Nat) : Nat := s.reg fn 0x1D00

/-- The functions that have an outbox. -/
def State.senders (s : State) : List Nat :=
  ((s.regs.filter fun r => r.off == 0x1D00 && r.val.toNat % 16 != 0).map RegCell.fn).eraseDups

/-- The base of a function's outbox, and its TAIL (R447). -/
def State.outboxBase (s : State) (fn : Nat) : Nat := slice (s.outbox fn) 45 7 * 128
def State.outboxTail (s : State) (fn : Nat) : Nat := ofBytes (s.physRead (s.outboxBase fn + 4) 4)

/-- Whether the whole of a function's outbox, its header and its ring, lies where R420 wants it. -/
def State.outboxOk (s : State) (fn : Nat) : Bool := s.admits fn (s.outboxBase fn, 128 + 128 * 2 ^ (s.outbox fn % 16))

/-- HEAD read (R447): the messages up to it are those of this tick. An outbox outside the ranges of R399 is not read
(log 31). -/
def State.readOutbox (s : State) (fn : Nat) : State :=
  let head := ofBytes (s.physRead (s.outboxBase fn) 4)
  let known := (((s.outboxes.filter fun b => b.1 == fn).getLast?).map fun b => b.2.1).getD (s.outboxTail fn)
  if s.outboxOk fn && head != known then { s with outboxes := s.outboxes ++ [(fn, head, s.heart)] } else s

/-- The arbiter reads every HEAD, but that of a function under reset (R443, R447). -/
def State.readOutboxes (s : State) : State :=
  (s.senders.filter fun f => !s.resets.contains f).foldl State.readOutbox s

/-- PACKAGE_HEARTBEAT (R132, R378, R397, R447). -/
def execPackageHeartbeat (s : State) : Host.Outcome State Fault Refusal :=
  let s1 := ({ s with clock := s.tickEnd }.wakeFences).wakePodFences
  let s2 := s1.queueViews.foldl (fun t v => t.readHead v.fn v.queue) s1
  .next s2.readOutboxes.readOverflow

/-! ## The pod tick (R475) -/

/-- PODCTL's fields. -/
def State.podOn (s : State) : Bool := bitOf (s.reg 0 0xF910) 63
def State.podDelay (s : State) : Nat := s.field 0 0xF910 31 16
def State.podMaster (s : State) : Nat := s.field 0 0xF910 9 0

/-- The cycle of the master's next send. -/
def State.podNext (s : State) : Nat := s.podSentAt + 4000

/-- POD_TICK_SEND: the master sends the new count to every package it has a port to. -/
def execPodTickSend (s : State) : Host.Outcome State Fault Refusal :=
  onSubject s (s.podOn && s.podMaster == s.pkgNum && s.due s.podNext)
    (let s1 := s.atCycle s.podNext
     let n := max s.podSent s.podTick + 1
     ((List.range 1024).filter fun p => p != s.pkgNum && s.portTo p).foldl
       (fun t p => t.sendFlit 17 p 0 0 0 (toBytes 8 n ++ toBytes 8 s1.clock))
       { s1 with podSent := n, podSentAt := s1.clock, podPending := s1.podPending ++ [(n, s1.clock + s1.podDelay)] })

/-- POD_TICK: a flit of the master, with the count and its send time. -/
def execPodTick (count stamp : Nat) (s : State) : Host.Outcome State Fault Refusal :=
  onSubject s s.podOn { s with podPending := s.podPending ++ [(count, stamp + s.podDelay)] }

/-- POD_TICK_ADOPT: DELAY cycles after the master's send. -/
def execPodTickAdopt (count : Nat) (s : State) : Host.Outcome State Fault Refusal :=
  onFound s (s.podPending.find? fun p => p.1 == count && s.due p.2) fun p =>
    { s.atCycle p.2 with podTick := count, podPending := s.podPending.erase p }

/-! ## The fine wheel (R427 to R431) -/

/-- A function's budgets changed. -/
def State.putBudget (s : State) (b : Budget) : State :=
  { s with budgets := s.budgets.map fun x => if x.fn == b.fn then b else x }

/-- The channel-cycles of the turn that ends charged on each die: those for which each of a function's operations has held its
channel. -/
def Budget.charge (b : Budget) (s : State) : Budget :=
  { b with engine := b.engine.map fun e => e.zipIdx.map fun (left, die) =>
      left - ((s.engines.filter fun x => x.fn == b.fn && x.die == die && x.state == .running).map s.heldCycles).sum }

/-- Whether an operation stops at a wheel turn (R431): its budget is spent, or its borrowed channel's owner has an
operation waiting. -/
def State.turnStops (s : State) (e : EngineOp) : Bool :=
  e.state == .running &&
    (s.engineLeft e.fn e.die == some 0 ||
      e.borrowed.elim false fun f => s.engines.any fun x =>
        x.fn == f && x.state == .queued && x.die == e.die && x.isColl == e.isColl)

/-- WHEEL_TURN (R427, R431): the turn's channel-cycles are charged, and the operations that must stop complete their chunks and write
their records (R387); one whose stage is in flight does once that is over. -/
def execWheelTurn (s : State) : Host.Outcome State Fault Refusal :=
  onSubject s (s.due (1024 * s.wheelTurns))
    (let s1 := s.atCycle (1024 * s.wheelTurns)
     let s2 := { s1 with budgets := s1.budgets.map (fun (b : Budget) => b.charge s1), wheelTurns := s1.wheelTurns + 1 }
     (s2.engines.filter s2.turnStops).foldl (fun t e =>
       if e.coll.progress != 0 then t.putEngine { e with stops := true } else t.engineSave e .none .waiting false) s2)

/-- The function that owns a position (R423): function 0 while no table is in force (R426). -/
def State.positionOwner (s : State) (die cls pos : Nat) : Option Nat :=
  match s.table, s.entry with
  | some t, some e =>
    let i := ((t.wheels.getD e.wheel []).getD (die * 256 + cls * 64 + pos) 0xFF#8).toNat
    ((e.list[i]?).bind id).map ListRec.fn
  | _, _ => if s.tableOn then none else some 0

/-- Where a request stands: at a slice of its home die, or before the links of a die to another; a sector's request, at a memory channel
of a die; and a flit, at a fabric port, of which a die has five (R3). -/
def SliceReq.atSlice (r : SliceReq) (die n : Nat) : Bool := r.link.isNone && homeDie (256 * r.line) == die && homeSlice (256 * r.line) == n
def SliceReq.atLink (r : SliceReq) (die n : Nat) : Bool := r.link == some die && homeDie (256 * r.line) == n
def DramReq.atChannel (r : DramReq) (die n : Nat) : Bool := r.bank.stack / 4 == die && 32 * (r.bank.stack % 4) + r.bank.channel == n
def State.atPort (s : State) (f : Flit) (die n : Nat) : Bool := !f.left && s.portOf f.fn f.dst == some (5 * die + n)

/-- The resources of a class on a die that have something queued (R427): slices, memory channels, the links to another die, ports. -/
def State.resourcesAt (s : State) (die cls : Nat) : List Nat :=
  (List.range (if cls == 0 then 32 else if cls == 1 then 128 else if cls == 2 then 4 else 5)).filter fun n => match cls with
    | 0 => s.requests.any fun r => r.atSlice die n
    | 1 => s.dramQueue.any fun r => r.atChannel die n
    | 2 => s.requests.any fun r => r.atLink die n
    | 3 => s.fabricOut.any fun f => s.atPort f die n
    | _ => false

/-- Whether a function has something queued at a resource. -/
def State.queuedAt (s : State) (die cls n fn : Nat) : Bool :=
  match cls with
  | 0 => s.requests.any fun r => r.fn == fn && r.atSlice die n
  | 1 => s.dramQueue.any fun r => r.fn == fn && r.atChannel die n
  | 2 => s.requests.any fun r => r.fn == fn && r.atLink die n
  | 3 => s.fabricOut.any fun f => f.fn == fn && s.atPort f die n
  | _ => false

/-- The function that receives an unused position of a resource (R428). -/
def State.donee (s : State) (die cls n owner : Nat) : Option Nat :=
  let recs := (s.entry.elim [] SlotEntry.list).filterMap id
  let ok (r : ListRec) : Bool := r.fn != owner && s.donGroup owner != 0 && s.donGroup r.fn == s.donGroup owner &&
    s.queuedAt die cls n r.fn && ((s.budget? r.fn).bind Budget.donation) != some 0
  ((recs.filter ok).foldl (fun m r => match m with
    | some b => if s.tenantPrio b < s.tenantPrio r.fn then some r.fn else m
    | none => some r.fn) none)

/-- The first few of a list that a test picks, changed. -/
def changeFirst {α : Type} (p : α → Bool) (g : α → α) : Nat → List α → List α
  | 0, xs => xs
  | _, [] => []
  | n + 1, x :: xs => if p x then g x :: changeFirst p g n xs else x :: changeFirst p g (n + 1) xs

/-- Up to 16 of a function's requests at a slice, in arrival order (R427). -/
def State.serveQueued (die n fn : Nat) : Nat → State → State
  | 0, s => s
  | k + 1, s =>
    match s.requests.find? fun r => r.fn == fn && r.atSlice die n with
    | some r => State.serveQueued die n fn k (s.serveTo r.id)
    | none => s

/-- The oldest of a function's sectors on each pseudo-channel of a memory channel (R427). -/
def State.serveChannel (s : State) (die n fn : Nat) : State :=
  ([0, 1]).foldl (fun t pc => match t.dramQueue.find? fun r => r.fn == fn && r.atChannel die n && r.bank.pc == pc with
    | some r => t.dramServe r
    | none => t) s

/-- A position of a resource serves what a function has queued there (R427): replies cross the links at once (log 5). -/
def State.servePosition (s : State) (die cls n fn : Nat) : State :=
  match cls with
  | 0 => State.serveQueued die n fn 16 s
  | 1 => s.serveChannel die n fn
  | 2 => { s with requests := changeFirst (fun r => r.fn == fn && r.atLink die n) (fun r => { r with link := none }) 16 s.requests }
  | 3 => { s with fabricOut := changeFirst (fun f => f.fn == fn && s.atPort f die n) (fun f => { f with left := true }) 16 s.fabricOut }
  | _ => s

/-- A donated position counts against DONBUD (R428, R430). -/
def State.spendDonation (s : State) (fn : Nat) : State :=
  match s.budget? fn with
  | some b => s.putBudget { b with donation := b.donation.map (· - 1) }
  | none => s

/-- A position of a resource: it serves its owner, or a donee when its owner has nothing queued there (R427, R428). In a drain window
positions 0 to 51 serve the drain: the requests of the outgoing functions (R433). -/
def State.positionAt (s : State) (die cls pos n : Nat) : State :=
  match s.drain.filter fun d => pos < 52 && s.clock < d.edge + 10000 with
  | some d => d.outgoing.foldl (fun t f => t.servePosition die cls n f) s
  | none => match s.positionOwner die cls pos with
    | none => s
    | some f =>
      if s.queuedAt die cls n f then s.servePosition die cls n f
      else match s.donee die cls n f with
        | some g => (s.spendDonation g).servePosition die cls n g
        | none => s

/-- WHEEL_POSITION (R427, R428): the position at each resource of the class on the die. -/
def execWheelPosition (die cls pos : Nat) (s : State) : Host.Outcome State Fault Refusal :=
  onSubject s (isDie die && cls < 4 && pos < 64) ((s.resourcesAt die cls).foldl (fun t n => t.positionAt die cls pos n) s)

end Sys2Proof.Machine
end

