-- ==== Sys2Proof/Machine/Slots.lean ====
section
/-! DEFINITION. The slot table (spec/14 R421 to R426), slot edges and their drain (R433 to R439), and the frame's
boundary (R430). -/

namespace Sys2Proof.Machine

open Sys2Proof

/-! ## Images (R422, R423) -/

/-- One LIST record of an entry's image; `0xFFFF` is unused. -/
def listOf (bs : List Byte) (i : Nat) : Option ListRec :=
  let f (o n : Nat) : Nat := ofBytes ((bs.drop (256 + 8 * i + o)).take n)
  if f 0 2 == 0xFFFF then none
  else some { fn := f 0 2, ways := BitVec.ofNat 16 (f 2 2), tch := BitVec.ofNat 16 (f 4 2), cch := BitVec.ofNat 4 (f 6 1) }

/-- One entry of the slot-table image. -/
def entryOf (bs : List Byte) : SlotEntry :=
  { owner := (List.range 128).map fun q => ofBytes ((bs.drop (2 * q)).take 2)
    list := (List.range 16).map (listOf bs)
    wheel := ofBytes ((bs.drop 384).take 1) }

/-- The table that two images hold. -/
def tableOf (st wh : List Byte) : SlotTable :=
  { entries := (List.range 16).map fun i => entryOf ((st.drop (512 * i)).take 512)
    wheels := (List.range 8).map fun w => (wh.drop (1024 * w)).take 1024
    image := st ++ wh }

/-! ## The checks of a load (R424) -/

/-- The functions that hold quads in an entry. -/
def SlotEntry.holders (e : SlotEntry) : List Nat := (e.owner.filter (· != 0xFFFF)).eraseDups
/-- The LIST records in use. -/
def SlotEntry.recs (e : SlotEntry) : List ListRec := e.list.filterMap id

/-- ERR 2: a reserved field or value in an entry's image, or in the wheel image. -/
def reservedEntry (bs : List Byte) : Bool :=
  let f (o n : Nat) : Nat := ofBytes ((bs.drop o).take n)
  let fnBad (x : Nat) : Bool := 256 < x && x != 0xFFFF
  ((List.range 128).any fun q => fnBad (f (2 * q) 2)) ||
    ((List.range 16).any fun i => fnBad (f (256 + 8 * i) 2) || 16 ≤ f (256 + 8 * i + 6) 1 || f (256 + 8 * i + 7) 1 != 0) ||
    7 < f 384 1 || (bs.drop 385).any fun b => b != 0#8
def reservedWheel (bs : List Byte) : Bool := bs.any fun b => 16 ≤ b.toNat && b != 0xFF#8

/-- Whether a quad lies in a function's partition, by its registers (R419). -/
def State.partBit (s : State) (fn q : Nat) : Bool := bitOf (s.reg 0 (0xA000 + fn * 0x40 + 8 * (q / 64))) (q % 64)

/-- ERR 3: quads outside a partition, part of one, or unbacked. -/
def State.partitionBad (s : State) (e : SlotEntry) : Bool :=
  e.holders.any fun f => (List.range 128).any fun q =>
    (e.owner.getD q 0xFFFF == f) != s.partBit f q || (s.partBit f q && !s.backed q)

/-- A function that is enabled (R424). -/
def State.fnEnabled (s : State) (fn : Nat) : Bool := fn == 0 || fn ≤ s.numVfs

/-- ERR 4: records against holders. -/
def State.recordsBad (s : State) (e : SlotEntry) : Bool :=
  (e.holders.any fun f => e.recs.countP (fun r => r.fn == f) != 1) ||
    e.recs.any fun r => 1 < e.recs.countP (fun x => x.fn == r.fn) || (!s.fnEnabled r.fn && !e.holders.contains r.fn)

/-- ERR 5: masks of two records overlap. -/
def SlotEntry.overlaps (e : SlotEntry) : Bool :=
  e.list.zipIdx.any fun (a, i) => e.list.zipIdx.any fun (b, j) => i < j && match a, b with
    | some x, some y => x.ways &&& y.ways != 0#16 || x.tch &&& y.tch != 0#16 || x.cch &&& y.cch != 0#4
    | _, _ => false

/-- The positions that LIST index `i` has in a class on a die. -/
def SlotTable.positions (t : SlotTable) (e : SlotEntry) (die cls i : Nat) : Nat :=
  (((t.wheels.getD e.wheel []).drop (die * 256 + cls * 64)).take 64).countP fun b => b.toNat == i

/-- ERR 6: positions that a function needs, and positions that name an unused record. -/
def SlotTable.wheelBad (t : SlotTable) (e : SlotEntry) : Bool :=
  (e.list.zipIdx.any fun (r, i) => match r with
    | some x => (e.holders.contains x.fn || x.tch != 0#16 || x.cch != 0#4) && (List.range 4).any fun d =>
        t.positions e d 1 i < 4 || t.positions e d 0 i < 1 || t.positions e d 2 i < 1
    | none => false) ||
    (t.wheels.getD e.wheel []).any fun b => b.toNat < 16 && (e.list.getD b.toNat none).isNone

/-- A function's home die: that of its Cellar (R424). -/
def State.homeOf (s : State) (fn : Nat) : Nat := homeDie (s.cellarReg fn 0)

/-- The function whose record has a way. -/
def SlotEntry.wayOwner (e : SlotEntry) (w : Nat) : Option Nat := (e.recs.find? fun r => r.ways.getLsbD w).map ListRec.fn

/-- The quads whose owner differs between two entries, the ways that pass from a listed function (R433), and all the
ways whose owner differs, one that no function had among them (R436). -/
def quadsMoved (a b : SlotEntry) : List Nat := (List.range 128).filter fun q => a.owner.getD q 0xFFFF != b.owner.getD q 0xFFFF
def waysMoved (a b : SlotEntry) : List Nat := (List.range 16).filter fun w => (a.wayOwner w).isSome && a.wayOwner w != b.wayOwner w
def waysChanged (a b : SlotEntry) : List Nat := (List.range 16).filter fun w => a.wayOwner w != b.wayOwner w

/-- Whether an edge between two entries is a handover edge (R433). -/
def handsOver (a b : SlotEntry) : Bool := !(quadsMoved a b).isEmpty || !(waysMoved a b).isEmpty

/-- Whether an edge breaks the drain allowance (R436), which a handover edge has to keep. -/
def State.allowanceBad (s : State) (a b : SlotEntry) : Bool :=
  let outs := (quadsMoved a b).filter fun q => a.owner.getD q 0xFFFF != 0xFFFF
  let charge (q : Nat) : Nat := 4 * (s.saveCap (a.owner.getD q 0) / 1024)
  let into (c q : Nat) : Bool := s.homeOf (a.owner.getD q 0) == c
  handsOver a b && (List.range 4).any fun c =>
    65000 < ((outs.filter (into c)).map charge).sum + 4352 * (waysChanged a b).length ||
      (List.range 4).any fun d => d != c && 13000 < ((outs.filter fun q => q / 32 == d && into c q).map charge).sum

/-- ERR 7: the edges between entries in order, the edge from the last to the first, and at a reload the edge from the
entry 15 in force. -/
def State.edgesBad (s : State) (t : SlotTable) : Bool :=
  let pairs := t.entries.zip (t.entries.drop 1 ++ t.entries.take 1)
  let reload := match s.table, t.entries.head? with
    | some now, some first => (now.entries.getLast?.map fun l => (l, first)).toList
    | _, _ => []
  (pairs ++ reload).any fun p => s.allowanceBad p.1 p.2

/-- ERR 9: the Cellar, the Attic and the save area of a holder on one die; PSAVE not 0. -/
def State.homeBad (s : State) (fn : Nat) : Bool :=
  let save := s.reg 0 (0xA000 + fn * 0x40 + 0x20)
  let ends (r : Range) : List Nat := [homeDie r.1, homeDie (r.1 + r.2 - 1)]
  let dies := (s.cellarRanges fn ++ [(save, s.quadCount fn * 2 ^ 22)]).flatMap ends
  save == 0 || dies.any fun d => d != s.homeOf fn

/-- The code of the first failing check of a load; 0 when all pass. -/
def State.loadErr (s : State) : Nat :=
  let st : Range := (s.reg 0 0x9000, 8192)
  let wh : Range := (s.reg 0 0x9008, 8192)
  if !st.inHbm || !wh.inHbm || s.isProtected st || s.isProtected wh then 1
  else
    let sb := s.performedRead (.hbm st.1) 8192
    let wb := s.performedRead (.hbm wh.1) 8192
    let t := tableOf sb wb
    if (List.range 16).any (fun i => reservedEntry ((sb.drop (512 * i)).take 512)) || reservedWheel wb then 2
    else if t.entries.any s.partitionBad then 3
    else if t.entries.any s.recordsBad then 4
    else if t.entries.any SlotEntry.overlaps then 5
    else if t.entries.any t.wheelBad then 6
    else if s.edgesBad t then 7
    else if (t.entries.flatMap SlotEntry.holders).eraseDups.any s.homeBad then 9
    else 0

/-- A load or a write of EN rejected: REJ and ERR. -/
def State.rejectTable (s : State) (err : Nat) : State := (s.regField 0 0x9010 15 8 err).regSet 0 0x9010 8

/-- SLOT_TABLE_LOAD (R424). -/
def execSlotTableLoad (s : State) : Host.Outcome State Fault Refusal :=
  onWrite true s
    (match s.loadErr with
     | 0 => { ((s.physAsk 0 (s.reg 0 0x9000) 8192).physAsk 0 (s.reg 0 0x9008) 8192).regSet 0 0x9010 4 with
         pendingTable := some (tableOf (s.performedRead (.hbm (s.reg 0 0x9000)) 8192) (s.performedRead (.hbm (s.reg 0 0x9008)) 8192)) }
     | e => s.rejectTable e)

/-- STCTL.EN. -/
def State.tableEn (s : State) : Bool := bitOf (s.reg 0 0x9010) 0

/-- SLOT_TABLE_ENABLE (R421, R424): the table takes effect at T0, the next wheel-turn boundary. -/
def execSlotTableEnable (s : State) : Host.Outcome State Fault Refusal :=
  onWrite (!s.tableEn) s
    (if !s.allIdle then s.rejectTable 10
     else if s.pendingTable.isNone then s.rejectTable 8
     else { s.regSet 0 0x9010 1 with t0 := if s.disabling then s.t0 else (s.clock / 1024 + 1) * 1024, disabling := false })

/-- SLOT_TABLE_DISABLE (R424): in force from the next frame boundary. -/
def execSlotTableDisable (s : State) : Host.Outcome State Fault Refusal :=
  onWrite s.tableEn s
    (if !s.allIdle then s.rejectTable 10 else { s.regClear 0 0x9010 1 with disabling := true })

/-! ## Edges (R421, R433, R434) -/

/-- The entry of R426, with function 0 as owner of everything. -/
def openEntry : SlotEntry :=
  { owner := List.replicate 128 0, wheel := 0
    list := [some { fn := 0, ways := 0xFFFF#16, tch := 0xFFFF#16, cch := 0xF#4 }] }

/-- The entry in force, R426's while there is none. -/
def State.entryNow (s : State) : SlotEntry := s.entry.getD openEntry

/-- CUR and STFRAME. -/
def State.curSlot (s : State) : Nat := s.field 0 0x9010 19 16
def State.frame (s : State) : Nat := s.reg 0 0x9018

/-- A core that a slot edge takes from its function (R412, R414): a pre-emption, for its halted cohorts. -/
def State.countEdge (s : State) (fn core : Nat) : State :=
  s.decide 4 1 (s.cohorts.countP fun c => c.core == core) 0 (8 * fn) core 0#32 0#32 0

/-- A new entry in force: at a handover edge the drain begins (R433, R434), the ways that change owner are written
back from the record buffers and the L2. -/
def State.switchTo (s : State) (table : Option SlotTable) (slot : Nat) : State :=
  let s1 : State := { s.regField 0 0x9010 19 16 slot with table }
  let a := s.entryNow
  let b := s1.entryNow
  let quads := (quadsMoved a b).filter fun q => !s.lateQuads.any fun p => p.1 == q
  let ways := waysMoved a b
  if !handsOver a b then s1
  else
    let owners := quads.map fun q => a.owner.getD q 0xFFFF
    let s2 := (quads.zip owners).foldl (fun t p =>
      if p.2 == 0xFFFF || s.resets.contains p.2 then t
      else (List.range 4).foldl (fun u i => u.countEdge p.2 (4 * p.1 + i)) t) s1
    let s3 := (s2.bufferEdge ways).l2Flush fun l => ways.contains l.way
    { s3.setReg 0 0x9020 (s3.reg 0 0x9020 / 2 ^ 32 * 2 ^ 32 + (s3.reg 0 0x9020 + 1) % 2 ^ 32) with
      unplaced := s3.unplaced.map fun (u : Unplaced) => { u with bound := none }
      queueViews := s3.queueViews.map fun (v : QueueView) => { v with bound := none }
      drain := some { edge := s.clock, outgoing := (owners.filter (· != 0xFFFF)).eraseDups
                      incoming := ((quads.map fun q => b.owner.getD q 0xFFFF).filter (· != 0xFFFF)).eraseDups
                      quads, owners } }

/-- The cycle of the next edge within a frame, and of the next frame boundary (R421). -/
def State.nextEdge (s : State) : Nat := s.t0 + 2000000 * s.frame + 125000 * (s.curSlot + 1)
def State.nextFrame (s : State) : Nat := if s.tableOn then s.t0 + 2000000 * (s.frame + 1) else s.t0

/-- SLOT_EDGE (R421, R433, R434): slots 1 to 15. -/
def execSlotEdge (s : State) : Host.Outcome State Fault Refusal :=
  onSubject s (s.tableOn && s.curSlot < 15 && s.drain.isNone && s.due s.nextEdge)
    ((s.atCycle s.nextEdge).switchTo s.table (s.curSlot + 1))

/-- A function's settings and budgets for a frame (R419, R430). -/
def State.budgetOf (s : State) (fn : Nat) : Budget :=
  let cfg := 0xA010 + fn * 0x40
  let don := s.field 0 (0xA018 + fn * 0x40) 47 32
  let eng := s.field 0 (0xA018 + fn * 0x40) 31 0
  { fn, group := s.field 0 cfg 27 24, prio := s.field 0 cfg 18 16
    donation := if don == 0xFFFF then none else some don
    engine := if eng == 0xFFFFFFFF then none else some (List.replicate 4 (eng * 64)) }

/-- The frame's budgets, for every function whose registers are not at reset. The cycles for which a channel has been held before the
boundary do not count against them. -/
def State.refill (s : State) : State :=
  { s with budgets := (s.fnsAt 0xA000 0xE040).map s.budgetOf
           engines := s.engines.map fun e => if e.state == .running then { e with since := s.clock } else e }

/-- FRAME_BOUNDARY (R421, R424, R430): budgets refill, and a pending table takes effect, or a cleared EN; then slot 0
begins. -/
def execFrameBoundary (s : State) : Host.Outcome State Fault Refusal :=
  onSubject s ((s.tableEn || s.disabling) && s.drain.isNone && (!s.tableOn || s.curSlot == 15) && s.due s.nextFrame)
    (let s1 := (s.atCycle s.nextFrame).refill
     let s2 := if s.tableOn then s1.setReg 0 0x9018 (s.frame + 1) else s1.setReg 0 0x9018 0
     if s.disabling then ({ s2 with disabling := false }.switchTo none 0)
     else match s.pendingTable with
       | some t => ({ s2.regClear 0 0x9010 4 with pendingTable := none }.switchTo (some t) 0)
       | none => s2.switchTo s2.table 0)

/-! ## The drain (R434 to R439) -/

/-- A core's tile sets saved in heavy records (R181, R434 step 4). -/
def State.saveTiles (s : State) (core : Nat) : State :=
  (((s.core core).tiles.filterMap fun t => t.owner.map Prod.fst).eraseDups).foldl (fun t tag => t.saveTag core tag) s

/-- PSAVE of a function (R419). -/
def State.psave (s : State) (fn : Nat) : Nat := s.reg 0 (0xA000 + fn * 0x40 + 0x20)

/-- A descriptor of an allocation in a save block (R435). The widths of its fields are the model's (log 39). -/
def Alloc.descriptor (a : Alloc) : List Byte :=
  toBytes 8 a.launch.toNat ++ toBytes 8 a.team.toNat ++ toBytes 8 a.size ++ toBytes 8 a.row

/-- A shadow entry in a save block (R435): its allocation is named by its place among the descriptors. -/
def SaveBlock.shadowBytes (b : SaveBlock) (x : Shadow) : List Byte :=
  fit 128 x.data ++ toBytes 16 x.mask.toNat ++
    toBytes 4 (b.allocs.findIdx fun a => a.launch == x.launch && a.team == x.team) ++ toBytes 4 x.barrier ++ toBytes 8 x.row

/-- The bytes of a save block, with the values of the 64 semaphores (R435). -/
def SaveBlock.image (b : SaveBlock) (sems : List Nat) : List Byte :=
  fit 64 (toBytes 4 b.allocs.length ++ toBytes 1 b.splitCode) ++ fit 192 (b.allocs.flatMap Alloc.descriptor) ++
    fit 256 (sems.flatMap (toBytes 4)) ++ fit 40960 (b.shadows.flatMap b.shadowBytes) ++
    b.allocs.flatMap fun a => cellsRead a.data 0 a.size

/-- A save block copied to the save area, as traffic of its function (R434). -/
def State.writeSave (s : State) (b : SaveBlock) (core : Nat) : State :=
  (s.agentWrite b.fn (s.psave b.fn + b.dense * 2 ^ 20) (b.image ((List.range 64).map fun i => (s.sem b.fn core i).toNat)) false).serveAll b.fn

/-- Whether a core's state is saved: not for a function in reset, with no save area, or at the edge at T0 (R424,
R434). -/
def State.savesState (s : State) (fn : Nat) : Bool :=
  !s.resets.contains fn && s.psave fn != 0 && !(s.tableOn && s.frame == 0 && s.curSlot == 0)

/-- What a core holds of its outgoing owner is saved, and the core is zeroed (R434 step 6, R435, R440). -/
def State.saveCore (s : State) (fn core : Nat) : State :=
  let s1 := s.saveTiles core
  let mine := s1.allocs.filter fun a => a.core == core
  let block : SaveBlock := { fn, dense := s.denseCore fn core, splitCode := (s1.core core).splitCode, allocs := mine
                             shadows := s1.shadows.filter fun x => x.core == core }
  let k := s1.core core
  let s2 := if s.savesState fn then (fun t : State => { t with saves := t.saves ++ [block] }) (s1.writeSave block core) else s1
  ({ s2 with
    allocs := s1.allocs.filter fun a => a.core != core
    shadows := s1.shadows.filter fun x => x.core != core
    l1 := s2.l1.filter fun x => x.core != core
    l1Bad := s2.l1Bad.filter fun b => b.1 != core
    l1Trees := s2.l1Trees.filter fun t => t.1 != core
    tlbs := s1.tlbs.filter fun t => t.owner != TlbOwner.core core
    fetchLines := s1.fetchLines.filter fun l => l.core != core }).putCore
    { k with splitCode := 0, splitTable := [], tiles := [], matrixQueue := [], misses := [], grants := [], grantQueue := [] }

/-- A function's save block restored to its dense core (R435), which reads it. -/
def State.restoreCore (s : State) (fn core : Nat) : State :=
  match s.saves.find? fun b => b.fn == fn && b.dense == s.denseCore fn core with
  | none => s
  | some b =>
    { s.askRange fn (s.psave fn + b.dense * 2 ^ 20) (41472 + (b.allocs.map Alloc.size).sum) .load (s.isUncached fn 0) with
             saves := s.saves.erase b
             allocs := s.allocs ++ b.allocs.map fun (a : Alloc) => { a with core := core }
             shadows := s.shadows ++ b.shadows.map fun (x : Shadow) => { x with core := core } }.putCore
      { s.core core with splitCode := b.splitCode }

/-- Whether every step of the drain is done on a quad that a function leaves (R438): no cohort of the function is resident there, and no
handoff of it has still to resolve (R183). -/
def State.quadDone (s : State) (p : Nat × Nat) : Bool :=
  !(s.cohorts.any fun c => c.core / 4 == p.1 && fnOf c.ctx == p.2) && !s.transits.any fun x => x.fn == p.2

/-- A quad that has been handed over: its cores are saved and zeroed, and its new owner's blocks restored (R437). -/
def State.handQuad (s : State) (p : Nat × Nat) : State :=
  (List.range 4).foldl (fun t i =>
    let core := 4 * p.1 + i
    let t1 := if p.2 == 0xFFFF then t else t.saveCore p.2 core
    let new := t1.quadOwner p.1
    if new == 0xFFFF then t1 else t1.restoreCore new core) s

/-- Engine records of functions return to their queues, but for those whose cores' save blocks are still to be restored (R489). -/
def State.returnEngines (s : State) (fns : List Nat) : State :=
  (s.records.filter fun r => r.kind == .engine && r.place == .waiting && r.event == .none && fns.contains (fnOf r.ctx)).foldl
    (fun t r => match r.engine.bind t.engine? with
      | some e => if t.engineAway e then t else t.engineResume e.id
      | none => t) s

/-- ENGINE_OVERRUN (R438): at E + 9,000 an operation of an outgoing function that is still on its channel ends
OVERRUN. -/
def execEngineOverrun (s : State) : Host.Outcome State Fault Refusal :=
  onFound s (s.drain.filter fun d => s.due (d.edge + 9000)) fun d =>
    (s.engines.filter fun e => d.outgoing.contains e.fn && e.state == .running).foldl
      (fun t e => t.engineStop e 1 0) (s.atCycle (d.edge + 9000))

/-- Quads go to their new owners, and the engine records of those return (R437, R489). -/
def State.handQuads (s : State) (ps : List (Nat × Nat)) : State :=
  (ps.foldl State.handQuad s).returnEngines (ps.map fun p => s.quadOwner p.1)

/-- The end of a drain window (R434 step 7, R437, R438): the quads that are done go to their owners, the outgoing functions' sectors are
written and every open row is precharged; a quad that is not done stays out of service, and each such quad is counted and reported. -/
def State.endDrain (s : State) (d : Drain) : State :=
  let (gone, late) := (d.quads.zip d.owners).partition s.quadDone
  let s1 := ((s.handQuads gone).returnEngines d.incoming).dramQuiet fun r => d.outgoing.contains r.fn
  late.foldl (fun t _ => (t.setReg 0 0x9020 (t.reg 0 0x9020 + 2 ^ 32)).signal 0 67)
    { s1 with drain := none, dramRows := [], lateQuads := s1.lateQuads ++ late }

/-- DRAIN_WINDOW_END (R437, R438): at E + 10,000 the window of a drain ends; and a quad that it left out of service goes to its owner once
its steps are done. -/
def execDrainWindowEnd (s : State) : Host.Outcome State Fault Refusal :=
  match s.drain.filter fun d => s.due (d.edge + 10000) with
  | some d => .next ((s.atCycle (d.edge + 10000)).endDrain d)
  | none => onSubject s (s.lateQuads.any s.quadDone)
    ({ s with lateQuads := s.lateQuads.filter fun p => !s.quadDone p }.handQuads (s.lateQuads.filter s.quadDone))

end Sys2Proof.Machine
end

