-- ==== Sys2Proof/Machine/Partition.lean ====
section
/-! DEFINITION. Partition rebuilds (spec/14 R417, R418), the tenant arbiter (R446 to R449), tenant reset (R443 to R445)
and the power gating of a die (spec/12 R387, spec/05 R183). -/

namespace Sys2Proof.Machine

open Sys2Proof

/-! ## Partition rebuild (R417) -/

/-- QMAP of a die's logical quad. -/
def qmapOff (die q : Nat) : Nat := 0xE100 + die * 0x100 + q * 8

/-- PARTITION_REBUILD (R417): ignored unless STCTL.EN is 0 and every context is idle. -/
def execPartitionRebuild (s : State) : Host.Outcome State Fault Refusal :=
  onWrite true s (if !s.tableEn && s.allIdle then s.regSet 0 0xE500 2 else s)

/-- The physical quads that a die's table names. -/
def State.mappedQuads (s : State) (die : Nat) : List Nat :=
  (List.range 32).filterMap fun q => if bitOf (s.reg 0 (qmapOff die q)) 7 then some (s.field 0 (qmapOff die q) 5 0) else none

/-- A physical quad of a die that no logical quad has and that is not retired. -/
def State.spareQuad (s : State) (die : Nat) : Option Nat :=
  (List.range 34).find? fun p => !(s.mappedQuads die).contains p && !s.retiredQuads.contains (die, p)

/-- The cores of a logical quad are those of another physical quad: in service, with semaphores at 0 (R377). -/
def State.freshQuad (s : State) (die q : Nat) : State :=
  let mine (core : Nat) : Bool := core / 4 == 32 * die + q
  { s with cores := s.cores.map fun (k : Core) => if mine k.id then { k with markedOut := false, faultyRows := [] } else k
           badWords := s.badWords.filter fun b => !mine b.1
           semaphores := s.semaphores.filter fun x => !mine x.core }

/-- A logical quad at a rebuild: a retired physical quad gives its number to a spare, or V becomes 0. -/
def State.rebuildQuad (s : State) (die q : Nat) : State :=
  let off := qmapOff die q
  if bitOf (s.reg 0 off) 7 && s.retiredQuads.contains (die, s.field 0 off 5 0) then
    match s.spareQuad die with
    | some p => (s.setReg 0 off (0x80 + p)).freshQuad die q
    | none => s.regClear 0 off 0x80
  else s

/-- PARTITION_REBUILD_DONE (R417). -/
def execPartitionRebuildDone (s : State) : Host.Outcome State Fault Refusal :=
  onSubject s (bitOf (s.reg 0 0xE500) 1)
    (((List.range 128).foldl (fun t q => t.rebuildQuad (q / 32) (q % 32)) s).regClear 0 0xE500 6)

/-! ## The tenant arbiter (R446 to R449) -/

/-- A valid entry of the message filter table. -/
def State.filterEntry (s : State) (i : Nat) : Option (List Byte) :=
  let q := s.reg 0 0xE600
  let e := s.physRead (slice q 45 12 * 4096 + 32 * i) 32
  if q % 16 == 0 || 2 ^ (q % 16) ≤ i || !bitOf (descField e 7 1) 0 then none else some e

/-- The batch of messages of a sender that the arbiter serves next (R448): in descending PRIO, then in the order of the
ticks at which they were read. -/
def State.nextBatch (s : State) (fn : Nat) : Option (Nat × Nat × Nat) :=
  (s.outboxes.find? fun b => b.1 == fn).filter fun b =>
    s.outboxes.all fun c => s.tenantPrio c.1 < s.tenantPrio fn || (s.tenantPrio c.1 == s.tenantPrio fn && b.2.2 ≤ c.2.2)

/-- A message served: its STATUS, then TAIL (R447, R448); with the last of its batch, the batch is over. -/
def State.messageDone (s : State) (fn slot status : Nat) : State :=
  let n := (s.outboxTail fn + 1) % 2 ^ 32
  let s1 := (s.ringWrite fn (slot + 2) (toBytes 1 status)).ringWrite fn (s.outboxBase fn + 4) (toBytes 4 n)
  match s.outboxes.find? fun b => b.1 == fn with
  | some b => if b.2.1 == n then { s1 with outboxes := s1.outboxes.erase b } else s1
  | none => s1

/-- A message enqueued (R448): its arguments, the launch descriptor, HEAD, then SEQ, STATUS and TAIL. -/
def State.enqueue (s : State) (fn slot filter : Nat) (e m : List Byte) (v : QueueView) (i : Nat) : State :=
  let dst := descField e 2 2
  let n := min 8 (descField e 6 1)
  let argAt := descField e 24 8 + 64 * i
  let t := s.physRead (descField e 16 8) 128
  let desc := t.take 16 ++ (m.drop 4).take 4 ++ (t.drop 20).take 6 ++ toBytes 1 (descField e 6 1) ++ (t.drop 27).take 5 ++
    toBytes 8 argAt ++ t.drop 40
  let head := s.qcb v 0 4
  let seq := v.tail + (head + 2 ^ 32 - v.tail % 2 ^ 32) % 2 ^ 32
  let s1 := s.ringWrite dst argAt ((m.drop 64).take (8 * n))
  let s2 := s1.ringWrite dst (s.qcb v 8 8 + 128 * (head % 2 ^ s.qcb v 16 1)) desc
  let s3 := s2.setQcb v 0 4 ((head + 1) % 2 ^ 32)
  let msg : ArbMessage := { src := fn, filter, dst, queue := v.queue, argSlot := i, seq, statusPa := slot + 2 }
  ({ s3 with arbiter := s3.arbiter ++ [msg] }.ringWrite fn (slot + 8) (toBytes 8 seq)).messageDone fn slot 1

/-- The next message of an outbox served (R448); one to a function under reset is aborted (R449). An outbox that has left the ranges of
R420 is not read (log 31). -/
def State.serveMessage (s : State) (fn : Nat) : State :=
  if !s.outboxOk fn then { s with outboxes := s.outboxes.filter fun b => b.1 != fn }
  else
    let slot := s.outboxBase fn + 128 + 128 * (s.outboxTail fn % 2 ^ (s.outbox fn % 16))
    let m := s.physRead slot 128
    let filter := descField m 0 2
    match (s.filterEntry filter).filter fun e => descField e 0 2 == fn with
    | none => s.messageDone fn slot 3
    | some e =>
      let dst := descField e 2 2
      let queue := descField e 4 1
      let flying := s.arbiter.filter fun x => x.src == fn && x.filter == filter
      if s.resets.contains dst then s.messageDone fn slot 5
      else if descField m 4 4 == 0 || descField e 8 4 < descField m 4 4 || !(queue < 64 && s.queueOn dst queue) then
        s.messageDone fn slot 3
      else match s.view? dst queue, (List.range (descField e 5 1)).find? fun i => !flying.any fun x => x.argSlot == i with
        | none, _ => s.messageDone fn slot 3
        | some _, none => s.messageDone fn slot 4
        | some v, some i => s.enqueue fn slot filter e m v i

/-- ARBITER_MESSAGE (R448): the next message of a sender whose turn it is. -/
def execArbiterMessage (fn : Nat) (s : State) : Host.Outcome State Fault Refusal :=
  onFound s (s.nextBatch fn) fun _ => s.serveMessage fn

/-- The messages that have been read are served in the arbiter's order (R448), up to a number of them. -/
def State.serveRead : Nat → State → State
  | 0, s => s
  | n + 1, s => match (s.outboxes.map fun b => b.1).find? fun f => (s.nextBatch f).isSome with
    | some f => State.serveRead n (s.serveMessage f)
    | none => s

/-- What a reset does to messages (R449): those of the function that are not enqueued go, and its slots are free; those
to it get STATUS 5. Messages read before one to it are served before it. -/
def State.resetMessages (s : State) (fn : Nat) : State :=
  let s1 := { s with outboxes := s.outboxes.filter fun b => b.1 != fn }
  let inbound := s1.arbiter.filter fun m => m.dst == fn && m.src != fn
  let s2 := { inbound.foldl (fun t m => t.ringWrite m.src m.statusPa [5#8]) s1 with
    arbiter := s1.arbiter.filter fun m => m.dst != fn && m.src != fn }
  State.serveRead ((s2.outboxes.map fun b => b.1).eraseDups.map fun f => 2 ^ (s2.outbox f % 16)).sum s2

/-! ## Tenant reset (R443 to R445) -/

/-- FNRST of a function. -/
def fnRst (fn : Nat) : Nat := 0xA028 + fn * 0x40

/-- The collective operations that wait for a rank of a function in this package (R444). -/
def State.waitsForFn (s : State) (e : EngineOp) (fn : Nat) : Bool :=
  e.isColl && e.coll.checked && e.fn != fn && (match s.collGroup e with
    | .ok d => (e.lacks d).any fun k => groupPkg d k == s.pkgNum && groupFn d k == fn
    | _ => false)

/-- The answer of the completer of last resort to the ranks of other packages that wait for an operation (R444): data
of one byte behind the peer's function and rank, which is no send buffer (log 28). -/
def State.abortRanks (s : State) (e : EngineOp) : State :=
  match s.collGroup e with
  | .ok d => if !e.coll.checked then s else
    ((e.lacks d).filter fun k => groupPkg d k != s.pkgNum).foldl (fun t k =>
      t.sendFlit 16 (groupPkg d k) e.fn e.coll.group e.coll.seq (rankBytes d k ++ [2#8])) s
  | _ => s

/-- A function's cohorts gone: their accepted matrix words complete, and nothing of them is left in their cores. -/
def State.discardCohorts (s : State) (fn : Nat) : State :=
  let mine (c : Cohort) : Bool := fnOf c.ctx == fn
  let gone := s.cohorts.filter mine
  let s1 := s.finishTags (gone.map Cohort.tag)
  { s1 with cohorts := s1.cohorts.filter fun c => !mine c
            unplaced := s1.unplaced.filter fun u => !mine u.cohort }.dropTraces gone |>.sweepSplits

/-- What a function has issued before its fence reaches the slices and performs; its writes to peers are dropped with the requests that
carry them (log 35). -/
def State.settleIssued (s : State) (fn : Nat) : State :=
  let s1 := (s.drainStores fun p => fnOf p.ctx == fn).serveWhere fun r => r.fn == fn
  { s1 with pendingStores := s1.pendingStores.filter fun p => fnOf p.ctx != fn
            peerReqs := s1.peerReqs.filter fun r => r.fn != fn }

/-- A function's records that are SENT are its own again; a late ACK meets REFUSE (R183). -/
def State.reclaimSent (s : State) (fn : Nat) : State :=
  s.records.foldl (fun t r => match r.place with
    | .sent pkg die _ =>
      if fnOf r.ctx == fn then { t.putRecord { r with place := t.binPlace fn r.die } with reclaimed := t.reclaimed ++ [(r.uid, pkg, die)] }
      else t
    | _ => t) s

/-- What other packages wait for of a function's exports is answered (R444): translation requests held back end aborted, and those
that wait for READY ask again, to meet the same. Recalls sent to it are not acknowledged. -/
def State.answerPeers (s : State) (fn : Nat) : State :=
  let pages := s.readyWaits.filter fun w => fnOf w.2.1 == fn
  (pages.foldl (fun (t : State) w => t.sendReady w.2.1 (faultPage w.2.2) (faultPage w.2.2 + 2 ^ 16))
    { s with recalls := s.recalls.filter fun x => x.2.2 != fn }).answerHeld

/-- The fence (R443, R444): nothing of the function starts, its cohorts are discarded, its operations end ABORTED, and
what waits for it is answered. Its launches will complete with status 2 (R402). -/
def State.fence (s : State) (fn : Nat) : State :=
  let s0 : State := { s with
    resets := fn :: s.resets.filter (· != fn)
    launches := s.launches.map fun (l : Launch) => if l.fn == fn && !l.complete && l.status == 0 then { l with status := 2 } else l }
  let mine := s0.engines.filter fun e => e.fn == fn
  let s1 := (s0.engines.filter fun e => s0.waitsForFn e fn).foldl State.abortEngine s0
  let s2 := mine.foldl (fun t e => (t.abortRanks e).abortEngine e) s1
  ((((s2.discardCohorts fn).settleIssued fn).reclaimSent fn).answerPeers fn).resetMessages fn

/-- TENANT_RESET (R443): ignored while BUSY. -/
def execTenantReset (fn : Nat) (s : State) : Host.Outcome State Fault Refusal :=
  onWrite (isFn fn) s (if bitOf (s.reg 0 (fnRst fn)) 1 then s else (s.regSet 0 (fnRst fn) 2).fence fn)

/-- A range of HBM zeroed, its sectors written whole at their controllers (R464, R480). -/
def State.zeroRange (s0 : State) (r : Range) : State :=
  let s := (List.range ((r.2 + 63) / 64)).foldl (fun t i =>
    let pa := r.1 + 64 * i
    t.dramServe { fn := 0, pa, bank := t.bankOf pa, row := rowOf pa, write := true, since := t.clock }) s0
  { s.healRange r with
    mem := s.mem.filter fun c => c.1 < r.1 || r.1 + r.2 ≤ c.1
    undef := s.undef.flatMap fun u =>
             if u.2 < r.1 || r.1 + r.2 ≤ u.1 then [u]
             else (if u.1 < r.1 then [(u.1, r.1 - 1)] else []) ++ (if r.1 + r.2 ≤ u.2 then [(r.1 + r.2, u.2)] else []) }

/-- A function's own aperture at its reset values (R443). -/
def State.resetAperture (s : State) (fn : Nat) : State :=
  { s with regs := s.regs.filter fun r => !(r.fn == fn && (fnRegSpec fn r.off).isSome) }

/-- The records and frames of a function discarded (R184), with the operations that wait in them, and its launches complete (R402). -/
def State.discardRecords (s : State) (fn : Nat) : State :=
  let live := s.launches.filter fun l => l.fn == fn && !l.complete
  let s1 := live.foldl (fun t l => t.endLaunch l.num l.status) s
  let s2 := { s1 with records := s1.records.filter fun r => fnOf r.ctx != fn
                      engines := s1.engines.filter fun e => e.fn != fn
                      attic := s1.attic.filter fun a => a.fn != fn
                      lost := s1.lost.filter fun x => x.1 != fn }
  live.foldl State.completeLaunch s2.sweepTiles.freeChains

/-- What is held of a function's translations (R443, R48, R53), with the pages and shootdowns that nothing of it waits
for any more (DEDUCED, log 35). A `tlbinv` that waits for such a shootdown goes on (R298), and the recall of a lease that the function
held is not acknowledged. -/
def State.dropTranslations (s : State) (fn : Nat) : State :=
  let keep (ctx : Nat) : Bool := fnOf ctx != fn
  let over_ := (s.shootdowns.filter fun x => !keep x.ctx).map Shootdown.ctx
  let t : State := { s with
    tlbs := s.tlbs.filter fun t => keep t.ctx
    walkCache := s.walkCache.filter fun w => keep w.ctx
    fetchLines := s.fetchLines.filter fun l => keep l.ctx
    rtc := s.rtc.filter fun r => keep r.ctx
    oneTime := s.oneTime.filter fun x => keep x.2.ctx
    heldLeases := s.heldLeases.filter fun x => x.2.2.1 != fn
    lostLeases := s.lostLeases ++ (s.heldLeases.filter fun x => x.2.2.1 == fn).map fun x => (x.1, x.2.1)
    recalls := s.recalls.filter fun x => x.2.2 != fn
    replicas := s.replicas.filter fun r => keep r.ctx
    accessCounts := s.accessCounts.filter fun a => keep a.ctx
    hinted := s.hinted.filter fun h => keep h.2.1
    collapsed := s.collapsed.filter fun p => keep p.1
    rdupWrites := s.rdupWrites.filter fun p => keep p.1
    migWindows := s.migWindows.filter fun w => keep w.1
    faults := s.faults.filter fun e => keep e.ctx
    shootdowns := s.shootdowns.filter fun x => keep x.ctx }
  over_.foldl State.shootWake t

/-- The ranges that a reset zeroes: the Cellar, the Attic and the save area (R184, R443). -/
def State.resetRanges (s : State) (fn : Nat) : List Range :=
  let save := s.reg 0 (0xA000 + fn * 0x40 + 0x20)
  (if bitOf (s.cellarReg fn 0x38) 0 then s.cellarRanges fn else []) ++
    (if save == 0 then [] else [(save, s.quadCount fn * 2 ^ 22)])

/-- TENANT_RESET_DONE (R443). -/
def execTenantResetDone (fn : Nat) (s : State) : Host.Outcome State Fault Refusal :=
  onSubject s (isFn fn && bitOf (s.reg 0 (fnRst fn)) 1)
    (let s1 := (s.discardRecords fn).l2Flush fun l => bitOf (s.wayMask fn) l.way
     let s2 := (s.resetRanges fn).foldl State.zeroRange (s1.dropTranslations fn)
     let s3 := { s2.resetAperture fn with
       saves := s2.saves.filter fun b => b.fn != fn
       semaphores := s2.semaphores.filter fun x => x.fn != fn
       queueViews := s2.queueViews.filter fun v => v.fn != fn
       launches := s2.launches.filter fun l => l.fn != fn
       fatalPending := s2.fatalPending.filter fun p => p.1 != fn
       resets := s2.resets.filter (· != fn) }
     (s3.regClear 0 (fnRst fn) 2).regSet 0 (fnRst fn) 4)

/-! ## Power gating of a die (R183, R387) -/

/-- Whether a handoff of a die is in transit. -/
def State.handoffOn (s : State) (die : Nat) : Bool :=
  s.transits.any fun x => match x.place with
    | .sent _ d _ | .pending _ d => x.die == die || d == die
    | _ => false

/-- The engine records of a die return to its queue (R387), but for those whose function has not had its quads restored (R489). -/
def State.returnDie (s : State) (die : Nat) : State :=
  (s.records.filter fun r => r.kind == .engine && r.place == .waiting && r.event == .none && r.die == die).foldl
    (fun t r => match r.engine.bind t.engine? with
      | some e => if t.engineAway e then t else t.engineResume e.id
      | none => t) s

/-- DIE_POWER_GATING (R183, R387): once every handoff of the die has resolved the die is gated, and its operations are
asked to leave their channels; of a gated die, its power returns (log 36). -/
def execDiePowerGating (die : Nat) (s : State) : Host.Outcome State Fault Refusal :=
  if s.gatedDies.contains die then .next ({ s with gatedDies := s.gatedDies.filter (· != die) }.returnDie die)
  else onSubject s (isDie die && !s.handoffOn die) { s with gatedDies := s.gatedDies ++ [die] }

end Sys2Proof.Machine
end

