-- ==== Sys2Proof/Machine/HostEvents.lean ====
section
/-! DEFINITION. What the host sees of registers (spec/00 R7), its accesses through BAR2 (spec/16 R467), the mailbox and
DBGCTL (spec/15 R460, R461), self-tests (R465, R466), firmware, attestation and the boot (spec/16 R476 to R478), and
power (R479). -/

namespace Sys2Proof.Machine

open Sys2Proof

/-! ## Registers as the host reads them -/

/-- CELLAROCC and ATTICOCC (R156, R157). -/
def State.cellarOcc (s : State) (fn : Nat) : Nat := s.storedBays fn false * 2 ^ 32 + s.cellarCharged fn
def State.atticOcc (s : State) (fn : Nat) : Nat := s.storedBays fn true * 2 ^ 32 + s.atticCharged fn

/-- The fields of a register that follow from the rest of the state: IDLE and BADHEAP (R23), the occupancies (R156,
R157), and BAD of the Cellar and of a format window (R105, R156). -/
def State.derived (s : State) (fn off : Nat) : Nat :=
  if 0x1000 ≤ off && off < 0x1400 && off % 0x80 == 0x58 then
    (let ctx := 8 * fn + (off - 0x1000) / 0x80
     (if s.ctxIdle ctx then 1 else 0) + (if s.badHeap ctx then 2 else 0))
  else if off == 0x1700 then s.cellarOcc fn
  else if off == 0x1708 then s.atticOcc fn
  else if fn != 0 then 0
  else if 0x4000 ≤ off && off < 0x8040 && off % 0x40 == 0x28 then s.cellarOcc ((off - 0x4000) / 0x40)
  else if 0x4000 ≤ off && off < 0x8040 && off % 0x40 == 0x30 then s.atticOcc ((off - 0x4000) / 0x40)
  else if 0x4000 ≤ off && off < 0x8040 && off % 0x40 == 0x38 then (if s.cellarBad ((off - 0x4000) / 0x40) then 2 else 0)
  else if 0x2200 ≤ off && off < 0x2400 && off % 0x40 == 0x30 then (if s.windowBad ((off - 0x2200) / 0x40) then 4 else 0)
  else 0

/-- What a host read of a register returns: zero until READY is set (R478). -/
def State.barRead (s : State) (fn off : Nat) : Nat := if s.booted then s.reg fn off ||| s.derived fn off else 0

/-! ## The mailbox and DBGCTL (R458, R460, R461) -/

/-- The debug window of a function's dense core. -/
def debugWindow (core : Nat) : Nat := 0x10000 + core * 0x200

/-- MBIN_WRITE (R461). -/
def execMbinWrite (fn core : Nat) (val : Word64) (s : State) : Host.Outcome State Fault Refusal :=
  let st := debugWindow core + 0x80
  onWrite (isFn fn && core < Config.coreCount) s
    ((s.setReg fn (debugWindow core + 0x70) (val.toNat % 2 ^ 63)).regSet fn st (if bitOf (s.reg fn st) 0 then 5 else 1))

/-- MBOUT_READ (R461). -/
def execMboutRead (fn core : Nat) (s : State) : Host.Outcome State Fault Refusal :=
  let off := debugWindow core + 0x78
  let seen : State := { s with hostReads := s.hostReads ++ [(fn, 0, off, .data (toBytes 8 (s.barRead fn off)))] }
  onSubject s (isFn fn && core < Config.coreCount) (if s.booted then seen.regClear fn (debugWindow core + 0x80) 2 else seen)

/-- A cohort that `DBGCTL.HALT` names halts at once where no latch value is live, and else at its next boundary
without one (R236). -/
def State.debugHalt (s : State) (uid : Nat) : State :=
  match s.cohort? uid with
  | none => s
  | some c => if s.canHalt c then s.haltNow c 5 else { s with halts := (c.placed, 5) :: s.halts }

/-- DBGCTL_HALT (R460): every cohort of the function that is resident on the core. -/
def execDbgctlHalt (fn core : Nat) (s : State) : Host.Outcome State Fault Refusal :=
  onWrite (isFn fn && core < Config.coreCount) s
    (match s.coreOfDense fn core with
     | none => s
     | some k => ((s.cohorts.filter fun c => c.core == k && fnOf c.ctx == fn).map Cohort.uid).foldl State.debugHalt s)

/-! ## Host accesses through BAR2 (R467) -/

/-- The size of a function's BAR2. -/
def bar2Size (fn : Nat) : Nat := if fn == 0 then 2 ^ 40 else 2 ^ 35

/-- The physical address of an offset of a function's BAR2; none while its window is disabled. -/
def State.bar2Pa (s : State) (fn off : Nat) : Option Nat :=
  if fn == 0 then some off
  else
    let d := s.reg 0 (0x8100 + (fn - 1) * 8)
    if bitOf d 0 then some (slice d 45 30 * 2 ^ 30 + off) else none

/-- The address that an access reaches, or none where R467 refuses it. -/
def State.bar2Access (s : State) (fn off n : Nat) : Option Nat :=
  (s.bar2Pa fn off).filter fun pa => Range.inHbm (pa, n) && s.assigned fn (pa, n) && !s.isProtected (pa, n)

/-- A completion of a host's read or atomic. -/
def State.hostAnswer (s : State) (fn off : Nat) (d : HostReply) : State :=
  { s with hostReads := s.hostReads ++ [(fn, 2, off, d)] }

/-- A host's read or atomic that completes with Unsupported Request, which HOSTDROP counts (R467). -/
def State.hostRefused (s : State) (fn off : Nat) : State := (s.regInc fn 0x1C30).hostAnswer fn off .unsupported

/-- A host's read of some bytes through BAR2 (R467): data, Unsupported Request counted in HOSTDROP, or Completer Abort with
its error posted; and, with the data, what follows. -/
def State.hostReads? (s : State) (fn off n : Nat) (k : Nat → List Byte → State → State) : State :=
  match s.bar2Access fn off n with
  | none => s.hostRefused fn off
  | some pa => match s.badIn (.hbm pa) n with
    | some b => (s.enterError b fn).hostAnswer fn off .aborted
    | none => let d := s.performedRead (.hbm pa) n
      k pa d (s.hostAnswer fn off (.data d))

/-- HOST_READ (R467). -/
def execHostRead (fn off bytes : Nat) (s : State) : Host.Outcome State Fault Refusal :=
  onSubject s (isFn fn && off + bytes ≤ bar2Size fn)
    (s.hostReads? fn off bytes fun pa _ t => t.askRange fn pa bytes .load (t.isUncached fn 0))

/-- A host's atomic through BAR2: it returns the last entry and writes at its step (R125). Which AtomicOps the package completes, and
that each is as R467 has a read, is DEDUCED (log 50): those that it issues itself (R363), at an aligned address, and none on a view
range, where no atomic operation works (R110). -/
def State.hostAtomic (s : State) (fn off : Nat) (op : AtomicOp) (wide : Bool) (operand compare : Word64) : State :=
  let n := if wide then 8 else 4
  let view : Bool := (s.bar2Access fn off n).any fun pa => (s.viewOf pa).isSome
  if off % n != 0 || !(op == .add || op == .xch || op == .cas) || view then s.hostRefused fn off
  else s.hostReads? fn off n fun pa d t =>
    t.agentWrite fn pa (toBytes n (atomicNew op (8 * n) (ofBytes d) operand.toNat compare.toNat)) (t.isUncached fn 0)

/-- A host's write through BAR2 (R467): performed sector by sector, or dropped and counted. -/
def State.hostStore (s : State) (fn off : Nat) (data : List Byte) : State :=
  match s.bar2Access fn off data.length with
  | none => s.regInc fn 0x1C30
  | some pa => s.agentWrite fn pa data (s.isUncached fn 0)

/-- HOST_WRITE (R467), and the host's writes of its own memory and its atomics, which perform at their issue (R125). -/
def execHostWrite (fn off : Nat) (store : HostStore) (s : State) : Host.Outcome State Fault Refusal :=
  match store with
  | .device data => onSubject s (isFn fn && off + data.length ≤ bar2Size fn) (s.hostStore fn off data)
  | .atomic op wide operand compare =>
    onSubject s (isFn fn && off + 8 ≤ bar2Size fn) (s.hostAtomic fn off op wide operand compare)
  | .own data => .next (s.perform (.host off) data false none (some 1))

/-! ## Self-tests and retirement (R465, R466) -/

/-- The record of a verdict (R466). Its SEVERITY is a free value: the manual states none (log 1). -/
def State.postVerdict (s : State) (u : HwUnit) (verdict : Nat) : State :=
  let sev := s.free % 3
  let t := { s with freeCtr := s.freeCtr + 1 }
  match u with
  | .coreUnit code core row => t.postError code sev verdict (dieOf core) (core % Config.coresPerDie) row 0 0xFFFF
  | .sliceRow die slice row => t.postError 2 sev verdict die slice row 0 0xFFFF
  | .hbmRow stack row => t.postError 1 sev verdict (stack / 4) (stack % 4) row 0 0xFFFF
  | .linkLane link lane => t.postError 8 sev verdict 0 link lane 0 0xFFFF

/-- A unit retired (R465). The controller's repair of an HBM row shows nowhere. -/
def State.retire (s : State) (u : HwUnit) : State :=
  match u with
  | .coreUnit _ core _ =>
    let q := (dieOf core, s.field 0 (qmapOff (dieOf core) (core / 4 % 32)) 5 0)
    { s.putCore { s.core core with markedOut := true } with retiredQuads := s.retiredQuads ++ [q] }.regSet 0 0xE500 4
  | .sliceRow die slice row => { s with retiredWays := s.retiredWays ++ [(die, slice, row)] }
  | .hbmRow _ _ => s
  | .linkLane link lane => s.retireLane link lane

/-- Whether the tables in force and pending place no handover edge (R465). -/
def State.noHandover (s : State) : Bool :=
  !s.disabling && (s.table.toList ++ s.pendingTable.toList).all fun t =>
    (s.entryNow :: t.entries).all fun a => t.entries.all fun b => !handsOver a b

/-- Whether a scheduled test may run (R465): at once, in the drain window of a handover edge, at the first slot edge where no table
places one, or, while EN is 0, at the first wheel-turn boundary after the error. -/
def State.testReady (s : State) (t : UnitTest) : Bool :=
  t.atOnce || s.drain.isSome ||
    (if s.tableOn then s.noHandover && t.since < s.nextEdge - 125000 else (t.since / 1024 + 1) * 1024 ≤ s.clock)

/-- SELF_TEST (R465): the verdict of a scheduled test, and at a lasting one the unit's retirement. -/
def execSelfTest (unit : HwUnit) (lasting : Bool) (s : State) : Host.Outcome State Fault Refusal :=
  onFound s ((s.tests.find? fun t => t.unit == unit).filter s.testReady) fun t =>
    let u := { s with tests := s.tests.erase t }.postVerdict unit (if lasting then 2 else 1)
    if lasting then u.retire unit else u

/-! ## Firmware (R476) -/

/-- The magic bytes of a firmware image. -/
def firmwareMagic : List Byte := [0x58#8, 0x46#8, 0x57#8, 0x49#8]

/-- FIRMWARE_STAGE (R476): ignored while BUSY. -/
def execFirmwareStage (s : State) : Host.Outcome State Fault Refusal := onWrite true s (s.regSet 0 0xF998 1)

/-- FIRMWARE_STAGE_DONE (R476): a verified image is in the flash, for the next package reset. -/
def execFirmwareStageDone (s : State) : Host.Outcome State Fault Refusal :=
  onSubject s (bitOf (s.reg 0 0xF998) 0)
    (let len := s.reg 0 0xF988
     let (res, version, back) := s.checkImage firmwareMagic (s.reg 0 0xF980) len s.firmware.rollback
     let s1 := ((s.askImage (s.reg 0 0xF980) len).regField 0 0xF998 15 8 res).regClear 0 0xF998 1
     if res != 0 then s1
     else { s1 with firmware := { s1.firmware with staged := some (version, back, s.performedRead (.hbm (s.reg 0 0xF980)) len) } })

/-! ## Attestation (R477) -/

/-- Bytes 0 to 351 of a report, which its signature covers. -/
def State.reportBody (s : State) (fn : Nat) : List Byte :=
  let part := 0xA000 + fn * 0x40
  [0x58#8, 0x41#8, 0x54#8, 0x54#8] ++ toBytes 2 fn ++ toBytes 2 s.pkgNum ++
    ((List.range 8).flatMap fun i => toBytes 8 (s.reg fn (0x1F00 + 8 * i))) ++
    fit 64 (shake256 s.firmware.image) ++ fit 64 (shake256 s.firmware.distImage) ++
    (match s.table.filter fun _ => s.tableEn with
     | some t => fit 64 (shake256 t.image)
     | none => fit 64 []) ++
    fit 64 (shake256 (toBytes 8 (s.reg 0 part) ++ toBytes 8 (s.reg 0 (part + 8)) ++ toBytes 8 (s.reg 0 (part + 0x10)))) ++
    toBytes 4 s.firmware.version ++ toBytes 4 s.firmware.distVersion ++ toBytes 4 s.firmware.rollback ++
    toBytes 4 s.firmware.distRollback ++ toBytes 8 0

/-- A report: 3,680 bytes. The randomness of its signature is a free value (log 17). -/
def State.report (s : State) (fn : Nat) : List Byte :=
  s.reportBody fn ++ fit 3328 (dsaSign (dsaKey (fit 32 Config.identityEntropy)) (s.reportBody fn) (toBytes 32 s.free))

/-- ATTEST_REQUEST (R477): ignored while BUSY. -/
def execAttestRequest (fn : Nat) (s : State) : Host.Outcome State Fault Refusal := onWrite (isFn fn) s (s.regSet fn 0x1F48 2)

/-- ATTEST_DONE (R477). -/
def execAttestDone (fn : Nat) (s : State) : Host.Outcome State Fault Refusal :=
  onSubject s (isFn fn && bitOf (s.reg fn 0x1F48) 1)
    (((s.ringWrite fn (s.reg fn 0x1F40) (s.report fn)).regClear fn 0x1F48 2).regSet fn 0x1F48 4)

/-! ## The boot (R476, R478) -/

/-- The package reset: what lies outside it stays, which is the host's memory, the flash and the fused counters; HBM
holds nothing defined (log 34). -/
def State.packageReset (s : State) : State :=
  { State.reset with
    undef := [(0, Config.hbmBytes - 1)], hostMem := s.hostMem, hostReads := s.hostReads, irqs := s.irqs
    firmware := { s.firmware with failed := false }, badSectors := s.badSectors, agenda := s.agenda, freeCtr := s.freeCtr
    nextUid := s.nextUid, turn := s.turn }

/-- The image that the boot runs: its version, its rollback counter and its bytes. The staged one is first; with none,
or where its checks fail, the flash's previous image, of which the model holds the bytes once it has run here; whether
the checks of the one from manufacture pass is a free value (log 34). -/
def State.bootImage (s : State) : Option (Nat × Nat × List Byte) :=
  let f := s.firmware
  let old : Option (Nat × Nat × List Byte) :=
    if f.image.isEmpty then (if s.free % 2 == 0 then some (f.version, f.running, []) else none)
    else if (imageCheck firmwareMagic f.image f.rollback).1 == 0 then some (f.version, f.running, f.image) else none
  match f.staged with
  | some (version, back, bytes) => if (imageCheck firmwareMagic bytes f.rollback).1 == 0 then some (version, back, bytes) else old
  | none => old

/-- PACKAGE_BOOT (R476, R478): after a package reset, if the package was READY. The distributor runs the image's initial microcode, and
the fused counter ends at 255. A failure is reported in FWSTAT; which
check it names is a free value (log 34). -/
def execPackageBoot (s : State) : Host.Outcome State Fault Refusal :=
  let s0 := if s.booted then s.packageReset else s
  match s0.bootImage with
  | none =>
    .next { s0.regField 0 0xF998 15 8 (1 + s0.free / 2 % 4) with firmware := { s0.firmware with failed := true }, freeCtr := s0.freeCtr + 1 }
  | some (version, back, bytes) =>
    let f := { s0.firmware with distVersion := Config.initialVersion bytes % 2 ^ 32, distImage := Config.initialMicrocode bytes }
    .next ({ s0 with freeCtr := s0.freeCtr + 1
                     firmware := { f with version, running := back, rollback := max f.rollback (min 255 back), image := bytes
                                          staged := none, failed := false } }.regField 0 0xF998 63 32 version |>.regField 0 0x3018 63 32
      f.distVersion |>.regSet 0 0xF9F0 1)

/-! ## Power (R479) -/

/-- THERMAL_THROTTLE: no result changes (R4). -/
def execThermalThrottle (s : State) : Host.Outcome State Fault Refusal := .next { s with matrixDuty := 1 }

/-- THERMAL_SHUTDOWN: every function is fenced, and the power goes. -/
def execThermalShutdown (s : State) : Host.Outcome State Fault Refusal :=
  .next { (List.range Config.functionCount).foldl State.fence s with powered := false }

end Sys2Proof.Machine
end

