-- ==== Sys2Proof/Machine/Hardware.lean ====
section
/-! DEFINITION. The events that the part has next by itself, as the state enables them (log 2): those that come first,
those that fall due within the current package tick, and all the others. Inputs from outside, and the choices that the
manual leaves to the part with no rule (forwarding, refreshes, other team moves), come from the agenda alone. -/

namespace Sys2Proof.Machine

open Sys2Proof

/-! ## What comes first -/

/-- Shootdowns (R33, R35): the agents that can acknowledge, one at a time. -/
def State.shootEvents (s : State) : List Instr :=
  s.shootdowns.flatMap fun d =>
    if d.waiting.isEmpty then [.shootdownDone d.ctx]
    else ((d.waiting.filter fun o => !s.agentBusy o d.epoch).take 1).map fun o => .shootdownAck d.ctx o

/-- Halts at a boundary without a live latch (R236), the checkpoints of operations that must leave their channels (R387, R434), and
quads whose last step is done (R438); then shootdowns. -/
def State.urgent (s : State) : List Instr :=
  (s.cohorts.filterMap fun c => (s.haltDue c).map fun k => .haltRequest c.uid k) ++
    ((s.engines.filter fun e => e.state == .running && e.coll.progress == 0 && s.engineHalted e).map fun e =>
      .engineCheckpoint e.id) ++ (if s.lateQuads.any s.quadDone then [.drainWindowEnd] else []) ++ s.shootEvents

/-! ## What falls due (log 5) -/

/-- The events of a slot table and its drain, with their cycles (R421, R433, R437, R438). -/
def State.tableDue (s : State) : List (Nat × Instr) :=
  (if s.tableOn && s.curSlot < 15 && s.drain.isNone then [(s.nextEdge, .slotEdge)] else []) ++
    (if (s.tableEn || s.disabling) && s.drain.isNone && (!s.tableOn || s.curSlot == 15) then [(s.nextFrame, .frameBoundary)]
     else []) ++
    match s.drain with
    | none => []
    | some d =>
      (if s.engines.any fun e => d.outgoing.contains e.fn && e.state == .running then [(d.edge + 9000, .engineOverrun)] else []) ++
        [(d.edge + 10000, .drainWindowEnd)]

/-- The events of the wheel and the pod tick, with their cycles (R427, R475). -/
def State.tickDue (s : State) : List (Nat × Instr) :=
  [(1024 * s.wheelTurns, .wheelTurn)] ++
    (if s.podOn && s.podMaster == s.pkgNum then [(s.podNext, .podTickSend)] else []) ++
    s.podPending.map fun p => (p.2, .podTickAdopt p.1)

/-- Rows that no request has used for 128 cycles (R79), and handoffs with no answer for 2,000 (R182). -/
def State.idleDue (s : State) : List (Nat × Instr) :=
  (s.dramRows.map fun r => (r.used + 128, .rowIdleClose r.bank)) ++
    s.transits.filterMap fun x => match x.place with
      | .sent _ _ since => some (since + 2000, .handoffTimeout x.uid)
      | _ => none

/-- The ends of counter windows (R44), for contexts that have counts or a MIGCTL of their own, and shootdowns that have
lasted 50 µs (R36). -/
def State.windowDue (s : State) : List (Nat × Instr) :=
  let own := s.regs.filterMap fun r =>
    if 0x1000 ≤ r.off && r.off < 0x1400 && r.off % 0x80 == 0x38 then some (8 * r.fn + (r.off - 0x1000) / 0x80) else none
  (((s.accessCounts.map AccessCount.ctx ++ s.migWindows.map Prod.fst ++ own).eraseDups.filter isCtx).map fun k =>
      (s.nextWindow k, .migrationWindow k)) ++
    (s.shootdowns.filter fun d => !d.late).map fun d => (d.since + 50000, .shootdownTimeout d.ctx)

/-- The earliest event that falls due within the current tick. -/
def State.nextDue (s : State) : Option Instr :=
  (((s.tableDue ++ s.tickDue ++ s.idleDue ++ s.windowDue).filter fun p => s.due p.1).foldl (fun m p => match m with
    | some b => if p.1 < b.1 then some p else m
    | none => some p) none).map Prod.snd

/-! ## The Cobbler and the distributor -/

/-- The next drain of each die (R407). -/
def State.drains (s : State) : List Instr :=
  (List.range 4).filterMap fun die =>
    ((s.records.filterMap fun r =>
        if r.die == die then (s.drainClass r).map fun k => (s.drainOrder r k, r.uid) else none).foldl (fun m p => match m with
      | some b => if before p.1 b.1 then some p else m
      | none => some p) none).map fun p => .cobblerDrain p.2

/-- The next placement of each die (R406). -/
def State.placements (s : State) : List Instr :=
  (List.range 4).filterMap fun die =>
    ((s.unplaced.filter fun u => u.die == die && ((s.placeCore u).isSome || (s.farCore u).isSome)).foldl (fun m u => match m with
      | some b => if u.rank < b.rank || (u.rank == b.rank && before u.order b.order) then some u else m
      | none => some u) none).map fun u => .placement u.cohort.uid

/-- Waits that have lasted too long (R205, R211, R408). -/
def State.timeouts (s : State) : List Instr :=
  ((s.unplaced.filter s.placeLate).map fun u => .placementWaitTimeout u.cohort.uid) ++
    ((s.cohorts.filter fun c => c.wait == .split && c.readyTime + 256 ≤ s.clock && s.canHalt c && !s.peerOpen c).map fun c =>
      .splitWaitTimeout c.uid) ++
    ((s.queueViews.filter fun v => bitOf (s.qcb v 17 1) 3 && v.since.elim false (fun t => t + 16384 ≤ s.clock) &&
        (s.creating v.fn v.queue).elim false fun l => (s.chooseInstance l v.bound).isNone && (s.preemptCore v.fn l.prio).isSome).map
      fun v => .priorityPreemption v.fn v.queue)

/-- Handoffs within the package (R182): the answer, then the commit. -/
def State.handoffs (s : State) : List Instr :=
  s.transits.filterMap fun x => match x.place with
    | .sent pkg _ _ => if pkg == s.pkgNum then some (.ack x.uid) else none
    | .pending pkg _ => if pkg == s.pkgNum then some (.commit x.uid) else none
    | _ => none

/-- Cohorts that a free issue slot takes (R409). -/
def State.slotTakes (s : State) : List Instr :=
  ((s.cohorts.filter Cohort.ready).map Cohort.core).eraseDups.filterMap fun k => (s.nextSlot k).map fun n => .issueSlotTake k n

/-- Teams that leave cores marked out (R465). -/
def State.teamMoves (s : State) : List Instr :=
  s.teams.filterMap fun t => (s.moveOut t).map fun ms => .teamMove t.launch.toNat t.num.toNat ms

/-- Launches that start and complete, and teams that are created (R400 to R402); and exhausted Cellars (R212). -/
def State.launchEvents (s : State) : List Instr :=
  ((s.queueViews.filter fun v => s.startReady v || s.depWait v).map fun v => .launchStart v.fn v.queue) ++
    ((s.queueViews.filter fun v => (s.nextTeam v.fn v.queue).isSome).map fun v => .teamCreate v.fn v.queue) ++
    ((s.launches.filter s.mayComplete).map fun l => .launchComplete l.num.toNat) ++
    (((s.records.map fun r => fnOf r.ctx).eraseDups.filter fun f => (s.exhausted f).isSome).map fun f => .cellarExhaustion f)

/-! ## Memory -/

/-- The wheel positions that have something to serve, at this cycle's place in the wheel (R427). -/
def State.positions (s : State) : List Instr :=
  let pos := s.clock % 1024 / 16
  (List.range 4).flatMap fun d =>
    (if s.requests.any fun r => r.link.isNone && homeDie (256 * r.line) == d then [.wheelPosition d 0 pos] else []) ++
      (if s.dramQueue.any fun r => r.bank.stack / 4 == d then [.wheelPosition d 1 pos] else []) ++
      (if s.requests.any fun r => r.link == some d then [.wheelPosition d 2 pos] else []) ++
      if s.fabricOut.any fun f => !f.left then [.wheelPosition d 3 pos] else []

/-- Wanted sectors that HBM has served (R69). -/
def State.fillEvents (s : State) : List Instr :=
  s.l2.flatMap fun l => (List.range 4).filterMap fun i =>
    let pa := l.line * 256 + 64 * i
    if l.want.getLsbD i && !s.dramQueue.any (fun r => r.pa == pa) then some (.sectorFill pa) else none

/-- Whether a core's load of a sector has been served at its slice. -/
def State.loadServed (s : State) (core pa : Nat) : Bool :=
  !(s.requests.any fun r => r.core == some core && r.kind == .load && r.line == pa / 256 && r.sectors.getLsbD (sectorNo pa)) &&
    (s.l2Line? pa).all fun l => !l.want.getLsbD (sectorNo pa)

/-- The fills of a core that can return (R60, R64). -/
def State.coreFills (s : State) (k : Core) : List Instr :=
  k.misses.filterMap fun m => match m.key with
    | .hbm n => if s.loadServed k.id (64 * n) then some (.l1Fill k.id (64 * n)) else none
    | _ => none

/-- The oldest write that waits for no slice. -/
def State.ackEvents (s : State) : List Instr :=
  ((s.pendingStores.find? fun p => p.here && !s.requests.any fun r => r.id == p.request).map fun p => Instr.storeAck p.core p.loc).toList

/-- What a cohort waits for (R65, R237, R366). -/
def State.waitEvents (s : State) (c : Cohort) : List Instr :=
  (if c.wait == .misses 0 && (s.core c.core).grantOf c.uid then [.retryReissue c.uid] else []) ++
    ((c.landings.filter fun l => !l.landed && l.unitWord.isNone).map fun l => .landing c.uid l.tag) ++
    match c.wait with
    | .xst _ _ => [.xstAccept c.uid]
    | .refused _ => [.xstAccept c.uid]
    | _ => []

/-- Slices, fills, stores, entries and landings. -/
def State.memoryEvents (s : State) : List Instr :=
  s.positions ++ s.fillEvents ++ s.cores.flatMap s.coreFills ++ s.ackEvents ++
    ((s.cores.filter fun k => !k.grantQueue.isEmpty && (s.grantHead k.id).elim false fun h =>
      s.missUsed k.id + h.2 ≤ Config.missEntries).map fun k =>
      .missStatusGrant k.id) ++
    s.cohorts.flatMap s.waitEvents ++ ((s.cores.filter fun k => !k.matrixQueue.isEmpty).map fun k => .matrixUnitExecute k.id) ++
    s.flushing.map fun n => .formatFlushDone n

/-! ## Engines -/

/-- The ranks of this package whose data an operation can take now. -/
def State.stagePeers (s : State) (e : EngineOp) : List Nat :=
  match s.collGroup e with
  | .ok d => (e.lacks d).filter fun k => groupPkg d k == s.pkgNum && (s.collPeer e d k).isSome
  | _ => []

/-- Whether an operation's next chunk can be tried: a collective's once it has every rank's data. -/
def State.chunkReady (s : State) (e : EngineOp) : Bool :=
  s.engineRuns e && (if e.isColl && e.coll.checked then
      e.coll.progress == 0 && e.done < s.engineTotal e && (match s.collGroup e with
        | .ok d => (e.lacks d).isEmpty
        | _ => true)
    else e.done < s.engineTotal e || e.isColl)

/-- The events of one operation. -/
def State.engineEvents (s : State) (e : EngineOp) : List Instr :=
  (if s.chunkReady e then [.engineChunkDone e.id] else []) ++
    (if (e.state == .running || e.state == .queued) &&
        !s.engineAway e && (e.ended.isSome || (e.done == s.engineTotal e && (!e.isColl || e.coll.checked))) then [.engineOpDone e.id] else []) ++
    (if e.isColl && e.coll.checked && s.collAborted e then [.collectiveAbort e.id]
     else if e.isColl && e.state == .running && e.coll.progress != 0 then [.collectiveStageDone e.id]
     else if e.isColl && e.coll.checked && s.engineRuns e then (s.stagePeers e).map fun k => .collectiveData e.id k []
     else [])

/-! ## Commands in progress -/

/-- The functions whose register at an offset has a bit. -/
def State.fnsWith (s : State) (off bit : Nat) : List Nat :=
  (s.regs.filter fun r => r.off == off && r.val.getLsbD bit).map RegCell.fn

/-- Leases whose wait is over (R52). -/
def State.leaseEvents (s : State) : List Instr :=
  (s.leases.filter fun l => l.expiry + 1 ≤ s.podTick).map fun l => .leaseExpiry l.id

/-- Commands of registers that are in progress. -/
def State.commandEvents (s : State) : List Instr :=
  (List.range 4).flatMap (fun d =>
    (if bitOf (s.reg 0 (repOff d 0x10)) 8 then [.replicaCommandDone d] else []) ++
      if s.hashOpen d && !s.hashReady d then [.hashReady d] else []) ++
    ((List.range 8).filter fun w => s.windowOn w && !s.windowActive w).map (fun w => .formatWindowActive w) ++
    (if s.distBusy then [.distLoadDone] else []) ++ (if bitOf (s.reg 0 0xF998) 0 then [.firmwareStageDone] else []) ++
    (if bitOf (s.reg 0 0xE500) 1 then [.partitionRebuildDone] else []) ++
    (if s.routeOpenNow && s.fabricQuiet then [.routeReady] else []) ++
    (s.resets.filter fun f => isFn f && bitOf (s.reg 0 (fnRst f)) 1).map (fun f => .tenantResetDone f) ++
    ((s.fnsWith 0x1F48 1).filter isFn).map (fun f => .attestDone f) ++
    (((s.outboxes.map fun b => b.1).eraseDups.filter fun f => (s.nextBatch f).isSome).map fun f => .arbiterMessage f) ++
    (s.tests.filter s.testReady).map fun t => .selfTest t.unit (s.free % 2 == 1)

/-- Every other event, and the end of the tick. -/
def State.others (s : State) : List Instr :=
  s.slotTakes ++ s.placements ++ s.drains ++ s.timeouts ++ s.handoffs ++ s.teamMoves ++ s.launchEvents ++ s.memoryEvents ++
    s.engines.flatMap s.engineEvents ++ s.leaseEvents ++ s.commandEvents ++ [.packageHeartbeat]

/-- The event that comes next: one that comes first, one that falls due, or, among the others, each in its turn. -/
def State.agent (s : State) : Instr :=
  match s.urgent, s.nextDue with
  | i :: _, _ => i
  | [], some i => i
  | [], none => s.others.getD (s.turn / 8 % s.others.length) .packageHeartbeat

end Sys2Proof.Machine
end

