-- ==== Sys2Proof/Machine/After.lean ====
section
/-! DEFINITION. What each step ends with: watches (spec/12 R378), bins (spec/05 R178), time (log 5), and
which agent comes next (log 2). -/

namespace Sys2Proof.Machine

open Sys2Proof

/-- The package cycle after a step: some cycle of the same tick, not earlier (log 5). -/
def State.laterClock (s : State) : Nat := s.clock + s.free % (256 - s.clock % 256)

/-- A cohort that waits for a split goes on once a table entry and a cohort slot are free (R205). -/
def State.splitWake (s : State) (c : Cohort) : State :=
  if c.wait == .split && (s.freeSlot c.core).isSome && (c.reconv == 0 || (s.core c.core).freeEntry.isSome) then
    s.putCohort { c with wait := .none, readyTime := s.clock }
  else s

/-- Waits for a split that are over, and halts whose cohorts have gone. -/
def State.settleSplits (s : State) : State :=
  if s.cohorts.any fun c => c.wait == .split then s.cohorts.foldl State.splitWake s else s
def State.settleHalts (s : State) : State :=
  { s with halts := s.halts.filter fun h => s.cohorts.any fun c => c.placed == h.1 }

/-- What follows each step: the watched locations and the references' bins; what moves by itself in the DRAM and the engines; the
images of what has changed; and what no core can read behind any more. -/
def State.after (s : State) : State :=
  let s1 := ((List.range 4).foldl State.binRefill s.settleWatches).settleSplits.settleHalts.settleImports.settleEngines.settleSlots.noteWaits
  let s2 := s1.storeDrift.settleOwed.dramDrift.enginesDrift.settleImages.forget
  { s2 with clock := s.laterClock, freeCtr := s2.freeCtr + 1, turn := s2.turn + 1, cur := none }

/-- One turn in eight is another agent's, as is every turn while no cohort can issue. -/
def State.agentTurn (s : State) : Bool := s.turn % 8 == 7

/-- STATEERR at the cohort that holds the state, at the word that uses it (R462, R463), with its record (R466). -/
def State.stateError (s : State) (c : Cohort) (word : Word64) : State :=
  (s.coreError 6 1 c.core 0 (fnOf c.ctx)).takeTrap { c with bad := [] } word { code := .stateerr, detail := 6 } []

/-- What a cohort does at a boundary before its next word: STEP after the word that has been performed (R454), PEERABORT of a write to a
peer (log 10), and a halt that is wanted (R236), or nothing. -/
def State.boundary (s : State) (c : Cohort) : Option State :=
  match c.stepDue, s.abortedWrite c.uid, s.haltDue c with
  | some w, _, _ => some (s.stepTrap c w)
  | none, some r, _ => some (s.takeTrap c (s.wordAt c) { code := .peerabort, addr := r.va } [])
  | none, none, some k => some (s.haltNow c k)
  | none, none, none => none

/-- BREAK at a word whose address matches a breakpoint (R451, R459). -/
def State.breakAt (s : State) (c : Cohort) (n : Nat) : State :=
  s.takeTrap c (match s.fetch c c.pc with | .ok w => w | _ => 0#64) { code := .break_, detail := n } []

end Sys2Proof.Machine
end

