-- ==== Sys2Proof/Machine/Apertures.lean ====
section
/-! DEFINITION. REGISTER_WRITE (spec/00 R7): a write of a value to a register of an aperture, with its access codes, its acceptance
and whatever the write makes the part do. -/

namespace Sys2Proof.Machine

open Sys2Proof

/-- What an event of a write comes to. -/
def State.did (s : State) : Host.Outcome State Fault Refusal → State
  | .next t => t
  | _ => s

/-- The W1C bits of a write (R7), before the rest of it. -/
def State.clears (s : State) (fn off val : Nat) : State := s.regClear fn off ((regSpec fn off).elim 0 fun r => r.w1c &&& val)

/-- A write of FWCTL of a format window (R88, R106), which is accepted whole or leaves REJ: a reserved FMT or RM, a change of EN that
is refused, and any write while EN stays 1 are not. A write that clears EN leaves the other fields, with REJ where it names others
(log 49). -/
def State.writeFwctl (s : State) (off val : Nat) : State :=
  let win := (off - 0x2200) / 0x40
  let rej := s.regSet 0 (winOff win + 0x30) 2
  let want := bitOf val 0
  if 3 < slice val 3 1 || 4 < slice val 6 4 then rej
  else match s.windowOn win, want with
    | true, true => rej
    | false, false => s.plainWrite 0 off val
    | false, true =>
      let t := s.plainWrite 0 off (val - 1)
      if !s.allIdle || s.windowBad win || t.windowBad win then rej else t.did (execFormatWindowEnable win t)
    | true, false =>
      let t := s.did (execFormatWindowDisable win s)
      if (val ^^^ s.reg 0 off) &&& (maskBits 31 16 + maskBits 7 1) == 0 then t else t.regSet 0 (winOff win + 0x30) 2

/-- A write of STCTL (R424): LOAD first, and then a change of EN; one that is refused changes nothing else. -/
def State.writeStctl (s : State) (val : Nat) : State :=
  let flips : Bool := bitOf val 0 != s.tableEn
  if flips && !s.allIdle then s.rejectTable 10
  else
    let s0 := s.clears 0 0x9010 val
    let s1 := if bitOf val 1 then s0.did (execSlotTableLoad s0) else s0
    if !flips then s1
    else if bitOf val 0 then s1.did (execSlotTableEnable s1)
    else s1.did (execSlotTableDisable s1)

/-- A write of a register of a die: HASHCH0 to HASHCH4, HASHPC and HASHCTL (R77, R78). -/
def State.writeHash (s : State) (off : Nat) (val : Word64) : State :=
  let die := (off - 0x2000) / 0x40
  if off % 0x40 < 0x30 then s.did (execHashMaskWrite die (off % 0x40 / 8) val s)
  else if off % 0x40 != 0x30 then s
  else
    let t := s.clears 0 off val.toNat
    if bitOf val.toNat 0 == t.hashOpen die then t
    else if bitOf val.toNat 0 then t.did (execHashOpen die t)
    else t.did (execHashClose die t)

/-- A write of REPCTL of a die (R48). -/
def State.writeRepctl (s : State) (off val : Nat) : State :=
  let die := (off - 0x3100) / 0x20
  if !bitOf val 0 then s
  else s.did (match slice val 2 1 with
    | 1 => execReplicaInsert die s
    | 2 => execReplicaRemove die s
    | 3 => execReplicaRemoveAll die s
    | _ => execReplicaReservedOp die s)

/-- A write of QBASE of a function's queue (R395, R396). -/
def State.writeQbase (s : State) (fn queue : Nat) (val : Word64) : State :=
  let off := queueReg queue
  if bitOf val.toNat 0 == bitOf (s.reg fn off) 0 then s.plainWrite fn off val.toNat
  else if bitOf val.toNat 0 then s.did (execQueueEnable fn queue val s)
  else s.did (execQueueDisable fn queue val s)

/-- A bit that starts something, once the W1C bits of its write are done. -/
def State.goes (s : State) (fn off val bit : Nat) (k : State → Host.Outcome State Fault Refusal) : State :=
  let t := s.clears fn off val
  if bitOf val bit then t.did (k t) else t

/-- A write of a register of the physical function's own (R7). -/
def State.writePf (s : State) (off : Nat) (val : Word64) : State :=
  let v := val.toNat
  if 0x2000 ≤ off && off < 0x2100 then s.writeHash off val
  else if 0x2200 ≤ off && off < 0x2400 && off % 0x40 == 0x20 then s.writeFwctl off v
  else if off == 0x3010 then s.goes 0 off v 0 execDistLoad
  else if 0x3100 ≤ off && off < 0x3180 && off % 0x20 == 0x10 then s.writeRepctl off v
  else if off == 0x9010 then s.writeStctl v
  else if 0xA000 ≤ off && off < 0xE040 && off % 0x40 == 0x28 then s.goes 0 off v 0 (execTenantReset ((off - 0xA000) / 0x40))
  else if off == 0xE500 then s.goes 0 off v 0 execPartitionRebuild
  else if off == 0xF900 then
    (let t := s.clears 0 off v
     if bitOf v 0 == bitOf (t.reg 0 off) 0 then t
     else if bitOf v 0 then t.did (execRouteOpen t)
     else t.did (execRouteClose t))
  else if off == 0xF990 then s.goes 0 off v 0 execFirmwareStage
  else if 0x60000 ≤ off && off < 0x62000 then s.did (execPodrtWrite ((off - 0x60000) / 8) val s)
  else s.plainWrite 0 off v

/-- A write of a register of a function's aperture (R7). A write that makes room in the fatal ring lets descriptors in
(R455), and one of HEAPATTR changes the pages of a heap (R52). -/
def State.writeReg (s : State) (fn off : Nat) (val : Word64) : State :=
  let v := val.toNat
  if off % 8 != 0 then s
  else if 0x1000 ≤ off && off < 0x1400 && off % 0x80 == 0x30 then s.did (execFaultptrTailWrite fn (slotAt off) val s)
  else if 0x1000 ≤ off && off < 0x1400 && off % 0x80 == 0x40 then s.did (execShootdown fn (slotAt off) val s)
  else if 0x1000 ≤ off && off < 0x1400 && off % 0x80 == 0x20 then (s.plainWrite fn off v).heapChanged (8 * fn + (off - 0x1000) / 0x80)
  else if off == 0x1400 then s.did (if bitOf v 63 then execPagedoneFail fn val s else execPagedoneRelease fn val s)
  else if 0x1800 ≤ off && off < 0x1C00 then
    (if off % 0x10 == 8 then s.did (execQbell fn ((off - 0x1800) / 0x10) s) else s.writeQbase fn ((off - 0x1800) / 0x10) val)
  else if off == 0x1E48 then (s.plainWrite fn off v).postFatals
  else if off == 0x1F48 then s.goes fn off v 0 (execAttestRequest fn)
  else if 0x10000 ≤ off && off < 0x50000 && off % 0x200 == 0x60 then
    s.goes fn off v 0 (execDbgctlHalt fn ((off - 0x10000) / 0x200))
  else if 0x10000 ≤ off && off < 0x50000 && off % 0x200 == 0x70 then s.did (execMbinWrite fn ((off - 0x10000) / 0x200) val s)
  else if (fnRegSpec fn off).isSome then s.plainWrite fn off v
  else if fn == 0 then s.writePf off val
  else s

/-- REGISTER_WRITE (R7). -/
def execRegisterWrite (fn off : Nat) (val : Word64) (s : State) : Host.Outcome State Fault Refusal :=
  onWrite (isFn fn) s (s.writeReg fn off val)

end Sys2Proof.Machine
end

