-- ==== Sys2Proof/Machine/Convert.lean ====
section
/-! DEFINITION. Conversions, block pack and unpack: spec/10 R316 to R322. -/

namespace Sys2Proof.Machine

open Sys2Proof

/-- The source type of a conversion word, from MOD (R316). -/
def srcTy (w : VrWord) : Ty := (Ty.ofCode w.mod).getD .f32
/-- SAT of a conversion word: SC[0] (R316). -/
def cvtSat (w : VrWord) : Bool := w.c == .vreg 1#8

/-- One value converted (R317): the bits of its destination register or pair. -/
def convert (dty sty : Ty) (x rm : Nat) (sat : Bool) (u : Nat) : Nat :=
  if dty.intBit then
    let v := if sty.intBit then satIf sat dty (intOf sty x) else toInt dty (valueOf sty x) rm u
    narrow dty (tyRegBits dty) v
  else roundTo dty (valueOf sty x) rm sat u

/-- What a conversion word names. -/
def cvtOp (w : VrWord) (reads : List RegRun) (pair draws : Bool) : VectorOp :=
  { vrOp w reads pair 4 with srcs := [w.a, w.b], draws }

/-- `cvt` (R317). -/
def execCvt (w : VrWord) (s : State) : Host.Outcome State Fault Refusal :=
  issueVector (.cvt w) s (cvtOp w (srcRun (srcTy w) w.a) w.ty.pair (w.rm == 4#3)) w.ty.pair w.dst.toNat fun c f =>
    convert w.ty (srcTy w) (c.vsrc f (srcTy w) w.a) w.rm.toNat (cvtSat w) (s.drawn c w.rm f.lane 0)

/-- `cvtp` (R318): from two `.f32` values, or from the halves of the other packed type. -/
def execCvtp (w : VrWord) (s : State) : Host.Outcome State Fault Refusal :=
  let sty := srcTy w
  issueVector (.cvtp w) s (cvtOp w (srcRun sty w.a ++ if sty == .f32 then srcRun sty w.b else []) false (w.rm == 4#3))
    false w.dst.toNat fun c f =>
      let a := c.vsrc f sty w.a
      byParts w.ty fun h =>
        let x := if sty == .f32 then (if h == 0 then a else c.vsrc f sty w.b) else partOf sty a h
        roundTo w.ty (valueOf sty x) w.rm.toNat (cvtSat w) (s.drawn c w.rm f.lane h)

/-- The register that begins `bpack`'s group (R319). -/
def groupOf : Src → Nat
  | .vreg n => n.toNat
  | _ => 0

/-- Element `j` of `bpack`'s group in one lane (R319). -/
def groupElement (sty : Ty) (f : Fibre) (n j : Nat) : RealVal :=
  if sty == .f32 then valueOf .f32 (f.reg (n + j)) else valueOf sty (partOf sty (f.reg (n + j / 2)) (j % 2))

/-- `bpack` in one lane (R319, R109). -/
def packResult (dty : Ty) (rm : Nat) (sat : Bool) (u : Nat → Nat) (xs : List RealVal) : Nat :=
  if dty == .bs4 then
    let b := encodeBlock xs rm ((List.range 8).map u)
    packCodes 4 b.2 + 2 ^ 32 * b.1
  else packCodes dty.width (xs.zipIdx.map fun (x, j) => roundTo dty x rm (sat && dty == .e5m2) (u j))

/-- The elements that `bpack` packs (R319). -/
def packCount (dty : Ty) : Nat := if dty == .e4m3 || dty == .e5m2 then 4 else 8

/-- `bpack` (R319). -/
def execBpack (w : VrWord) (s : State) : Host.Outcome State Fault Refusal :=
  let sty := srcTy w
  issueVector (.bpack w) s (cvtOp w [(groupOf w.a, bpackGroup w.ty sty)] (w.ty == .bs4) (w.rm == 4#3)) (w.ty == .bs4)
    w.dst.toNat fun c f =>
      packResult w.ty w.rm.toNat (cvtSat w) (s.drawn c w.rm f.lane)
        ((List.range (packCount w.ty)).map (groupElement sty f (groupOf w.a)))

/-- The value that `bunpk` decodes: element `i` of *a*, with the scale of a `.bs4` block (R320). -/
def unpackValue (sty : Ty) (a i scale : Nat) : RealVal :=
  let code := (a >>> (sty.width * (i % (32 / sty.width)))) % 2 ^ sty.width
  if sty == .bs4 then bs4Value code (scale % 256) else valueOf sty code

/-- `bunpk` (R320): exact. -/
def execBunpk (w : VrWord) (s : State) : Host.Outcome State Fault Refusal :=
  let sty := srcTy w
  issueVector (.bunpk w) s
    { vrOp w (srcRun .b32 w.a ++ srcRun .n32 w.b ++ if sty == .bs4 then srcRun .b32 w.c else []) false 4 with
      srcs := [w.a, w.b, w.c] } false w.dst.toNat fun c f =>
      roundTo w.ty (unpackValue sty (c.vsrc f sty w.a) (c.vsrc f .n32 w.b) (c.vsrc f .b32 w.c)) 0 false 0

/-- A power of two applied to a value. Beyond 5,000 the result of every format is that of 5,000. -/
def scaleBy (b : Int) (x : RealVal) : RealVal := x.scale (max (-5000) (min 5000 b))

/-- `bscl` (R321): *b* is read as `.i32`. -/
def execBscl (w : VrWord) (s : State) : Host.Outcome State Fault Refusal :=
  issueVector (.bscl w) s (cvtOp w (srcRun w.ty w.a ++ srcRun .i32 w.b) w.ty.pair (w.rm == 4#3)) w.ty.pair w.dst.toNat
    fun c f => byParts w.ty fun h =>
      roundTo w.ty (scaleBy (intOf .i32 (c.vsrc f .i32 w.b)) (valueOf w.ty (partOf w.ty (c.vsrc f w.ty w.a) h)))
        w.rm.toNat (cvtSat w) (s.drawn c w.rm f.lane h)

/-- `cvtx` (R322): the variate is *b*[23:0]; no generator word is drawn. -/
def execCvtx (w : VrWord) (s : State) : Host.Outcome State Fault Refusal :=
  let sty := srcTy w
  issueVector (.cvtx w) s (cvtOp w (srcRun sty w.a ++ srcRun .b32 w.b) w.ty.pair false) w.ty.pair w.dst.toNat
    fun c f => convert w.ty sty (c.vsrc f sty w.a) 4 (cvtSat w) (c.vsrc f .b32 w.b % 2 ^ 24)

end Sys2Proof.Machine
end

