-- ==== Sys2Proof/Machine/CrossLane.lean ====
section
/-! DEFINITION. Cross-lane words and the transfers between the two sides: spec/10 R323 to R328, spec/09 R281, spec/07 R226
to R228. -/

namespace Sys2Proof.Machine

open Sys2Proof

/-! ## Cross-lane words -/

/-- What a word reads of a source in a lane: zero where the lane holds no fibre of the cohort (R323). -/
def Cohort.laneValue (c : Cohort) (ty : Ty) (x : Src) (lane : Nat) : Nat :=
  match c.fibre? lane with
  | some f => c.vsrc f ty x
  | none => 0

/-- The source lane of `shfl` (R324). -/
def shuffleLane (mode l b : Nat) : Nat :=
  let k := b % 32
  match mode with
  | 0 => k
  | 1 => if l < k then l else l - k
  | 2 => if 31 < l + k then l else l + k
  | 3 => l ^^^ k
  | _ => (l + k) % 32

/-- `shfl` (R324). -/
def execShfl (w : VrWord) (s : State) : Host.Outcome State Fault Refusal :=
  issueVector (.shfl w) s (vrOp w (srcRun w.ty w.a ++ srcRun .n32 w.b) w.ty.pair 6) w.ty.pair w.dst.toNat fun c f =>
    c.laneValue w.ty w.a (shuffleLane w.mod.toNat f.lane (c.vsrc f .n32 w.b))

/-- The ballot of active lanes (R325). -/
def ballot (vals : List (Nat × Nat)) : Nat := (vals.map fun p => if p.2 == 0 then 0 else 2 ^ p.1).sum

/-- The values of a source in the active lanes, in ascending lane order. -/
def Cohort.activeValues (c : Cohort) (g : Guard) (ty : Ty) (x : Src) : List (Nat × Nat) :=
  (c.active g).map fun f => (f.lane, c.vsrc f ty x)

/-- `vote` (R325). -/
def execVote (w : VrWord) (s : State) : Host.Outcome State Fault Refusal :=
  if w.mod == 3#5 then
    issueVector (.vote w) s (vrOp w (srcRun w.ty w.a) false 6) false w.dst.toNat fun c _ =>
      ballot (c.activeValues w.guard w.ty w.a)
  else
    issuePred (.vote w) s (vrPredOp w (srcRun w.ty w.a) 6) w.dst.toNat fun c _ =>
      votePred w.mod.toNat ((c.activeValues w.guard w.ty w.a).map Prod.snd)

/-- The combination of two values under a reduction (R326). -/
def combine (op : Nat) (ty : Ty) (a b : Nat) : Nat :=
  if ty.intBit then
    match op with
    | 0 => (a + b) % 2 ^ ty.width
    | 1 => if intOf ty a < intOf ty b then a else b
    | 2 => if intOf ty a > intOf ty b then a else b
    | 3 => a &&& b
    | 4 => a ||| b
    | _ => a ^^^ b
  else if op == 0 then roundTo ty ((valueOf ty a).add 0 (valueOf ty b)) 0 false 0
  else fminmax ty (op == 2) a b

/-- The identity of a reduction (R326). -/
def identityOf (op : Nat) (ty : Ty) : Nat :=
  if ty.intBit then
    match op with
    | 1 => lowBits ty.width (intHi ty.signed ty.width)
    | 2 => lowBits ty.width (intLo ty.signed ty.width)
    | 3 => 2 ^ ty.width - 1
    | _ => 0
  else if op == 0 then 0
  else (Fmt.of ty).round (.inf (op == 2)) 0 false 0

/-- Two positions of the tree of R99: an empty one contributes nothing. -/
def treeNode (g : Nat → Nat → Nat) : Option Nat → Option Nat → Option Nat
  | some a, some b => some (g a b)
  | some a, none => some a
  | none, b => b

/-- The tree of R99 over `2 ^ n` positions from `i`. -/
def treeOf (g : Nat → Nat → Nat) (pos : Nat → Option Nat) : Nat → Nat → Option Nat
  | 0, i => pos i
  | n + 1, i => treeNode g (treeOf g pos n i) (treeOf g pos n (i + 2 ^ n))

/-- `vred` over the active values (R326, R99). -/
def reduceValues (op : Nat) (ty : Ty) (vals : List (Nat × Nat)) : Nat :=
  (treeOf (combine op ty) (fun i => (vals.find? fun p => p.1 == i).map Prod.snd) 5 0).getD (identityOf op ty)

/-- `vred` to a vector register (R326). -/
def execVred (w : VrWord) (s : State) : Host.Outcome State Fault Refusal :=
  issueVector (.vred w) s (vrOp w (srcRun w.ty w.a) w.ty.pair 6) w.ty.pair w.dst.toNat fun c _ =>
    reduceValues (w.mod.toNat % 8) w.ty (c.activeValues w.guard w.ty w.a)

/-- The values that a scan combines for a lane, in ascending lane order, none before the first (R327). -/
def scanValue (op : Nat) (ty : Ty) : List Nat → Nat
  | [] => identityOf op ty
  | x :: xs => xs.foldl (combine op ty) x

/-- `vscan` (R327): MOD[3] makes it exclusive. -/
def execVscan (w : VrWord) (s : State) : Host.Outcome State Fault Refusal :=
  issueVector (.vscan w) s (vrOp w (srcRun w.ty w.a) w.ty.pair 6) w.ty.pair w.dst.toNat fun c f =>
    scanValue (w.mod.toNat % 8) w.ty
      (((c.activeValues w.guard w.ty w.a).filter fun p =>
        if w.mod.getLsbD 3 then p.1 < f.lane else p.1 ≤ f.lane).map Prod.snd)

/-- `vbcast` (R328). -/
def execVbcast (w : VrWord) (s : State) : Host.Outcome State Fault Refusal :=
  issueVector (.vbcast w) s (vrOp w (srcRun w.ty w.a) w.ty.pair 6) w.ty.pair w.dst.toNat fun c _ =>
    c.laneValue w.ty w.a (c.usrc w.b % 32)

/-! ## The queues -/

/-- A vector word that pushes an entry onto the vector-to-uniform queue: QOVER before any effect (R227). -/
def issuePush (i : Instr) (s : State) (v : VectorOp) (entry : Cohort → List Word32) :
    Host.Outcome State Fault Refusal :=
  onCohort i s fun c =>
    match c.vectorTrap v with
    | some t => s.takeTrap c (wordOf i) { code := t } (lanesOf (c.active v.guard))
    | none =>
      if Config.queueDepth ≤ c.vq.length then s.ownTrap i c { code := .qover } v.guard
      else s.finish { c.issueVec v [] none with vq := c.vq ++ [entry c] } (wordOf i)

/-- The entry of a 32-bit or a 64-bit result (R326). -/
def spread (pair : Bool) (x : Nat) : List Word32 :=
  (List.range 32).map fun l => BitVec.ofNat 32 (if pair && l % 2 == 1 then x / 2 ^ 32 else x)

/-- `vred` with Q (R326). -/
def execVredQ (w : VrWord) (s : State) : Host.Outcome State Fault Refusal :=
  issuePush (.vredQ w) s { vrOp w (srcRun w.ty w.a) w.ty.pair 6 with writes := [] } fun c =>
    spread w.ty.pair (reduceValues (w.mod.toNat % 8) w.ty (c.activeValues w.guard w.ty w.a))

/-- `qret` (R281): zero in the lanes that are not active. -/
def execQret (w : VrWord) (s : State) : Host.Outcome State Fault Refusal :=
  issuePush (.qret w) s { vrOp w (srcRun w.ty w.a) false 4 with writes := [] } fun c =>
    let vals := c.activeValues w.guard w.ty w.a
    (List.range 32).map fun l => BitVec.ofNat 32 (((vals.find? fun p => p.1 == l).map Prod.snd).getD 0)

/-- `qput` (R281): QOVER before any effect. -/
def execQput (w : UrWord) (s : State) : Host.Outcome State Fault Refusal :=
  onCohort (.qput w) s fun c =>
    if Config.queueDepth ≤ c.uq.length then s.ownTrap (.qput w) c { code := .qover } Guard.always
    else
      let x := BitVec.ofNat 64 (narrow w.ty 64 (intOf w.ty (c.usrc w.a)))
      s.finish ({ c with uq := c.uq ++ [x] }.tickU) (wordOf (.qput w))

/-- `qget` (R281): the pop takes place whatever the lanes; the bits move unchanged. -/
def execQget (w : VrWord) (s : State) : Host.Outcome State Fault Refusal :=
  onCohort (.qget w) s fun c =>
    let v := vrOp w [] w.ty.pair 4
    match c.vectorTrap v with
    | some t => s.takeTrap c (wordOf (.qget w)) { code := t } (lanesOf (c.active v.guard))
    | none =>
      match c.uq with
      | [] => s.ownTrap (.qget w) c { code := .qempty } v.guard
      | x :: rest =>
        let vals := (c.active v.guard).map fun f => (f.lane, x.toNat % 2 ^ tyRegBits w.ty)
        s.finish { c.issueVec v (vecWrites w.ty.pair w.dst.toNat vals) (some (latchFor v.wbs vals)) with uq := rest }
          (wordOf (.qget w))

/-- A pop of the vector-to-uniform queue: QEMPTY before any effect (R227); `res` gives the registers written,
under latency 2 (R231). -/
def issuePop (i : Instr) (s : State) (res : Cohort → List Word32 → List (Nat × Nat)) :
    Host.Outcome State Fault Refusal :=
  onCohort i s fun c =>
    match c.vq with
    | [] => s.ownTrap i c { code := .qempty } Guard.always
    | e :: rest =>
      let r := (res c e).map fun p => ({ left := 2, reg := p.1, val := BitVec.ofNat 64 p.2 } : InFlightU)
      s.finish ({ c with vq := rest, flightU := c.flightU ++ r }.tickU) (wordOf i)

/-- `qrcv.b64` (R281): two lanes in each of 16 registers. -/
def execQrcvB64 (w : UrWord) (s : State) : Host.Outcome State Fault Refusal :=
  issuePop (.qrcvB64 w) s fun _ e => (List.range 16).map fun k =>
    (w.dst.toNat + k, (e.getD (2 * k) 0#32).toNat + 2 ^ 32 * (e.getD (2 * k + 1) 0#32).toNat)

/-- `qrcv` of one lane, extended as R277 (R281). -/
def execQrcvB32 (w : UrWord) (s : State) : Host.Outcome State Fault Refusal :=
  issuePop (.qrcvB32 w) s fun c e =>
    let lane := residue (intOf w.ty (c.usrc w.b)) 32
    [(w.dst.toNat, narrow w.ty 64 (intOf w.ty (e.getD lane 0#32).toNat))]

end Sys2Proof.Machine
end

