-- ==== Sys2Proof/Machine/Uniform.lean ====
section
/-! DEFINITION. Uniform arithmetic and logic: spec/09 R277 to R279. -/

namespace Sys2Proof.Machine

open Sys2Proof

/-- The result of a uniform word of R278 from its three sources, as the 64 bits written (R277, R279). -/
def uniformResult (op : IntOp) (ty : Ty) (cc : BitVec 3) (sat : Bool) (a b c : Nat) : Nat :=
  narrow ty 64 (satIf sat ty (op.eval ty cc.toNat (intOf ty a) (intOf ty b) (intOf ty c)))

/-- A UR word of R278. -/
def urResult (w : UrWord) (op : IntOp) (c : Cohort) : Nat :=
  uniformResult op w.ty w.rm (w.mod.getLsbD 0) (c.usrc w.a) (c.usrc w.b) (c.usrc w.c)

/-- A UI word of R278: IMM, sign-extended, stands for *b* (R258). -/
def uiResult (w : UiWord) (op : IntOp) (c : Cohort) : Nat :=
  uniformResult op w.ty w.rm false (c.usrc w.a) (lowBits 64 w.imm.toInt) 0

/-- A UR word in its cohort. -/
def execUr (i : Instr) (w : UrWord) (op : IntOp) (s : State) : Host.Outcome State Fault Refusal :=
  issueUniform i s w.dst.toNat (urResult w op)

/-- A UI word in its cohort. -/
def execUi (i : Instr) (w : UiWord) (op : IntOp) (s : State) : Host.Outcome State Fault Refusal :=
  issueUniform i s w.dst.toNat (uiResult w op)

/-- `uadd` (R278): *a* + *b*. -/
def execUadd (w : UrWord) (s : State) : Host.Outcome State Fault Refusal := execUr (.uadd w) w .add s
/-- `usub` (R278): *a* − *b*. -/
def execUsub (w : UrWord) (s : State) : Host.Outcome State Fault Refusal := execUr (.usub w) w .sub s
/-- `umul` (R278): *a* × *b*. -/
def execUmul (w : UrWord) (s : State) : Host.Outcome State Fault Refusal := execUr (.umul w) w .mul s
/-- `umulh` (R278): the high half of *a* × *b*. -/
def execUmulh (w : UrWord) (s : State) : Host.Outcome State Fault Refusal := execUr (.umulh w) w .mulh s
/-- `umad` (R278): *a* × *b* + *c*. -/
def execUmad (w : UrWord) (s : State) : Host.Outcome State Fault Refusal := execUr (.umad w) w .mad s
/-- `udiv` (R279): division truncated toward zero. -/
def execUdiv (w : UrWord) (s : State) : Host.Outcome State Fault Refusal := execUr (.udiv w) w .div s
/-- `urem` (R279): the remainder of truncated division. -/
def execUrem (w : UrWord) (s : State) : Host.Outcome State Fault Refusal := execUr (.urem w) w .rem s
/-- `umin` (R278): the smaller. -/
def execUmin (w : UrWord) (s : State) : Host.Outcome State Fault Refusal := execUr (.umin w) w .min s
/-- `umax` (R278): the larger. -/
def execUmax (w : UrWord) (s : State) : Host.Outcome State Fault Refusal := execUr (.umax w) w .max s
/-- `uand` (R278): *a* AND *b*. -/
def execUand (w : UrWord) (s : State) : Host.Outcome State Fault Refusal := execUr (.uand w) w .and s
/-- `uor` (R278): *a* OR *b*. -/
def execUor (w : UrWord) (s : State) : Host.Outcome State Fault Refusal := execUr (.uor w) w .or s
/-- `uxor` (R278): *a* XOR *b*. -/
def execUxor (w : UrWord) (s : State) : Host.Outcome State Fault Refusal := execUr (.uxor w) w .xor s
/-- `uandn` (R278): *a* AND NOT *b*. -/
def execUandn (w : UrWord) (s : State) : Host.Outcome State Fault Refusal := execUr (.uandn w) w .andn s
/-- `ushl` (R278): shift left. -/
def execUshl (w : UrWord) (s : State) : Host.Outcome State Fault Refusal := execUr (.ushl w) w .shl s
/-- `ushr` (R278): shift right. -/
def execUshr (w : UrWord) (s : State) : Host.Outcome State Fault Refusal := execUr (.ushr w) w .shr s
/-- `urot` (R278): rotate left. -/
def execUrot (w : UrWord) (s : State) : Host.Outcome State Fault Refusal := execUr (.urot w) w .rot s
/-- `ucmp` (R278): 1 when *a* CC *b*, else 0. -/
def execUcmp (w : UrWord) (s : State) : Host.Outcome State Fault Refusal := execUr (.ucmp w) w .cmp s
/-- `usel` (R278): *b* when *a* is not 0, else *c*. -/
def execUsel (w : UrWord) (s : State) : Host.Outcome State Fault Refusal := execUr (.usel w) w .sel s
/-- `umov` (R278): *a*. -/
def execUmov (w : UrWord) (s : State) : Host.Outcome State Fault Refusal := execUr (.umov w) w .mov s
/-- `uext` (R278): sign or zero extension. -/
def execUext (w : UrWord) (s : State) : Host.Outcome State Fault Refusal := execUr (.uext w) w .ext s
/-- `upop` (R278): the number of 1 bits. -/
def execUpop (w : UrWord) (s : State) : Host.Outcome State Fault Refusal := execUr (.upop w) w .pop s
/-- `uclz` (R278): the number of leading zeros. -/
def execUclz (w : UrWord) (s : State) : Host.Outcome State Fault Refusal := execUr (.uclz w) w .clz s
/-- `ubfx` (R279): bit-field extract. -/
def execUbfx (w : UrWord) (s : State) : Host.Outcome State Fault Refusal := execUr (.ubfx w) w .bfx s
/-- `ulea` (R278): *a* + *b* × 2^*c*. -/
def execUlea (w : UrWord) (s : State) : Host.Outcome State Fault Refusal := execUr (.ulea w) w .lea s
/-- `uadd` with IMM (R278): *a* + *b*. -/
def execUaddImm (w : UiWord) (s : State) : Host.Outcome State Fault Refusal := execUi (.uaddImm w) w .add s
/-- `umul` with IMM (R278): *a* × *b*. -/
def execUmulImm (w : UiWord) (s : State) : Host.Outcome State Fault Refusal := execUi (.umulImm w) w .mul s
/-- `uand` with IMM (R278): *a* AND *b*. -/
def execUandImm (w : UiWord) (s : State) : Host.Outcome State Fault Refusal := execUi (.uandImm w) w .and s
/-- `uor` with IMM (R278): *a* OR *b*. -/
def execUorImm (w : UiWord) (s : State) : Host.Outcome State Fault Refusal := execUi (.uorImm w) w .or s
/-- `uxor` with IMM (R278): *a* XOR *b*. -/
def execUxorImm (w : UiWord) (s : State) : Host.Outcome State Fault Refusal := execUi (.uxorImm w) w .xor s
/-- `ucmp` with IMM (R278): 1 when *a* CC *b*, else 0. -/
def execUcmpImm (w : UiWord) (s : State) : Host.Outcome State Fault Refusal := execUi (.ucmpImm w) w .cmp s

/-- `umov` with IMM (R278): the sign-extended IMM. -/
def execUmovImm (w : UiWord) (s : State) : Host.Outcome State Fault Refusal :=
  issueUniform (.umovImm w) s w.dst.toNat fun _ => narrow w.ty 64 w.imm.toInt

/-- `ucat` (R278, R279): *a* × 2²⁵ plus the raw IMM, modulo 2⁶⁴. -/
def execUcat (w : UiWord) (s : State) : Host.Outcome State Fault Refusal :=
  issueUniform (.ucat w) s w.dst.toNat fun c => (c.usrc w.a * 2 ^ 25 + w.imm.toNat) % 2 ^ 64

end Sys2Proof.Machine
end

