-- ==== Sys2Proof/Machine/Dispatch.lean ====
section
/-! DEFINITION. One arm for each instruction word and each event: a direct call of its meaning. -/

namespace Sys2Proof.Machine

open Sys2Proof

/-- The meaning of an instruction word of the current cohort, or of an event of another agent. -/
def exec (i : Instr) (s : State) : Host.Outcome State Fault Refusal :=
  match i with
  | .uadd w => Sys2Proof.Machine.execUadd w s
  | .uaddImm w => Sys2Proof.Machine.execUaddImm w s
  | .usub w => Sys2Proof.Machine.execUsub w s
  | .umul w => Sys2Proof.Machine.execUmul w s
  | .umulImm w => Sys2Proof.Machine.execUmulImm w s
  | .umulh w => Sys2Proof.Machine.execUmulh w s
  | .umad w => Sys2Proof.Machine.execUmad w s
  | .udiv w => Sys2Proof.Machine.execUdiv w s
  | .urem w => Sys2Proof.Machine.execUrem w s
  | .umin w => Sys2Proof.Machine.execUmin w s
  | .umax w => Sys2Proof.Machine.execUmax w s
  | .uand w => Sys2Proof.Machine.execUand w s
  | .uandImm w => Sys2Proof.Machine.execUandImm w s
  | .uor w => Sys2Proof.Machine.execUor w s
  | .uorImm w => Sys2Proof.Machine.execUorImm w s
  | .uxor w => Sys2Proof.Machine.execUxor w s
  | .uxorImm w => Sys2Proof.Machine.execUxorImm w s
  | .uandn w => Sys2Proof.Machine.execUandn w s
  | .ushl w => Sys2Proof.Machine.execUshl w s
  | .ushr w => Sys2Proof.Machine.execUshr w s
  | .urot w => Sys2Proof.Machine.execUrot w s
  | .ucmp w => Sys2Proof.Machine.execUcmp w s
  | .ucmpImm w => Sys2Proof.Machine.execUcmpImm w s
  | .usel w => Sys2Proof.Machine.execUsel w s
  | .umov w => Sys2Proof.Machine.execUmov w s
  | .umovImm w => Sys2Proof.Machine.execUmovImm w s
  | .uext w => Sys2Proof.Machine.execUext w s
  | .upop w => Sys2Proof.Machine.execUpop w s
  | .uclz w => Sys2Proof.Machine.execUclz w s
  | .ubfx w => Sys2Proof.Machine.execUbfx w s
  | .ulea w => Sys2Proof.Machine.execUlea w s
  | .ucat w => Sys2Proof.Machine.execUcat w s
  | .bra w => Sys2Proof.Machine.execBra w s
  | .brc w => Sys2Proof.Machine.execBrc w s
  | .brv w => Sys2Proof.Machine.execBrv w s
  | .call w => Sys2Proof.Machine.execCall w s
  | .callr w => Sys2Proof.Machine.execCallr w s
  | .ret w => Sys2Proof.Machine.execRet w s
  | .jtab w => Sys2Proof.Machine.execJtab w s
  | .exitW w => Sys2Proof.Machine.execExitW w s
  | .trap w => Sys2Proof.Machine.execTrap w s
  | .brk w => Sys2Proof.Machine.execBrk w s
  | .nop w => Sys2Proof.Machine.execNop w s
  | .yield w => Sys2Proof.Machine.execYield w s
  | .qput w => Sys2Proof.Machine.execQput w s
  | .qget w => Sys2Proof.Machine.execQget w s
  | .qret w => Sys2Proof.Machine.execQret w s
  | .qrcvB64 w => Sys2Proof.Machine.execQrcvB64 w s
  | .qrcvB32 w => Sys2Proof.Machine.execQrcvB32 w s
  | .vadd w => Sys2Proof.Machine.execVadd w s
  | .vaddImm w => Sys2Proof.Machine.execVaddImm w s
  | .vsub w => Sys2Proof.Machine.execVsub w s
  | .vmul w => Sys2Proof.Machine.execVmul w s
  | .vmulImm w => Sys2Proof.Machine.execVmulImm w s
  | .vmulh w => Sys2Proof.Machine.execVmulh w s
  | .vmad w => Sys2Proof.Machine.execVmad w s
  | .vmin w => Sys2Proof.Machine.execVmin w s
  | .vmax w => Sys2Proof.Machine.execVmax w s
  | .vabs w => Sys2Proof.Machine.execVabs w s
  | .vand w => Sys2Proof.Machine.execVand w s
  | .vandImm w => Sys2Proof.Machine.execVandImm w s
  | .vor w => Sys2Proof.Machine.execVor w s
  | .vorImm w => Sys2Proof.Machine.execVorImm w s
  | .vxor w => Sys2Proof.Machine.execVxor w s
  | .vxorImm w => Sys2Proof.Machine.execVxorImm w s
  | .vandn w => Sys2Proof.Machine.execVandn w s
  | .vshl w => Sys2Proof.Machine.execVshl w s
  | .vshr w => Sys2Proof.Machine.execVshr w s
  | .vrot w => Sys2Proof.Machine.execVrot w s
  | .vcmp w => Sys2Proof.Machine.execVcmp w s
  | .vcmpImm w => Sys2Proof.Machine.execVcmpImm w s
  | .vsel w => Sys2Proof.Machine.execVsel w s
  | .vselImm w => Sys2Proof.Machine.execVselImm w s
  | .vmov w => Sys2Proof.Machine.execVmov w s
  | .vmovImm w => Sys2Proof.Machine.execVmovImm w s
  | .vext w => Sys2Proof.Machine.execVext w s
  | .vpop w => Sys2Proof.Machine.execVpop w s
  | .vclz w => Sys2Proof.Machine.execVclz w s
  | .vbfx w => Sys2Proof.Machine.execVbfx w s
  | .vbfi w => Sys2Proof.Machine.execVbfi w s
  | .vdot4 w => Sys2Proof.Machine.execVdot4 w s
  | .fadd w => Sys2Proof.Machine.execFadd w s
  | .faddImm w => Sys2Proof.Machine.execFaddImm w s
  | .fsub w => Sys2Proof.Machine.execFsub w s
  | .fmul w => Sys2Proof.Machine.execFmul w s
  | .fmulImm w => Sys2Proof.Machine.execFmulImm w s
  | .ffma w => Sys2Proof.Machine.execFfma w s
  | .fmin w => Sys2Proof.Machine.execFmin w s
  | .fminImm w => Sys2Proof.Machine.execFminImm w s
  | .fmax w => Sys2Proof.Machine.execFmax w s
  | .fmaxImm w => Sys2Proof.Machine.execFmaxImm w s
  | .fabs w => Sys2Proof.Machine.execFabs w s
  | .fneg w => Sys2Proof.Machine.execFneg w s
  | .fcsgn w => Sys2Proof.Machine.execFcsgn w s
  | .fcmp w => Sys2Proof.Machine.execFcmp w s
  | .fclass w => Sys2Proof.Machine.execFclass w s
  | .frcp w => Sys2Proof.Machine.execFrcp w s
  | .frsq w => Sys2Proof.Machine.execFrsq w s
  | .fsqrt w => Sys2Proof.Machine.execFsqrt w s
  | .fexp2 w => Sys2Proof.Machine.execFexp2 w s
  | .flog2 w => Sys2Proof.Machine.execFlog2 w s
  | .fsin w => Sys2Proof.Machine.execFsin w s
  | .fcos w => Sys2Proof.Machine.execFcos w s
  | .ftanh w => Sys2Proof.Machine.execFtanh w s
  | .fexp w => Sys2Proof.Machine.execFexp w s
  | .cvt w => Sys2Proof.Machine.execCvt w s
  | .cvtp w => Sys2Proof.Machine.execCvtp w s
  | .bpack w => Sys2Proof.Machine.execBpack w s
  | .bunpk w => Sys2Proof.Machine.execBunpk w s
  | .bscl w => Sys2Proof.Machine.execBscl w s
  | .cvtx w => Sys2Proof.Machine.execCvtx w s
  | .shfl w => Sys2Proof.Machine.execShfl w s
  | .vote w => Sys2Proof.Machine.execVote w s
  | .vred w => Sys2Proof.Machine.execVred w s
  | .vredQ w => Sys2Proof.Machine.execVredQ w s
  | .vscan w => Sys2Proof.Machine.execVscan w s
  | .vbcast w => Sys2Proof.Machine.execVbcast w s
  | .ld w => Sys2Proof.Machine.execLd w s
  | .st w => Sys2Proof.Machine.execSt w s
  | .pref w => Sys2Proof.Machine.execPref w s
  | .aadd w => Sys2Proof.Machine.execAadd w s
  | .amin w => Sys2Proof.Machine.execAmin w s
  | .amax w => Sys2Proof.Machine.execAmax w s
  | .aand w => Sys2Proof.Machine.execAand w s
  | .aor w => Sys2Proof.Machine.execAor w s
  | .axor w => Sys2Proof.Machine.execAxor w s
  | .axch w => Sys2Proof.Machine.execAxch w s
  | .acas w => Sys2Proof.Machine.execAcas w s
  | .xadd w => Sys2Proof.Machine.execXadd w s
  | .xrd w => Sys2Proof.Machine.execXrd w s
  | .xst w => Sys2Proof.Machine.execXst w s
  | .fence w => Sys2Proof.Machine.execFence w s
  | .fenceSc w => Sys2Proof.Machine.execFenceSc w s
  | .fenceScPod w => Sys2Proof.Machine.execFenceScPod w s
  | .fenceFmt w => Sys2Proof.Machine.execFenceFmt w s
  | .mma w => Sys2Proof.Machine.execMma w s
  | .tileAlloc w => Sys2Proof.Machine.execTileAlloc w s
  | .tileFree w => Sys2Proof.Machine.execTileFree w s
  | .tileZero w => Sys2Proof.Machine.execTileZero w s
  | .tileLd w => Sys2Proof.Machine.execTileLd w s
  | .tileSt w => Sys2Proof.Machine.execTileSt w s
  | .tileDrain w => Sys2Proof.Machine.execTileDrain w s
  | .tileRd w => Sys2Proof.Machine.execTileRd w s
  | .tileWr w => Sys2Proof.Machine.execTileWr w s
  | .tileMov w => Sys2Proof.Machine.execTileMov w s
  | .barInit w => Sys2Proof.Machine.execBarInit w s
  | .barArrive w => Sys2Proof.Machine.execBarArrive w s
  | .barWait w => Sys2Proof.Machine.execBarWait w s
  | .barInval w => Sys2Proof.Machine.execBarInval w s
  | .semInc w => Sys2Proof.Machine.execSemInc w s
  | .semWait w => Sys2Proof.Machine.execSemWait w s
  | .waitv w => Sys2Proof.Machine.execWaitv w s
  | .spawn w => Sys2Proof.Machine.execSpawn w s
  | .joinW w => Sys2Proof.Machine.execJoinW w s
  | .lwait w => Sys2Proof.Machine.execLwait w s
  | .copy w => Sys2Proof.Machine.execCopy w s
  | .copy2d w => Sys2Proof.Machine.execCopy2d w s
  | .gath w => Sys2Proof.Machine.execGath w s
  | .scat w => Sys2Proof.Machine.execScat w s
  | .coll w => Sys2Proof.Machine.execColl w s
  | .engQ w => Sys2Proof.Machine.execEngQ w s
  | .srd w => Sys2Proof.Machine.execSrd w s
  | .srdMbin w => Sys2Proof.Machine.execSrdMbin w s
  | .srdv w => Sys2Proof.Machine.execSrdv w s
  | .swr w => Sys2Proof.Machine.execSwr w s
  | .dbg w => Sys2Proof.Machine.execDbg w s
  | .tlbinv w => Sys2Proof.Machine.execTlbinv w s
  | .icinv w => Sys2Proof.Machine.execIcinv w s
  | .tableWalk core ctx va acc => Sys2Proof.Machine.execTableWalk core ctx va acc s
  | .faultptrTailWrite fn slot val => Sys2Proof.Machine.execFaultptrTailWrite fn slot val s
  | .pagedoneRelease fn val => Sys2Proof.Machine.execPagedoneRelease fn val s
  | .pagedoneFail fn val => Sys2Proof.Machine.execPagedoneFail fn val s
  | .shootdown fn slot val => Sys2Proof.Machine.execShootdown fn slot val s
  | .shootdownAck ctx agent => Sys2Proof.Machine.execShootdownAck ctx agent s
  | .shootdownDone ctx => Sys2Proof.Machine.execShootdownDone ctx s
  | .shootdownTimeout ctx => Sys2Proof.Machine.execShootdownTimeout ctx s
  | .migrationWindow ctx => Sys2Proof.Machine.execMigrationWindow ctx s
  | .replicaInsert die => Sys2Proof.Machine.execReplicaInsert die s
  | .replicaRemove die => Sys2Proof.Machine.execReplicaRemove die s
  | .replicaRemoveAll die => Sys2Proof.Machine.execReplicaRemoveAll die s
  | .replicaReservedOp die => Sys2Proof.Machine.execReplicaReservedOp die s
  | .replicaCommandDone die => Sys2Proof.Machine.execReplicaCommandDone die s
  | .translationRequest pkg fn addr txn => Sys2Proof.Machine.execTranslationRequest pkg fn addr txn s
  | .leaseGrant txn frame writable lease expiry => Sys2Proof.Machine.execLeaseGrant txn frame writable lease expiry s
  | .nack txn => Sys2Proof.Machine.execNack txn s
  | .notready txn => Sys2Proof.Machine.execNotready txn s
  | .ready pkg page => Sys2Proof.Machine.execReady pkg page s
  | .leaseRecall pkg lease => Sys2Proof.Machine.execRecall pkg lease s
  | .recallAck pkg lease => Sys2Proof.Machine.execRecallAck pkg lease s
  | .leaseExpiry lease => Sys2Proof.Machine.execLeaseExpiry lease s
  | .peerRead pkg fn lease addr bytes txn => Sys2Proof.Machine.execPeerRead pkg fn lease addr bytes txn s
  | .peerWrite pkg fn lease addr data txn => Sys2Proof.Machine.execPeerWrite pkg fn lease addr data txn s
  | .peerAtomic pkg fn lease addr op wide operand compare txn => Sys2Proof.Machine.execPeerAtomic pkg fn lease addr op wide operand compare txn s
  | .completion txn data aborted => Sys2Proof.Machine.execCompletion txn data aborted s
  | .peerRequestTimeout txn => Sys2Proof.Machine.execPeerRequestTimeout txn s
  | .linkCredit port flits => Sys2Proof.Machine.execLinkCredit port flits s
  | .flitRetry port => Sys2Proof.Machine.execFlitRetry port s
  | .sliceRequest fn pa store => Sys2Proof.Machine.execSliceRequest fn pa store s
  | .sectorFill pa => Sys2Proof.Machine.execSectorFill pa s
  | .l1Fill core pa => Sys2Proof.Machine.execL1Fill core pa s
  | .storeAck core loc => Sys2Proof.Machine.execStoreAck core loc s
  | .missStatusGrant core => Sys2Proof.Machine.execMissStatusGrant core s
  | .retryReissue uid => Sys2Proof.Machine.execRetryReissue uid s
  | .landing uid tag => Sys2Proof.Machine.execLanding uid tag s
  | .xstAccept uid => Sys2Proof.Machine.execXstAccept uid s
  | .dramRefresh bank => Sys2Proof.Machine.execDramRefresh bank s
  | .rowIdleClose bank => Sys2Proof.Machine.execRowIdleClose bank s
  | .hashOpen die => Sys2Proof.Machine.execHashOpen die s
  | .hashReady die => Sys2Proof.Machine.execHashReady die s
  | .hashMaskWrite die reg val => Sys2Proof.Machine.execHashMaskWrite die reg val s
  | .hashClose die => Sys2Proof.Machine.execHashClose die s
  | .formatWindowEnable win => Sys2Proof.Machine.execFormatWindowEnable win s
  | .formatWindowActive win => Sys2Proof.Machine.execFormatWindowActive win s
  | .formatWindowDisable win => Sys2Proof.Machine.execFormatWindowDisable win s
  | .formatFlushDone seq => Sys2Proof.Machine.execFormatFlushDone seq s
  | .registerWrite fn off val => Sys2Proof.Machine.execRegisterWrite fn off val s
  | .binAgeExpiry rec => Sys2Proof.Machine.execBinAgeExpiry rec s
  | .cobblerDrain rec => Sys2Proof.Machine.execCobblerDrain rec s
  | .recordSend rec pkg die => Sys2Proof.Machine.execRecordSend rec pkg die s
  | .recordData pkg txn die image => Sys2Proof.Machine.execRecordData pkg txn die image s
  | .ack rec => Sys2Proof.Machine.execAck rec s
  | .handoffTimeout rec => Sys2Proof.Machine.execHandoffTimeout rec s
  | .commit rec => Sys2Proof.Machine.execCommit rec s
  | .refuse rec => Sys2Proof.Machine.execRefuse rec s
  | .cellarExhaustion fn => Sys2Proof.Machine.execCellarExhaustion fn s
  | .placement uid => Sys2Proof.Machine.execPlacement uid s
  | .placementWaitTimeout uid => Sys2Proof.Machine.execPlacementWaitTimeout uid s
  | .splitWaitTimeout uid => Sys2Proof.Machine.execSplitWaitTimeout uid s
  | .priorityPreemption fn queue => Sys2Proof.Machine.execPriorityPreemption fn queue s
  | .haltRequest uid cause => Sys2Proof.Machine.execHaltRequest uid cause s
  | .issueSlotTake core slot => Sys2Proof.Machine.execIssueSlotTake core slot s
  | .teamMove launch team members => Sys2Proof.Machine.execTeamMove launch team members s
  | .qbell fn queue => Sys2Proof.Machine.execQbell fn queue s
  | .queueEnable fn queue val => Sys2Proof.Machine.execQueueEnable fn queue val s
  | .queueDisable fn queue val => Sys2Proof.Machine.execQueueDisable fn queue val s
  | .launchStart fn queue => Sys2Proof.Machine.execLaunchStart fn queue s
  | .teamCreate fn queue => Sys2Proof.Machine.execTeamCreate fn queue s
  | .launchComplete launch => Sys2Proof.Machine.execLaunchComplete launch s
  | .distLoad => Sys2Proof.Machine.execDistLoad s
  | .distLoadDone => Sys2Proof.Machine.execDistLoadDone s
  | .matrixUnitExecute core => Sys2Proof.Machine.execMatrixUnitExecute core s
  | .engineChunkDone op => Sys2Proof.Machine.execEngineChunkDone op s
  | .engineOpDone op => Sys2Proof.Machine.execEngineOpDone op s
  | .engineCheckpoint op => Sys2Proof.Machine.execEngineCheckpoint op s
  | .collectiveData op peer data => Sys2Proof.Machine.execCollectiveData op peer data s
  | .collectiveStageDone op => Sys2Proof.Machine.execCollectiveStageDone op s
  | .collectiveAbort op => Sys2Proof.Machine.execCollectiveAbort op s
  | .packageHeartbeat => Sys2Proof.Machine.execPackageHeartbeat s
  | .podTickSend => Sys2Proof.Machine.execPodTickSend s
  | .podTick count stamp => Sys2Proof.Machine.execPodTick count stamp s
  | .podTickAdopt count => Sys2Proof.Machine.execPodTickAdopt count s
  | .slotEdge => Sys2Proof.Machine.execSlotEdge s
  | .frameBoundary => Sys2Proof.Machine.execFrameBoundary s
  | .wheelTurn => Sys2Proof.Machine.execWheelTurn s
  | .wheelPosition die cls pos => Sys2Proof.Machine.execWheelPosition die cls pos s
  | .engineOverrun => Sys2Proof.Machine.execEngineOverrun s
  | .drainWindowEnd => Sys2Proof.Machine.execDrainWindowEnd s
  | .slotTableLoad => Sys2Proof.Machine.execSlotTableLoad s
  | .slotTableEnable => Sys2Proof.Machine.execSlotTableEnable s
  | .slotTableDisable => Sys2Proof.Machine.execSlotTableDisable s
  | .partitionRebuild => Sys2Proof.Machine.execPartitionRebuild s
  | .tenantReset fn => Sys2Proof.Machine.execTenantReset fn s
  | .tenantResetDone fn => Sys2Proof.Machine.execTenantResetDone fn s
  | .arbiterMessage fn => Sys2Proof.Machine.execArbiterMessage fn s
  | .selfTest unit lasting => Sys2Proof.Machine.execSelfTest unit lasting s
  | .dbgctlHalt fn core => Sys2Proof.Machine.execDbgctlHalt fn core s
  | .mbinWrite fn core val => Sys2Proof.Machine.execMbinWrite fn core val s
  | .mboutRead fn core => Sys2Proof.Machine.execMboutRead fn core s
  | .hostRead fn off bytes => Sys2Proof.Machine.execHostRead fn off bytes s
  | .hostWrite fn off store => Sys2Proof.Machine.execHostWrite fn off store s
  | .routeOpen => Sys2Proof.Machine.execRouteOpen s
  | .routeReady => Sys2Proof.Machine.execRouteReady s
  | .podrtWrite pkg val => Sys2Proof.Machine.execPodrtWrite pkg val s
  | .routeClose => Sys2Proof.Machine.execRouteClose s
  | .firmwareStage => Sys2Proof.Machine.execFirmwareStage s
  | .attestRequest fn => Sys2Proof.Machine.execAttestRequest fn s
  | .attestDone fn => Sys2Proof.Machine.execAttestDone fn s
  | .packageBoot => Sys2Proof.Machine.execPackageBoot s
  | .thermalThrottle => Sys2Proof.Machine.execThermalThrottle s
  | .thermalShutdown => Sys2Proof.Machine.execThermalShutdown s
  | .diePowerGating die => Sys2Proof.Machine.execDiePowerGating die s
  | .fabricPortStateChange port up => Sys2Proof.Machine.execFabricPortStateChange port up s
  | .firmwareStageDone => Sys2Proof.Machine.execFirmwareStageDone s
  | .partitionRebuildDone => Sys2Proof.Machine.execPartitionRebuildDone s

end Sys2Proof.Machine
end

