-- ==== Sys2Proof/Machine/Step.lean ====
section
/-! DEFINITION. One step of the package (log 2): the next input of the agenda when it is due, else the
header or the word of a cohort that holds an issue slot, else an event of another agent. -/

namespace Sys2Proof.Machine

open Sys2Proof

/-- What follows each step: the watched locations are read again, references enter their bins, and time
moves within its tick (log 5). -/
def settled : Host.Outcome State Fault Refusal → Host.Outcome State Fault Refusal
  | .next s => .next s.after
  | .fault f => .fault f
  | .refused r => .refused r

/-- The word of a cohort: a breakpoint, a fetch that fails, an encoding that no word has, STATEERR where the word uses state with an
uncorrectable error (R462), or the meaning of the word. -/
def wordStep (c : Cohort) (s : State) : Host.Outcome State Fault Refusal :=
  match s.breakpoint c with
  | some n => .next (s.breakAt c n)
  | none =>
    match s.fetch c c.pc with
    | .ok w =>
      match rawDecode w with
      | some i => if c.badFor i then .next ((s.fetchKeep c c.pc).stateError c w) else exec i { s.fetchKeep c c.pc with cur := some c.uid }
      | none => .next ((s.fetchKeep c c.pc).takeTrap c w { code := .illegal } [])
    | f => .next (s.fetchFailed c 0#64 f)

/-- The next event of the part's other agents. -/
def agentStep (s : State) : Host.Outcome State Fault Refusal := exec s.agent s

/-- The turn of a cohort, or of another agent. -/
def turnStep (s : State) : Host.Outcome State Fault Refusal :=
  if s.agentTurn then agentStep s
  else match s.pick with
    | some c => match s.boundary c with
      | some t => .next t
      | none => if c.atHeader then .next (s.headerStep c) else wordStep c s
    | none => agentStep s

/-- One step. -/
def step (s : State) : Host.Outcome State Fault Refusal :=
  if !s.powered then .fault .noPower
  else match s.agenda with
    | (0, i) :: rest => settled (exec i { s with agenda := rest })
    | (n + 1, i) :: rest => settled (turnStep { s with agenda := (n, i) :: rest })
    | [] => settled (turnStep s)

/-- The cohort of `State.withFetchWord`: one fibre, every register 0, at the word of its block. -/
def probeCohort : Cohort :=
  { uid := 0, core := 0, slot := 0, issue := some 0, readyTime := 0, slotSince := 0, placed := 0
    placedAt := 0, tag := 0#32, ctx := 0, launch := 1#32
    win := 16, stack := 0, pinned := false, leadTeam := 0#32, pc := 0x10008, block := 0x10000, len := 1
    reconv := 0, kept := false, atHeader := false, sregs := List.replicate 160 0#64, uq := [], vq := []
    conv := 0#32, flightU := [], flightV := [], latches := deadLatches, liveRun := 0, landings := []
    split := none, parked := false, wait := .none, skip := false, stepping := false, stepDue := none, failed := none
    fibres := [{ lane := 0, fidx := 0#16, team := 0#32, depth := 0, preds := 0#8, base := 0
                 regs := List.replicate 128 0#32, frames := [], join := none }] }

/-- The state with an instruction word where the next step fetches (log 7): context 0 has a heap of 2 MiB at
address 0, a block of that one word stands at 0x10000 before a header with SUSP, and a cohort of function 0
holds issue slot 0 of core 0 at the word. -/
def State.withFetchWord (s : State) (nbits w : Nat) : State :=
  let m := cellsWrite s.mem 0x10000 (wordBytes 0xB700400000000000#64 ++ wordBytes (BitVec.ofNat 64 (w % 2 ^ nbits)) ++
    wordBytes 0xB700000000000200#64)
  { ((s.setReg 0 0x1010 (2 ^ 21)).setReg 0 0x1020 6) with
    mem := m, cohorts := [probeCohort], nextUid := 1, agenda := [], turn := 0, powered := true }

end Sys2Proof.Machine
end

