-- ==== Sys2Proof/Safety.lean ====
section
/-! DEFINITION. What a safe run is: every memory in its canonical form, and no fault. -/

namespace Sys2Proof

open Sys2Proof.Machine

/-- A state is well kept: its memories are in canonical form. -/
def Safe (s : State) : Prop := Memory.wf s = true

/-- A step answers a next state. -/
def Runs (s : State) : Prop := ∃ t, step s = .next t

end Sys2Proof
end

