-- ==== Sys2Proof/Certificates/Slice0/Obligations.lean ====
section
/-! DEFINITION. The statements for the provers. What each word and each event leaves is written here from the rules of
spec/, over the model's shared operations; `Sys2Proof.Claims` holds the vocabulary of the statements. -/

namespace Sys2Proof.Claims

open Sys2Proof Sys2Proof.Machine

/-! ## Words of the two arithmetic sides -/

/-- The outcome of a step or of a meaning. -/
abbrev Out := Host.Outcome State Fault Refusal

/-- A 64-bit uniform result written under R230 with latency 2, at the end of the word's own issue cycle. -/
def uniformWrite (c : Cohort) (dst : Nat) (x : Word64) : Cohort :=
  { c with flightU := c.flightU ++ [({ left := 2, reg := dst, val := x } : InFlightU)] }.tickU

/-- The low bits of an operand at the width of a type (R277). -/
abbrev lo (ty : Ty) (x : Nat) : BitVec ty.width := BitVec.ofNat ty.width x
/-- Its integer: two's complement for a signed type, unsigned otherwise (R277). -/
def val (ty : Ty) (x : BitVec ty.width) : Int := if ty.signed then x.toInt else x.toNat
/-- The width's bits extended to 64: with the sign for a signed type, with zeros otherwise (R253, R277). -/
def ext64 (ty : Ty) (x : BitVec ty.width) : Word64 := if ty.signed then x.signExtend 64 else x.setWidth 64
/-- The least and the greatest integer of a type. -/
def least (ty : Ty) : Int := if ty.signed then -2 ^ (ty.width - 1) else 0
def greatest (ty : Ty) : Int := if ty.signed then 2 ^ (ty.width - 1) - 1 else 2 ^ ty.width - 1
/-- An exact result narrowed: clamped to the range first under `.sat` (R279, R307). -/
def fit (ty : Ty) (sat : Bool) (x : Int) : BitVec ty.width :=
  BitVec.ofInt ty.width (if sat then max (least ty) (min (greatest ty) x) else x)
/-- A count's non-negative residue (R279, R307). -/
def count (ty : Ty) (b : BitVec ty.width) (m : Nat) : Nat := (val ty b % m).toNat
/-- `a` CC `b` between integers (R256). -/
def holds (cc : BitVec 3) (a b : Int) : Bool :=
  match cc.toNat with
  | 0 => a == b | 1 => a != b | 2 => a < b | 3 => a ≤ b | 4 => a > b | 5 => a ≥ b | _ => false

/-! ### The exact results of R278, R279, R306 and R307, on `n` bits -/

def sumR (ty : Ty) (sat : Bool) (a b : BitVec ty.width) := fit ty sat (val ty a + val ty b)
def differenceR (ty : Ty) (sat : Bool) (a b : BitVec ty.width) := fit ty sat (val ty a - val ty b)
def productR (ty : Ty) (sat : Bool) (a b : BitVec ty.width) := fit ty sat (val ty a * val ty b)
def productHighR (ty : Ty) (a b : BitVec ty.width) := fit ty false (val ty a * val ty b / 2 ^ ty.width)
def productSumR (ty : Ty) (sat : Bool) (a b c : BitVec ty.width) := fit ty sat (val ty a * val ty b + val ty c)
def quotientR (ty : Ty) (a b : BitVec ty.width) : BitVec ty.width :=
  if b = 0 then BitVec.allOnes ty.width else fit ty false ((val ty a).tdiv (val ty b))
def remainderR (ty : Ty) (a b : BitVec ty.width) : BitVec ty.width :=
  if b = 0 then a else fit ty false (val ty a - val ty b * (val ty a).tdiv (val ty b))
def smallerR (ty : Ty) (a b : BitVec ty.width) : BitVec ty.width := if val ty a ≤ val ty b then a else b
def largerR (ty : Ty) (a b : BitVec ty.width) : BitVec ty.width := if val ty a ≤ val ty b then b else a
def shiftLeftR (ty : Ty) (a b : BitVec ty.width) : BitVec ty.width := a <<< count ty b ty.width
def shiftRightR (ty : Ty) (a b : BitVec ty.width) : BitVec ty.width :=
  if ty.signed then a.sshiftRight (count ty b ty.width) else a >>> count ty b ty.width
def rotateR (ty : Ty) (a b : BitVec ty.width) : BitVec ty.width := a.rotateLeft (count ty b ty.width)
/-- The low `k` bits extended, as an integer. -/
def lowExt (ty : Ty) (k : Nat) (x : BitVec 64) : Int := if ty.signed then (x.setWidth k).toInt else (x.setWidth k).toNat
def extendR (ty : Ty) (a b : BitVec ty.width) : BitVec ty.width := fit ty false (lowExt ty (count ty b ty.width + 1) (a.setWidth 64))
def onesR (ty : Ty) (a : BitVec ty.width) : BitVec ty.width := BitVec.ofNat _ ((List.range ty.width).countP fun j => a.getLsbD j)
def zerosR (ty : Ty) (a : BitVec ty.width) : BitVec ty.width :=
  BitVec.ofNat _ ((List.range ty.width).takeWhile fun j => !a.getLsbD (ty.width - 1 - j)).length
/-- `k` bits from position `p`, zeros above the operand, extended (R279, R307). -/
def fieldR (ty : Ty) (a : BitVec ty.width) (p k : Nat) : BitVec ty.width := fit ty false (lowExt ty k (a.setWidth 64 >>> p))

/-- What R278 and R279 give a UR or UI word: the register and its 64 bits. -/
def uniformRow (c : Cohort) : Instr → Option (BitVec 8 × Word64)
  | .uadd w => some (w.dst, ext64 w.ty (sumR w.ty (w.mod.getLsbD 0) (lo w.ty (c.usrc w.a)) (lo w.ty (c.usrc w.b))))
  | .usub w => some (w.dst, ext64 w.ty (differenceR w.ty (w.mod.getLsbD 0) (lo w.ty (c.usrc w.a)) (lo w.ty (c.usrc w.b))))
  | .umul w => some (w.dst, ext64 w.ty (productR w.ty (w.mod.getLsbD 0) (lo w.ty (c.usrc w.a)) (lo w.ty (c.usrc w.b))))
  | .umulh w => some (w.dst, ext64 w.ty (productHighR w.ty (lo w.ty (c.usrc w.a)) (lo w.ty (c.usrc w.b))))
  | .umad w => some (w.dst, ext64 w.ty (productSumR w.ty (w.mod.getLsbD 0) (lo w.ty (c.usrc w.a)) (lo w.ty (c.usrc w.b))
      (lo w.ty (c.usrc w.c))))
  | .udiv w => some (w.dst, ext64 w.ty (quotientR w.ty (lo w.ty (c.usrc w.a)) (lo w.ty (c.usrc w.b))))
  | .urem w => some (w.dst, ext64 w.ty (remainderR w.ty (lo w.ty (c.usrc w.a)) (lo w.ty (c.usrc w.b))))
  | .umin w => some (w.dst, ext64 w.ty (smallerR w.ty (lo w.ty (c.usrc w.a)) (lo w.ty (c.usrc w.b))))
  | .umax w => some (w.dst, ext64 w.ty (largerR w.ty (lo w.ty (c.usrc w.a)) (lo w.ty (c.usrc w.b))))
  | .uand w => some (w.dst, ext64 w.ty (lo w.ty (c.usrc w.a) &&& lo w.ty (c.usrc w.b)))
  | .uor w => some (w.dst, ext64 w.ty (lo w.ty (c.usrc w.a) ||| lo w.ty (c.usrc w.b)))
  | .uxor w => some (w.dst, ext64 w.ty (lo w.ty (c.usrc w.a) ^^^ lo w.ty (c.usrc w.b)))
  | .uandn w => some (w.dst, ext64 w.ty (lo w.ty (c.usrc w.a) &&& ~~~(lo w.ty (c.usrc w.b))))
  | .ushl w => some (w.dst, ext64 w.ty (shiftLeftR w.ty (lo w.ty (c.usrc w.a)) (lo w.ty (c.usrc w.b))))
  | .ushr w => some (w.dst, ext64 w.ty (shiftRightR w.ty (lo w.ty (c.usrc w.a)) (lo w.ty (c.usrc w.b))))
  | .urot w => some (w.dst, ext64 w.ty (rotateR w.ty (lo w.ty (c.usrc w.a)) (lo w.ty (c.usrc w.b))))
  | .ucmp w => some (w.dst, if holds w.rm (val w.ty (lo w.ty (c.usrc w.a))) (val w.ty (lo w.ty (c.usrc w.b))) then 1 else 0)
  | .usel w => some (w.dst, ext64 w.ty (if lo w.ty (c.usrc w.a) = 0 then lo w.ty (c.usrc w.c) else lo w.ty (c.usrc w.b)))
  | .umov w => some (w.dst, ext64 w.ty (lo w.ty (c.usrc w.a)))
  | .uext w => some (w.dst, ext64 w.ty (extendR w.ty (lo w.ty (c.usrc w.a)) (lo w.ty (c.usrc w.b))))
  | .upop w => some (w.dst, ext64 w.ty (onesR w.ty (lo w.ty (c.usrc w.a))))
  | .uclz w => some (w.dst, ext64 w.ty (zerosR w.ty (lo w.ty (c.usrc w.a))))
  | .ubfx w => some (w.dst, ext64 w.ty (fieldR w.ty (lo w.ty (c.usrc w.a)) (count w.ty (lo w.ty (c.usrc w.b)) 64)
      (min (count w.ty (lo w.ty (c.usrc w.c)) 128) 64)))
  | .ulea w => some (w.dst, ext64 w.ty (fit w.ty false
      (val w.ty (lo w.ty (c.usrc w.a)) + val w.ty (lo w.ty (c.usrc w.b)) * 2 ^ (c.usrc w.c))))
  | .uaddImm w => some (w.dst, ext64 w.ty (sumR w.ty false (lo w.ty (c.usrc w.a)) (w.imm.signExtend _)))
  | .umulImm w => some (w.dst, ext64 w.ty (productR w.ty false (lo w.ty (c.usrc w.a)) (w.imm.signExtend _)))
  | .uandImm w => some (w.dst, ext64 w.ty (lo w.ty (c.usrc w.a) &&& w.imm.signExtend _))
  | .uorImm w => some (w.dst, ext64 w.ty (lo w.ty (c.usrc w.a) ||| w.imm.signExtend _))
  | .uxorImm w => some (w.dst, ext64 w.ty (lo w.ty (c.usrc w.a) ^^^ w.imm.signExtend _))
  | .ucmpImm w => some (w.dst, if holds w.rm (val w.ty (lo w.ty (c.usrc w.a))) (val w.ty (w.imm.signExtend _)) then 1 else 0)
  | .umovImm w => some (w.dst, ext64 w.ty (w.imm.signExtend _))
  | .ucat w => some (w.dst, BitVec.ofNat 64 (c.usrc w.a) <<< 25 ||| w.imm.setWidth 64)
  | _ => none

/-! ### Vector words -/

/-- What a vector word that writes a register names and gives: its registers, whether its result is a pair, its
destination and each active lane's result. -/
structure VecRow where
  op : VectorOp
  pair : Bool
  dst : Nat
  res : Fibre → Nat

/-- A result of `n` bits in one register, or in a pair for a 64-bit type (R253, R306). -/
def extReg (ty : Ty) (x : BitVec ty.width) : Nat :=
  if ty.signed then (x.signExtend (if ty.pair then 64 else 32)).toNat else x.toNat

/-- A VR row of R306 with `n` sources. -/
def vr (w : VrWord) (n : Nat) (res : Fibre → BitVec w.ty.width) : Option VecRow :=
  some ⟨vrOp w (vrReads w n) w.ty.pair 4, w.ty.pair, w.dst.toNat, fun f => extReg w.ty (res f)⟩
/-- A VI row of R306. -/
def vi (w : ViWord) (res : Fibre → BitVec w.ty.width) : Option VecRow :=
  some ⟨viOp w (srcRun w.ty w.a) w.ty.pair 4, w.ty.pair, w.dst.toNat, fun f => extReg w.ty (res f)⟩

/-- A lane's operand at the width of a type. -/
abbrev src (c : Cohort) (ty : Ty) (x : Src) (f : Fibre) : BitVec ty.width := lo ty (c.vsrc f ty x)

/-- The exact sum of four byte products and an accumulator (R308). -/
def dotR (signedA signedB : Bool) (a b : Nat) (c : Int) : Int :=
  let byte (signed : Bool) (x q : Nat) : Int :=
    if signed then (BitVec.ofNat 8 (x / 2 ^ (8 * q))).toInt else (BitVec.ofNat 8 (x / 2 ^ (8 * q))).toNat
  c + byte signedA a 0 * byte signedB b 0 + byte signedA a 1 * byte signedB b 1 + byte signedA a 2 * byte signedB b 2 +
    byte signedA a 3 * byte signedB b 3

/-- What R306 to R309 give a vector integer word that writes a register. -/
def integerRow (c : Cohort) : Instr → Option VecRow
  | .vadd w => vr w 2 fun f => sumR w.ty (w.mod.getLsbD 0) (src c w.ty w.a f) (src c w.ty w.b f)
  | .vsub w => vr w 2 fun f => differenceR w.ty (w.mod.getLsbD 0) (src c w.ty w.a f) (src c w.ty w.b f)
  | .vmul w => vr w 2 fun f => productR w.ty (w.mod.getLsbD 0) (src c w.ty w.a f) (src c w.ty w.b f)
  | .vmulh w => vr w 2 fun f => productHighR w.ty (src c w.ty w.a f) (src c w.ty w.b f)
  | .vmad w => vr w 3 fun f => productSumR w.ty (w.mod.getLsbD 0) (src c w.ty w.a f) (src c w.ty w.b f) (src c w.ty w.c f)
  | .vmin w => vr w 2 fun f => smallerR w.ty (src c w.ty w.a f) (src c w.ty w.b f)
  | .vmax w => vr w 2 fun f => largerR w.ty (src c w.ty w.a f) (src c w.ty w.b f)
  | .vabs w => vr w 1 fun f => fit w.ty (w.mod.getLsbD 0) (val w.ty (src c w.ty w.a f)).natAbs
  | .vand w => vr w 2 fun f => src c w.ty w.a f &&& src c w.ty w.b f
  | .vor w => vr w 2 fun f => src c w.ty w.a f ||| src c w.ty w.b f
  | .vxor w => vr w 2 fun f => src c w.ty w.a f ^^^ src c w.ty w.b f
  | .vandn w => vr w 2 fun f => src c w.ty w.a f &&& ~~~(src c w.ty w.b f)
  | .vshl w => vr w 2 fun f => shiftLeftR w.ty (src c w.ty w.a f) (src c w.ty w.b f)
  | .vshr w => vr w 2 fun f => shiftRightR w.ty (src c w.ty w.a f) (src c w.ty w.b f)
  | .vrot w => vr w 2 fun f => rotateR w.ty (src c w.ty w.a f) (src c w.ty w.b f)
  | .vext w => vr w 2 fun f => extendR w.ty (src c w.ty w.a f) (src c w.ty w.b f)
  | .vpop w => vr w 1 fun f => onesR w.ty (src c w.ty w.a f)
  | .vclz w => vr w 1 fun f => zerosR w.ty (src c w.ty w.a f)
  | .vbfx w => some ⟨vrOp w (srcRun w.ty w.a ++ srcRun .n32 w.b ++ srcRun .n32 w.c) w.ty.pair 4, w.ty.pair, w.dst.toNat,
      fun f => extReg w.ty (fieldR w.ty (src c w.ty w.a f) ((src c .n32 w.b f).toNat % 64)
        (min ((src c .n32 w.c f).toNat % 128) 64))⟩
  | .vbfi w => some ⟨vrOp w (srcRun w.ty w.a ++ srcRun .n32 w.b ++ srcRun w.ty w.c) w.ty.pair 4, w.ty.pair, w.dst.toNat,
      fun f =>
        let p := (src c .n32 w.b f).toNat % w.ty.width
        let m : BitVec w.ty.width := BitVec.ofNat _ (2 ^ (w.mod.toNat + 1) - 1) <<< p
        ((src c w.ty w.c f &&& ~~~m) ||| ((src c w.ty w.a f <<< p) &&& m)).toNat⟩
  | .vdot4 w => some ⟨vrOp w (srcRun .n32 w.a ++ srcRun .n32 w.b ++ srcRun .n32 w.c) false 4, false, w.dst.toNat,
      fun f =>
        let ty : Ty := if w.ty = .i8 then .i32 else .n32
        (fit ty (w.mod.getLsbD 0) (dotR (w.ty = .i8) (w.ty = .i8 && !w.mod.getLsbD 1) (c.wordSrc f w.a) (c.wordSrc f w.b)
          (val ty (lo ty (c.wordSrc f w.c))))).toNat⟩
  | .vaddImm w => vi w fun f => sumR w.ty false (src c w.ty w.a f) (w.imm.signExtend _)
  | .vmulImm w => vi w fun f => productR w.ty false (src c w.ty w.a f) (w.imm.signExtend _)
  | .vandImm w => vi w fun f => src c w.ty w.a f &&& w.imm.signExtend _
  | .vorImm w => vi w fun f => src c w.ty w.a f ||| w.imm.signExtend _
  | .vxorImm w => vi w fun f => src c w.ty w.a f ^^^ w.imm.signExtend _
  | .vsel w => vr w 3 fun f =>
      if holds w.rm (val w.ty (src c w.ty w.a f)) 0 then src c w.ty w.b f else src c w.ty w.c f
  | .vselImm w => vi w fun f =>
      if holds w.rm (val w.ty (src c w.ty w.a f)) 0 then src c w.ty w.a f else w.imm.signExtend _
  | .vmov w => some ⟨vrOp w (vrReads w 1) w.ty.pair 4, w.ty.pair, w.dst.toNat, fun f =>
      if w.ty.intBit then extReg w.ty (src c w.ty w.a f) else c.vsrc f w.ty w.a⟩
  | .vmovImm w => some ⟨viOp w [] w.ty.pair 4, w.ty.pair, w.dst.toNat, fun _ =>
      if w.ty.intBit then extReg w.ty (w.imm.signExtend _) else wideImm w.ty w.imm⟩
  | _ => none

/-- The state after a vector word that writes a register, where nothing traps: each active lane's result is in flight
for the destination, or in `L0` alone under WBS, and the word after it is next. -/
def vectorDone (s : State) (c : Cohort) (i : Instr) (r : VecRow) : State :=
  let vals := (c.active r.op.guard).map fun f => (f.lane, r.res f % 2 ^ (if r.pair then 64 else 32))
  s.finish (c.issueVec r.op (vecWrites r.pair r.dst vals) (some (latchFor r.op.wbs vals))) (wordOf i)

/-- The state after a vector word that writes a predicate. -/
def predicateDone (s : State) (c : Cohort) (i : Instr) (v : VectorOp) (dst : Nat) (holds : Fibre → Bool) : State :=
  s.finish (c.issueVec v ((c.active v.guard).map fun f => RegWrite.pred f.lane dst (holds f)) none) (wordOf i)

/-- What R309, R313 and R325 give a word that writes a predicate. -/
def predicateRow (c : Cohort) : Instr → Option (VectorOp × Nat × (Fibre → Bool))
  | .vcmp w => some (vrPredOp w (vrReads w 2) 4, w.dst.toNat, fun f =>
      holds w.rm (val w.ty (src c w.ty w.a f)) (val w.ty (src c w.ty w.b f)))
  | .vcmpImm w => some (viPredOp w (srcRun w.ty w.a) 4, w.dst.toNat, fun f =>
      holds w.rm (val w.ty (src c w.ty w.a f)) (val w.ty (w.imm.signExtend _)))
  | .fcmp w => some (vrPredOp w (vrReads w 2) (if w.ty = .f64 then 8 else 4), w.dst.toNat, fun f =>
      ccOrder w.rm.toNat ((valueOf w.ty (partOf w.ty (c.vsrc f w.ty w.a) (w.mod.toNat % 2))).cmp
        (valueOf w.ty (partOf w.ty (c.vsrc f w.ty w.b) (w.mod.toNat % 2)))))
  | .vote w =>
      if w.mod = 3#5 then none
      else some (vrPredOp w (srcRun w.ty w.a) 6, w.dst.toNat, fun _ =>
        let vals := (c.active w.guard).map fun f => c.vsrc f w.ty w.a
        match w.mod.toNat with
        | 0 => decide (∀ x ∈ vals, x ≠ 0)
        | 1 => decide (∃ x ∈ vals, x ≠ 0)
        | _ => decide (∀ x ∈ vals, ∀ y ∈ vals, x = y))
  | _ => none

/-! ### Floating point, conversions and cross-lane words -/

/-- A function of the values of each part of a packed operand, or of the whole of another, rounded once (R305, R310). -/
def rounded (ty : Ty) (rm : Nat) (sat : Bool) (u : Nat → Nat) (g : Nat → RealVal) : Nat :=
  if ty.packed then roundTo ty (g 0) rm sat (u 0) + 2 ^ 16 * roundTo ty (g 1) rm sat (u 1) else roundTo ty (g 0) rm sat (u 0)
/-- A function of the codes of each part. -/
def coded (ty : Ty) (g : Nat → Nat) : Nat := if ty.packed then g 0 + 2 ^ 16 * g 1 else g 0
/-- The value of part `h` of an operand. -/
def part (c : Cohort) (ty : Ty) (x : Src) (f : Fibre) (h : Nat) : RealVal := valueOf ty (partOf ty (c.vsrc f ty x) h)
/-- The value of part `h` of the IMM of a VI word (R258). -/
def partImm (ty : Ty) (imm : BitVec 25) (h : Nat) : RealVal := valueOf ty (partOf ty (wideImm ty imm) h)

/-- A row of R310 to R314, with latency 8 for `.f64` and 4 otherwise. -/
def fr (w : VrWord) (n : Nat) (res : Fibre → Nat) : Option VecRow :=
  some ⟨{ vrOp w (vrReads w n) w.ty.pair (if w.ty = .f64 then 8 else 4) with draws := w.rm == 4#3 }, w.ty.pair, w.dst.toNat, res⟩
def fi (w : ViWord) (res : Fibre → Nat) : Option VecRow :=
  some ⟨{ viOp w (srcRun w.ty w.a) w.ty.pair (if w.ty = .f64 then 8 else 4) with draws := w.rm == 4#3 }, w.ty.pair, w.dst.toNat, res⟩
/-- A row of R315, with latency 12. -/
def tr (c : Cohort) (w : VrWord) (g : RealVal → RealVal) : Option VecRow :=
  some ⟨vrOp w (vrReads w 1) w.ty.pair 12, false, w.dst.toNat, fun f =>
    rounded w.ty w.rm.toNat false (fun _ => 0) fun h => g (part c w.ty w.a f h)⟩

/-- What R310 to R315 give a floating-point word that writes a register. -/
def floatRow (s : State) (c : Cohort) : Instr → Option VecRow
  | .fadd w => fr w 2 fun f => rounded w.ty w.rm.toNat (w.mod.getLsbD 0) (s.drawn c w.rm f.lane) fun h =>
      (part c w.ty w.a f h).add w.rm.toNat (part c w.ty w.b f h)
  | .fsub w => fr w 2 fun f => rounded w.ty w.rm.toNat (w.mod.getLsbD 0) (s.drawn c w.rm f.lane) fun h =>
      (part c w.ty w.a f h).add w.rm.toNat (part c w.ty w.b f h).neg
  | .fmul w => fr w 2 fun f => rounded w.ty w.rm.toNat (w.mod.getLsbD 0) (s.drawn c w.rm f.lane) fun h =>
      (part c w.ty w.a f h).mul (part c w.ty w.b f h)
  | .ffma w => fr w 3 fun f => rounded w.ty w.rm.toNat (w.mod.getLsbD 0) (s.drawn c w.rm f.lane) fun h =>
      ((part c w.ty w.a f h).mul (part c w.ty w.b f h)).add w.rm.toNat (part c w.ty w.c f h)
  | .faddImm w => fi w fun f => rounded w.ty w.rm.toNat false (s.drawn c w.rm f.lane) fun h =>
      (part c w.ty w.a f h).add w.rm.toNat (partImm w.ty w.imm h)
  | .fmulImm w => fi w fun f => rounded w.ty w.rm.toNat false (s.drawn c w.rm f.lane) fun h =>
      (part c w.ty w.a f h).mul (partImm w.ty w.imm h)
  | .fmin w => fr w 2 fun f => coded w.ty fun h => fminmax w.ty false (partOf w.ty (c.vsrc f w.ty w.a) h) (partOf w.ty (c.vsrc f w.ty w.b) h)
  | .fmax w => fr w 2 fun f => coded w.ty fun h => fminmax w.ty true (partOf w.ty (c.vsrc f w.ty w.a) h) (partOf w.ty (c.vsrc f w.ty w.b) h)
  | .fminImm w => fi w fun f => coded w.ty fun h => fminmax w.ty false (partOf w.ty (c.vsrc f w.ty w.a) h) (partOf w.ty (wideImm w.ty w.imm) h)
  | .fmaxImm w => fi w fun f => coded w.ty fun h => fminmax w.ty true (partOf w.ty (c.vsrc f w.ty w.a) h) (partOf w.ty (wideImm w.ty w.imm) h)
  | .fabs w => fr w 1 fun f => coded w.ty fun h => partOf w.ty (c.vsrc f w.ty w.a) h % 2 ^ (w.ty.width - 1)
  | .fneg w => fr w 1 fun f => coded w.ty fun h => partOf w.ty (c.vsrc f w.ty w.a) h ^^^ 2 ^ (w.ty.width - 1)
  | .fcsgn w => fr w 2 fun f => coded w.ty fun h =>
      partOf w.ty (c.vsrc f w.ty w.a) h % 2 ^ (w.ty.width - 1) + (partOf w.ty (c.vsrc f w.ty w.b) h &&& 2 ^ (w.ty.width - 1))
  | .fclass w => some ⟨vrOp w (vrReads w 1) false (if w.ty = .f64 then 8 else 4), false, w.dst.toNat, fun f =>
      coded w.ty fun h => 2 ^ classBit w.ty (partOf w.ty (c.vsrc f w.ty w.a) h)⟩
  | _ => none

/-- What R315 gives a transcendental word, by the functions of log 21. -/
def transcRow (c : Cohort) : Instr → Option VecRow
  | .frcp w => tr c w frcpVal
  | .frsq w => tr c w frsqVal
  | .fsqrt w => tr c w fsqrtVal
  | .fexp2 w => tr c w fexp2Val
  | .flog2 w => tr c w flog2Val
  | .fsin w => tr c w fsinVal
  | .fcos w => tr c w fcosVal
  | .ftanh w => tr c w ftanhVal
  | .fexp w => tr c w fexpVal
  | _ => none

/-- One value converted (R317, R322): to an integer type from an integer, clamped under `.sat`, or from a float by R90;
to a float type by one rounding. -/
def converted (dty sty : Ty) (x rm : Nat) (sat : Bool) (u : Nat) : Nat :=
  if dty.intBit then
    extReg dty (if sty.intBit then fit dty sat (val sty (lo sty x)) else BitVec.ofInt _ (toInt dty (valueOf sty x) rm u))
  else roundTo dty (valueOf sty x) rm sat u

/-- What R317 to R322 give a conversion word. -/
def conversionRow (s : State) (c : Cohort) : Instr → Option VecRow
  | .cvt w => some ⟨cvtOp w (srcRun (srcTy w) w.a) w.ty.pair (w.rm == 4#3), w.ty.pair, w.dst.toNat, fun f =>
      converted w.ty (srcTy w) (c.vsrc f (srcTy w) w.a) w.rm.toNat (cvtSat w) (s.drawn c w.rm f.lane 0)⟩
  | .cvtp w => some ⟨cvtOp w (srcRun (srcTy w) w.a ++ if srcTy w = .f32 then srcRun .f32 w.b else []) false (w.rm == 4#3),
      false, w.dst.toNat, fun f => rounded w.ty w.rm.toNat (cvtSat w) (s.drawn c w.rm f.lane) fun h =>
        if srcTy w = .f32 then valueOf .f32 (c.vsrc f .f32 (if h = 0 then w.a else w.b)) else part c (srcTy w) w.a f h⟩
  | .cvtx w => some ⟨cvtOp w (srcRun (srcTy w) w.a ++ srcRun .b32 w.b) w.ty.pair false, w.ty.pair, w.dst.toNat, fun f =>
      converted w.ty (srcTy w) (c.vsrc f (srcTy w) w.a) 4 (cvtSat w) (c.vsrc f .b32 w.b % 2 ^ 24)⟩
  | .bscl w => some ⟨cvtOp w (srcRun w.ty w.a ++ srcRun .i32 w.b) w.ty.pair (w.rm == 4#3), w.ty.pair, w.dst.toNat, fun f =>
      rounded w.ty w.rm.toNat (cvtSat w) (s.drawn c w.rm f.lane) fun h =>
        scaleBy (src c .i32 w.b f).toInt (part c w.ty w.a f h)⟩
  | .bunpk w => some ⟨{ vrOp w (srcRun .b32 w.a ++ srcRun .n32 w.b ++ if srcTy w = .bs4 then srcRun .b32 w.c else []) false 4 with
        srcs := [w.a, w.b, w.c] }, false, w.dst.toNat, fun f =>
      roundTo w.ty (unpackValue (srcTy w) (c.vsrc f (srcTy w) w.a) (c.vsrc f .n32 w.b) (c.vsrc f .b32 w.c)) 0 false 0⟩
  | .bpack w => some ⟨cvtOp w [(groupOf w.a, bpackGroup w.ty (srcTy w))] (w.ty == .bs4) (w.rm == 4#3), w.ty == .bs4, w.dst.toNat,
      fun f =>
        let xs := (List.range (if w.ty = .e4m3 ∨ w.ty = .e5m2 then 4 else 8)).map (groupElement (srcTy w) f (groupOf w.a))
        if w.ty = .bs4 then
          let b := encodeBlock xs w.rm.toNat ((List.range 8).map (s.drawn c w.rm f.lane))
          packCodes 4 b.2 + 2 ^ 32 * b.1
        else packCodes w.ty.width (xs.zipIdx.map fun (x, j) =>
          roundTo w.ty x w.rm.toNat (cvtSat w && w.ty == .e5m2) (s.drawn c w.rm f.lane j))⟩
  | _ => none

/-- What R324 to R328 give a cross-lane word that writes a register. -/
def crossRow (c : Cohort) : Instr → Option VecRow
  | .shfl w => some ⟨vrOp w (srcRun w.ty w.a ++ srcRun .n32 w.b) w.ty.pair 6, w.ty.pair, w.dst.toNat, fun f =>
      let k := (src c .n32 w.b f).toNat % 32
      c.laneValue w.ty w.a (match w.mod.toNat with
        | 0 => k
        | 1 => if f.lane < k then f.lane else f.lane - k
        | 2 => if 31 < f.lane + k then f.lane else f.lane + k
        | 3 => f.lane ^^^ k
        | _ => (f.lane + k) % 32)⟩
  | .vote w => if w.mod = 3#5 then some ⟨vrOp w (srcRun w.ty w.a) false 6, false, w.dst.toNat, fun _ =>
      ballot ((c.active w.guard).map fun f => (f.lane, c.vsrc f w.ty w.a))⟩ else none
  | .vred w => some ⟨vrOp w (srcRun w.ty w.a) w.ty.pair 6, w.ty.pair, w.dst.toNat, fun _ =>
      reduceValues (w.mod.toNat % 8) w.ty ((c.active w.guard).map fun f => (f.lane, c.vsrc f w.ty w.a))⟩
  | .vscan w => some ⟨vrOp w (srcRun w.ty w.a) w.ty.pair 6, w.ty.pair, w.dst.toNat, fun f =>
      scanValue (w.mod.toNat % 8) w.ty
        (((c.active w.guard).filter fun g => g.lane < f.lane || (g.lane == f.lane && !w.mod.getLsbD 3)).map fun g =>
          c.vsrc g w.ty w.a)⟩
  | .vbcast w => some ⟨vrOp w (srcRun w.ty w.a) w.ty.pair 6, w.ty.pair, w.dst.toNat, fun _ =>
      c.laneValue w.ty w.a (c.usrc w.b % 32)⟩
  | _ => none

/-- What an arithmetic, conversion, cross-lane or predicate word of the vector side names. -/
def vectorNames (s : State) (c : Cohort) (i : Instr) (v : VectorOp) : Prop :=
  (∃ r : VecRow, r.op = v ∧ (integerRow c i = some r ∨ floatRow s c i = some r ∨ transcRow c i = some r ∨
    conversionRow s c i = some r ∨ crossRow c i = some r)) ∨ ∃ dst h, predicateRow c i = some (v, dst, h)

/-- What a special register of the cohort reads (R264). -/
def specialValue (s : State) (c : Cohort) (n : Nat) : Nat :=
  match n with
  | 0x08 => c.launch.toNat
  | 0x09 => s.denseCore (c.ctx / 8) c.core
  | 0x0A => s.denseQuad (c.ctx / 8) (c.core / 4)
  | 0x0B => c.core / 128
  | 0x0C => s.field 0 0xF918 9 0
  | 0x0D => s.clock
  | 0x0E => s.clock / 256
  | 0x0F => 16 - c.uq.length
  | 0x10 => 16 - c.vq.length
  | _ => c.ctx / 8

/-- What `srdv` reads in a lane (R264). -/
def laneSpecial (s : State) (c : Cohort) (f : Fibre) (n : Nat) : Nat :=
  match n with
  | 0x00 => f.fidx.toNat
  | 0x01 => f.lane
  | 0x02 => f.team.toNat
  | 0x03 => f.depth
  | n => specialValue s c n % 2 ^ 32

/-! ## Words at a potential stall point -/

/-- A word passes its stall point (R232 to R238): its cohort `c` is current, what the point drains has drained and the tile stores
have issued, leaving `s` and `d`; no matrix word of the cohort has failed; no register lies outside the window; no latch value is
live; no register or predicate that it names is a landing's. A `passed` word is of the vector side, and captured its uniform
operands as the scalar side passed it (R224, R230). -/
structure Passes (passed : Bool) (s0 : State) (i : Instr) (g : Guard) (runs : List RegRun) (preds : List Nat) (c : Cohort) (s : State)
    (d : Cohort) : Prop where
  current : s0.current = some c
  wf : i.wf = true
  drained : s0.tileStores (c.atStop passed) = (s, d)
  sound : d.failed = none
  window : d.outside runs = false
  latches : d.latchLive = false
  landings : d.hazard runs = false
  predicates : d.predHazard (g.psel.toNat :: preds) = false

/-- A word of the uniform side, or one that meets the other side, passes its stall point. -/
abbrev Ready := Passes false

/-- The cohort past its stall point: every latch dead (R232). -/
def calm (d : Cohort) : Cohort := { d with latches := deadLatches, liveRun := 0 }

/-- Some lane is active. -/
def someActive (c : Cohort) (g : Guard) : Prop := c.active g ≠ []

/-- What a word leaves, at its end (R224): one that was passed drains the uniform side once it is performed. -/
def ends (passed : Bool) (d : Cohort) (t : State) : State := if passed then t.drained d.uid d.pc else t

/-- The accesses of a word pass the checks of R30, R31, R359 and R459; before a write, the core's writes to peers have performed where
a release step of `.pod` or `.sys` has been left for it (R120, R126). -/
structure Clear (s : State) (c : Cohort) (accs : List Acc) (rd wr : Bool) (len : Nat) : Prop where
  sound : accs.find? Acc.failed = none
  answered : s.abortedReq c.uid = none
  translated : wantedPeers ((if rd then 1 else 0) + (if wr then 2 else 0)) accs = []
  unwatched : s.watchTrap c rd wr len accs = none
  released : wr = true → ∀ o, s.owedBy c.uid = some o → 5 ≤ o.1 → s.peerOpen c = false

/-- The release steps that fences of a cohort have left, completed before a write (R120). -/
def paid (s : State) (c : Cohort) : State :=
  match s.owedBy c.uid with
  | none => s
  | some (scope, mark) =>
    let t := s.releaseAt c.core scope fun r => r.of c && r.landing < mark
    { t with owed := t.owed.filter fun o => o.1 != c.uid }

/-- Whether every write of some accesses stands in pending(c) before it performs (R122): none goes to a peer, and none to scratchpad,
whose bytes are there at once (R125). -/
def allPend (accs : List Acc) : Prop := ∀ a ∈ accs, a.lazy = true

/-- The release step of a word's mark (R116, R126). Writes that pend perform after it, and no read waits for it; else it completes at
the word. A scope wider than `.core` waits for the core's exchange stores as well. -/
def released (s : State) (c : Cohort) (w : MemWord) (accs : List Acc) : State :=
  if w.ord.getLsbD 1 = false then s
  else if accs.all Acc.lazy then
    let s1 := s.gather c.core fun r => readOfLanes c w.guard r && r.kind == .cell
    let s2 := if 2 ≤ markScope w then s1.acceptCore c.core else s1
    if accs = [] then s2 else { s2 with owed := s2.owed ++ [(c.uid, markScope w, s2.nextUid)] }
  else s.releaseAt c.core (markScope w) (readOfLanes c w.guard)
/-- When it need not wait for a peer. -/
def mayRelease (s : State) (c : Cohort) (w : MemWord) (accs : List Acc) : Prop :=
  w.ord.getLsbD 1 = true →
    (allPend accs → ∀ o, (released s c w accs).owedBy c.uid = some o → 5 ≤ o.1 → (released s c w accs).peerOpen c = false) ∧
    (¬ allPend accs → 5 ≤ markScope w → s.peerOpen c = false)

/-- The release steps that come before a synchronising word of some scope, its own among them, need not wait for a peer (R126). -/
def freeToRelease (s : State) (c : Cohort) (scope : Nat) : Prop :=
  (∀ o, s.owedBy c.uid = some o → 5 ≤ o.1 → s.peerOpen c = false) ∧ (5 ≤ scope → (paid s c).peerOpen c = false)

/-- What they leave. -/
def releasedFor (s : State) (c : Cohort) (scope : Nat) (g : Guard) : State :=
  (paid s c).releaseAt c.core scope (readOfLanes c g)

/-- What the first read of watched locations of `n` bytes leaves at their home slices (R64, R69, R127, R148): the cohort's own writes
there have performed, its core's entries have been filled, and the core has seen the last entries. -/
def watched (s0 : State) (c : Cohort) (n : Nat) (accs : List Acc) : State :=
  let s1 := (s0.spendGrant c).settle c true n accs
  let s2 := accs.foldl (fun t a => t.performOwn c.core (.hbm a.devicePa) n) s1
  let s3 := (s2.missedSectors c false n accs).foldl (fun t x => t.fillReturn c.core x) (s2.askLoads c false n accs)
  accs.foldl (fun t a => t.sawLast c.core (.hbm a.devicePa) (t.performedRead (.hbm a.devicePa) n)) s3

/-- What the end of a cohort's segment waits for is over: its matrix words, its reads and its core's writes (R126, R139, R352). -/
def segmentEnds (s : State) (c : Cohort) (s1 : State) (d : Cohort) : Prop :=
  ∃ sA cA, s.matrixDrain c = (sA, cA) ∧ sA.peerOpen cA = false ∧ sA.closeOut cA = (s1, d)

/-- Every earlier access of a cohort performed (R132). -/
def completed (s : State) (c : Cohort) : State :=
  let t := (s.releaseAt c.core 5 fun r => r.of c).drainCore c.core
  { t with owed := t.owed.filter fun o => o.1 != c.uid }

/-! ## Control and memory words -/

/-- The target of a relative transfer: the word's address plus 8 × OFF (R282). -/
def target (d : Cohort) (w : CtlWord) : Nat := lowBits 64 ((d.pc : Int) + 8 * w.off.toInt)

/-- The condition of `brc`: the register and SB read at TY, under CC (R284, R256). -/
def branchCond (d : Cohort) (w : CtlWord) (ty : Ty) : Bool :=
  holds w.cc (val ty (lo ty (d.sreg w.ua.toNat))) (val ty (lo ty (d.usrc w.sb)))

/-- A word that may suspend passes its stall point and the checks of R198 and R199: its matrix words complete, leaving `s1`
and `e`; its core's writes to peers have performed; it stands last in its block; and the header after it admits suspension. -/
structure Resumes (s0 : State) (i : Instr) (g : Guard) (runs : List RegRun) (preds : List Nat) (c : Cohort) (s1 : State)
    (e : Cohort) (h : Header) : Prop where
  ready : ∃ s d, Ready s0 i g runs preds c s d ∧ s.matrixDrain (calm d) = (s1, e)
  sound : e.failed = none
  peers : s1.peerOpen e = false
  last : e.lastWord = true
  header : s1.headerAt e (e.pc + 8) = .good h
  suspends : h.susp = true
  fits : h.liveV ≤ e.window

/-- The state at a word's accesses, once the release steps that come before a write that does not pend are completed, and what the
accesses leave in the TLBs, the counters and the leases is noted. -/
def noted (s : State) (d : Cohort) (accs : List Acc) (rd wr : Bool) : State :=
  (if wr && !accs.all Acc.lazy then paid s d else s).noteAccs d rd wr accs

/-- A memory word at its stall point that goes on: its tag is free, and a uniform form has an active lane (R237, R358). -/
structure AtAccess (s0 : State) (i : Instr) (w : MemWord) (runs : List RegRun) (tag : Option Nat) (c : Cohort) (s : State)
    (d : Cohort) : Prop where
  ready : Passes (!w.ua) s0 i w.guard runs [] c s d
  free : ∀ n, tag = some n → d.tagBusy n = false
  agents : w.ua = true → someActive d w.guard

/-- What a word that reads leaves once it may go on: its errors entered, its requests sent, its reads issued, and its landing or its
result (R62, R64, R237, R463). -/
def readResult (i : Instr) (d : Cohort) (w : MemWord) (n : Nat) (kind : ReadKind) (accs : List Acc) (s : State) : State :=
  let (id, s1) := ((s.enterErrors d n accs).askLoads d (kind == .plain) n accs).fresh
  ((accs.foldl (fun t a => t.issueRead d w id n kind a) s1).usedPeers d accs).returned i d w id (s.errorAcc n accs)

/-- The word of an atomic, its operation, and its new value on `n` bits from the old one, the operand and the comparand (R362). -/
def atomicRow : Instr → Option (MemWord × AtomicOp × (Nat → Nat → Nat → Nat → Nat))
  | .aadd w => some (w, .add, fun n old x _ => (old + x) % 2 ^ n)
  | .amin w => some (w, .min, fun n old x _ => if (BitVec.ofNat n old).slt (BitVec.ofNat n x) then old else x)
  | .amax w => some (w, .max, fun n old x _ => if (BitVec.ofNat n x).slt (BitVec.ofNat n old) then old else x)
  | .aand w => some (w, .and, fun _ old x _ => old &&& x)
  | .aor w => some (w, .or, fun _ old x _ => old ||| x)
  | .axor w => some (w, .xor, fun _ old x _ => old ^^^ x)
  | .axch w => some (w, .xch, fun _ _ x _ => x)
  | .acas w => some (w, .cas, fun _ old x expected => if old = expected then x else old)
  | _ => none

/-! ## Matrix and synchronisation words -/

/-- A matrix word at its stall point: its tag is free, and its handle names a tile (R332, R337). -/
structure AtTile (s0 : State) (i : Instr) (w : MmaWord) (runs : List RegRun) (preds : List Nat) (tag : Option Nat) (c : Cohort)
    (s : State) (d : Cohort) (tile : Nat) : Prop where
  ready : Passes true s0 i w.guard runs preds c s d
  free : ∀ n, tag = some n → d.tagBusy n = false
  tile : s.tileOf (calm d) w.th.toNat = some tile

/-- The unit's landing of a word, under its tag. -/
def lands (tag : Nat) (rows : List Nat) (pred : Option Nat) (id : Nat) (c : Cohort) : Cohort :=
  { c with landings := c.landings ++
      [{ id, tag, rows, pred, writes := [], unitWord := some id, landed := false, error := none }] }

/-- The lanes of the active fibres. -/
def activeLanes (c : Cohort) (g : Guard) : List Nat := (c.active g).map Fibre.lane

/-- The unit's load buffer is free (R335): the rows of the loads before a word are on their tiles. -/
def loadBuffer (s : State) (c : Cohort) : State × Cohort :=
  let t := State.matrixWhile c.core (fun o => match o.kind with | .load _ => true | _ => false) (s.core c.core).matrixQueue.length
    (s.putCohort c)
  (t, (t.cohort? c.uid).getD c)

/-- Whether a write is one of a core's row words to memory, which take no miss-status entry (R347). -/
def rowWrite (core : Nat) (p : PendingStore) : Bool := p.core == core && !p.entry

/-- The unit's store buffer is free (R335): the row words to memory before a word have issued their writes, and those of this package
are acknowledged. -/
def storeBuffer (s : State) (c : Cohort) : State × Cohort :=
  let t := State.matrixWhile c.core (fun o => o.kind.writes) (s.core c.core).matrixQueue.length (s.putCohort c)
  let u := ((t.pendingStores.filter fun p => rowWrite c.core p && p.here).foldl (fun x p => x.serveTo p.request) t).drainStores fun p =>
    rowWrite c.core p && p.here
  (u, (u.cohort? c.uid).getD c)

/-- A register whose write does no more than R7 says: no write of it is a command, and none depends on more than its acceptance. -/
def plainRegister (fn off : Nat) : Bool :=
  !((0x1000 ≤ off && off < 0x1400 && (off % 0x80 == 0x30 || off % 0x80 == 0x40)) || (0x1800 ≤ off && off < 0x1C00) ||
    [0x1400, 0x1C48, 0x1E48, 0x1F48].contains off ||
    (0x10000 ≤ off && off < 0x50000 && (off % 0x200 == 0x60 || off % 0x200 == 0x70))) &&
  (fn != 0 || !((0x2000 ≤ off && off < 0x2400) || [0x3010, 0x9010, 0xE500, 0xF900, 0xF990, 0xF9F8].contains off ||
    (0x3100 ≤ off && off < 0x3180) || (0xA000 ≤ off && off < 0xE040) || (0x60000 ≤ off && off < 0x62000)))

/-- The registers of an engine word, from UA (R381). -/
def engineRegs (c : Cohort) (w : SynWord) : List Word64 := (List.range w.cnt.toNat).map fun j => c.sregs.getD (w.ua.toNat + j) 0#64

end Sys2Proof.Claims

open Sys2Proof Sys2Proof.Machine Sys2Proof.Claims

/-! ## Encodings and the step -/

/-- Decoding gives back the instruction that was encoded, for every word with every operand that its encoding admits
(R245 to R263, R265). -/
def Obligations.DecodeOfEncode : Prop :=
  ∀ (i : Instr) (w : Word64), i.wf = true → encode i = some w → decode w = some i

/-- A word has one meaning: encoding a decoded instruction gives back its word, bit for bit (R245, R265). -/
def Obligations.EncodeOfDecode : Prop := ∀ (i : Instr) (w : Word64), decode w = some i → encode i = some w

/-- Words of the manual's worked encodings, one or more of each format, decode to the instructions that they stand
for. -/
def Obligations.WorkedWords : Prop :=
  decode 0x0000440FFF800300#64 = some (.uadd ⟨8, .ureg 7, .imm 0xFF, .vreg 0, .i64, 0, 0⟩) ∧
  decode 0x1E0020003000811A#64 = some (.umovImm ⟨4, .vreg 0, .i64, 0, 0x811A⟩) ∧
  decode 0x53B0200301007100#64 = some (.ffma ⟨⟨true, 3⟩, false, 4, .vreg 1, .ureg 2, .vreg 3, .f32, 0, 0⟩) ∧
  decode 0x4E00000111BF0000#64 = some (.vmovImm ⟨⟨false, 0⟩, false, 0, .vreg 0, .f32, 0, 0x1BF0000⟩) ∧
  decode 0x21002EC834FFFFFC#64 = some (.brc ⟨⟨false, 0⟩, 5, .imm 0x64, 3, 2, false, 0xFFFFFC⟩) ∧
  decode 0x8308280E00010100#64 = some (.aadd ⟨⟨false, 0⟩, true, 5, 1, .imm 0, 8, 0, 4, 0, 0, false⟩) ∧
  decode 0xA0020814BDC002C0#64 = some (.mma ⟨⟨false, 0⟩, 2, 8, 20, 0x17, 0x17, 0, false, false, 0, 22, 0⟩) ∧
  decode 0xC710100832000010#64 = some (.spawn ⟨⟨false, 1⟩, 2, 1, 6, 2, 0, 0, 0, 0, 1, 0⟩) ∧
  decode 0xCA00800000000140#64 = some (.copy ⟨⟨false, 0⟩, 16, 0, 0, 0, 0, 0, 0, 1, 4, 0⟩)

/-- A word whose OP R263 leaves unassigned, or gives to the block header, is no instruction. -/
def Obligations.UnassignedOpcodes : Prop :=
  ∀ (w : Word64) (op : Nat), op = (w.extractLsb' 56 8).toNat →
    ((0x6E ≤ op ∧ op ≤ 0x6F) ∨ (0x75 ≤ op ∧ op ≤ 0x7F) ∨ (0x91 ≤ op ∧ op ≤ 0x9F) ∨ (0xAA ≤ op ∧ op ≤ 0xBF) ∨
      (0xCF ≤ op ∧ op ≤ 0xDF) ∨ 0xE6 ≤ op) → rawDecode w = none ∧ decode w = none

/-- A step at a word runs the decoded instruction: with the power on, nothing of the agenda due, the turn the cohorts'
and `c` the cohort that is picked, with nothing due at its boundary (R236, R454), standing at a word that no breakpoint
matches, that fetch gives and that uses no state in error (R462), the step is the meaning of the instruction for `c`, and what follows
each step (log 2). -/
def Obligations.StepRunsDecodedWord : Prop :=
  ∀ (s : State) (c : Cohort) (w : Word64) (i : Instr),
    s.powered = true → s.agenda = [] → s.turn % 8 ≠ 7 → s.pick = some c → s.boundary c = none → c.atHeader = false →
    c.badFor i = false → s.breakpoint c = none → s.fetch c c.pc = .ok w → decode w = some i →
    step s = settled (exec i { s.fetchKeep c c.pc with cur := some c.uid })

/-- What a step does at a cohort that is picked and where no word is executed. A word that is no instruction raises
ILLEGAL (R265), and one that uses state of its cohort with an uncorrectable error raises STATEERR (R462, R463), with
the record of R466. Before it, BREAK comes at a breakpoint (R459). Before either, STEP comes after the word that was
performed with STEP set (R454), and else a halt that is wanted (R236). Which agent a step takes is the model's (log
2). That BREAK comes before ILLEGAL, and that the first word which uses an error raises STATEERR, are readings of the
model's (DEDUCED, logs 8 and 12). -/
def Obligations.StepTraps : Prop :=
  (∀ (s : State) (c : Cohort) (w : Word64),
    s.powered = true → s.agenda = [] → s.turn % 8 ≠ 7 → s.pick = some c → s.boundary c = none → c.atHeader = false →
    s.breakpoint c = none → s.fetch c c.pc = .ok w → rawDecode w = none →
    step s = .next ((s.fetchKeep c c.pc).takeTrap c w { code := .illegal } []).after) ∧
  (∀ (s : State) (c : Cohort) (w : Word64) (i : Instr),
    s.powered = true → s.agenda = [] → s.turn % 8 ≠ 7 → s.pick = some c → s.boundary c = none → c.atHeader = false →
    s.breakpoint c = none → s.fetch c c.pc = .ok w → rawDecode w = some i → c.badFor i = true →
    step s = .next ((((s.fetchKeep c c.pc).coreError 6 1 c.core 0 (c.ctx / 8)).takeTrap { c with bad := [] }
      w { code := .stateerr, detail := 6 } []).after)) ∧
  (∀ (s : State) (c : Cohort) (w : Word64) (n : Nat),
    s.powered = true → s.agenda = [] → s.turn % 8 ≠ 7 → s.pick = some c → s.boundary c = none → c.atHeader = false →
    s.breakpoint c = some n → s.fetch c c.pc = .ok w →
    step s = .next ((s.takeTrap c w { code := .break_, detail := n } []).after)) ∧
  (∀ (s : State) (c : Cohort) (w : Word64),
    s.powered = true → s.agenda = [] → s.turn % 8 ≠ 7 → s.pick = some c → c.stepDue = some w →
    step s = .next ((s.stepTrap c w).after)) ∧
  (∀ (s : State) (c : Cohort) (k : Nat),
    s.powered = true → s.agenda = [] → s.turn % 8 ≠ 7 → s.pick = some c → c.stepDue = none → s.abortedWrite c.uid = none →
    s.haltDue c = some k → step s = .next ((s.haltNow c k).after))

/-- A word of an encoding that R265 reserves raises ILLEGAL and has no other effect: the frame of the trap names the
word itself. -/
def Obligations.ReservedWordIsIllegal : Prop :=
  ∀ (i : Instr) (s : State) (c : Cohort) (w : Word64), encode i = some w → i.wf = false → s.current = some c →
    exec i s = .next (s.takeTrap c w { code := .illegal } [])

/-! ## The uniform and the vector side -/

/-- Every UR and UI word of R278 gives the result of its row, narrowed and extended as R277 says, and nothing else of
the package changes but its cohort. -/
def Obligations.UniformResults : Prop :=
  ∀ (i : Instr) (s : State) (c : Cohort) (dst : BitVec 8) (x : Word64),
    s.current = some c → i.wf = true → uniformRow c i = some (dst, x) →
    exec i s = .next (s.finish (uniformWrite c dst.toNat x) (wordOf i))

/-- Every vector integer word gives each active lane the result of its row of R306 to R309, with latency 4. The types
of `vmov` and the small immediates of `vdot4` are readings (logs 20 and 22). -/
def Obligations.VectorIntegerResults : Prop :=
  ∀ (i : Instr) (s : State) (c : Cohort) (r : VecRow),
    s.current = some c → i.wf = true → integerRow c i = some r → c.vectorTrap r.op = none →
    exec i s = .next (vectorDone s c i r)


/-- Every floating-point word of R310 but the transcendentals gives each active lane the exact result, rounded once,
the code of R311 and R312 or the class of R314; each half of a packed type is a result of its own (R305). -/
def Obligations.FloatResults : Prop :=
  ∀ (i : Instr) (s : State) (c : Cohort) (r : VecRow),
    s.current = some c → i.wf = true → floatRow s c i = some r → c.vectorTrap r.op = none →
    exec i s = .next (vectorDone s c i r)

/-- Every transcendental word of R315 gives each active lane, and each half of a packed type, its function rounded
once. The precision that the function is computed with is the model's (DEDUCED, log 21). -/
def Obligations.TranscendentalResults : Prop :=
  ∀ (i : Instr) (s : State) (c : Cohort) (r : VecRow),
    s.current = some c → i.wf = true → transcRow c i = some r → c.vectorTrap r.op = none →
    exec i s = .next (vectorDone s c i r)

/-- Every conversion word gives each active lane the result of R317 to R322. Which small immediates of narrow formats
are reserved, and that a conversion between integer types takes any RM, are the model's (logs 23 and 54). -/
def Obligations.ConversionResults : Prop :=
  ∀ (i : Instr) (s : State) (c : Cohort) (r : VecRow),
    s.current = some c → i.wf = true → conversionRow s c i = some r → c.vectorTrap r.op = none →
    exec i s = .next (vectorDone s c i r)

/-- Every cross-lane word gives each active lane the result of R324 to R328; every compare and predicate vote gives
each active lane's predicate its condition (R309, R313, R325). -/
def Obligations.CrossLaneAndPredicateResults : Prop :=
  (∀ (i : Instr) (s : State) (c : Cohort) (r : VecRow),
    s.current = some c → i.wf = true → crossRow c i = some r → c.vectorTrap r.op = none →
    exec i s = .next (vectorDone s c i r)) ∧
  (∀ (i : Instr) (s : State) (c : Cohort) (v : VectorOp) (dst : Nat) (h : Fibre → Bool),
    s.current = some c → i.wf = true → predicateRow c i = some (v, dst, h) → c.vectorTrap v = none →
    exec i s = .next (predicateDone s c i v dst h))

/-- REGBOUND, LATCH and LANDHAZ come before any effect of an arithmetic, conversion, cross-lane or predicate word of the vector
side, in that order (R266, R220, R235, R238). Which rows of lanes that the guard leaves inactive count for LANDHAZ is the model's
choice (log 54). -/
def Obligations.VectorTraps : Prop :=
  ∀ (i : Instr) (s : State) (c : Cohort) (v : VectorOp) (t : TrapCode),
    s.current = some c → i.wf = true → vectorNames s c i v →
    ((c.outside (v.reads ++ v.writes) = true ∧ t = .regbound) ∨
     (c.outside (v.reads ++ v.writes) = false ∧ (c.readsDead v.srcs || (c.latchLive && 24 ≤ c.liveRun)) = true ∧ t = .latch) ∨
     (c.outside (v.reads ++ v.writes) = false ∧ (c.readsDead v.srcs || (c.latchLive && 24 ≤ c.liveRun)) = false ∧
        (c.hazard (v.reads ++ v.writes) || c.predHazard (v.guard.psel.toNat :: v.preds)) = true ∧ t = .landhaz)) →
    exec i s = .next (s.takeTrap c (wordOf i) { code := t } ((c.active v.guard).map Fibre.lane))

/-- The frame of the UR and UI words of R278 and of every arithmetic, conversion, cross-lane and predicate word of the vector side,
when STEP is not asked for: where such a word takes no trap, nothing of the package changes but the cohorts, and in its cohort
a tag, a landing and the place of the cohort stay as they were, the registers too until results land, and the count of
conversions but for a word that draws generator words. -/
def Obligations.ArithmeticFrame : Prop :=
  ∀ (i : Instr) (s : State) (c : Cohort) (v : VectorOp) (dst : BitVec 8) (x : Word64),
    s.current = some c → i.wf = true → c.stepping = false →
    (uniformRow c i = some (dst, x) ∨ (vectorNames s c i v ∧ c.vectorTrap v = none)) →
    ∃ d, exec i s = .next { s with cohorts := s.cohorts.map fun e => if e.uid = d.uid then d else e } ∧ d.uid = c.uid ∧
      d.pc = c.pc + 8 ∧ d.core = c.core ∧ d.ctx = c.ctx ∧ d.tag = c.tag ∧ d.launch = c.launch ∧ d.landings = c.landings ∧
      d.uq = c.uq ∧ d.vq = c.vq ∧ (d.conv = c.conv ∨ (vectorNames s c i v ∧ v.draws = true)) ∧ d.split = c.split ∧ d.wait = c.wait ∧
      d.fibres.map Fibre.lane = c.fibres.map Fibre.lane ∧ d.fibres.map Fibre.frames = c.fibres.map Fibre.frames ∧
      (c.flightU = [] → d.sregs = c.sregs) ∧ (c.flightV = [] → d.fibres = c.fibres)

/-- Latency (R230, R231). A uniform result of latency 2 is not there for the next word and is there for the word after
it, whatever else is in flight; of two that land together the later stands. A vector result of latency `L` lands at
the end of its word's issue cycle plus `L` - 1 and not before: with nothing else in flight, the registers are those
before the word until then, and then each of its writes stands. -/
def Obligations.ResultLatency : Prop :=
  (∀ (c : Cohort) (dst n : Nat) (x : Word64), dst < c.sregs.length →
    (uniformWrite c dst x).sreg n = c.tickU.sreg n ∧
    (uniformWrite c dst x).tickU.sreg dst = x.toNat ∧
    (n ≠ dst → (uniformWrite c dst x).tickU.sreg n = c.tickU.tickU.sreg n)) ∧
  (∀ (c : Cohort) (v : VectorOp) (ws : List RegWrite) (l : Option Latch) (n : Nat),
    c.flightV = [] → v.wbs = false → 1 ≤ v.latency →
    (n < v.latency - 1 → (cycles Cohort.tickV n (c.issueVec v ws l)).fibres = c.fibres) ∧
    (cycles Cohort.tickV (v.latency - 1) (c.issueVec v ws l)).fibres = (ws.foldl Cohort.write c).fibres)

/-- `p0` is hard-wired: it reads 1 in every fibre, and a write to it changes nothing (R186, R309). -/
def Obligations.PredicateZero : Prop :=
  ∀ (f : Fibre) (n : Nat) (b : Bool), f.pred 0 = true ∧ f.setPred 0 b = f ∧
    (n < 8 → n ≠ 0 → (f.setPred n b).pred n = b ∧ ∀ m, m < 8 → m ≠ n → (f.setPred n b).pred m = f.pred m)

/-! ## Control words -/

/-- `bra`, `brc`, `jtab`: a transfer to a good header, which the next step enters, or the fall into the next header
(R283, R284, R288). -/
def Obligations.BranchesComplete : Prop :=
  (∀ s0 s c d w h, Ready s0 (.bra w) Guard.always [] [] c s d → c.lastWord = true →
    s.headerAt (calm d) (target d w) = .good h →
    exec (.bra w) s0 = .next (s.transfer (calm d) (wordOf (.bra w)) (target d w))) ∧
  (∀ s0 s c d w h ty, Ready s0 (.brc w) Guard.always [] [] c s d → c.lastWord = true → Ty.ofCode w.ty = some ty →
    branchCond d w ty = true → s.headerAt (calm d) (target d w) = .good h →
    exec (.brc w) s0 = .next (s.transfer (calm d) (wordOf (.brc w)) (target d w))) ∧
  (∀ s0 s c d w ty, Ready s0 (.brc w) Guard.always [] [] c s d → c.lastWord = true → Ty.ofCode w.ty = some ty →
    branchCond d w ty = false → exec (.brc w) s0 = .next (s.finish (calm d) (wordOf (.brc w)))) ∧
  (∀ s0 s c d w h k, Ready s0 (.jtab w) Guard.always [] [] c s d → c.lastWord = true → w.sb = .imm k →
    d.sreg w.ua.toNat < k.toNat →
    s.headerAt (calm d) (lowBits 64 ((target d w : Nat) + 16 * (d.sreg w.ua.toNat : Int))) = .good h →
    exec (.jtab w) s0 = .next (s.transfer (calm d) (wordOf (.jtab w))
      (lowBits 64 ((target d w : Nat) + 16 * (d.sreg w.ua.toNat : Int))))) ∧
  (∀ s0 s c d w k, Ready s0 (.jtab w) Guard.always [] [] c s d → c.lastWord = true → w.sb = .imm k →
    k.toNat ≤ d.sreg w.ua.toNat → exec (.jtab w) s0 = .next (s.finish (calm d) (wordOf (.jtab w))))

/-- `brv` (R285): every lane taken transfers, no lane taken falls through, and otherwise the cohort splits under an
entry of the split table that notes the branch's RECONV, both sub-cohorts and the parent's mask (R202); with no slot
or no entry free the cohort waits (R205). Without a RECONV both sub-cohorts stay under the entry they have, which then
counts one more: a reading of the model's (DEDUCED, log 47). At the branch every lane of the mask is active, and PRED
is its condition (R246). -/
def Obligations.VectorBranch : Prop :=
  (∀ s0 s c d w h, Ready s0 (.brv w) Guard.always [] [w.guard.psel.toNat] c s d → c.lastWord = true →
    d.active w.guard = d.fibres → s.headerAt (calm d) (target d w) = .good h →
    exec (.brv w) s0 = .next (s.transfer (calm d) (wordOf (.brv w)) (target d w))) ∧
  (∀ s0 s c d w, Ready s0 (.brv w) Guard.always [] [w.guard.psel.toNat] c s d → c.lastWord = true → d.fibres ≠ [] → d.active w.guard = [] →
    exec (.brv w) s0 = .next (s.finish (calm d) (wordOf (.brv w)))) ∧
  (∀ s0 s c d w h slot n, Ready s0 (.brv w) Guard.always [] [w.guard.psel.toNat] c s d → c.lastWord = true → someActive d w.guard →
    (d.active w.guard).length ≠ d.fibres.length → s.headerAt (calm d) (target d w) = .good h →
    s.freeSlot d.core = some slot → d.reconv ≠ 0 → (s.core d.core).freeEntry = some n →
    exec (.brv w) s0 = .next ((s.putCore ((s.core d.core).takeEntry n
      { valid := true, parent := d.split, tag := d.tag, reconv := lowBits 64 ((d.block : Int) + 8 * d.reconv), mask := d.mask
        live := 2, parked := 0 })).splitInto (wordOf (.brv w)) (calm d) ((d.active w.guard).map Fibre.lane) (target d w) slot
      (some n))) ∧
  (∀ s0 s c d w h slot, Ready s0 (.brv w) Guard.always [] [w.guard.psel.toNat] c s d → c.lastWord = true → someActive d w.guard →
    (d.active w.guard).length ≠ d.fibres.length → s.headerAt (calm d) (target d w) = .good h →
    s.freeSlot d.core = some slot → d.reconv = 0 →
    exec (.brv w) s0 = .next ((match d.split with
      | some e => s.putCore ((s.core d.core).modEntry e fun x => { x with live := x.live + 1 })
      | none => s).splitInto (wordOf (.brv w)) (calm d) ((d.active w.guard).map Fibre.lane) (target d w) slot d.split)) ∧
  (∀ s0 s c d w h, Ready s0 (.brv w) Guard.always [] [w.guard.psel.toNat] c s d → c.lastWord = true → someActive d w.guard →
    (d.active w.guard).length ≠ d.fibres.length → s.headerAt (calm d) (target d w) = .good h →
    (s.freeSlot d.core = none ∨ (d.reconv ≠ 0 ∧ (s.core d.core).freeEntry = none)) →
    exec (.brv w) s0 = .next (s.hold (calm d) .split))

/-- `call` and `callr` with a keep count of 0, and `ret` from one: the link in `s0` and the transfer, with no base
moved (R286, R287). -/
def Obligations.PlainCalls : Prop :=
  (∀ s0 s c d w h, Ready s0 (.call w) Guard.always [] [] c s d → c.lastWord = true → w.sb = .imm 0 →
    s.headerAt (calm d) (target d w) = .good h → h.entry = true →
    exec (.call w) s0 =
      .next (s.transfer ((calm d).setSreg 0 (BitVec.ofNat 64 (d.pc + 8))) (wordOf (.call w)) (target d w))) ∧
  (∀ s0 s c d w h, Ready s0 (.callr w) Guard.always [] [] c s d → c.lastWord = true → w.sb = .imm 0 →
    d.sreg w.ua.toNat < 2 ^ 49 → d.sreg w.ua.toNat % 8 = 0 →
    s.headerAt (calm d) (d.sreg w.ua.toNat) = .good h → h.entry = true →
    exec (.callr w) s0 =
      .next (s.transfer ((calm d).setSreg 0 (BitVec.ofNat 64 (d.pc + 8))) (wordOf (.callr w)) (d.sreg w.ua.toNat))) ∧
  (∀ s0 s c d w h, Ready s0 (.ret w) Guard.always [] [] c s d → c.lastWord = true →
    d.sreg 0 < 2 ^ 49 → d.sreg 0 % 8 = 0 → s.headerAt (calm d) (d.sreg 0) = .good h →
    exec (.ret w) s0 = .next (s.transfer (calm d) (wordOf (.ret w)) (d.sreg 0)))

/-- A `call` that keeps `k` registers (R221, R286): the link with bit 0 set; the outstanding landings delivered; in
every lane the base `k` rows on, the newest `k` registers zero and a frame of the `k` that were kept; frames that the
stack cannot hold in the Attic. The `ret` from one (R287): in every lane the newest frame's rows come back below the window, and
its base; the frames that stand in the Attic give up their bays; control goes to the link with its bit 0 cleared. -/
def Obligations.FramedCall : Prop :=
  (∀ s0 s c d w h (k : BitVec 8), Ready s0 (.call w) Guard.always [] [] c s d → c.lastWord = true → w.sb = .imm k → k ≠ 0 →
    s.headerAt (calm d) (target d w) = .good h → h.entry = true →
    s.atticCharged (fnOf d.ctx) + d.fibres.length * frameCharge k.toNat ≤ s.atticBays (fnOf d.ctx) →
    let (s1, d1) := s.deliver ((calm d).setSreg 0 (BitVec.ofNat 64 (d.pc + 9)))
    let d2 := { d1 with fibres := d1.fibres.map fun f =>
      { f with base := (f.base + k.toNat) % d1.stackRows
               regs := (f.regs.drop k.toNat ++ List.replicate k.toNat 0#32).take d1.window
               frames := { k := k.toNat, call := s1.nextUid, rows := (f.regs ++ List.replicate k.toNat 0#32).take k.toNat
                           attic := none, slot := 0 } :: f.frames } }
    let (s3, d3) := (s1.fresh.2).spillFrames d2 fun f => framesFit (d2.stackRows - d2.window) f.frames
    exec (.call w) s0 = .next (s3.transfer d3 (wordOf (.call w)) (target d w))) ∧
  (∀ s0 s c d w h, Ready s0 (.ret w) Guard.always [] [] c s d → c.lastWord = true → d.sreg 0 < 2 ^ 49 → d.sreg 0 % 8 = 1 →
    (∀ f ∈ d.fibres, f.frames ≠ []) → s.headerAt (calm d) (d.sreg 0 - 1) = .good h → s.badFill (calm d) = none →
    let (s1, e) := s.deliver (calm d)
    let back (f : Fibre) : Fibre := match f.frames with
      | [] => f
      | r :: rest => { f with base := (f.base + e.stackRows - r.k % e.stackRows) % e.stackRows
                              regs := (r.rows ++ f.regs).take e.window, frames := rest }
    let s2 := (e.fills.foldl (fun t id => (t.getImage (fnOf d.ctx) true id).leaveAttic id) s1).putCohort
      { e with fibres := e.fibres.map back }
    exec (.ret w) s0 = .next ((s2.wakeCharge (fnOf d.ctx)).transfer ((s2.cohort? d.uid).getD e) (wordOf (.ret w)) (d.sreg 0 - 1)))

/-- A word that stands only last in its block is ILLEGAL elsewhere (R250); BADHEADER, NOENTRY and ATTICFULL of a call, and BADRET and
NOFRAME of a return, come before any effect (R249, R282, R286, R287). The faulting addresses of BADHEADER and NOENTRY are readings of
the model's (DEDUCED, log 8). -/
def Obligations.ControlTraps : Prop :=
  (∀ s0 s c d w h, Ready s0 (.call w) Guard.always [] [] c s d → c.lastWord = true →
    s.headerAt (calm d) (target d w) = .good h → h.entry = false →
    exec (.call w) s0 = .next (s.takeTrap (calm d) (wordOf (.call w)) { code := .noentry, addr := target d w }
      ((d.active Guard.always).map Fibre.lane))) ∧
  (∀ s0 s c d w h, Ready s0 (.callr w) Guard.always [] [] c s d → c.lastWord = true →
    d.sreg w.ua.toNat < 2 ^ 49 → d.sreg w.ua.toNat % 8 = 0 → s.headerAt (calm d) (d.sreg w.ua.toNat) = .good h → h.entry = false →
    exec (.callr w) s0 = .next (s.takeTrap (calm d) (wordOf (.callr w)) { code := .noentry, addr := d.sreg w.ua.toNat }
      ((d.active Guard.always).map Fibre.lane))) ∧
  (∀ s0 s c d w, Ready s0 (.callr w) Guard.always [] [] c s d → c.lastWord = true →
    (2 ^ 49 ≤ d.sreg w.ua.toNat ∨ d.sreg w.ua.toNat % 8 ≠ 0) →
    exec (.callr w) s0 = .next (s.takeTrap (calm d) (wordOf (.callr w)) { code := .badheader, addr := d.sreg w.ua.toNat }
      ((d.active Guard.always).map Fibre.lane))) ∧
  (∀ (i : Instr) s0 s c d w x, i ∈ [Instr.bra w, .call w] → Ready s0 i Guard.always [] [] c s d → c.lastWord = true →
    s.headerAt (calm d) (target d w) = .bad x →
    exec i s0 = .next (s.takeTrap (calm d) (wordOf i) { code := .badheader, addr := target d w }
      ((d.active Guard.always).map Fibre.lane))) ∧
  (∀ (i : Instr) s0 s c d w h t (k : BitVec 8), (i, t) ∈ [(Instr.call w, target d w), (.callr w, d.sreg w.ua.toNat)] →
    Ready s0 i Guard.always [] [] c s d → c.lastWord = true → w.sb = .imm k → k ≠ 0 → t < 2 ^ 49 → t % 8 = 0 →
    s.headerAt (calm d) t = .good h → h.entry = true →
    s.atticBays (fnOf d.ctx) < s.atticCharged (fnOf d.ctx) + d.fibres.length * frameCharge k.toNat →
    exec i s0 = .next (s.takeTrap (calm d) (wordOf i) { code := .atticfull } ((d.active Guard.always).map Fibre.lane))) ∧
  (∀ s0 s c d w, Ready s0 (.ret w) Guard.always [] [] c s d → c.lastWord = true →
    (2 ^ 49 ≤ d.sreg 0 ∨ d.sreg 0 % 8 / 2 ≠ 0) →
    exec (.ret w) s0 = .next (s.takeTrap (calm d) (wordOf (.ret w)) { code := .badret }
      ((d.active Guard.always).map Fibre.lane))) ∧
  (∀ s0 s c d w, Ready s0 (.ret w) Guard.always [] [] c s d → c.lastWord = true →
    d.sreg 0 < 2 ^ 49 → d.sreg 0 % 8 = 1 → (∃ f ∈ d.fibres, f.frames = []) →
    exec (.ret w) s0 = .next (s.takeTrap (calm d) (wordOf (.ret w)) { code := .noframe }
      ((d.active Guard.always).map Fibre.lane))) ∧
  (∀ (i : Instr) (s : State) (c : Cohort) (x : CtlWord),
    i ∈ [Instr.bra x, .brc x, .brv x, .call x, .callr x, .ret x, .jtab x] → s.current = some c → c.lastWord = false →
    exec i s = .next (s.takeTrap c (wordOf i) { code := .illegal } []))

/-- `exit` (R290): once its matrix words have completed, a release step at `.pod`; then lane by lane a release step at
the join counter's scope, the counter's decrement, the Attic frames given up, and the lanes removed. That every
counter is translated before any effect, and that the accepted matrix words come first, are readings of the model's
(DEDUCED, logs 14 and 41). -/
def Obligations.ExitCompletes : Prop :=
  ∀ s0 s s1 c d e w, Ready s0 (.exitW w) w.guard [] [] c s d → someActive d w.guard →
    s.matrixDrain (calm d) = (s1, e) → e.failed = none →
    let fs := e.active w.guard
    let accs : List Acc := fs.filterMap fun f => f.join.map fun j =>
      { lane := some f.lane, team := f.team, va := j.addr, x := s1.checkAccess e f.team j.addr 8 .rmw s1.counterCheck }
    let s2 := noted s1 e accs true true
    let s3 := s2.releaseAt e.core 5 (readOfLanes e w.guard)
    Clear s1 e accs true true 8 → s2.peerOpen e = false → s3.missReady e (s3.lineNeed e 8 accs) = true →
    let leave (t : State) (f : Fibre) : State :=
      let mine (r : PendingRead) : Bool := r.placed == e.placed && r.lane == f.lane
      let t1 := t.releaseAt e.core (max 5 (f.join.elim 0 JoinRef.scope)) mine
      let t2 := match accs.find? fun a => a.lane == some f.lane with
        | some a => t1.rmwNow e a (.atomic .add true (BitVec.allOnes 64) 0)
        | none => t1
      (f.frames.filterMap Frame.attic).foldl State.leaveAttic { t2 with reads := t2.reads.filter fun r => !mine r }
    exec (.exitW w) s0 = .next ((fs.foldl leave ((s3.spendGrant e).enterErrors e 8 accs)).removeLanes
      (.exitW w) e (fs.map Fibre.lane))

/-- `trap`, `brk`, `nop` and `yield` (R291 to R294): SOFTWARE with its number, BREAK with the next word as its resume
point, the marker alone, and class-9 records for the whole cohort at the next block. With no active lane `exit`,
`trap`, `brk`, `dbg`, every SYN word but those that may suspend, and every uniform form of a MEM word do nothing (R290 to R292, R297,
R358, R369). -/
def Obligations.MarkersComplete : Prop :=
  (∀ s0 s c d w, Ready s0 (.trap w) w.guard [] [] c s d → someActive d w.guard →
    (w.off.toNat ≠ 0xFFFF ∨ inHandler (s.trapEnt d.ctx) d.pc = false ∨ bitOf (s.trapEnt d.ctx) 63 = false) →
    exec (.trap w) s0 = .next (s.takeTrap (calm d) (wordOf (.trap w)) { code := .software, detail := w.off.toNat }
      ((d.active w.guard).map Fibre.lane))) ∧
  (∀ s0 s c d w, Ready s0 (.trap w) w.guard [] [] c s d → someActive d w.guard → w.off.toNat = 0xFFFF →
    inHandler (s.trapEnt d.ctx) d.pc = true → bitOf (s.trapEnt d.ctx) 63 = true →
    exec (.trap w) s0 = .next (s.trapReturn (calm d) (wordOf (.trap w)) (((d.active w.guard).map Fibre.lane).headD 0))) ∧
  (∀ s0 s c d w, Ready s0 (.brk w) w.guard [] [] c s d → someActive d w.guard → s.peerOpen (calm d) = false →
    exec (.brk w) s0 = .next (s.trapTo (calm d) (wordOf (.brk w)) { code := .break_, detail := 7 }
      (((d.active w.guard).map Fibre.lane).headD 0) (d.pc + 8, (calm d).advance.block))) ∧
  (∀ s0 s c d w, Ready s0 (.nop w) Guard.always [] [] c s d →
    exec (.nop w) s0 = .next (s.finish (calm d) (wordOf (.nop w)))) ∧
  (∀ s0 s1 c e w h, Resumes s0 (.yield w) w.guard [] [] c s1 e h → someActive e w.guard →
    exec (.yield w) s0 = .next (s1.suspendNext e h fun _ => .yielded)) ∧
  (∀ s0 s c d w, Ready s0 (.exitW w) w.guard [] [] c s d → d.active w.guard = [] →
    exec (.exitW w) s0 = .next (s.finish (calm d) (wordOf (.exitW w)))) ∧
  (∀ s0 s c d w, Ready s0 (.trap w) w.guard [] [] c s d → d.active w.guard = [] →
    exec (.trap w) s0 = .next (s.finish (calm d) (wordOf (.trap w)))) ∧
  (∀ s0 s c d w, Ready s0 (.brk w) w.guard [] [] c s d → d.active w.guard = [] →
    exec (.brk w) s0 = .next (s.finish (calm d) (wordOf (.brk w)))) ∧
  (∀ (i : Instr) s0 s c d w, i ∈ [Instr.barInit w, .barArrive w, .barInval w, .semInc w, .copy w, .copy2d w, .gath w, .scat w,
      .coll w, .engQ w, .dbg w] → Ready s0 i w.guard [] [] c s d → d.active w.guard = [] →
    exec i s0 = .next (s.finish (calm d) (wordOf i))) ∧
  (∀ (i : Instr) s0 s c d w regs, (i, regs) ∈ [(Instr.ld w, szRegs w.sz), (.st w, szRegs w.sz), (.aadd w, atomicRegs .add w),
      (.amin w, atomicRegs .min w), (.amax w, atomicRegs .max w), (.aand w, atomicRegs .and w), (.aor w, atomicRegs .or w),
      (.axor w, atomicRegs .xor w), (.axch w, atomicRegs .xch w), (.acas w, atomicRegs .cas w), (.xadd w, 1), (.xrd w, 1)] →
    w.ua = true → Ready s0 i w.guard (memRuns w regs) [] c s d → d.active w.guard = [] →
    exec i s0 = .next (s.finish (calm d) (wordOf i)))

/-! ## Queues and system words -/

/-- The queue words (R281): a push adds at the end, a pop takes the oldest entry, whatever lane is active. -/
def Obligations.QueueWords : Prop :=
  (∀ s c w, s.current = some c → (Instr.qput w).wf = true → c.uq.length < 16 →
    exec (.qput w) s = .next (s.finish ({ c with uq := c.uq ++ [ext64 w.ty (lo w.ty (c.usrc w.a))] }.tickU)
      (wordOf (.qput w)))) ∧
  (∀ s c w x rest, s.current = some c → (Instr.qget w).wf = true → c.uq = x :: rest →
    c.vectorTrap (vrOp w [] w.ty.pair 4) = none →
    let vals := (c.active w.guard).map fun f => (f.lane, if w.ty.pair then x.toNat else x.toNat % 2 ^ 32)
    exec (.qget w) s = .next (s.finish { c.issueVec (vrOp w [] w.ty.pair 4) (vecWrites w.ty.pair w.dst.toNat vals)
      (some (latchFor w.wbs vals)) with uq := rest } (wordOf (.qget w)))) ∧
  (∀ s c w, s.current = some c → (Instr.qret w).wf = true → c.vq.length < 16 →
    c.vectorTrap { vrOp w (srcRun w.ty w.a) false 4 with writes := [] } = none →
    exec (.qret w) s = .next (s.finish { c.issueVec { vrOp w (srcRun w.ty w.a) false 4 with writes := [] } [] none with
      vq := c.vq ++ [(List.range 32).map fun l => BitVec.ofNat 32
        ((((c.active w.guard).find? fun f => f.lane == l).map fun f => c.vsrc f w.ty w.a).getD 0)] } (wordOf (.qret w)))) ∧
  (∀ s c w, s.current = some c → (Instr.vredQ w).wf = true → c.vq.length < 16 →
    c.vectorTrap { vrOp w (srcRun w.ty w.a) w.ty.pair 6 with writes := [] } = none →
    exec (.vredQ w) s = .next (s.finish { c.issueVec { vrOp w (srcRun w.ty w.a) w.ty.pair 6 with writes := [] } [] none with
      vq := c.vq ++ [spread w.ty.pair (reduceValues (w.mod.toNat % 8) w.ty
        ((c.active w.guard).map fun f => (f.lane, c.vsrc f w.ty w.a)))] } (wordOf (.vredQ w)))) ∧
  (∀ s c w e rest, s.current = some c → (Instr.qrcvB64 w).wf = true → c.vq = e :: rest →
    exec (.qrcvB64 w) s = .next (s.finish ({ c with vq := rest, flightU := c.flightU ++ (List.range 16).map fun k =>
      ({ left := 2, reg := w.dst.toNat + k, val := e.getD (2 * k + 1) 0#32 ++ e.getD (2 * k) 0#32 } : InFlightU) }.tickU)
      (wordOf (.qrcvB64 w)))) ∧
  (∀ s c w e rest, s.current = some c → (Instr.qrcvB32 w).wf = true → c.vq = e :: rest →
    exec (.qrcvB32 w) s = .next (s.finish (uniformWrite { c with vq := rest } w.dst.toNat
      (ext64 w.ty (lo w.ty (e.getD (c.usrc w.b % 32) 0#32).toNat))) (wordOf (.qrcvB32 w))))

/-- A push that finds its queue full raises QOVER and a pop that finds it empty raises QEMPTY, before any effect
(R227): for every push and every pop. -/
def Obligations.QueueTraps : Prop :=
  (∀ s c w, s.current = some c → (Instr.qput w).wf = true → 16 ≤ c.uq.length →
    exec (.qput w) s = .next (s.takeTrap c (wordOf (.qput w)) { code := .qover } ((c.active Guard.always).map Fibre.lane))) ∧
  (∀ s c w, s.current = some c → (Instr.qrcvB64 w).wf = true → c.vq = [] →
    exec (.qrcvB64 w) s =
      .next (s.takeTrap c (wordOf (.qrcvB64 w)) { code := .qempty } ((c.active Guard.always).map Fibre.lane))) ∧
  (∀ s c w, s.current = some c → (Instr.qrcvB32 w).wf = true → c.vq = [] →
    exec (.qrcvB32 w) s =
      .next (s.takeTrap c (wordOf (.qrcvB32 w)) { code := .qempty } ((c.active Guard.always).map Fibre.lane))) ∧
  (∀ s c w, s.current = some c → (Instr.qget w).wf = true → c.vectorTrap (vrOp w [] w.ty.pair 4) = none → c.uq = [] →
    exec (.qget w) s = .next (s.takeTrap c (wordOf (.qget w)) { code := .qempty } ((c.active w.guard).map Fibre.lane))) ∧
  (∀ s c w, s.current = some c → (Instr.qret w).wf = true →
    c.vectorTrap { vrOp w (srcRun w.ty w.a) false 4 with writes := [] } = none → 16 ≤ c.vq.length →
    exec (.qret w) s = .next (s.takeTrap c (wordOf (.qret w)) { code := .qover } ((c.active w.guard).map Fibre.lane))) ∧
  (∀ s c w, s.current = some c → (Instr.vredQ w).wf = true →
    c.vectorTrap { vrOp w (srcRun w.ty w.a) w.ty.pair 6 with writes := [] } = none → 16 ≤ c.vq.length →
    exec (.vredQ w) s = .next (s.takeTrap c (wordOf (.vredQ w)) { code := .qover } ((c.active w.guard).map Fibre.lane)))

/-- `srd`, `srdv`, `srd` of MBIN, `swr` and `dbg` (R264, R295, R297, R461). What the debug trace keeps of an event of `dbg` is the
model's (log 25). -/
def Obligations.SpecialRegisters : Prop :=
  (∀ s c w, s.current = some c → (Instr.srd w).wf = true →
    exec (.srd w) s = .next (s.finish (uniformWrite c w.dst.toNat (BitVec.ofNat 64 (specialValue s c w.mod.toNat)))
      (wordOf (.srd w)))) ∧
  (∀ s c w, s.current = some c → (Instr.srdv w).wf = true → c.vectorTrap (vrOp w [] false 4) = none →
    exec (.srdv w) s = .next (vectorDone s c (.srdv w) ⟨vrOp w [] false 4, false, w.dst.toNat, fun f =>
      laneSpecial s c f w.mod.toNat⟩)) ∧
  (∀ s c w, s.current = some c → (Instr.srdMbin w).wf = true →
    exec (.srdMbin w) s = .next ((s.regClear (c.ctx / 8) (s.debugBase c + 0x80) 1).finish
      (uniformWrite c w.dst.toNat (BitVec.ofNat 64 (s.reg (c.ctx / 8) (s.debugBase c + 0x70) % 2 ^ 63 +
        2 ^ 63 * (s.reg (c.ctx / 8) (s.debugBase c + 0x80) % 2)))) (wordOf (.srdMbin w)))) ∧
  (∀ s c w, s.current = some c → (Instr.swr w).wf = true →
    exec (.swr w) s = .next (((s.setReg (c.ctx / 8) (s.debugBase c + 0x78) (c.usrc w.a)).regSet (c.ctx / 8) (s.debugBase c + 0x80)
      (if bitOf (s.reg (c.ctx / 8) (s.debugBase c + 0x80)) 1 then 10 else 2)).finish c.tickU (wordOf (.swr w)))) ∧
  (∀ s0 s c d w, Ready s0 (.dbg w) w.guard [] [] c s d → someActive d w.guard →
    exec (.dbg w) s0 = .next (({ s.setReg (d.ctx / 8) (s.debugBase d + 0x100 + 8 * w.mod.toNat)
      (s.reg (d.ctx / 8) (s.debugBase d + 0x100 + 8 * w.mod.toNat) + 1) with
        debugTrace := s.debugTrace ++ [(d.ctx / 8, d.core, w.mod.toNat)] }).finish (calm d) (wordOf (.dbg w))))

/-- `tlbinv` and `icinv` of the physical function (R298, R299): a shootdown started, which the word waits for, its
refusal as a result, or a wait for one that is under way; and a context's fetch lines dropped in every core. How long
a `tlbinv` waits is the model's reading (DEDUCED, log 32). -/
def Obligations.Invalidations : Prop :=
  (∀ s c w, s.current = some c → (Instr.tlbinv w).wf = true → c.ctx / 8 = 0 → c.usrc w.b ≤ 2055 →
    shootBad (c.usrc w.a) = false → bitOf (s.ctxReg (c.usrc w.b) 0x48) 16 = false →
    exec (.tlbinv w) s = .next ((s.startShootdown (c.usrc w.b) (c.usrc w.a)).putCohort
      { c with wait := .shootdown (c.usrc w.b) w.dst.toNat })) ∧
  (∀ s c w, s.current = some c → (Instr.tlbinv w).wf = true → c.ctx / 8 = 0 →
    (2055 < c.usrc w.b ∨ shootBad (c.usrc w.a) = true) →
    exec (.tlbinv w) s = .next (s.finish (uniformWrite c w.dst.toNat (if 2055 < c.usrc w.b then 2 else 1))
      (wordOf (.tlbinv w)))) ∧
  (∀ s c w, s.current = some c → (Instr.icinv w).wf = true → c.ctx / 8 = 0 → c.usrc w.b ≤ 2055 →
    exec (.icinv w) s = .next (({ s with fetchLines := s.fetchLines.filter fun l => l.ctx ≠ c.usrc w.b }).finish
      (uniformWrite c w.dst.toNat 0) (wordOf (.icinv w)))) ∧
  (∀ s c w, s.current = some c → (Instr.icinv w).wf = true → c.ctx / 8 = 0 → 2055 < c.usrc w.b →
    exec (.icinv w) s = .next (s.finish (uniformWrite c w.dst.toNat 2) (wordOf (.icinv w)))) ∧
  (∀ s c w, s.current = some c → (Instr.tlbinv w).wf = true → c.ctx / 8 = 0 → c.usrc w.b ≤ 2055 →
    shootBad (c.usrc w.a) = false → bitOf (s.ctxReg (c.usrc w.b) 0x48) 16 = true →
    exec (.tlbinv w) s = .next (s.putCohort { c with wait := .shootBusy (c.usrc w.b) }))

/-- A privileged word outside the physical function raises PRIV, with no other effect (R267). -/
def Obligations.Privilege : Prop :=
  ∀ (i : Instr) (s : State) (c : Cohort) (w : UrWord), i ∈ [Instr.tlbinv w, .icinv w] → s.current = some c → i.wf = true →
    c.ctx / 8 ≠ 0 → exec i s = .next (s.takeTrap c (wordOf i) { code := .priv } [])

/-! ## Memory words -/

/-- A load (R359, R360, R62 to R64, R237). With its accesses good, its entries free and a peer's data there, it asks
for the sectors that its core's L1 does not hold, and its reads stand under its tag, or return to the uniform
register; `.acq` is an acquire step once they have. A vector form that meets an uncorrectable error lands it with the
tag; a uniform one raises MEMERR (R463). When the reads take place, and the wait for a peer's data, are readings of
the model's (DEDUCED, logs 9 and 10). -/
def Obligations.LoadCompletes : Prop :=
  (∀ s0 s c d w, AtAccess s0 (.ld w) w (memRuns w (szRegs w.sz)) (returnTag w) c s d →
    let n := szBytes w.sz
    let accs := s.memAccs (calm d) w n .read fun _ => none
    let s1 := noted s (calm d) accs true false
    let s2 := (s1.spendGrant (calm d)).settle (calm d) false n accs
    Clear s (calm d) accs true false n → s1.missReady (calm d) (s1.loadNeed (calm d) true n accs) = true →
    (s1.spendGrant (calm d)).askData (calm d) accs (fun _ => .read n) n = none →
    (w.ua = true → s2.errorAcc n accs = none) →
    exec (.ld w) s0 = .next (ends (!w.ua) d (readResult (.ld w) (calm d) w n .plain accs s2))) ∧
  (∀ s0 s c d w a, AtAccess s0 (.ld w) w (memRuns w (szRegs w.sz)) (returnTag w) c s d →
    let n := szBytes w.sz
    let accs := s.memAccs (calm d) w n .read fun _ => none
    let s1 := noted s (calm d) accs true false
    let s2 := (s1.spendGrant (calm d)).settle (calm d) false n accs
    Clear s (calm d) accs true false n → s1.missReady (calm d) (s1.loadNeed (calm d) true n accs) = true →
    (s1.spendGrant (calm d)).askData (calm d) accs (fun _ => .read n) n = none →
    w.ua = true → s2.errorAcc n accs = some a → s2.peerOpen (calm d) = false →
    exec (.ld w) s0 = .next ((s2.enterErrors (calm d) n accs).takeTrap (calm d) (wordOf (.ld w)) (s2.memerr a)
      ((d.active w.guard).map Fibre.lane)))

/-- A store (R359, R360, R63). After the release step of its mark, each location's last writer issues its bytes: a
scratchpad's are written at once, and the others go in one request for each line (R62, R122). A partial write of a
sector with an error is dropped and logged; one of a scratchpad word raises MEMERR (R463). That a store to a peer is
posted is a reading of the model's (DEDUCED, log 10). -/
def Obligations.StoreCompletes : Prop :=
  (∀ s0 s c d w, AtAccess s0 (.st w) w (memRuns w (szRegs w.sz)) none c s d →
    let n := szBytes w.sz
    let accs := s.memAccs (calm d) w n .write fun _ => none
    let s1 := noted s (calm d) accs false true
    let s2 := released s1 (calm d) w accs
    let s3 := s2.spendGrant (calm d)
    Clear s (calm d) accs false true n → s1.padPartial n accs = none → mayRelease s1 (calm d) w accs →
    s2.missReady (calm d) (s2.lineNeed (calm d) n accs) = true →
    exec (.st w) s0 = .next (ends (!w.ua) d (((((s3.settle (calm d) true n accs).enterErrors (calm d) n (s3.droppedAccs n accs)).stores
      (calm d) accs fun a => storeBytes (calm d) w a.lane).spendOnce d.uid).finish (calm d) (wordOf (.st w))))) ∧
  (∀ s0 s c d w a, AtAccess s0 (.st w) w (memRuns w (szRegs w.sz)) none c s d →
    let n := szBytes w.sz
    let accs := s.memAccs (calm d) w n .write fun _ => none
    let s1 := noted s (calm d) accs false true
    Clear s (calm d) accs false true n → s1.padPartial n accs = some a → s1.peerOpen (calm d) = false →
    exec (.st w) s0 = .next (ends (!w.ua) d ((s1.enterErrors (calm d) n [a]).takeTrap (calm d) (wordOf (.st w)) (s1.memerr a)
      ((d.active w.guard).map Fibre.lane))))

/-- What a store does to memory. Where lanes of one store name one location, the highest lane's bytes are those that
issue (R63). An agent reads its own newest store (R123), whether or not it has been sent. The frame: at its issue no byte of device or host memory
changes, nor any register; a core reads what it read before at every location outside the stored bytes, and every
other core at every location (R122, R123). As it performs, the bytes written read back, little-endian in ascending
addresses, and every other byte of memory reads as before (R5). A core's read gives, for each byte, its newest pending store's, or
the value that the order of performed writes has at some place not before the core's view (R123). -/
def Obligations.StoreEffects : Prop :=
  (∀ (accs : List Acc) (a : Acc), a ∈ lastWriters accs ↔
    ∃ before after, accs = before ++ a :: after ∧ ∀ b ∈ after, b.x ≠ a.x) ∧
  (∀ (s : State) (p : PendingStore) (pa : Nat) (bs : List Byte), p.loc = .hbm pa → p.op = .store (bs.map some) →
    pa % 64 + bs.length ≤ 64 → (∀ x ∈ s.l1, x.bytes.length = 64) →
    (s.issueWrite p).coreRead p.core (p.placed, p.lane) (.hbm pa) bs.length = bs) ∧
  (∀ (s : State) (p : PendingStore) (k : Nat) (who : Agent) (m : Loc),
    (s.issueWrite p).performedByte m = s.performedByte m ∧ (s.issueWrite p).cohorts = s.cohorts ∧
    (s.issueWrite p).mem = s.mem ∧ (s.issueWrite p).hostMem = s.hostMem ∧
    (k ≠ p.core ∨ locWithin m p.loc p.op.len = none → (∀ x ∈ s.l1, x.bytes.length = 64) →
      (s.issueWrite p).coreRead k who m 1 = s.coreRead k who m 1)) ∧
  (∀ (s : State) (pa : Nat) (bs : List Byte) (core grain : Option Nat) (x : Nat), Memory.wf s = true → s.sectorBad pa = false →
    s.viewOf pa = none →
    cellsGet (s.perform (.hbm pa) bs false core grain).mem x =
      (if pa ≤ x ∧ x < pa + bs.length then bs.getD (x - pa) 0 else cellsGet s.mem x) ∧
    (s.perform (.hbm pa) bs false core grain).hostMem = s.hostMem) ∧
  (∀ (s : State) (core i n : Nat) (who : Agent) (l : Loc), i < n → s.l1Hit core l = none →
    (∀ p ∈ s.performs, p.seq ≤ s.performSeq) → (∀ x ∈ s.seen, x.seq ≤ s.performSeq) →
    (∀ x ∈ s.viewFloors, x.2 ≤ s.performSeq) →
    ∃ t, s.viewSeq core (locPlus l i) ≤ t ∧ t ≤ s.performSeq ∧
      (s.coreRead core who l n)[i]? = some ((s.pendingByte core who (locPlus l i)).getD (s.byteAt (locPlus l i) t)))

/-- `pref` asks for sectors, and changes no register and no cohort, whatever it finds; unless it fills an L1, it changes no memory
and no store either (R361). -/
def Obligations.PrefetchCompletes : Prop :=
  ∀ s0 s c d w, AtAccess s0 (.pref w) w (srcRun .n32 w.off) none c s d →
    ∃ t : State, exec (.pref w) s0 = .next (ends (!w.ua) d (t.finish (calm d) (wordOf (.pref w)))) ∧ t.cohorts = s.cohorts ∧
      t.records = s.records ∧
      (w.sz ≠ 4 → t.mem = s.mem ∧ t.hostMem = s.hostMem ∧ t.pendingStores = s.pendingStores ∧ t.l1 = s.l1 ∧ t.regs = s.regs)

/-- Every atomic word (R362 to R364, R124): after the release step of its mark, one read-modify-write for each access in ascending
lane order, with its acquire step after; the old values return under the tag or in the uniform register, unless it returns nothing.
What one does: as it performs, its new value takes the place of the last one, which goes back to the lane that waits for it. What a uniform one that returns nothing does where it
meets a memory error is the model's (DEDUCED, log 37). -/
def Obligations.AtomicsComplete : Prop :=
  (∀ s0 s c d i w op new, atomicRow i = some (w, op, new) →
    AtAccess s0 i w (memRuns w (atomicRegs op w)) (returnTag w) c s d →
    let n := szBytes w.sz
    let accs := s.memAccs (calm d) w n .rmw (s.atomicCheck (calm d) op)
    let s1 := noted s (calm d) accs true true
    let s2 := released s1 (calm d) w accs
    let s3 := s2.spendGrant (calm d)
    let s4 := s3.settle (calm d) true n accs
    Clear s (calm d) accs true true n → mayRelease s1 (calm d) w accs → s2.missReady (calm d) (s2.lineNeed (calm d) n accs) = true →
    s3.askData (calm d) accs (fun a => .atomic op (n == 8) (BitVec.ofNat 64 (atomicOperands op (calm d) w a.lane).1)
      (BitVec.ofNat 64 (atomicOperands op (calm d) w a.lane).2)) n = none →
    ((s4.errorAcc n accs).filter fun a => if w.wbs then s4.errCode a == 4 else w.ua) = none →
    exec i s0 = .next (ends (!w.ua) d ((s4.enterErrors (calm d) n accs).atomics i (calm d) w op accs (s4.errorAcc n accs)))) ∧
  (∀ i w op new wide x y old, atomicRow i = some (w, op, new) →
    let n := if wide then 8 else 4
    (WriteOp.atomic op wide x y).apply old =
      toBytes n (new (8 * n) (ofBytes old) x.toNat y.toNat)) ∧
  (∀ (s : State) (p : PendingStore) pa op wide x y, p.loc = .hbm pa → p.op = .atomic op wide x y → p.whole = false →
    Memory.wf s = true → s.sectorBad pa = false → s.viewOf pa = none →
    let n := if wide then 8 else 4
    let old := s.performedRead (.hbm pa) n
    (∀ i, i < n → cellsGet (s.performWrite p).mem (pa + i) = (p.op.apply old).getD i 0) ∧
    (s.performWrite p).reads = s.reads.map fun r => if r.kind = .old p.id then { r with bytes := some old } else r)

/-- `xadd` and `xrd` (R364, R365): each good cell has the addend added exactly, as it performs; a read lands the
rounded sum of the last entry. When a read takes place, and what an exact word does on a view, are the model's
readings (DEDUCED, logs 9 and 51). -/
def Obligations.ExactCells : Prop :=
  (∀ s0 s c d w, AtAccess s0 (.xadd w) w (memRuns w 1) none c s d →
    let accs := s.memAccs (calm d) w 64 .rmw (s.xaddCheck (calm d))
    let s1 := noted s (calm d) accs true true
    let s2 := released s1 (calm d) w accs
    let s3 := s2.spendGrant (calm d)
    Clear s (calm d) accs true true 64 → mayRelease s1 (calm d) w accs → s2.missReady (calm d) (s2.lineNeed (calm d) 64 accs) = true →
    exec (.xadd w) s0 = .next (ends (!w.ua) d (((((s3.settle (calm d) true 64 accs).enterErrors (calm d) 64 accs).rmws (calm d)
      (addendOp (calm d) w) (accs.filter fun a => (s3.badSector? a.x).isNone) fun t _ _ _ => t).finish (calm d)
      (wordOf (.xadd w)))))) ∧
  (∀ s0 s c d w, AtAccess s0 (.xrd w) w (memRuns w 1) (returnTag w) c s d →
    let accs := s.memAccs (calm d) w 64 .read s.xrdCheck
    let s1 := noted s (calm d) accs true false
    let s2 := (s1.spendGrant (calm d)).settle (calm d) false 64 accs
    Clear s (calm d) accs true false 64 → s1.missReady (calm d) (s1.loadNeed (calm d) false 64 accs) = true →
    (s1.spendGrant (calm d)).askData (calm d) accs (fun _ => .read 64) 64 = none →
    (w.ua = true → s2.errorAcc 64 accs = none) →
    exec (.xrd w) s0 = .next (ends (!w.ua) d (readResult (.xrd w) (calm d) w 64 .cell accs s2))) ∧
  (∀ (sz : BitVec 3) (x : Word32) (old : List Byte), (WriteOp.cell sz x).apply old =
    cellAdd old (match sz.toNat with | 2 => valueOf .bf16 x.toNat | 3 => valueOf .f16 x.toNat | _ => valueOf .f32 x.toNat)) ∧
  (∀ (r : PendingRead) (bs : List Byte), r.kind = .cell → r.bytes = some bs → r.data = toBytes 4 (cellRead bs))

/-- `xst` (R366): with its checks good and an entry free, its bytes are on their way to the member core, and the word
waits for the answer. A cohort of several teams sends a flight for each: a reading of the model's (DEDUCED, log 15). -/
def Obligations.ExchangeStore : Prop :=
  ∀ s0 s c d w, AtAccess s0 (.xst w) w (memRuns w (szRegs w.sz)) none c s d → someActive d w.guard →
    (∀ f ∈ d.active w.guard, f.team ≠ 0xFFFFFFFF#32) →
    let accs := s.xstAccs (calm d) w
    let s1 := noted s (calm d) accs false true
    Clear s (calm d) accs false true (szBytes w.sz) → s1.missReady (calm d) 1 = true →
    exec (.xst w) s0 = .next (ends (!w.ua) d ((s1.spendGrant (calm d)).putCohort { calm d with
      wait := .xst (xstFlights (calm d) w accs) (wordOf (.xst w)), issue := none, readyTime := (s1.spendGrant (calm d)).clock }))

/-- Fences (R368, R120, R126, R132, R133, R154): a release step is owed to the cohort's next write, and an acquire
step comes once its earlier reads have returned; `fence.sc` completes every earlier access and waits in place for the
next tick; `fence.sc.pod` suspends until the next pod tick; `fence.fmt` without an active window is a fence of both
orders at `.pkg`, and with one it suspends until a flush that starts after it. A flush of its own for each `fence.fmt`
is the model's choice (log 47), and the wait for writes to peers its reading (log 10). -/
def Obligations.FencesComplete : Prop :=
  (∀ s0 s c d w, Ready s0 (.fence w) w.guard [] [] c s d →
    let s1 : State := if w.ord.getLsbD 1 then { s with owed := s.owed ++ [(d.uid, w.scope.toNat, s.nextUid)] } else s
    let s2 := if w.ord.getLsbD 0 then
      (s1.gather d.core fun r => r.placed == d.placed && d.fibres.any fun f => f.lane == r.lane).acquireStep d.core w.scope.toNat else s1
    exec (.fence w) s0 = .next (s2.finish (calm d) (wordOf (.fence w)))) ∧
  (∀ s0 s c d w, Ready s0 (.fenceSc w) w.guard [] [] c s d → s.peerOpen (calm d) = false →
    let s1 := completed s (calm d)
    exec (.fenceSc w) s0 = .next ((s1.putCore { s1.core d.core with scSeq := (s1.core d.core).scSeq + 1 }).putCohort
      { calm d with wait := .tick (s1.clock / 256) })) ∧
  (∀ s0 s1 c e w h, Resumes s0 (.fenceScPod w) w.guard [] [] c s1 e h →
    exec (.fenceScPod w) s0 = .next ((completed s1 e).suspendNext e h fun _ => .tick ((completed s1 e).podTick + 1))) ∧
  (∀ s0 s1 c e w h, Resumes s0 (.fenceFmt w) w.guard [] [] c s1 e h →
    (completed s1 e).anyWindow = false →
    exec (.fenceFmt w) s0 = .next (((completed s1 e).acquireAll e 4).finish e (wordOf (.fenceFmt w)))) ∧
  (∀ s0 s1 c e w h, Resumes s0 (.fenceFmt w) w.guard [] [] c s1 e h →
    (completed s1 e).anyWindow = true →
    let s2 := completed s1 e
    exec (.fenceFmt w) s0 = .next (({ s2 with flushSeq := s2.flushSeq + 1, flushing := s2.flushing ++ [s2.flushSeq + 1] }).suspendNext e h
      fun _ => .flush (BitVec.ofNat 32 (s2.flushSeq + 1)))) ∧
  (∀ s0 s c d w, Ready s0 (.fenceSc w) w.guard [] [] c s d → s.peerOpen (calm d) = true →
    exec (.fenceSc w) s0 = .next (s.holdDrain (calm d)))

/-- An acquire step drops every line of its core's L1, and no later read of the core goes behind what has performed; a release step
leaves no write of its core to this package pending that its scope covers (R126, R61). -/
def Obligations.FenceSteps : Prop :=
  (∀ (s : State) (core scope : Nat), 2 ≤ scope → ∀ x ∈ (s.acquireStep core scope).l1, x.core ≠ core) ∧
  (∀ (s : State) (core scope : Nat), ∀ p ∈ (s.releaseStep core scope).pendingStores,
    ¬ (p.core = core ∧ locDrainedBy scope p.loc = true ∧ p.here = true)) ∧
  (∀ (s : State) (core scope : Nat) (l : Loc), 2 ≤ scope → s.performSeq ≤ (s.acquireStep core scope).viewSeq core l)

/-- The address of an access that is not a multiple of its size raises MISALIGN before any translation, and one in the
reserved space or beyond 49 bits has its own trap (R359). -/
def Obligations.AccessAlignment : Prop :=
  ∀ (s : State) (c : Cohort) (team : BitVec 32) (va n : Nat) (acc : Access) (chk : Xlate → Option TrapCode),
    (va % n ≠ 0 → s.checkAccess c team va n acc chk = .trap { code := .misalign, addr := va }) ∧
    (va % n = 0 → 2 ^ 49 ≤ va → s.checkAccess c team va n acc chk = .trap { code := .noncanon, addr := va }) ∧
    (va % n = 0 → 0x1FFFF20000000 ≤ va → va < 2 ^ 49 → s.checkAccess c team va n acc chk = .trap { code := .reserved, addr := va })

/-! ## Matrix words -/

/-- The matrix words that touch no memory but scratchpad, at a handle that is owned, with their own checks passed:
accepted into the queue of R335, with what R337, R341, R344 to R346 and R350 give each; a row word with no active lane takes no
effect. -/
def Obligations.MatrixWords : Prop :=
  (∀ s0 s c d w tile,
    AtTile s0 (.mma w) w [(w.vx.toNat, if (Ty.ofCode w.ta).getD .bf16 == .bs4 then 2 else 1)] (flagOf w).toList
      ((flagOf w).map fun _ => w.ltag.toNat) c s d tile →
    let ta := (Ty.ofCode w.ta).getD .bf16
    let tb := (Ty.ofCode w.tb).getD .bf16
    let fs := (calm d).active w.guard
    someActive d w.guard → s.mmaTrap (calm d) w ta tb fs = none → s.mmaWatch (calm d) w ta tb fs = none →
    s.mmaBad (calm d) w ta tb fs = none →
    exec (.mma w) s0 = .next (ends true d (s.accept (calm d) (wordOf (.mma w)) w.th.toNat tile (activeLanes d w.guard)
      ((flagOf w).map fun _ => w.ltag.toNat)
      (fun id e => match flagOf w with | some n => lands w.ltag.toNat [] (some n) id e | none => e)
      (s.mmaKind (calm d) w ta tb fs)))) ∧
  (∀ s0 s c d w n, Ready s0 (.tileAlloc w) Guard.always [] [] c s d → s.tileOf (calm d) w.th.toNat = none →
    s.cellarCharged (fnOf d.ctx) + 128 ≤ s.cellarBays (fnOf d.ctx) → (s.core d.core).freeTile = some n →
    s.saveVolume d.core + 32768 ≤ s.saveCap (fnOf d.ctx) →
    exec (.tileAlloc w) s0 = .next ((s.putCore ((s.core d.core).setTile n { (s.core d.core).tile n with
      owner := some (d.tag, w.th.toNat) })).accept (calm d) (wordOf (.tileAlloc w)) w.th.toNat n [] none (fun _ e => e) .alloc)) ∧
  (∀ s0 s c d w tile, AtTile s0 (.tileFree w) w [] [] none c s d tile →
    exec (.tileFree w) s0 = .next (ends true d (((s.putCore ((s.core d.core).setTile tile { (s.core d.core).tile tile with
      owner := none })).accept (calm d) (wordOf (.tileFree w)) w.th.toNat tile [] none (fun _ e => e) .free).wakeCharge
      (fnOf d.ctx)))) ∧
  (∀ s0 s c d w tile, AtTile s0 (.tileZero w) w [] [] none c s d tile → someActive d w.guard →
    exec (.tileZero w) s0 = .next (ends true d (s.accept (calm d) (wordOf (.tileZero w)) w.th.toNat tile (activeLanes d w.guard) none
      (fun _ e => e) .zero))) ∧
  (∀ s0 s c d w tile source, AtTile s0 (.tileMov w) w [] [] none c s d tile → someActive d w.guard →
    s.tileOf (calm d) (w.mod.toNat % 8) = some source →
    exec (.tileMov w) s0 = .next (ends true d (s.accept (calm d) (wordOf (.tileMov w)) w.th.toNat tile (activeLanes d w.guard) none
      (fun _ e => e) (.mov source)))) ∧
  (∀ s0 s c d w tile, AtTile s0 (.tileRd w) w [(w.vx.toNat, 8)] [] (some w.ltag.toNat) c s d tile →
    exec (.tileRd w) s0 = .next (ends true d (s.accept (calm d) (wordOf (.tileRd w)) w.th.toNat tile (activeLanes d w.guard)
      (some w.ltag.toNat)
      (lands w.ltag.toNat ((calm d).rowsOf ((calm d).active w.guard) [(w.vx.toNat, 8)]) none)
      (.rd (d.sreg w.ub.toNat % 32) w.vx.toNat)))) ∧
  (∀ s0 s c d w tile, AtTile s0 (.tileWr w) w [(w.vx.toNat, 8)] [] none c s d tile → someActive d w.guard →
    exec (.tileWr w) s0 = .next (ends true d (s.accept (calm d) (wordOf (.tileWr w)) w.th.toNat tile (activeLanes d w.guard) none
      (fun _ e => e) (.wr (d.sreg w.ub.toNat % 32) ((d.active w.guard).map fun f => (f.lane, f.words w.vx.toNat 8)))))) ∧
  (∀ (i : Instr) s0 s c d w tile runs, (i, runs) ∈ [(Instr.tileZero w, []), (.tileWr w, [(w.vx.toNat, 8)])] →
    AtTile s0 i w runs [] none c s d tile → d.active w.guard = [] →
    exec i s0 = .next (ends true d (s.finish (calm d) (wordOf i))))

/-- `tile.ld`, `tile.st` and `tile.drain` (R335, R347 to R349): with the row checks and the accesses good and the unit's buffer free,
accepted with the rows read, or with the targets of the rows and the band scales read. When the unit's writes issue is the model's (log
26). -/
def Obligations.TileMemoryWords : Prop :=
  (∀ s0 s s2 c d e w tile, AtTile s0 (.tileLd w) w [] [] none c s d tile →
    let ty := (Ty.ofCode w.ta).getD .b32
    let fs := (calm d).active w.guard
    let accs := fs.flatMap (s.rowAccs (calm d) w (256 * (ty.width / 8)) .read)
    let s1 := noted s (calm d) accs true false
    let s3 := (s2.settle e false 64 accs).bufferReads e 64 accs
    loadBuffer s1 (calm d) = (s2, e) → someActive e w.guard →
    State.rowTrap (calm d) w 0 fs = none → Clear s (calm d) accs true false 64 →
    s2.askData e accs (fun _ => .read 64) 64 = none → s2.errorAcc 64 accs = none →
    exec (.tileLd w) s0 = .next (ends true d ((s3.buffered e 64 accs).accept e (wordOf (.tileLd w)) w.th.toNat tile
      (activeLanes e w.guard) none (fun _ x => x) (.load (fs.map fun f => (f.lane, rowElements ty
        ((accs.filter fun a => a.lane == some f.lane).flatMap fun a => s3.bytesNow e a 64))))))) ∧
  (∀ s0 s s2 c d e w tile, AtTile s0 (.tileSt w) w [] [] none c s d tile →
    let fs := (calm d).active w.guard
    let accs := fs.flatMap (s.rowAccs (calm d) w 1024 .write)
    let s1 := noted s (calm d) accs false true
    storeBuffer s1 (calm d) = (s2, e) → someActive e w.guard → s2.pendingStores.any (rowWrite d.core) = false →
    State.rowTrap (calm d) w 1024 fs = none → Clear s (calm d) accs false true 64 →
    exec (.tileSt w) s0 = .next (ends true d ((s2.spendOnce d.uid).accept e (wordOf (.tileSt w)) w.th.toNat tile
      (activeLanes e w.guard) none (fun _ x => x) (.store (s2.rowTargets e accs (e.active w.guard)))))) ∧
  (∀ s0 s s2 c d e w tile, AtTile s0 (.tileDrain w) w [] [] none c s d tile →
    let ta := (Ty.ofCode w.ta).getD .f32
    let tb := (Ty.ofCode w.tb).getD .f32
    let fs := (calm d).active w.guard
    let bands (f : Fibre) : List Acc := if w.mod.getLsbD 0 then [s.bandAcc (calm d) w f] else []
    let row := s.rowAccs (calm d) w (256 * (tb.width / 8)) .write
    let rows := fs.flatMap row
    let scales := fs.flatMap bands
    let accs := fs.flatMap fun f => bands f ++ row f
    let s1 := noted s (calm d) accs false false
    let s3 := (s2.settle e false 2 scales).bufferReads e 2 scales
    let s4 := paid s3 e
    storeBuffer s1 (calm d) = (s2, e) → someActive e w.guard → s2.pendingStores.any (rowWrite d.core) = false →
    State.rowTrap (calm d) w (256 * (tb.width / 8)) fs = none → (w.mod.getLsbD 0 = true → bandTrap (calm d) w = none) →
    Clear s (calm d) accs false false 64 → s2.askData e scales (fun _ => .read 2) 2 = none →
    s2.watchTrap e true false 2 scales = none → s2.watchTrap e false true 64 rows = none →
    s2.errorAcc 2 scales = none → (∀ o, s3.owedBy e.uid = some o → 5 ≤ o.1 → s3.peerOpen e = false) →
    exec (.tileDrain w) s0 = .next (ends true d (((((s4.buffered e 2 scales).noteAccs e true false scales).noteAccs
      e false true rows).spendOnce e.uid).accept e (wordOf (.tileDrain w)) w.th.toNat tile
      (activeLanes e w.guard) none (fun _ x => x) (.drain ta tb w.rm w.sat (w.mod.getLsbD 1)
        (fs.map fun f => (f.lane, (bands f).head?.map fun a => BitVec.ofNat 16 (ofBytes (s3.bytesNow e a 2))))
        (s4.rowTargets e rows fs)))))

/-- What the unit does: it completes the oldest accepted word of a core's queue (R335); an integer element is the
exact sum of 64 products and the accumulator, clamped under `.sat`; a 16-bit floating-point one is one rounding of the
exact sum of 32 products and the accumulator (R340); a word changes only the rows of its lanes, and a free zeroes the
tile (R345, R346). The sign of an exact zero is the model's reading (DEDUCED, log 11). -/
def Obligations.MatrixUnit : Prop :=
  (∀ s k op rest, (s.core k).matrixQueue = op :: rest →
    exec (.matrixUnitExecute k) s = .next ((s.putCore { s.core k with matrixQueue := rest }).matrixRun k op)) ∧
  (∀ (ta tb : Ty) (sat : Bool) (a b : List Byte) (acc : Word32), (ta = .i8 ∨ ta = .n8) →
    let x := acc.toInt + ((List.range 64).map fun k => intOf ta (vecElement ta a k) * intOf tb (vecElement tb b k)).sum
    mmaElement ta tb sat a [] b [] acc =
      (BitVec.ofInt 32 (if sat then max (-2 ^ 31) (min (2 ^ 31 - 1) x) else x), sat && decide (x < -2 ^ 31 ∨ 2 ^ 31 - 1 < x))) ∧
  (∀ (ta tb : Ty) (sat : Bool) (a aS b bS : List Byte) (acc : Word32), (ta = .bf16 ∨ ta = .f16) →
    mmaElement ta tb sat a aS b bS acc =
      (BitVec.ofNat 32 (roundTo .f32 ((valueOf .f32 acc.toNat).sum (products ta tb a aS b bS 0 32)) 0 false 0), false)) ∧
  (∀ (t : Tile) (lanes : List Nat) (g : Nat → List Word32 → List Word32) (i : Nat), i < 32 → i ∉ lanes →
    (t.mapRows lanes g).row i = t.row i) ∧
  (∀ (s : State) (k : Nat) (op : MatrixOp), op.kind = .free → op.tile < 8 → ∀ i,
    (((s.matrixRun k op).core k).tile op.tile).row i = List.replicate 256 0#32)

/-! ## Synchronisation -/

/-- `bar.init`, `bar.arrive`, `bar.wait` and `bar.inval` with their traps passed (R372, R373, R375, R376): a wait
takes its fibres one after another, each of which completes or is held, and suspends the cohort where some are held;
and the flip of a barrier, reached exactly when it is valid and both counts are (R374), which an operation on it
takes, a wait too, and which completes the fibres of its team that were held. That the fibres of one word arrive and
wait one after another is the model's reading (DEDUCED, log 14). -/
def Obligations.BarrierWords : Prop :=
  (∀ s0 s c d w t, Ready s0 (.barInit w) w.guard [] [] c s d → someActive d w.guard →
    s.leadOf (calm d) ((calm d).active w.guard) = some t → d.sreg w.ua.toNat ≤ 65536 → d.sreg w.ub.toNat < 2 ^ 48 →
    (d.sreg w.ua.toNat ≠ 0 ∨ d.sreg w.ub.toNat ≠ 0) → (∀ r ∈ s.records, r.waitsOn d.launch t.num w.bar.toNat = false) →
    exec (.barInit w) s0 = .next (((s.putBar t w.bar.toNat
      { valid := true, expA := d.sreg w.ua.toNat, expB := d.sreg w.ub.toNat, cntA := 0, cntB := 0, voidB := 0
        phase := false, lastVoid := false, fp := [] }).dropShadows d.launch t.num w.bar.toNat).finish (calm d) (wordOf (.barInit w)))) ∧
  (∀ s0 s c d w, Ready s0 (.barArrive w) w.guard [] [] c s d → someActive d w.guard →
    let fs := (calm d).active w.guard
    s.memberTrap (calm d) fs w.bar.toNat = none → freeToRelease s (calm d) (s.barScope (calm d) fs) →
    exec (.barArrive w) s0 = .next ((fs.foldl (fun t f => t.arrive d.launch f.team w.bar.toNat f.fidx)
      (releasedFor s (calm d) (s.barScope (calm d) fs) w.guard)).finish (calm d) (wordOf (.barArrive w)))) ∧
  (∀ s0 s1 c e w h s2 done, Resumes s0 (.barWait w) w.guard [] [w.pd.toNat] c s1 e h → someActive e w.guard →
    let fs := e.active w.guard
    s1.memberTrap e fs w.bar.toNat = none → fs.foldl (waitOne e w.bar.toNat) (s1, [], []) = (s2, done, []) →
    exec (.barWait w) s0 = .next ((s2.acquireAll e (max w.scope.toNat (s1.barScope e fs))).finish
      (done.foldl (fun x p => x.mapLane p.1 fun y => y.setPred w.pd.toNat p.2) e) (wordOf (.barWait w)))) ∧
  (∀ s0 s1 c e w h s2 done held, Resumes s0 (.barWait w) w.guard [] [w.pd.toNat] c s1 e h → someActive e w.guard →
    let fs := e.active w.guard
    s1.memberTrap e fs w.bar.toNat = none → fs.foldl (waitOne e w.bar.toNat) (s1, [], []) = (s2, done, held) → held ≠ [] →
    exec (.barWait w) s0 = .next ((s2.suspendNext (done.foldl (fun x p => x.mapLane p.1 fun y => y.setPred w.pd.toNat p.2) e) h fun f =>
      if (held.map Fibre.lane).contains f.lane then s2.waitEvent e w.bar.toNat f else .none).markRecords s2.records.length
      w.pd.toNat fun _ => none)) ∧
  (∀ s0 s c d w t, Ready s0 (.barInval w) w.guard [] [] c s d → someActive d w.guard →
    s.leadOf (calm d) ((calm d).active w.guard) = some t → (t.bar w.bar.toNat).valid = true →
    freeToRelease s (calm d) (t.span + 1) →
    exec (.barInval w) s0 = .next (((((releasedFor s (calm d) (t.span + 1) w.guard).putBar t w.bar.toNat { t.bar w.bar.toNat with
      valid := false, cntA := 0, cntB := 0, voidB := 0 }).dropShadows d.launch t.num w.bar.toNat).releaseBar d.launch t.num
      w.bar.toNat false).finish (calm d) (wordOf (.barInval w)))) ∧
  (∀ x : Barrier, (x.full = true ↔ x.valid = true ∧ x.expA ≤ x.cntA ∧ x.expB ≤ x.cntB) ∧
    (x.full = true → x.flip.cntA + x.expA = x.cntA ∧ x.flip.cntB + x.expB = x.cntB ∧ x.flip.phase = !x.phase ∧
      x.flip.voidB = 0 ∧ (x.flip.lastVoid = true ↔ x.voidB ≠ 0) ∧ x.flip.expA = x.expA ∧ x.flip.expB = x.expB)) ∧
  (∀ s c bar f t done held, s.team? c.launch f.team = some t → (t.bar bar).full = false →
    (((t.bar bar).parity f.fidx != (t.bar bar).phase) = true →
      (waitOne c bar (s, done, held) f).2 = (done ++ [(f.lane, !(t.bar bar).lastVoid)], held)) ∧
    (((t.bar bar).parity f.fidx != (t.bar bar).phase) = false → waitOne c bar (s, done, held) f = (s, done, held ++ [f])) ∧
    (waitOne c bar (s, done, held) f).1.records = s.records) ∧
  (∀ s c bar f t done held, s.team? c.launch f.team = some t → (t.bar bar).full = true →
    ((t.bar bar).parity f.fidx != (t.bar bar).phase) = false → ∀ g ∈ (waitOne c bar (s, done, held) f).2.2, g.team ≠ f.team)

/-- `sem.inc`, `sem.wait`, `waitv` and `lwait` (R377, R378, R370): at once where the condition holds, else records
that wait for it at the next block, each fibre of a `waitv` for its own location; a threshold is reached by a signed
32-bit difference that is not negative; an error that a landing carries is MEMERR (R463). An `lwait` that waits gives
up its issue slot (R410). The first read of a watched location is at its home slice (R148), and a core reads no older
entry of it afterwards (R127). That an `lwait`'s reads take place within its step is the model's reading (DEDUCED, log
9). -/
def Obligations.WaitingWords : Prop :=
  (∀ v th : BitVec 32, semReached v th = true ↔ 0 ≤ (v - th).toInt) ∧
  (∀ s0 s c d w, Ready s0 (.semInc w) w.guard [] [] c s d → someActive d w.guard → freeToRelease s (calm d) 1 →
    exec (.semInc w) s0 = .next (((releasedFor s (calm d) 1 w.guard).semAdd (fnOf d.ctx) d.core w.sem.toNat
      (BitVec.ofNat 32 (d.sreg w.ua.toNat))).finish (calm d) (wordOf (.semInc w)))) ∧
  (∀ s0 s1 c e w h, Resumes s0 (.semWait w) w.guard [] [] c s1 e h → someActive e w.guard →
    exec (.semWait w) s0 = .next (
      if semReached (s1.sem (fnOf e.ctx) e.core w.sem.toNat) (BitVec.ofNat 32 (e.sreg w.ua.toNat)) = true then
        (s1.acquireAll e (max w.scope.toNat 1)).finish e (wordOf (.semWait w))
      else s1.suspendNext e h fun f =>
        if (activeLanes e w.guard).contains f.lane then
          .semaphore e.core w.sem.toNat (BitVec.ofNat 32 (e.sreg w.ua.toNat)) else .none)) ∧
  (∀ s0 s1 c e w h, Resumes s0 (.waitv w) w.guard [(w.vx.toNat, 1)] [] c s1 e h → someActive e w.guard →
    let accs := s1.watchAccs e w
    let s2 := noted s1 e accs true false
    let s3 := watched s2 e 4 accs
    Clear s1 e accs true false 4 → s2.errorAcc 4 accs = none → s2.missReady e (s2.loadNeed e false 4 accs) = true →
    (∀ a ∈ accs, s3.watchHolds (waitCond e w a.devicePa) = true) →
    exec (.waitv w) s0 = .next ((s3.acquireAll e (if w.scope = 0 then 4 else w.scope.toNat)).finish e
      (wordOf (.waitv w)))) ∧
  (∀ s0 s1 c e w h, Resumes s0 (.waitv w) w.guard [(w.vx.toNat, 1)] [] c s1 e h → someActive e w.guard →
    let accs := s1.watchAccs e w
    let s2 := noted s1 e accs true false
    let s3 := watched s2 e 4 accs
    let held := accs.filter fun a => !s3.watchHolds (waitCond e w a.devicePa)
    Clear s1 e accs true false 4 → s2.errorAcc 4 accs = none → s2.missReady e (s2.loadNeed e false 4 accs) = true → held ≠ [] →
    exec (.waitv w) s0 = .next (s3.suspendWatch e h (fun f => match held.find? fun a => a.lane == some f.lane with
        | some a => .watch a.va
        | none => .none) fun r => match r.event with
          | .watch va => (held.find? fun a => a.va == va).map fun a => waitCond e w a.devicePa
          | _ => none)) ∧
  (∀ s0 s c d w s2 e, Ready s0 (.lwait w) Guard.always [] [] c s d →
    let named (l : Landing) : Bool := bitOf (w.ua.toNat * 2 ^ 8 + w.ub.toNat) l.tag
    let s1 := State.matrixWhile d.core (fun o => (calm d).landings.any fun l => named l && l.unitWord == some o.id)
      (s.core d.core).matrixQueue.length (s.putCohort (calm d))
    let d1 := (s1.cohort? d.uid).getD (calm d)
    (s1.gather d.core fun r => d1.landings.any fun l => named l && r.ofLanding d1 l).takeReads d1 named = (s2, e) →
    (∀ l ∈ e.landings, named l = true → l.error = none) →
    let e1 : Cohort := { (e.landings.filter named).foldl Cohort.land e with landings := e.landings.filter fun l => !named l }
    let waits : Prop := ∃ l ∈ d.landings, named l = true ∧ l.landed = false
    (waits → exec (.lwait w) s0 = .next (s2.finish { e1 with issue := none, readyTime := s2.clock } (wordOf (.lwait w)))) ∧
    (¬ waits → exec (.lwait w) s0 = .next (s2.finish e1 (wordOf (.lwait w))))) ∧
  (∀ s0 s c d w s2 e x, Ready s0 (.lwait w) Guard.always [] [] c s d →
    let named (l : Landing) : Bool := bitOf (w.ua.toNat * 2 ^ 8 + w.ub.toNat) l.tag
    let s1 := State.matrixWhile d.core (fun o => (calm d).landings.any fun l => named l && l.unitWord == some o.id)
      (s.core d.core).matrixQueue.length (s.putCohort (calm d))
    let d1 := (s1.cohort? d.uid).getD (calm d)
    (s1.gather d.core fun r => d1.landings.any fun l => named l && r.ofLanding d1 l).takeReads d1 named = (s2, e) →
    (e.landings.filter named).findSome? Landing.error = some x → s2.peerOpen e = false →
    exec (.lwait w) s0 = .next (s2.takeTrap { (e.landings.filter named).foldl Cohort.land e with
      landings := e.landings.filter fun l => !named l } (wordOf (.lwait w))
      { code := .memerr, lane := some x.lane, addr := x.addr, detail := x.code } []))

/-- `spawn` and `join` (R379, R380, R144, R175, R206): the fibres that the charge admits become one record of fibres
without a team at depth plus 1, each carrying its registers, and their predicate is set, that of the others cleared; a
join counter counts them; a join of a counter at 0 goes on with an acquire step at the counter's scope, too (R144),
and otherwise waits for it. The order of a counter's checks (log 14), the tag of the spawn record, and the register
that REGBOUND tests where there is no payload, are the model's readings (logs 24 and 54). -/
def Obligations.SpawnAndJoin : Prop :=
  (∀ s0 s c d w h, Ready s0 (.spawn w) w.guard [] [w.pd.toNat] c s d → someActive d w.guard →
    d.hazard [(w.vx.toNat, w.cnt.toNat)] = false → d.sreg w.ua.toNat % 8 = 0 →
    s.headerAt (calm d) (d.sreg w.ua.toNat) = .good h → h.entry = true → h.susp = true →
    let accs := s.counterAcc (calm d) (d.sreg w.ub.toNat) .rmw
    let s1 := noted s (calm d) accs true true
    Clear s (calm d) accs true true 8 → d.outside [(w.vx.toNat, w.cnt.toNat)] = false →
    let fs := (calm d).active w.guard
    let kids := grantSpawns (s1.cellarBays (fnOf d.ctx)) (s1.spawnReserve (fnOf d.ctx)) (s1.cellarCharged (fnOf d.ctx)) fs
    let s2 := releasedFor s1 (calm d) 5 w.guard
    (kids ≠ [] → freeToRelease s1 (calm d) 5 ∧ s2.missReady (calm d) (s2.lineNeed (calm d) 8 accs) = true) →
    let e := fs.foldl (fun x f => x.mapLane f.lane fun y => y.setPred w.pd.toNat ((kids.map Fibre.lane).contains f.lane)) (calm d)
    let scope := if w.scope = 0 then 4 else w.scope.toNat
    let s3 := accs.foldl (fun t a => (t.noteScope scope a).rmwNow (calm d) a (.atomic .add true (BitVec.ofInt 64 kids.length) 0#64))
      ((s2.spendGrant (calm d)).enterErrors (calm d) 8 accs)
    exec (.spawn w) s0 = .next (if kids = [] then s1.finish e (wordOf (.spawn w))
      else (s3.spawnRecord (calm d) (d.sreg w.ua.toNat) w.cnt.toNat h.kept (kids.map fun f =>
        ({ lane := f.lane, fidx := 0xFFFF, team := 0xFFFFFFFF, depth := f.depth + 1, preds := 0, base := 0,
           regs := f.words w.vx.toNat w.cnt.toNat, frames := [],
           join := if d.sreg w.ub.toNat = 0 then none
             else some { addr := d.sreg w.ub.toNat, scope } } : Fibre))).finish e
        (wordOf (.spawn w)))) ∧
  (∀ bays reserve charged fs, ∀ f ∈ grantSpawns bays reserve charged fs, f ∈ fs ∧ f.depth < 32 ∧
    charged + 18 * (grantSpawns bays reserve charged fs).length + reserve ≤ bays) ∧
  (∀ s0 s1 c e w h (a : Acc), Resumes s0 (.joinW w) w.guard [] [] c s1 e h → someActive e w.guard → e.sreg w.ua.toNat ≠ 0 →
    let accs := s1.counterAcc e (e.sreg w.ua.toNat) .read
    let s2 := noted s1 e accs true false
    let s3 := watched s2 e 8 accs
    accs = [a] → Clear s1 e accs true false 8 → s2.accBad 8 a = false → s2.missReady e (s2.loadNeed e false 8 accs) = true →
    s3.counter a.devicePa = 0 →
    exec (.joinW w) s0 = .next ((s3.acquireAll e (max (if w.scope = 0 then 4 else w.scope.toNat) (s3.counterScope a.devicePa))).finish e
      (wordOf (.joinW w)))) ∧
  (∀ s0 s1 c e w h, Resumes s0 (.joinW w) w.guard [] [] c s1 e h → someActive e w.guard → e.sreg w.ua.toNat = 0 →
    s1.abortedReq e.uid = none →
    exec (.joinW w) s0 = .next ((s1.acquireAll e (if w.scope = 0 then 4 else w.scope.toNat)).finish e (wordOf (.joinW w)))) ∧
  (∀ s0 s1 c e w h (a : Acc), Resumes s0 (.joinW w) w.guard [] [] c s1 e h → someActive e w.guard → e.sreg w.ua.toNat ≠ 0 →
    let accs := s1.counterAcc e (e.sreg w.ua.toNat) .read
    let s2 := noted s1 e accs true false
    let s3 := watched s2 e 8 accs
    accs = [a] → Clear s1 e accs true false 8 → s2.accBad 8 a = false → s2.missReady e (s2.loadNeed e false 8 accs) = true →
    s3.counter a.devicePa ≠ 0 →
    exec (.joinW w) s0 = .next (s3.suspendWatch e h (fun f =>
        if (activeLanes e w.guard).contains f.lane then .join (e.sreg w.ua.toNat) else .none) fun r => match r.event with
          | .join _ => some { pa := a.devicePa, overflow := false, cc := 0, signed := false, comparand := 0 }
          | _ => none))

/-- The engine words (R381, R382, R386): with their operands good, an entry free and the charge there, the operation
is queued with its operands, and the word goes on. `eng.q` reads an operation's progress, its status block, or 0xFE
for address 0 (R388). Which of several operations under one address `eng.q` reads is the model's (log 27). -/
def Obligations.EngineWords : Prop :=
  (∀ (i : Instr) (op : Nat) s0 s c d w, (i, op) ∈ [(Instr.copy w, 0xCA), (.copy2d w, 0xCA), (.gath w, 0xCB), (.scat w, 0xCC),
      (.coll w, 0xCD)] → Ready s0 i w.guard [] [] c s d → someActive d w.guard →
    (w.co = 1 → ∃ t, s.leadOf (calm d) ((calm d).active w.guard) = some t ∧ (t.bar w.bar.toNat).valid = true) →
    engineBad op w.mod.toNat ((engineRegs d w).map BitVec.toNat) = false → s.engineRoom (dieOf d.core) (fnOf d.ctx) = true →
    s.cellarCharged (fnOf d.ctx) + 1 ≤ s.cellarBays (fnOf d.ctx) →
    (∀ o, s.owedBy d.uid = some o → 5 ≤ o.1 → s.peerOpen (calm d) = false) →
    let s1 := paid s (calm d)
    exec i s0 = .next (({ s1 with nextUid := s1.nextUid + 1, engines := s1.engines ++
      [({ id := s1.nextUid, opcode := BitVec.ofNat 8 op, mod := w.mod, cnt := w.cnt, co := w.co,
          obj := if w.co = 2 then w.sem.toNat else w.bar.toNat, fn := fnOf d.ctx, ctx := d.ctx, launch := d.launch,
          team := d.leadTeam, core := d.core, tag := d.tag, win := d.win, regs := engineRegs d w, done := 0, counted := 0,
          chunk := 0, moves := [], state := .queued, since := 0, stops := false, borrowed := none, ended := none,
          coll := { stage := 0, peer := 0, progress := 0, checked := false, group := 0, seq := 0, received := [] } }: EngineOp)] }).finish
      (calm d) (wordOf i))) ∧
  (∀ s0 s c d w, Ready s0 (.engQ w) w.guard [] [] c s d → someActive d w.guard → d.sreg w.ua.toNat = 0 →
    exec (.engQ w) s0 = .next (s.finish ((calm d).setSreg w.ub.toNat 0xFE#64) (wordOf (.engQ w)))) ∧
  (∀ s0 s c d w e, Ready s0 (.engQ w) w.guard [] [] c s d → someActive d w.guard → d.sreg w.ua.toNat ≠ 0 →
    s.engineAt d.ctx (d.sreg w.ua.toNat) = some e →
    exec (.engQ w) s0 = .next (s.finish ((calm d).setSreg w.ub.toNat (BitVec.ofNat 64 (e.done * 2 ^ 16 + 0xFF)))
      (wordOf (.engQ w)))) ∧
  (∀ s0 s c d w, Ready s0 (.engQ w) w.guard [] [] c s d → someActive d w.guard → d.sreg w.ua.toNat ≠ 0 →
    s.engineAt d.ctx (d.sreg w.ua.toNat) = none →
    let accs : List Acc := [{ lane := none, team := d.leadTeam, va := d.sreg w.ua.toNat
                              x := s.checkAccess (calm d) d.leadTeam (d.sreg w.ua.toNat) 16 .read fun _ => none }]
    let s1 := noted s (calm d) accs true false
    let s2 := s1.spendGrant (calm d)
    let s3 := (s2.settle (calm d) false 16 accs).readSectors (calm d) 16 accs
    Clear s (calm d) accs true false 16 → s1.missReady (calm d) (s1.loadNeed (calm d) true 16 accs) = true →
    s2.askData (calm d) accs (fun _ => .read 16) 16 = none → s2.errorAcc 16 accs = none →
    exec (.engQ w) s0 = .next (((accs.foldl (fun t a => t.readNow (calm d) a 16) s3).usedPeers (calm d) accs).finish
      ((calm d).setSreg w.ub.toNat (statusWord (accs.flatMap fun a => s3.bytesNow (calm d) a 16))) (wordOf (.engQ w))))

/-! ## Traps -/

/-- A trap that is not fatal (R452): once what the end of the segment waits for is over, the cohort's fibres go into
trap records, which resume at the handler and carry the registers as they stand with the frame in `s152` to `s159`;
the cohort leaves its core. What the end of the segment waits for is the model's reading (DEDUCED, logs 10, 26 and
41). -/
def Obligations.TrapEntry : Prop :=
  ∀ (s s1 : State) (c d : Cohort) (word : Word64) (t : TrapInfo) (lanes : List Nat),
    segmentEnds s c s1 d → d.failure = none → s1.fatalWhy d t = none → d.sregs.length = 160 →
    let u := s.takeTrap c word t lanes
    let lane := t.lane.getD ((lanes ++ [c.lowLane]).headD 0)
    (∃ recs, u.records = s1.records ++ recs ∧ ∀ r ∈ recs, r.kind = .trap ∧ r.resume = handlerEntry (s1.trapEnt d.ctx) ∧
      r.event = .none ∧ r.kept = true ∧ r.sregs.take 152 = (d.drain.landAll).sregs.take 152 ∧
      r.sregs.drop 152 = [BitVec.ofNat 64 (t.code.code + lane * 2 ^ 16), word, BitVec.ofNat 64 t.addr,
        BitVec.ofNat 64 t.detail, BitVec.ofNat 64 c.pc, BitVec.ofNat 64 (slice c.block 48 3 * 8), BitVec.ofNat 64 d.tag.toNat,
        BitVec.ofNat 64 (s1.clock / 256)]) ∧
    ∀ e ∈ u.cohorts, e.uid ≠ d.uid

/-- Which traps are fatal (R453), with the reason each takes; a fatal trap is taken with the code of the trap that was
raised, and brings the test of an erring structure forward (R465); and what it leaves: none of its launch's cohorts,
fibres' records or teams, and the launch's status (R455). -/
def Obligations.FatalTraps : Prop :=
  (∀ (s : State) (c : Cohort) (t : TrapInfo), 0x80 ≤ t.code.code → s.fatalWhy c t = some 0) ∧
  (∀ (s : State) (c : Cohort) (t : TrapInfo), t.code.code < 0x80 → bitOf (s.trapEnt c.ctx) 63 = false →
    s.fatalWhy c t = some 1) ∧
  (∀ (s : State) (c : Cohort) (t : TrapInfo), t.code.code < 0x80 → bitOf (s.trapEnt c.ctx) 63 = true →
    inHandler (s.trapEnt c.ctx) (t.site.getD c.pc) = true → s.fatalWhy c t = some 2) ∧
  (∀ (s : State) (c : Cohort) (code why addr : Nat),
    let u := s.fatal c code why addr
    (∀ e ∈ u.cohorts, e.launch ≠ c.launch) ∧ (∀ e ∈ u.unplaced, e.cohort.launch ≠ c.launch) ∧
      (∀ r ∈ u.records, r.launch = c.launch → r.engine ≠ none) ∧ (∀ t ∈ u.teams, t.launch ≠ c.launch) ∧
      ∀ l ∈ u.launches, l.num = c.launch → l.status = 1) ∧
  (∀ (s : State) (c : Cohort) (t : TrapInfo) (h : Header), t.code.code < 0x80 → bitOf (s.trapEnt c.ctx) 63 = true →
    inHandler (s.trapEnt c.ctx) (t.site.getD c.pc) = false → s.headerAt c (handlerEntry (s.trapEnt c.ctx)) = .good h →
    (h.entry && h.susp) = false → s.fatalWhy c t = some 3) ∧
  (∀ (s : State) (c : Cohort) (t : TrapInfo) (w : Word64), t.code.code < 0x80 → bitOf (s.trapEnt c.ctx) 63 = true →
    inHandler (s.trapEnt c.ctx) (t.site.getD c.pc) = false → s.headerAt c (handlerEntry (s.trapEnt c.ctx)) = .bad w →
    s.fatalWhy c t = some 3) ∧
  (∀ (s : State) (c : Cohort) (t : TrapInfo) (h : Header), t.code.code < 0x80 → bitOf (s.trapEnt c.ctx) 63 = true →
    inHandler (s.trapEnt c.ctx) (t.site.getD c.pc) = false → s.headerAt c (handlerEntry (s.trapEnt c.ctx)) = .good h →
    (h.entry && h.susp) = true → s.fatalWhy c t = none) ∧
  (∀ (s s1 : State) (c d : Cohort) (word : Word64) (t : TrapInfo) (lanes : List Nat) (why : Nat),
    segmentEnds s c s1 d → d.failure = none → s1.fatalWhy d t = some why →
    s.takeTrap c word t lanes = (s1.hurryTests t.structure_ d.core).fatal { d with pc := t.site.getD d.pc } t.code.code why t.addr)

/-- The return from a trap (R454): with a good frame every fibre is in one record that resumes at the word that `s156`
names, within the block whose header `s157` names, with the SKIP and STEP that `s157` asks for; with a frame that breaks the rule by
itself the trap return is fatal with BADRET. -/
def Obligations.TrapReturn : Prop :=
  (∀ (s s1 : State) (c d : Cohort) (word : Word64) (lane : Nat) (h h0 : Header),
    badReturn c = false → s.headerAt c (slice (c.sreg 157) 48 3 * 8) = .good h0 → segmentEnds s c s1 d → d.failure = none →
    s1.returnHeader d = some h →
    ∃ r, (s.trapReturn c word lane).records = s1.records ++ [r] ∧ r.kind = .continuation ∧ r.resume = d.sreg 156 ∧
      r.block = slice (d.sreg 157) 48 3 * 8 ∧ r.reissue = true ∧ r.skip = bitOf (d.sreg 157) 0 ∧
      r.stepping = bitOf (d.sreg 157) 1 ∧ r.fibres.map Fibre.lane = d.fibres.map Fibre.lane ∧ r.tag = d.tag) ∧
  (∀ (s s1 : State) (c d : Cohort) (word : Word64) (lane : Nat), badReturn c = true → badReturn d = true → segmentEnds s c s1 d →
    d.failure = none → s.trapReturn c word lane = s1.fatal d 0x0B 4 0)
/-! ## Registers, reset and the memory -/

/-- The rules of register writes (R7): an RW bit takes the value's, a W1C bit clears where the value has 1, every
other bit stays; what is stored reads back, and no other register changes; a write to an offset with no register has
no effect; an aperture reads zero and drops writes until the boot (R478); an accepted write leaves the merged
value; and a write that starts nothing still clears the W1C bits of a register that commands, FNRST's among them. -/
def Obligations.RegisterRules : Prop :=
  (∀ (r : RegSpec) (old val j : Nat), j < 64 → (r.merge old val).testBit j =
    if r.rw.testBit j then val.testBit j else old.testBit j && !(r.w1c.testBit j && val.testBit j)) ∧
  (∀ (s : State) (fn off val : Nat), (s.setReg fn off val).reg fn off = val % 2 ^ 64) ∧
  (∀ (s : State) (fn off val f o : Nat), (f ≠ fn ∨ o ≠ off) → (s.setReg fn off val).reg f o = s.reg f o) ∧
  (∀ (s : State) (fn off : Nat) (val : Word64), fn < 257 → s.booted = true → regSpec fn off = none →
    exec (.registerWrite fn off val) s = .next s) ∧
  (∀ (s : State) (fn off : Nat) (val : Word64), fn < 257 → s.booted = false →
    exec (.registerWrite fn off val) s = .next s ∧ s.barRead fn off = 0) ∧
  (∀ (s : State) (fn off : Nat) (val : Word64) (r : RegSpec), fn < 257 → s.booted = true → plainRegister fn off = true →
    regSpec fn off = some r → s.accepts fn off val.toNat = true →
    exec (.registerWrite fn off val) s = .next (s.setReg fn off (r.merge (s.reg fn off) val.toNat))) ∧
  (∀ (s : State) (fn : Nat) (val : Word64), fn < 257 → s.booted = true → bitOf val.toNat 0 = false →
    exec (.registerWrite 0 (0xA028 + fn * 0x40) val) s = .next (s.regClear 0 (0xA028 + fn * 0x40) (4 &&& val.toNat)))

/-- The state at reset: registers at the values that the manual gives (R44, R52, R76, R419, R479), the quads' map at
the identity, which is the model's choice of fuses (DESIGN CHOICE, log 4; R417 gives the fields), no cohort, record,
launch or engine operation, the clock at 0, and memory in its canonical form. -/
def Obligations.ResetState : Prop :=
  Memory.wf State.reset = true ∧ State.reset.clock = 0 ∧ State.reset.cohorts = [] ∧ State.reset.records = [] ∧
  State.reset.launches = [] ∧ State.reset.engines = [] ∧
  (∀ die q, die < 4 → q < 32 → State.reset.reg 0 (0xE100 + die * 0x100 + q * 8) = 0x80 + q) ∧
  (∀ die j, die < 4 → j < 5 → State.reset.reg 0 (0x2000 + die * 0x40 + j * 8) = 2 ^ (8 + j)) ∧
  (∀ die, die < 4 → State.reset.reg 0 (0x2028 + die * 0x40) = 2 ^ 19) ∧
  (∀ fn, fn < 257 → State.reset.reg 0 (0xA010 + fn * 0x40) = 1004 * 2 ^ 32 ∧
    State.reset.reg 0 (0xA018 + fn * 0x40) = 2 ^ 48 - 1) ∧
  (∀ fn slot, fn < 257 → slot < 8 → State.reset.reg fn (0x1038 + slot * 0x80) = 2 ^ 32 + 1000 * 2 ^ 16 + 64) ∧
  State.reset.reg 0 0x1480 = 250 ∧ State.reset.reg 0 0xF9F8 = 3000 ∧ State.reset.booted = false

/-- Every step keeps device and host memory in their canonical form, from every state that has it, and so equal
memories stay equal data. -/
def Obligations.MemoryForm : Prop := ∀ s t : State, Safe s → step s = .next t → Safe t

/-! ## Translation -/

/-- The events of translation within the package. A walk fills the TLBs; TAIL is stored and the ring served; a range
of pages is released or fails; the counters of a context clear at the end of its window (R27, R29, R40, R41, R44).
Shootdowns: SDREJ where one is under way; every agent drops what matches as one starts; an agent's ACK comes when its
accesses under the old epoch have completed; after the last the word that waits goes on (R32 to R36, R298). The
replica commands: ignored while BUSY; else BUSY with the code of the first failed check, or 0 and the replica made or
removed; DONE clears BUSY (R48). What an insertion of a misaligned page answers is the model's (log 29). So are who
acknowledges a shootdown (log 32), what a window does for collapsed pages (log 40) and the phase of the first window
(log 47). -/
def Obligations.TranslationEvents : Prop :=
  (∀ s core ctx va acc, core < 512 → ctx < 2056 → s.isPaged ctx va = true → bitOf (s.ctxReg ctx 0) 0 = true →
    exec (.tableWalk core ctx va acc) s = .next (s.tlbFill (some core) (core / 128) ctx va)) ∧
  (∀ s fn slot (val : Word64), s.booted = true → fn < 257 → slot < 8 →
    exec (.faultptrTailWrite fn slot val) s =
      .next (s.regField fn (0x1030 + slot * 0x80) 15 0 (val.toNat % 65536)).postFaults) ∧
  (∀ s fn (val : Word64) ctx lo hi, s.booted = true → fn < 257 → bitOf val.toNat 63 = false →
    pageDone fn val.toNat = some (ctx, lo, hi) →
    exec (.pagedoneRelease fn val) s = .next ((s.noteCollapse ctx lo hi).releasePages ctx lo hi)) ∧
  (∀ s fn (val : Word64) ctx lo hi, s.booted = true → fn < 257 → bitOf val.toNat 63 = true →
    pageDone fn val.toNat = some (ctx, lo, hi) →
    exec (.pagedoneFail fn val) s =
      .next (((s.records.filter fun r => r.onPage ctx lo hi).foldl State.pageFail (s.dropFaults ctx lo hi)).settleMoves ctx lo hi
        fun _ => true)) ∧
  (∀ s ctx, ctx < 2056 → s.due (s.nextWindow ctx) = true → (∀ p ∈ s.collapsed, p.1 = ctx → p ∈ s.rdupWrites) →
    ∃ t, exec (.migrationWindow ctx) s = .next t ∧ (∀ a ∈ t.accessCounts, a.ctx ≠ ctx) ∧ (∀ h ∈ t.hinted, h.2.1 ≠ ctx) ∧
      t.regs = s.regs ∧ t.clock = max s.clock (s.nextWindow ctx)) ∧
  (∀ s fn slot (val : Word64), s.booted = true → fn < 257 → slot < 8 → s.shootBusy (8 * fn + slot) = false →
    shootBad val.toNat = false →
    exec (.shootdown fn slot val) s = .next (s.startShootdown (8 * fn + slot) val.toNat)) ∧
  (∀ s fn slot (val : Word64), s.booted = true → fn < 257 → slot < 8 →
    (s.shootBusy (8 * fn + slot) = true ∨ shootBad val.toNat = true) →
    exec (.shootdown fn slot val) s = .next (s.regSet fn (0x1058 + slot * 0x80) 4)) ∧
  (∀ s ctx agent d, s.shootdowns.find? (fun d => d.ctx == ctx) = some d → agent ∈ d.waiting → s.agentBusy agent d.epoch = false →
    ∃ t, exec (.shootdownAck ctx agent) s = .next t ∧ t.pendingStores = (s.agentDrain agent d.epoch).pendingStores ∧
      t.tlbs = (s.agentDrain agent d.epoch).tlbs ∧ ∀ x ∈ t.shootdowns, x.ctx = ctx → agent ∉ x.waiting) ∧
  (∀ s ctx d, s.shootdowns.find? (fun d => d.ctx == ctx && d.waiting == []) = some d →
    let s1 : State := { s with shootdowns := s.shootdowns.filter fun x => x.ctx != ctx }
    exec (.shootdownDone ctx) s = .next ((((s1.regField (fnOf ctx) (ctxOff ctx 0x48) 15 0
      ((s1.field (fnOf ctx) (ctxOff ctx 0x48) 15 0 + 1) % 65536)).regClear (fnOf ctx) (ctxOff ctx 0x48) (2 ^ 16)).shootWake ctx).remapped
      ctx d.lo d.hi)) ∧
  (∀ s ctx d, s.shootdowns.find? (fun d => d.ctx == ctx && !d.late && s.due (d.since + 50000)) = some d →
    ∃ t, exec (.shootdownTimeout ctx) s = .next t ∧ (∀ x ∈ t.shootdowns, x.ctx = ctx → x.late = true) ∧ t.tlbs = s.tlbs) ∧
  (∀ (i : Instr) (s : State) die, i ∈ [Instr.replicaInsert die, .replicaRemove die, .replicaRemoveAll die, .replicaReservedOp die] →
    s.booted = true → die < 4 → bitOf (s.reg 0 (0x3110 + die * 0x20)) 8 = true → exec i s = .next s) ∧
  (∀ (s : State) die size ctx page, s.booted = true → die < 4 → bitOf (s.reg 0 (0x3110 + die * 0x20)) 8 = false →
    s.repKey die = (size, ctx, page) → s.field 0 (0x3100 + die * 0x20) 62 61 ≠ 3 → page % size = 0 →
    s.replicas.countP (fun r => r.die == die && fnOf r.ctx == fnOf ctx) < s.quota 4096 (fnOf ctx) →
    (∀ r ∈ s.replicas, r.die = die → r.ctx = ctx → ¬ (r.page < page + size ∧ page < r.page + r.size)) →
    s.repFrameBad die (fnOf ctx) size = false →
    ∃ t, exec (.replicaInsert die) s = .next t ∧
      t.replicas = { die, ctx, page, size, frame := s.reg 0 (0x3108 + die * 0x20) } :: s.replicas ∧
      t.field 0 (0x3110 + die * 0x20) 15 12 = 0 ∧ bitOf (t.reg 0 (0x3110 + die * 0x20)) 8 = true) ∧
  (∀ (s : State) die size ctx page, s.booted = true → die < 4 → bitOf (s.reg 0 (0x3110 + die * 0x20)) 8 = false →
    s.repKey die = (size, ctx, page) → s.field 0 (0x3100 + die * 0x20) 62 61 ≠ 3 →
    (∃ r ∈ s.replicas, r.die = die ∧ r.ctx = ctx ∧ r.page = page) →
    ∃ t, exec (.replicaRemove die) s = .next t ∧
      t.replicas = s.replicas.filter (fun r => !(r.die == die && r.ctx == ctx && r.page == page)) ∧
      t.field 0 (0x3110 + die * 0x20) 15 12 = 0 ∧ bitOf (t.reg 0 (0x3110 + die * 0x20)) 8 = true) ∧
  (∀ (s : State) die size ctx page, s.booted = true → die < 4 → bitOf (s.reg 0 (0x3110 + die * 0x20)) 8 = false →
    s.repKey die = (size, ctx, page) → s.field 0 (0x3100 + die * 0x20) 62 61 ≠ 3 →
    ∃ t, exec (.replicaRemoveAll die) s = .next t ∧ (∀ r ∈ t.replicas, ¬ (r.die = die ∧ r.ctx = ctx)) ∧
      t.field 0 (0x3110 + die * 0x20) 15 12 = 0 ∧ bitOf (t.reg 0 (0x3110 + die * 0x20)) 8 = true) ∧
  (∀ (s : State) die, s.booted = true → die < 4 → bitOf (s.reg 0 (0x3110 + die * 0x20)) 8 = false →
    ∃ t, exec (.replicaReservedOp die) s = .next t ∧ t.replicas = s.replicas ∧ t.field 0 (0x3110 + die * 0x20) 15 12 = 5 ∧
      bitOf (t.reg 0 (0x3110 + die * 0x20)) 8 = true) ∧
  (∀ (s : State) die, die < 4 → bitOf (s.reg 0 (0x3110 + die * 0x20)) 8 = true →
    ∃ t, exec (.replicaCommandDone die) s = .next t ∧ t.replicas = s.replicas ∧ bitOf (t.reg 0 (0x3110 + die * 0x20)) 8 = false) ∧
  (∀ (s : State) ctx v, (∀ x ∈ (s.startShootdown ctx v).tlbs, x.ctx = ctx → x.page < (shootRange v).2 → x.page + x.size ≤ (shootRange v).1) ∧
    (∀ x ∈ (s.startShootdown ctx v).walkCache, x.ctx = ctx → x.lo < (shootRange v).2 → x.lo + x.size ≤ (shootRange v).1) ∧
    bitOf ((s.startShootdown ctx v).ctxReg ctx 0x48) 16 = true)

/-! ## The fabric -/

/-- The events of leases and peers (R49 to R53, R471, R472): each answers or takes in a flit as its rule says. The
layout of the flits' payloads is the model's (log 28), as are its readings of leases (log 30) and the lane of a link that a retry
blames (log 12). -/
def Obligations.FabricEvents : Prop :=
  (∀ s pkg fn addr txn, s.importEntry pkg fn = none →
    exec (.translationRequest pkg fn addr txn) s = .next ((s.importAsk pkg fn).sendFlit 9 pkg 0 txn 0 [])) ∧
  (∀ (s : State) pkg fn addr txn ctx w pa wr, s.importEntry pkg fn = some (ctx, w) →
    let u := (s.importAsk pkg fn).walkNote none 0 ctx (faultPage addr)
    u.resets.contains (fnOf ctx) = false → u.recalling ctx (faultPage addr) = false → (ctx, faultPage addr) ∉ u.moving →
    u.exportXlate ctx addr = .frame pa wr →
    ∃ t l, exec (.translationRequest pkg fn addr txn) s = .next t ∧ t.leases = l :: u.leases ∧ l.pkg = pkg ∧ l.fn = fn ∧
      l.ctx = ctx ∧ l.frame = pa ∧ l.writable = (wr && w) ∧ l.recalled = false ∧ u.podTick < l.expiry) ∧
  (∀ s txn frame wr lease expiry r, s.peerReq? txn = some r → r.kind = .translate → r.lane < postedLane →
    let x : RtcEntry := { die := r.die, ctx := r.ctx, pkg := r.pkg, page := faultPage r.page, frame, writable := wr, lease, expiry
                          granted := s.podTick }
    let s0 := (s.dropReq txn).noteLease r.pkg lease r.fn expiry
    exec (.leaseGrant txn frame wr lease expiry) s = .next ((if s.podTick + 1 < expiry then s0.rtcPut x
      else { s0 with oneTime := s0.oneTime ++ [(r.uid, x)] }).answered)) ∧
  (∀ s txn r, s.peerReq? txn = some r → exec (.nack txn) s = .next (s.nackReq r).answered) ∧
  (∀ s txn r c, s.peerReq? txn = some r → r.kind = .translate → r.lane < postedLane → (s.dropReq txn).cohort? r.uid = some c →
    let s1 := s.dropReq txn
    let s2 := s1.faultHere { c with wait := .none } (s1.wordAt c) ⟨4, r.va, 0, s1.leafLevel r.ctx r.va, r.acc⟩ [r.lane]
    exec (.notready txn) s = .next { s2 with faults := s2.faults.map fun (e : FaultEntry) =>
      if e.die == r.die && e.ctx == r.ctx && e.page == faultPage r.va && e.code == 4 then
        { e with peer := some (r.pkg, faultPage r.page) } else e }.answered) ∧
  (∀ (s : State) pkg page,
    let waits : List FaultEntry := s.faults.filter fun e => e.peer == some (pkg, faultPage page)
    let t : State := waits.foldl (fun (t : State) e => t.releasePages e.ctx e.page (e.page + 2 ^ 16)) s
    exec (.ready pkg page) s = .next (((t.peerReqs.filter fun r => r.strayed r.ctx pkg (faultPage page)).foldl State.askAgain
      t).answered)) ∧
  (∀ s lease l, s.leases.find? (fun l => l.id == lease) = some l →
    ∃ t, exec (.leaseRecall s.pkgNum lease) s = .next t ∧ (∀ x ∈ t.leases, x.id = lease → x.recalled = true) ∧
      (l.ctx, l.page) ∈ t.moving ∧
      t.fabricOut = s.fabricOut ++ [{ kind := 10, dst := l.pkg, src := s.pkgNum, fn := fnOf l.ctx, tag := 0, lease, payload := [], follow := 0, left := false }]) ∧
  (∀ s pkg lease, pkg ≠ s.pkgNum →
    ∃ t, exec (.leaseRecall pkg lease) s = .next t ∧ ∀ x ∈ t.rtc, ¬ (x.pkg = pkg ∧ x.lease = lease)) ∧
  (∀ s pkg lease l, s.leases.find? (fun l => l.id == lease && l.pkg == pkg && l.recalled) = some l →
    exec (.recallAck pkg lease) s = .next (s.endLease lease)) ∧
  (∀ s lease l, s.leases.find? (fun l => l.id == lease && decide (l.expiry + 1 ≤ s.podTick)) = some l →
    exec (.leaseExpiry lease) s = .next (s.endLease lease)) ∧
  (∀ s pkg fn lease addr n txn, s.leaseFor pkg fn lease addr n false = none →
    exec (.peerRead pkg fn lease addr n txn) s = .next (s.sendFlit 9 pkg 0 txn lease [])) ∧
  (∀ s pkg fn lease addr n txn l, s.leaseFor pkg fn lease addr n false = some l → s.resets.contains (fnOf l.ctx) = false →
    s.badIn (s.locOf addr) n = none →
    exec (.peerRead pkg fn lease addr n txn) s =
      .next ((s.peerGet (fnOf l.ctx) (s.locOf addr) n).1.sendDone pkg (fnOf l.ctx) txn false (s.performedRead (s.locOf addr) n))) ∧
  (∀ s pkg fn lease addr n txn l b, s.leaseFor pkg fn lease addr n false = some l → s.resets.contains (fnOf l.ctx) = false →
    s.badIn (s.locOf addr) n = some b →
    exec (.peerRead pkg fn lease addr n txn) s = .next ((s.enterError b (fnOf l.ctx)).sendDone pkg (fnOf l.ctx) txn true [])) ∧
  (∀ s pkg fn lease addr data txn l, s.leaseFor pkg fn lease addr data.length true = some l →
    s.resets.contains (fnOf l.ctx) = false →
    exec (.peerWrite pkg fn lease addr data txn) s =
      .next ((s.peerPut (fnOf l.ctx) (s.locOf addr) data).sendDone pkg (fnOf l.ctx) txn false [])) ∧
  (∀ s pkg fn lease addr op wide x y txn l, s.leaseFor pkg fn lease addr (if wide then 8 else 4) true = some l →
    s.resets.contains (fnOf l.ctx) = false → s.badIn (s.locOf addr) (if wide then 8 else 4) = none →
    s.onView (s.locOf addr) = false →
    let old := s.performedRead (s.locOf addr) (if wide then 8 else 4)
    exec (.peerAtomic pkg fn lease addr op wide x y txn) s =
      .next ((s.peerPut (fnOf l.ctx) (s.locOf addr) ((WriteOp.atomic op wide x y).apply old)).sendDone pkg (fnOf l.ctx)
        txn false old)) ∧
  (∀ s txn data r, s.peerReq? txn = some r → r.kind ≠ .translate → s.askerLives r.uid = true → r.lane ≠ postedLane →
    exec (.completion txn data false) s = .next { s with peerReqs := s.peerReqs.map fun (q : PeerReq) =>
      if q.txn = txn then { q with reply := some data } else q }.answered) ∧
  (∀ s txn r, s.peerReq? txn = some r → r.sent = true → r.lane ≤ postedLane →
    exec (.peerRequestTimeout txn) s = .next { s with peerReqs := s.peerReqs.map fun (q : PeerReq) =>
      if q.txn = txn then { q with aborted := true } else q }.answered) ∧
  (∀ s port flits, port < 20 → ∃ t, exec (.linkCredit port flits) s = .next t ∧
    t.ports.head? = some (port, ((s.ports.find? fun p => p.1 == port).elim 0 Prod.snd) + flits) ∧ t.retriesOf port = 0 ∧ t.mem = s.mem) ∧
  (∀ s port, port < 20 → ∃ t lane, exec (.flitRetry port) s = .next t ∧ lane < 4 ∧ t.retriesOf port = (s.retriesOf port + 1) % 16 ∧
    (s.retriesOf port + 1 ≠ 16 → t.retiredLanes = s.retiredLanes) ∧
    (s.retriesOf port + 1 = 16 → t.retiredLanes = s.retiredLanes ++ [(port, lane)])) ∧
  (∀ s port up, port < 20 → ∃ t, exec (.fabricPortStateChange port up) s = .next t ∧ (port ∈ t.portsDown ↔ up = false)) ∧
  (∀ s, s.booted = true → ∃ t, exec .routeOpen s = .next t ∧ bitOf (t.reg 0 0xF900) 0 = true) ∧
  (∀ s, s.routeOpenNow = true → s.fabricQuiet = true → ∃ t, exec .routeReady s = .next t ∧ bitOf (t.reg 0 0xF900) 1 = true) ∧
  (∀ s pkg (val : Word64), s.booted = true → pkg < 1024 → bitOf (s.reg 0 0xF900) 1 = true →
    ∃ t, exec (.podrtWrite pkg val) s = .next t ∧ t.reg 0 (0x60000 + pkg * 8) = val.toNat % 2 ^ 20) ∧
  (∀ s, s.booted = true → ∃ t, exec .routeClose s = .next t ∧ bitOf (t.reg 0 0xF900) 0 = false ∧
    bitOf (t.reg 0 0xF900) 1 = false) ∧
  (∀ s txn data r, s.peerReq? txn = some r → r.kind ≠ .translate → r.lane = postedLane →
    exec (.completion txn data false) s = .next ({ s.dropReq txn with
      pendingStores := s.pendingStores.filter fun p => p.txn != some txn }).answered)

/-! ## The memory system -/

/-- The events of the slices, the L1, the stores and the landings (R60, R64, R65, R69, R72, R79, R122, R237, R366,
R367); of the hash masks and the format windows (R76, R78, R106, R111): a write of a mask is accepted only while READY
is 1 and keeps the mapping a bijection; a window's ENABLE and DISABLE take effect only while every context is idle; a
flush completes each wait for it. An event that finds nothing to act on changes nothing (log 2); the order of the DRAM
and a flush for each `fence.fmt` are the model's (logs 47 and 48). -/
def Obligations.MemoryEvents : Prop :=
  (∀ (s : State) (b : BankId), b.stack < 16 → b.channel < 32 → b.pc < 2 → b.group < 4 → b.bank < 4 → s.mayRefresh b = true →
    ∃ t, exec (.dramRefresh b) s = .next t ∧ (∀ r ∈ t.dramRows, r.bank ≠ b) ∧ t.mem = s.mem) ∧
  (∀ (s : State) (b : BankId), (∃ r ∈ s.dramRows, r.bank = b ∧ s.due (r.used + 128) = true) →
    ∃ t, exec (.rowIdleClose b) s = .next t ∧ (∀ r ∈ t.dramRows, r.bank ≠ b) ∧ t.mem = s.mem) ∧
  (∀ (s : State) fn pa store, exec (.sliceRequest fn pa store) s =
    .next (match s.requests.find? (fun r => r.fn == fn && r.line == pa / 256 && r.sectors.getLsbD (pa / 64 % 4) && r.writes == store) with
      | some r => s.serveTo r.id
      | none => s)) ∧
  (∀ (s : State) pa l, s.l2Line? pa = some l → l.want.getLsbD (pa / 64 % 4) = true →
    exec (.sectorFill pa) s = .next (s.l2Arrive l pa)) ∧
  (∀ (s : State) core pa, (∃ m ∈ (s.core core).misses, m.key = .hbm (pa / 64)) →
    exec (.l1Fill core pa) s = .next (s.fillReturn core (.hbm (pa / 64)))) ∧
  (∀ (s : State) core pa p, s.pendingStores.find? (fun p => p.core == core && p.here && (locWithin (.hbm pa) p.loc p.op.len).isSome) =
      some p →
    exec (.storeAck core (.hbm pa)) s = .next ((s.serveTo p.request).drainStores fun q => q.id == p.id)) ∧
  (∀ (s : State) core c n, s.grantHead core = some (c, n) → s.missUsed core + n ≤ 128 →
    ∃ t d, exec (.missStatusGrant core) s = .next t ∧
      d = { c with wait := if bitOf (s.reg (fnOf c.ctx) (0x1500 + slotOf c.ctx * 8)) 0 then .misses 0 else .none } ∧
      t.cohorts = s.cohorts.map (fun e => if e.uid = c.uid then d else e)) ∧
  (∀ (s : State) uid c, s.cohort? uid = some c → c.wait = .misses 0 → (s.core c.core).grantOf uid = true →
    exec (.retryReissue uid) s = .next (s.putCohort { c with wait := .none, readyTime := s.clock + 2 })) ∧
  (∀ (s t : State) uid tag c e l x, s.cohort? uid = some c →
    c.landings.find? (fun l => l.tag == tag && !l.landed && l.unitWord.isNone) = some l →
    (s.gather c.core fun r => r.ofLanding c l).takeReads c (fun y => y.id == l.id) = (t, e) →
    e.landings.find? (fun y => y.id == l.id) = some x →
    exec (.landing uid tag) s = .next (t.putCohort { e.land x with landings := (e.land x).landings.map fun y =>
      if y.id = x.id then { y with landed := true } else y })) ∧
  (∀ (s t : State) uid c xs w, s.cohort? uid = some c → c.wait = .xst xs w → s.acceptFlights xs = (t, none) →
    let u := t.putCohort { c.advance.drainU with wait := .none, skip := false, stepping := false
                                                 stepDue := if c.stepping then some w else none, readyTime := t.clock }
    exec (.xstAccept uid) s = .next u) ∧
  (∀ s die, s.booted = true → die < 4 → s.allIdle = true →
    ∃ t, exec (.hashOpen die) s = .next t ∧ bitOf (t.reg 0 (0x2030 + die * 0x40)) 0 = true) ∧
  (∀ s die, die < 4 → bitOf (s.reg 0 (0x2030 + die * 0x40)) 0 = true → bitOf (s.reg 0 (0x2030 + die * 0x40)) 1 = false →
    ∃ t, exec (.hashReady die) s = .next t ∧ bitOf (t.reg 0 (0x2030 + die * 0x40)) 1 = true ∧
      ∀ x ∈ t.l1, homeDie x.sector ≠ die) ∧
  (∀ s die reg (val : Word64), s.booted = true → die < 4 → reg < 6 → bitOf (s.reg 0 (0x2030 + die * 0x40)) 1 = true →
    maskGood reg val.toNat = true →
    ∃ t, exec (.hashMaskWrite die reg val) s = .next t ∧
      t.reg 0 (0x2000 + die * 0x40 + 8 * reg) = val.toNat &&& ((2 ^ 28 - 1) * 2 ^ 8)) ∧
  (∀ s die reg (val : Word64), s.booted = true → die < 4 → reg < 6 →
    (bitOf (s.reg 0 (0x2030 + die * 0x40)) 1 = false ∨ maskGood reg val.toNat = false) →
    exec (.hashMaskWrite die reg val) s = .next (s.regSet 0 (0x2030 + die * 0x40) 4)) ∧
  (∀ s die, s.booted = true → die < 4 → ∃ t, exec (.hashClose die) s = .next t ∧
    bitOf (t.reg 0 (0x2030 + die * 0x40)) 0 = false ∧ bitOf (t.reg 0 (0x2030 + die * 0x40)) 1 = false) ∧
  (∀ s win, s.booted = true → win < 8 → s.windowOn win = false → s.allIdle = true → s.windowBad win = false →
    ∃ t, exec (.formatWindowEnable win) s = .next t ∧ t.windowOn win = true) ∧
  (∀ s win, s.booted = true → win < 8 → s.windowOn win = false → (s.allIdle = false ∨ s.windowBad win = true) →
    exec (.formatWindowEnable win) s = .next (s.regSet 0 (0x2230 + win * 0x40) 2)) ∧
  (∀ s win, win < 8 → s.windowOn win = true → s.windowActive win = false →
    ∃ t, exec (.formatWindowActive win) s = .next t ∧ bitOf (t.reg 0 (0x2230 + win * 0x40)) 0 = true) ∧
  (∀ s win, s.booted = true → win < 8 → s.windowOn win = true → s.allIdle = true →
    ∃ t, exec (.formatWindowDisable win) s = .next t ∧ t.windowOn win = false ∧ t.windowActive win = false) ∧
  (∀ s seq, seq ∈ s.flushing → ∃ t, exec (.formatFlushDone seq) s = .next t ∧ seq ∉ t.flushing ∧
    ∀ r ∈ t.records, r.place = .waiting → r.event ≠ .flush (BitVec.ofNat 32 seq)) ∧
  (∀ (s : State) core key, ∀ m ∈ ((s.fillReturn core key).core core).misses, m.key ≠ key)


/-! ## Records, placements and launches -/

/-- The events of the Cellar and of the distributor's placements (R144, R169, R179 to R183, R189, R205, R211, R212,
R236, R404 to R409). Which bays an image takes (log 13), what a late answer does (log 30), how a drain is divided (log
33), which core is cleared and which of two slots was free first (log 53) are the model's. -/
def Obligations.RecordEvents : Prop :=
  (∀ s rec r, s.record? rec = some r → r.place = .bin → r.arrival + 2048 ≤ s.clock → exec (.binAgeExpiry rec) s = .next s) ∧
  (∀ s rec r k one, s.record? rec = some r → s.drainClass r = some k →
    let rs := takeRecords 32 ((s.binMates r).filter (sameKey r))
    (∀ q ∈ rs, q.bad = false ∧ s.badImage q = none) → divideBy s.mayRun 32 (drainLanes rs) = [one] →
    exec (.cobblerDrain rec) s =
      .next ((rs.foldl (fun t q => t.getImage (fnOf q.ctx) false q.uid) s).formCohort (s.drainOrder r k) rs false k)) ∧
  (∀ s rec die r, s.record? rec = some r → r.place = .bin → die < 4 → s.pkgNum < 1024 → s.maySend r s.pkgNum die = true →
    s.sendsStopped (fnOf r.ctx) = false → (∀ x ∈ s.reclaimed, x.1 ≠ rec) →
    exec (.recordSend rec s.pkgNum die) s = .next (s.putRecord { r with place := .sent s.pkgNum die s.clock })) ∧
  (∀ s pkg txn die image, pkg ≠ s.pkgNum → die < 4 → pkg < 1024 → 64 ≤ image.length →
    let r := imageRecord image s.nextUid pkg die s.clock
    fnOf r.ctx < 257 → r.kind ≠ .engine → imageFrames image = false → s.resets.contains (fnOf r.ctx) = false →
    s.cellarCharged (fnOf r.ctx) + r.charge ≤ s.cellarBays (fnOf r.ctx) →
    exec (.recordData pkg txn die image) s =
      .next ({ s with nextUid := s.nextUid + 1, records := s.records ++ [r] }.sendFlit 13 pkg (fnOf r.ctx) txn 0 [])) ∧
  (∀ s rec r pkg die since, s.record? rec = some r → r.place = .sent pkg die since → s.clock ≤ since + 2000 →
    exec (.ack rec) s = .next (s.passOn r pkg die)) ∧
  (∀ s rec r pkg die since, s.record? rec = some r → r.place = .sent pkg die since → since + 2000 ≤ s.clock →
    exec (.handoffTimeout rec) s = .next { s.putRecord { r with place := s.binPlace (fnOf r.ctx) r.die } with
      reclaimed := s.reclaimed ++ [(rec, pkg, die)] }) ∧
  (∀ s rec r die, s.record? rec = some r → r.place = .pending s.pkgNum die →
    exec (.commit rec) s = .next (s.putRecord { r with place := s.binPlace (fnOf r.ctx) r.die, arrival := s.clock })) ∧
  (∀ s rec r pkg die, s.record? rec = some r → r.place = .pending pkg die → pkg ≠ s.pkgNum →
    exec (.refuse rec) s = .next ((s.dropRecord rec).wakeCharge (fnOf r.ctx))) ∧
  (∀ s fn r, s.exhausted fn = some r → exec (.cellarExhaustion fn) s = .next (s.fatalRecord r .cellarfull r.resume)) ∧
  (∀ s uid u k, s.unplaced? uid = some u → s.placeCore u = some k → exec (.placement uid) s = .next (s.place u k)) ∧
  (∀ s uid u k, s.unplaced? uid = some u → s.placeCore u = none → s.farCore u = some k →
    exec (.placement uid) s = .next (s.putUnplaced { u with handoff := some (.sent s.pkgNum (dieOf k) s.clock) })) ∧
  (∀ s uid u k ps, s.unplaced? uid = some u → u.fromTeam = false → u.handoff = none → u.since + 16384 ≤ s.clock →
    s.holdsCores (fnOf u.cohort.ctx) = true → s.placeCore u = none → s.clearCore u = some (k, ps) →
    ∃ t, exec (.placementWaitTimeout uid) s = .next t ∧ t.halts = s.halts ++ ps.map (fun p => (p, 4)) ∧
      ∀ v ∈ t.unplaced, v.cohort.uid = uid → v.bound = some k ∧ v.overdue = true) ∧
  (∀ s uid c, s.cohort? uid = some c → c.wait = .split → c.readyTime + 256 ≤ s.clock → s.canHalt c = true → s.peerOpen c = false →
    c.stepDue = none → (s.abandonReads c).abortedWrite uid = none →
    exec (.splitWaitTimeout uid) s = .next ((s.abandonReads c).forceOut { c with wait := .none } 2)) ∧
  (∀ s uid cause c, s.cohort? uid = some c → s.haltWanted c = some cause → s.canHalt c = true → (∀ xs w, c.wait ≠ .xst xs w) →
    (∀ code, c.wait ≠ .refused code) → c.stepDue = none → (s.abandonReads c).abortedWrite uid = none →
    exec (.haltRequest uid cause) s = .next ((s.abandonReads c).haltInto { c with wait := .none } cause)) ∧
  (∀ (s : State) core, (∀ e ∈ s.cohorts, e.core = core → e.issue ≠ some 0) → (s.nextSlot core = some 0 ∨
    (s.slotFreed core 1 < s.slotFreed core 0 ∧ (s.cohorts.filter fun c => c.core == core && c.ready).length = 1))) ∧
  (∀ (s : State) core, (∃ e ∈ s.cohorts, e.core = core ∧ e.issue = some 0) → (∀ e ∈ s.cohorts, e.core = core → e.issue ≠ some 1) →
    s.nextSlot core = some 1) ∧
  (∀ (s : State) core, (∀ e ∈ s.cohorts, e.core = core → e.issue = none) → s.slotFreed core 1 < s.slotFreed core 0 →
    (s.cohorts.filter fun c => c.core == core && c.ready).length = 1 → s.nextSlot core = some 1) ∧
  (∀ s core slot c, s.nextReady core = some c → s.nextSlot core = some slot →
    exec (.issueSlotTake core slot) s = .next (s.putCohort { c with issue := some slot, slotSince := s.clock })) ∧
  (∀ s launch team members t l, s.team? (BitVec.ofNat 32 launch) (BitVec.ofNat 32 team) = some t → s.movable t = true →
    s.canHost t members = true → s.teamLaunch? t = some l →
    ∃ u, exec (.teamMove launch team members) s = .next u ∧ u.teams = (s.putTeam { t with members }).teams ∧
      u.allocs.map Alloc.data = s.allocs.map Alloc.data) ∧
  (∀ s rec r pkg die since, s.record? rec = some r → r.place = .sent pkg die since → since + 2000 < s.clock →
    exec (.ack rec) s = .next ((s.reclaim r).refuseLate pkg rec))

/-- The events of queues, launches and the microcode of the distributor (R392 to R402, R408, R412). The codes and
STATE of log 19 are readings of the model's, and when PRIO is read and which core is pre-empted are its choices (log
53). A QCB outside the ranges of R399 is the model's reading (log 31); the algorithm of its signatures, ML-DSA-65, is
taken from outside the manual (PRESUMED, log 17). -/
def Obligations.LaunchEvents : Prop :=
  (∀ s fn queue, s.booted = true → fn < 257 → queue < 64 → exec (.qbell fn queue) s = .next (s.readHead fn queue)) ∧
  (∀ s fn queue (val : Word64), s.booted = true → fn < 257 → queue < 64 → bitOf val.toNat 0 = true →
    s.queueOn fn queue = false → (∀ l ∈ s.launches, l.fn = fn → l.queue = queue → l.complete = true) →
    let s1 := s.plainWrite fn (0x1800 + queue * 0x10) val.toNat
    let base := slice val.toNat 45 7 * 128
    let others := s.queueViews.filter fun v => !(v.fn == fn && v.queue == queue)
    (s1.admits fn (base, 128) = false →
      exec (.queueEnable fn queue val) s = .next { s1 with queueViews := others }) ∧
    (s1.admits fn (base, 128) = true →
      let v0 : QueueView := { fn, queue, base, head := 0, tail := 0, doneSeq := 0, desc := none, since := none, bound := none }
      s1.qcb v0 18 1 ≠ 3 →
      let v := { v0 with head := s1.qcb v0 0 4 }
      exec (.queueEnable fn queue val) s = .next ((({ s1 with queueViews := others ++ [v] }.physAsk fn base 128).latchDesc v).startAfresh
        v))) ∧
  (∀ s fn queue (val : Word64), s.booted = true → fn < 257 → queue < 64 → bitOf val.toNat 0 = false →
    s.queueOn fn queue = true →
    exec (.queueDisable fn queue val) s = .next (s.plainWrite fn (0x1800 + queue * 0x10) val.toNat)) ∧
  (∀ s fn queue v, s.view? fn queue = some v → s.mayStart v = true → s.cursorErr v = 0 →
    (descDeps (s.cursorDesc v)).all (s.depMet fn) = true →
    ∃ t l, exec (.launchStart fn queue) s = .next t ∧ t.launches = s.launches ++ [l] ∧ l.fn = fn ∧ l.complete = false) ∧
  (∀ s fn queue v, s.view? fn queue = some v → s.queueOn fn queue = true → v.fn = fn → v.queue = queue → v.waiting = true →
    s.qcb v 18 1 < 2 → (∀ l ∈ s.launches, l.fn = fn → l.queue = queue → l.complete = true) → s.cursorErr v = 0 →
    (∃ p ∈ descDeps (s.cursorDesc v), s.depMet fn p = false) →
    exec (.launchStart fn queue) s = .next (s.setState v 2 0)) ∧
  (∀ s fn queue v, s.view? fn queue = some v → s.mayStart v = true → s.cursorErr v ≠ 0 →
    exec (.launchStart fn queue) s = .next (s.setState v 3 (s.cursorErr v))) ∧
  (∀ s fn queue l inst cores, s.nextTeam fn queue = some (l, inst, cores) →
    ∃ t, exec (.teamCreate fn queue) s = .next t ∧ t.teams = s.teams ++
      [{ launch := l.num, num := BitVec.ofNat 32 l.next, fn, span := l.span, inst, foot := l.foot, fibres := l.fibres
         members := (cores.take l.members).foldr insertNat [], barriers := List.replicate 16 Barrier.fresh }]) ∧
  (∀ s launch l, s.launches.find? (fun l => l.num == BitVec.ofNat 32 launch && !l.complete) = some l → s.mayComplete l = true →
    exec (.launchComplete launch) s = .next (s.completeLaunch l)) ∧
  (∀ s fn queue v l k t0, s.view? fn queue = some v → s.creating fn queue = some l → bitOf (s.qcb v 17 1) 3 = true →
    v.since = some t0 → t0 + 16384 ≤ s.clock → (s.chooseInstance l v.bound).isNone = true → s.preemptCore fn l.prio = some k →
    ∃ t, exec (.priorityPreemption fn queue) s = .next t ∧
      t.halts = s.halts ++ (s.lower fn l.prio k).map fun c => (c.placed, 1)) ∧
  (∀ s, s.booted = true → ∃ t, exec .distLoad s = .next t ∧ bitOf (t.reg 0 0x3018) 0 = true) ∧
  (∀ s, s.distBusy = true →
    ∃ t, exec .distLoadDone s = .next t ∧ bitOf (t.reg 0 0x3018) 0 = false ∧
      t.field 0 0x3018 15 8 = (s.checkImage [0x44, 0x49, 0x53, 0x54] (s.reg 0 0x3000) (s.reg 0 0x3008) s.firmware.distRollback).1 % 256)

/-- The events of the engines (R383 to R387): a chunk of a linear operation, its end with the status block, the
checkpoint of one that must leave its channel, and the stages of a collective. The layout of a collective's flits is
the model's (log 28), as is what a rank reads at its first run (log 27) and how the ranks' words meet (log 18). -/
def Obligations.EngineEvents : Prop :=
  (∀ s op e, s.engine? op = some e → s.engineRuns e = true → e.isColl = false → e.done < s.engineTotal e →
    e.coll.checked = false →
    exec (.engineChunkDone op) s = .next (s.engineChunk (s.onChannel e))) ∧
  (∀ s op e, s.engine? op = some e → (e.state = .running ∨ e.state = .queued) → e.ended = none → e.done = s.engineTotal e →
    e.isColl = false → s.engineAway e = false → exec (.engineOpDone op) s = .next (s.engineStop e 0 0)) ∧
  (∀ s op e, s.engine? op = some e → e.state = .running → e.coll.progress = 0 →
    exec (.engineCheckpoint op) s = .next (s.engineSave e .none .waiting false)) ∧
  (∀ s op peer data e, s.engine? op = some e → e.isColl = true → s.engineRuns e = true → e.coll.progress = 0 →
    e.has peer = false → exec (.collectiveData op peer data) s = .next (s.collRun (s.onChannel e) fun t f =>
      match t.collGroup f with
      | .ok d =>
        if !(otherRanks d f.rank).contains peer then t.putEngine f
        else if groupPkg d peer != t.pkgNum && data.length != collBytes f then t.abortEngine f
        else t.collExchange f d peer data
      | x => t.engineBlocked f x)) ∧
  (∀ s op e, s.engine? op = some e → e.isColl = true → e.state = .running → e.coll.progress ≠ 0 → s.engineHalted e = false →
    e.stops = false → exec (.collectiveStageDone op) s =
      .next (s.putEngine { e with coll := { e.coll with stage := e.coll.stage + 1, progress := 0 } })) ∧
  (∀ s op e, s.engine? op = some e → e.isColl = true → e.coll.checked = true →
    exec (.collectiveAbort op) s = .next ({ s with collAborts := s.collAborts.filter fun a =>
      !(a.fn == e.fn && a.group == e.coll.group && a.rank == e.rank && a.count == e.coll.seq) }.engineStop e 3
        TrapCode.engarg.code))

/-! ## Time, tenants and the host -/

/-- The events of the ticks, the wheel and the slot table (R132, R397, R421 to R438, R447, R475). Cycles within a tick
are the model's (log 5); an outbox outside the ranges of R399 is its reading (log 31). What a late quad and a further
DRAIN_WINDOW_END do is its reading too (DEDUCED, log 39). -/
def Obligations.ClockEvents : Prop :=
  (∀ s : State,
    let s1 := ({ s with clock := (s.clock / 256 + 1) * 256 }.wakeFences).wakePodFences
    exec .packageHeartbeat s =
      .next ((s1.queueViews.foldl (fun t v => t.readHead v.fn v.queue) s1).readOutboxes.readOverflow)) ∧
  (∀ s, s.podOn = true → s.podMaster = s.pkgNum → s.due (s.podSentAt + 4000) = true →
    ∃ t, exec .podTickSend s = .next t ∧ t.podSent = max s.podSent s.podTick + 1 ∧
      t.podSentAt = max s.clock (s.podSentAt + 4000)) ∧
  (∀ s count stamp, s.podOn = true → exec (.podTick count stamp) s =
    .next { s with podPending := s.podPending ++ [(count, stamp + s.field 0 0xF910 31 16)] }) ∧
  (∀ s count at_, s.podPending.find? (fun p => p.1 == count && s.due p.2) = some (count, at_) →
    ∃ t, exec (.podTickAdopt count) s = .next t ∧ t.podTick = count ∧ t.podPending = s.podPending.erase (count, at_)) ∧
  (∀ s, s.tableOn = true → s.curSlot < 15 → s.drain = none → s.due s.nextEdge = true →
    exec .slotEdge s = .next (({ s with clock := max s.clock s.nextEdge }).switchTo s.table (s.curSlot + 1))) ∧
  (∀ s, s.tableEn = true → s.disabling = false → s.drain = none → s.tableOn = true → s.curSlot = 15 →
    s.due s.nextFrame = true → s.pendingTable = none →
    exec .frameBoundary s = .next (((({ s with clock := max s.clock s.nextFrame }).refill).setReg 0 0x9018 (s.frame + 1)).switchTo
      ((({ s with clock := max s.clock s.nextFrame }).refill).setReg 0 0x9018 (s.frame + 1)).table 0)) ∧
  (∀ s, s.due (1024 * s.wheelTurns) = true →
    ∃ t, exec .wheelTurn s = .next t ∧ t.wheelTurns = s.wheelTurns + 1 ∧ t.cohorts = s.cohorts ∧
      t.engines.map EngineOp.id = s.engines.map EngineOp.id) ∧
  (∀ (s : State) die cls pos, die < 4 → cls < 4 → pos < 64 → exec (.wheelPosition die cls pos) s =
    .next ((s.resourcesAt die cls).foldl (fun t n => t.positionAt die cls pos n) s)) ∧
  (∀ (s : State) die cls pos n f, s.positionOwner die cls pos = some f →
    (s.drain = none ∨ 52 ≤ pos ∨ ∃ d, s.drain = some d ∧ d.edge + 10000 ≤ s.clock) →
    (s.queuedAt die cls n f = true → s.positionAt die cls pos n = s.servePosition die cls n f) ∧
    (s.queuedAt die cls n f = false → ∀ g, s.donee die cls n f = some g →
      s.positionAt die cls pos n = (s.spendDonation g).servePosition die cls n g) ∧
    (s.queuedAt die cls n f = false → s.donee die cls n f = none → s.positionAt die cls pos n = s)) ∧
  (∀ (s : State) d die cls pos n, s.drain = some d → pos < 52 → s.clock < d.edge + 10000 →
    s.positionAt die cls pos n = d.outgoing.foldl (fun t f => t.servePosition die cls n f) s) ∧
  (∀ s d, s.drain = some d → s.due (d.edge + 9000) = true →
    exec .engineOverrun s = .next ((s.engines.filter fun e => d.outgoing.contains e.fn && e.state == .running).foldl
      (fun t e => t.engineStop e 1 0) { s with clock := max s.clock (d.edge + 9000) })) ∧
  (∀ s d, s.drain = some d → s.due (d.edge + 10000) = true →
    ∃ t, exec .drainWindowEnd s = .next t ∧ t.drain = none ∧ t.dramRows = [] ∧
      t.lateQuads = s.lateQuads ++ (d.quads.zip d.owners).filter fun p => !(s.atCycle (d.edge + 10000)).quadDone p) ∧
  (∀ s, s.drain = none → s.lateQuads.any s.quadDone = true →
    ∃ t, exec .drainWindowEnd s = .next t ∧ t.lateQuads = s.lateQuads.filter fun p => !s.quadDone p) ∧
  (∀ s, s.booted = true → exec .slotTableLoad s = .next (match s.loadErr with
    | 0 => { ((s.physAsk 0 (s.reg 0 0x9000) 8192).physAsk 0 (s.reg 0 0x9008) 8192).regSet 0 0x9010 4 with
        pendingTable := some (tableOf (s.performedRead (.hbm (s.reg 0 0x9000)) 8192) (s.performedRead (.hbm (s.reg 0 0x9008)) 8192)) }
    | e => s.rejectTable e)) ∧
  (∀ s, s.booted = true → s.tableEn = false → s.allIdle = true → s.pendingTable ≠ none →
    ∃ t, exec .slotTableEnable s = .next t ∧ t.tableEn = true) ∧
  (∀ s, s.booted = true → s.tableEn = true → s.allIdle = true →
    ∃ t, exec .slotTableDisable s = .next t ∧ t.tableEn = false ∧ t.disabling = true)

/-- The events of tenants, of the host and of the hardware (R443 to R448, R460, R461, R465 to R467, R476 to R479,
R492). The algorithm ML-DSA-65 of signatures is taken from outside the manual (PRESUMED, log 17); the factory image,
the order of a reset and die gating are the model's readings (logs 34, 35 and 36). So are the one step of a test (log
12), completions and settings (log 43) and atomics of the host (log 50). -/
def Obligations.HostEvents : Prop :=
  (∀ s, s.booted = true → s.tableEn = false → s.allIdle = true →
    ∃ t, exec .partitionRebuild s = .next t ∧ bitOf (t.reg 0 0xE500) 1 = true) ∧
  (∀ s, bitOf (s.reg 0 0xE500) 1 = true → ∃ t, exec .partitionRebuildDone s = .next t ∧ bitOf (t.reg 0 0xE500) 1 = false ∧
    bitOf (t.reg 0 0xE500) 2 = false) ∧
  (∀ s fn, s.booted = true → fn < 257 → bitOf (s.reg 0 (0xA028 + fn * 0x40)) 1 = false →
    exec (.tenantReset fn) s = .next ((s.regSet 0 (0xA028 + fn * 0x40) 2).fence fn)) ∧
  (∀ s fn, fn < 257 → bitOf (s.reg 0 (0xA028 + fn * 0x40)) 1 = true →
    ∃ t, exec (.tenantResetDone fn) s = .next t ∧ bitOf (t.reg 0 (0xA028 + fn * 0x40)) 1 = false ∧
      bitOf (t.reg 0 (0xA028 + fn * 0x40)) 2 = true ∧ fn ∉ t.resets ∧ (∀ l ∈ t.launches, l.fn ≠ fn) ∧
      (∀ x ∈ t.semaphores, x.fn ≠ fn)) ∧
  (∀ s fn b, s.nextBatch fn = some b → exec (.arbiterMessage fn) s = .next (s.serveMessage fn)) ∧
  (∀ s die, die < 4 → s.gatedDies.contains die = false → s.handoffOn die = false →
    exec (.diePowerGating die) s = .next { s with gatedDies := s.gatedDies ++ [die] }) ∧
  (∀ s unit lasting t, s.tests.find? (fun t => t.unit == unit) = some t → s.testReady t = true →
    let s1 : State := { s with tests := s.tests.erase t }
    exec (.selfTest unit lasting) s = .next (if lasting then (s1.postVerdict unit 2).retire unit else s1.postVerdict unit 1)) ∧
  (∀ s fn core k, s.booted = true → fn < 257 → core < 512 → s.coreOfDense fn core = some k →
    exec (.dbgctlHalt fn core) s =
      .next (((s.cohorts.filter fun c => c.core == k && fnOf c.ctx == fn).map Cohort.uid).foldl State.debugHalt s)) ∧
  (∀ s fn core (val : Word64), s.booted = true → fn < 257 → core < 512 →
    ∃ t, exec (.mbinWrite fn core val) s = .next t ∧ t.reg fn (0x10070 + core * 0x200) = val.toNat % 2 ^ 63 ∧
      bitOf (t.reg fn (0x10080 + core * 0x200)) 0 = true) ∧
  (∀ s fn core, s.booted = true → fn < 257 → core < 512 →
    ∃ t, exec (.mboutRead fn core) s = .next t ∧ bitOf (t.reg fn (0x10080 + core * 0x200)) 1 = false ∧
      t.hostReads = s.hostReads ++ [(fn, 0, 0x10078 + core * 0x200, .data (toBytes 8 (s.barRead fn (0x10078 + core * 0x200))))]) ∧
  (∀ s fn off n pa, fn < 257 → off + n ≤ bar2Size fn → s.bar2Access fn off n = some pa → s.badIn (.hbm pa) n = none →
    ∃ t, exec (.hostRead fn off n) s = .next t ∧ t.mem = s.mem ∧
      t.hostReads = s.hostReads ++ [(fn, 2, off, .data (s.performedRead (.hbm pa) n))]) ∧
  (∀ s fn off data pa, fn < 257 → off + data.length ≤ bar2Size fn → s.bar2Access fn off data.length = some pa →
    exec (.hostWrite fn off (.device data)) s = .next (s.agentWrite fn pa data (s.isUncached fn 0))) ∧
  (∀ s, s.booted = true → ∃ t, exec .firmwareStage s = .next t ∧ bitOf (t.reg 0 0xF998) 0 = true) ∧
  (∀ s, bitOf (s.reg 0 0xF998) 0 = true → ∃ t, exec .firmwareStageDone s = .next t ∧ bitOf (t.reg 0 0xF998) 0 = false) ∧
  (∀ s fn, s.booted = true → fn < 257 → ∃ t, exec (.attestRequest fn) s = .next t ∧ bitOf (t.reg fn 0x1F48) 1 = true) ∧
  (∀ s fn, fn < 257 → bitOf (s.reg fn 0x1F48) 1 = true → ∃ t, exec (.attestDone fn) s = .next t ∧
    bitOf (t.reg fn 0x1F48) 1 = false ∧ bitOf (t.reg fn 0x1F48) 2 = true) ∧
  (∀ s, s.booted = false → ∃ t, exec .packageBoot s = .next t ∧
    match s.bootImage with
    | some (version, back, bytes) => t.booted = true ∧ t.firmware.version = version ∧
      t.firmware.rollback = max s.firmware.rollback (min 255 back) ∧ t.firmware.staged = none ∧ t.firmware.image = bytes
    | none => t.booted = false ∧ t.firmware.failed = true) ∧
  (∀ s, exec .thermalThrottle s = .next { s with matrixDuty := 1 }) ∧
  (∀ s, ∃ t, exec .thermalShutdown s = .next t ∧ t.powered = false ∧ step t = .fault .noPower) ∧
  (∀ s fn bus data, exec (.hostWrite fn bus (.own data)) s = .next (s.perform (.host bus) data false none (some 1))) ∧
  (∀ s fn off (op : AtomicOp) wide x y pa, fn < 257 → off + 8 ≤ bar2Size fn → (op = .add ∨ op = .xch ∨ op = .cas) →
    let n := if wide then 8 else 4
    off % n = 0 → s.bar2Access fn off n = some pa → s.badIn (.hbm pa) n = none → s.viewOf pa = none →
    let old := s.performedRead (.hbm pa) n
    exec (.hostWrite fn off (.atomic op wide x y)) s = .next ((s.hostAnswer fn off (.data old)).agentWrite fn pa
      (toBytes n (atomicNew op (8 * n) (ofBytes old) x.toNat y.toNat)) (s.isUncached fn 0)))
end

