-- ==== Sys2Proof/Laws/State.lean ====
section
/-! SUPPORT. What each small update of the state leaves of each field: one lemma per field and update. -/

namespace Sys2Proof.Machine

open Sys2Proof

/-! ## A cohort changed -/

@[simp] theorem State.putCohort_clock (s : State) (c : Cohort) : (s.putCohort c).clock = s.clock := rfl
@[simp] theorem State.putCohort_podTick (s : State) (c : Cohort) : (s.putCohort c).podTick = s.podTick := rfl
@[simp] theorem State.putCohort_podSent (s : State) (c : Cohort) : (s.putCohort c).podSent = s.podSent := rfl
@[simp] theorem State.putCohort_podSentAt (s : State) (c : Cohort) : (s.putCohort c).podSentAt = s.podSentAt := rfl
@[simp] theorem State.putCohort_podPending (s : State) (c : Cohort) : (s.putCohort c).podPending = s.podPending := rfl
@[simp] theorem State.putCohort_regs (s : State) (c : Cohort) : (s.putCohort c).regs = s.regs := rfl
@[simp] theorem State.putCohort_mem (s : State) (c : Cohort) : (s.putCohort c).mem = s.mem := rfl
@[simp] theorem State.putCohort_hostMem (s : State) (c : Cohort) : (s.putCohort c).hostMem = s.hostMem := rfl
@[simp] theorem State.putCohort_undef (s : State) (c : Cohort) : (s.putCohort c).undef = s.undef := rfl
@[simp] theorem State.putCohort_pendingStores (s : State) (c : Cohort) : (s.putCohort c).pendingStores = s.pendingStores := rfl
@[simp] theorem State.putCohort_reads (s : State) (c : Cohort) : (s.putCohort c).reads = s.reads := rfl
@[simp] theorem State.putCohort_performs (s : State) (c : Cohort) : (s.putCohort c).performs = s.performs := rfl
@[simp] theorem State.putCohort_performSeq (s : State) (c : Cohort) : (s.putCohort c).performSeq = s.performSeq := rfl
@[simp] theorem State.putCohort_viewFloors (s : State) (c : Cohort) : (s.putCohort c).viewFloors = s.viewFloors := rfl
@[simp] theorem State.putCohort_seen (s : State) (c : Cohort) : (s.putCohort c).seen = s.seen := rfl
@[simp] theorem State.putCohort_watchSeq (s : State) (c : Cohort) : (s.putCohort c).watchSeq = s.watchSeq := rfl
@[simp] theorem State.putCohort_owed (s : State) (c : Cohort) : (s.putCohort c).owed = s.owed := rfl
@[simp] theorem State.putCohort_l1 (s : State) (c : Cohort) : (s.putCohort c).l1 = s.l1 := rfl
@[simp] theorem State.putCohort_l1Trees (s : State) (c : Cohort) : (s.putCohort c).l1Trees = s.l1Trees := rfl
@[simp] theorem State.putCohort_l1Bad (s : State) (c : Cohort) : (s.putCohort c).l1Bad = s.l1Bad := rfl
@[simp] theorem State.putCohort_views (s : State) (c : Cohort) : (s.putCohort c).views = s.views := rfl
@[simp] theorem State.putCohort_l2 (s : State) (c : Cohort) : (s.putCohort c).l2 = s.l2 := rfl
@[simp] theorem State.putCohort_requests (s : State) (c : Cohort) : (s.putCohort c).requests = s.requests := rfl
@[simp] theorem State.putCohort_flushSeq (s : State) (c : Cohort) : (s.putCohort c).flushSeq = s.flushSeq := rfl
@[simp] theorem State.putCohort_flushing (s : State) (c : Cohort) : (s.putCohort c).flushing = s.flushing := rfl
@[simp] theorem State.putCohort_errorTable (s : State) (c : Cohort) : (s.putCohort c).errorTable = s.errorTable := rfl
@[simp] theorem State.putCohort_badSectors (s : State) (c : Cohort) : (s.putCohort c).badSectors = s.badSectors := rfl
@[simp] theorem State.putCohort_badWords (s : State) (c : Cohort) : (s.putCohort c).badWords = s.badWords := rfl
@[simp] theorem State.putCohort_dramRows (s : State) (c : Cohort) : (s.putCohort c).dramRows = s.dramRows := rfl
@[simp] theorem State.putCohort_dramQueue (s : State) (c : Cohort) : (s.putCohort c).dramQueue = s.dramQueue := rfl
@[simp] theorem State.putCohort_joinScopes (s : State) (c : Cohort) : (s.putCohort c).joinScopes = s.joinScopes := rfl
@[simp] theorem State.putCohort_badTags (s : State) (c : Cohort) : (s.putCohort c).badTags = s.badTags := rfl
@[simp] theorem State.putCohort_dramTicks (s : State) (c : Cohort) : (s.putCohort c).dramTicks = s.dramTicks := rfl
@[simp] theorem State.putCohort_heldLeases (s : State) (c : Cohort) : (s.putCohort c).heldLeases = s.heldLeases := rfl
@[simp] theorem State.putCohort_slotsHeld (s : State) (c : Cohort) : (s.putCohort c).slotsHeld = s.slotsHeld := rfl
@[simp] theorem State.putCohort_slotsFreed (s : State) (c : Cohort) : (s.putCohort c).slotsFreed = s.slotsFreed := rfl
@[simp] theorem State.putCohort_lateQuads (s : State) (c : Cohort) : (s.putCohort c).lateQuads = s.lateQuads := rfl
@[simp] theorem State.putCohort_tlbs (s : State) (c : Cohort) : (s.putCohort c).tlbs = s.tlbs := rfl
@[simp] theorem State.putCohort_walkCache (s : State) (c : Cohort) : (s.putCohort c).walkCache = s.walkCache := rfl
@[simp] theorem State.putCohort_fetchLines (s : State) (c : Cohort) : (s.putCohort c).fetchLines = s.fetchLines := rfl
@[simp] theorem State.putCohort_shootdowns (s : State) (c : Cohort) : (s.putCohort c).shootdowns = s.shootdowns := rfl
@[simp] theorem State.putCohort_faults (s : State) (c : Cohort) : (s.putCohort c).faults = s.faults := rfl
@[simp] theorem State.putCohort_accessCounts (s : State) (c : Cohort) : (s.putCohort c).accessCounts = s.accessCounts := rfl
@[simp] theorem State.putCohort_hinted (s : State) (c : Cohort) : (s.putCohort c).hinted = s.hinted := rfl
@[simp] theorem State.putCohort_collapsed (s : State) (c : Cohort) : (s.putCohort c).collapsed = s.collapsed := rfl
@[simp] theorem State.putCohort_rdupWrites (s : State) (c : Cohort) : (s.putCohort c).rdupWrites = s.rdupWrites := rfl
@[simp] theorem State.putCohort_migWindows (s : State) (c : Cohort) : (s.putCohort c).migWindows = s.migWindows := rfl
@[simp] theorem State.putCohort_replicas (s : State) (c : Cohort) : (s.putCohort c).replicas = s.replicas := rfl
@[simp] theorem State.putCohort_rtc (s : State) (c : Cohort) : (s.putCohort c).rtc = s.rtc := rfl
@[simp] theorem State.putCohort_oneTime (s : State) (c : Cohort) : (s.putCohort c).oneTime = s.oneTime := rfl
@[simp] theorem State.putCohort_lostLeases (s : State) (c : Cohort) : (s.putCohort c).lostLeases = s.lostLeases := rfl
@[simp] theorem State.putCohort_leases (s : State) (c : Cohort) : (s.putCohort c).leases = s.leases := rfl
@[simp] theorem State.putCohort_nextLease (s : State) (c : Cohort) : (s.putCohort c).nextLease = s.nextLease := rfl
@[simp] theorem State.putCohort_peerReqs (s : State) (c : Cohort) : (s.putCohort c).peerReqs = s.peerReqs := rfl
@[simp] theorem State.putCohort_recalls (s : State) (c : Cohort) : (s.putCohort c).recalls = s.recalls := rfl
@[simp] theorem State.putCohort_moving (s : State) (c : Cohort) : (s.putCohort c).moving = s.moving := rfl
@[simp] theorem State.putCohort_held (s : State) (c : Cohort) : (s.putCohort c).held = s.held := rfl
@[simp] theorem State.putCohort_readyWaits (s : State) (c : Cohort) : (s.putCohort c).readyWaits = s.readyWaits := rfl
@[simp] theorem State.putCohort_fabricOut (s : State) (c : Cohort) : (s.putCohort c).fabricOut = s.fabricOut := rfl
@[simp] theorem State.putCohort_ports (s : State) (c : Cohort) : (s.putCohort c).ports = s.ports := rfl
@[simp] theorem State.putCohort_portsDown (s : State) (c : Cohort) : (s.putCohort c).portsDown = s.portsDown := rfl
@[simp] theorem State.putCohort_records (s : State) (c : Cohort) : (s.putCohort c).records = s.records := rfl
@[simp] theorem State.putCohort_lost (s : State) (c : Cohort) : (s.putCohort c).lost = s.lost := rfl
@[simp] theorem State.putCohort_reclaimed (s : State) (c : Cohort) : (s.putCohort c).reclaimed = s.reclaimed := rfl
@[simp] theorem State.putCohort_attic (s : State) (c : Cohort) : (s.putCohort c).attic = s.attic := rfl
@[simp] theorem State.putCohort_chains (s : State) (c : Cohort) : (s.putCohort c).chains = s.chains := rfl
@[simp] theorem State.putCohort_buffer (s : State) (c : Cohort) : (s.putCohort c).buffer = s.buffer := rfl
@[simp] theorem State.putCohort_tagCounts (s : State) (c : Cohort) : (s.putCohort c).tagCounts = s.tagCounts := rfl
@[simp] theorem State.putCohort_tagMap (s : State) (c : Cohort) : (s.putCohort c).tagMap = s.tagMap := rfl
@[simp] theorem State.putCohort_cohorts (s : State) (c : Cohort) :
    (s.putCohort c).cohorts = s.cohorts.map fun d => if d.uid == c.uid then c else d := rfl
@[simp] theorem State.putCohort_unplaced (s : State) (c : Cohort) : (s.putCohort c).unplaced = s.unplaced := rfl
@[simp] theorem State.putCohort_halts (s : State) (c : Cohort) : (s.putCohort c).halts = s.halts := rfl
@[simp] theorem State.putCohort_cores (s : State) (c : Cohort) : (s.putCohort c).cores = s.cores := rfl
@[simp] theorem State.putCohort_teams (s : State) (c : Cohort) : (s.putCohort c).teams = s.teams := rfl
@[simp] theorem State.putCohort_allocs (s : State) (c : Cohort) : (s.putCohort c).allocs = s.allocs := rfl
@[simp] theorem State.putCohort_shadows (s : State) (c : Cohort) : (s.putCohort c).shadows = s.shadows := rfl
@[simp] theorem State.putCohort_semaphores (s : State) (c : Cohort) : (s.putCohort c).semaphores = s.semaphores := rfl
@[simp] theorem State.putCohort_launches (s : State) (c : Cohort) : (s.putCohort c).launches = s.launches := rfl
@[simp] theorem State.putCohort_launchCount (s : State) (c : Cohort) : (s.putCohort c).launchCount = s.launchCount := rfl
@[simp] theorem State.putCohort_queueViews (s : State) (c : Cohort) : (s.putCohort c).queueViews = s.queueViews := rfl
@[simp] theorem State.putCohort_teamTurns (s : State) (c : Cohort) : (s.putCohort c).teamTurns = s.teamTurns := rfl
@[simp] theorem State.putCohort_engines (s : State) (c : Cohort) : (s.putCohort c).engines = s.engines := rfl
@[simp] theorem State.putCohort_collCounts (s : State) (c : Cohort) : (s.putCohort c).collCounts = s.collCounts := rfl
@[simp] theorem State.putCohort_collAborts (s : State) (c : Cohort) : (s.putCohort c).collAborts = s.collAborts := rfl
@[simp] theorem State.putCohort_table (s : State) (c : Cohort) : (s.putCohort c).table = s.table := rfl
@[simp] theorem State.putCohort_pendingTable (s : State) (c : Cohort) : (s.putCohort c).pendingTable = s.pendingTable := rfl
@[simp] theorem State.putCohort_disabling (s : State) (c : Cohort) : (s.putCohort c).disabling = s.disabling := rfl
@[simp] theorem State.putCohort_t0 (s : State) (c : Cohort) : (s.putCohort c).t0 = s.t0 := rfl
@[simp] theorem State.putCohort_drain (s : State) (c : Cohort) : (s.putCohort c).drain = s.drain := rfl
@[simp] theorem State.putCohort_saves (s : State) (c : Cohort) : (s.putCohort c).saves = s.saves := rfl
@[simp] theorem State.putCohort_budgets (s : State) (c : Cohort) : (s.putCohort c).budgets = s.budgets := rfl
@[simp] theorem State.putCohort_wheelTurns (s : State) (c : Cohort) : (s.putCohort c).wheelTurns = s.wheelTurns := rfl
@[simp] theorem State.putCohort_retiredQuads (s : State) (c : Cohort) : (s.putCohort c).retiredQuads = s.retiredQuads := rfl
@[simp] theorem State.putCohort_retiredWays (s : State) (c : Cohort) : (s.putCohort c).retiredWays = s.retiredWays := rfl
@[simp] theorem State.putCohort_retiredLanes (s : State) (c : Cohort) : (s.putCohort c).retiredLanes = s.retiredLanes := rfl
@[simp] theorem State.putCohort_tests (s : State) (c : Cohort) : (s.putCohort c).tests = s.tests := rfl
@[simp] theorem State.putCohort_retries (s : State) (c : Cohort) : (s.putCohort c).retries = s.retries := rfl
@[simp] theorem State.putCohort_outboxes (s : State) (c : Cohort) : (s.putCohort c).outboxes = s.outboxes := rfl
@[simp] theorem State.putCohort_resets (s : State) (c : Cohort) : (s.putCohort c).resets = s.resets := rfl
@[simp] theorem State.putCohort_arbiter (s : State) (c : Cohort) : (s.putCohort c).arbiter = s.arbiter := rfl
@[simp] theorem State.putCohort_irqs (s : State) (c : Cohort) : (s.putCohort c).irqs = s.irqs := rfl
@[simp] theorem State.putCohort_fatalPending (s : State) (c : Cohort) : (s.putCohort c).fatalPending = s.fatalPending := rfl
@[simp] theorem State.putCohort_hostReads (s : State) (c : Cohort) : (s.putCohort c).hostReads = s.hostReads := rfl
@[simp] theorem State.putCohort_debugTrace (s : State) (c : Cohort) : (s.putCohort c).debugTrace = s.debugTrace := rfl
@[simp] theorem State.putCohort_atomicsOn (s : State) (c : Cohort) : (s.putCohort c).atomicsOn = s.atomicsOn := rfl
@[simp] theorem State.putCohort_numVfs (s : State) (c : Cohort) : (s.putCohort c).numVfs = s.numVfs := rfl
@[simp] theorem State.putCohort_firmware (s : State) (c : Cohort) : (s.putCohort c).firmware = s.firmware := rfl
@[simp] theorem State.putCohort_matrixDuty (s : State) (c : Cohort) : (s.putCohort c).matrixDuty = s.matrixDuty := rfl
@[simp] theorem State.putCohort_powered (s : State) (c : Cohort) : (s.putCohort c).powered = s.powered := rfl
@[simp] theorem State.putCohort_gatedDies (s : State) (c : Cohort) : (s.putCohort c).gatedDies = s.gatedDies := rfl
@[simp] theorem State.putCohort_agenda (s : State) (c : Cohort) : (s.putCohort c).agenda = s.agenda := rfl
@[simp] theorem State.putCohort_freeCtr (s : State) (c : Cohort) : (s.putCohort c).freeCtr = s.freeCtr := rfl
@[simp] theorem State.putCohort_cur (s : State) (c : Cohort) : (s.putCohort c).cur = s.cur := rfl
@[simp] theorem State.putCohort_nextUid (s : State) (c : Cohort) : (s.putCohort c).nextUid = s.nextUid := rfl
@[simp] theorem State.putCohort_turn (s : State) (c : Cohort) : (s.putCohort c).turn = s.turn := rfl

/-! ## A core changed -/

@[simp] theorem State.putCore_clock (s : State) (k : Core) : (s.putCore k).clock = s.clock := rfl
@[simp] theorem State.putCore_podTick (s : State) (k : Core) : (s.putCore k).podTick = s.podTick := rfl
@[simp] theorem State.putCore_podSent (s : State) (k : Core) : (s.putCore k).podSent = s.podSent := rfl
@[simp] theorem State.putCore_podSentAt (s : State) (k : Core) : (s.putCore k).podSentAt = s.podSentAt := rfl
@[simp] theorem State.putCore_podPending (s : State) (k : Core) : (s.putCore k).podPending = s.podPending := rfl
@[simp] theorem State.putCore_regs (s : State) (k : Core) : (s.putCore k).regs = s.regs := rfl
@[simp] theorem State.putCore_mem (s : State) (k : Core) : (s.putCore k).mem = s.mem := rfl
@[simp] theorem State.putCore_hostMem (s : State) (k : Core) : (s.putCore k).hostMem = s.hostMem := rfl
@[simp] theorem State.putCore_undef (s : State) (k : Core) : (s.putCore k).undef = s.undef := rfl
@[simp] theorem State.putCore_pendingStores (s : State) (k : Core) : (s.putCore k).pendingStores = s.pendingStores := rfl
@[simp] theorem State.putCore_reads (s : State) (k : Core) : (s.putCore k).reads = s.reads := rfl
@[simp] theorem State.putCore_performs (s : State) (k : Core) : (s.putCore k).performs = s.performs := rfl
@[simp] theorem State.putCore_performSeq (s : State) (k : Core) : (s.putCore k).performSeq = s.performSeq := rfl
@[simp] theorem State.putCore_viewFloors (s : State) (k : Core) : (s.putCore k).viewFloors = s.viewFloors := rfl
@[simp] theorem State.putCore_seen (s : State) (k : Core) : (s.putCore k).seen = s.seen := rfl
@[simp] theorem State.putCore_watchSeq (s : State) (k : Core) : (s.putCore k).watchSeq = s.watchSeq := rfl
@[simp] theorem State.putCore_owed (s : State) (k : Core) : (s.putCore k).owed = s.owed := rfl
@[simp] theorem State.putCore_l1 (s : State) (k : Core) : (s.putCore k).l1 = s.l1 := rfl
@[simp] theorem State.putCore_l1Trees (s : State) (k : Core) : (s.putCore k).l1Trees = s.l1Trees := rfl
@[simp] theorem State.putCore_l1Bad (s : State) (k : Core) : (s.putCore k).l1Bad = s.l1Bad := rfl
@[simp] theorem State.putCore_views (s : State) (k : Core) : (s.putCore k).views = s.views := rfl
@[simp] theorem State.putCore_l2 (s : State) (k : Core) : (s.putCore k).l2 = s.l2 := rfl
@[simp] theorem State.putCore_requests (s : State) (k : Core) : (s.putCore k).requests = s.requests := rfl
@[simp] theorem State.putCore_flushSeq (s : State) (k : Core) : (s.putCore k).flushSeq = s.flushSeq := rfl
@[simp] theorem State.putCore_flushing (s : State) (k : Core) : (s.putCore k).flushing = s.flushing := rfl
@[simp] theorem State.putCore_errorTable (s : State) (k : Core) : (s.putCore k).errorTable = s.errorTable := rfl
@[simp] theorem State.putCore_badSectors (s : State) (k : Core) : (s.putCore k).badSectors = s.badSectors := rfl
@[simp] theorem State.putCore_badWords (s : State) (k : Core) : (s.putCore k).badWords = s.badWords := rfl
@[simp] theorem State.putCore_dramRows (s : State) (k : Core) : (s.putCore k).dramRows = s.dramRows := rfl
@[simp] theorem State.putCore_dramQueue (s : State) (k : Core) : (s.putCore k).dramQueue = s.dramQueue := rfl
@[simp] theorem State.putCore_joinScopes (s : State) (k : Core) : (s.putCore k).joinScopes = s.joinScopes := rfl
@[simp] theorem State.putCore_badTags (s : State) (k : Core) : (s.putCore k).badTags = s.badTags := rfl
@[simp] theorem State.putCore_dramTicks (s : State) (k : Core) : (s.putCore k).dramTicks = s.dramTicks := rfl
@[simp] theorem State.putCore_heldLeases (s : State) (k : Core) : (s.putCore k).heldLeases = s.heldLeases := rfl
@[simp] theorem State.putCore_slotsHeld (s : State) (k : Core) : (s.putCore k).slotsHeld = s.slotsHeld := rfl
@[simp] theorem State.putCore_slotsFreed (s : State) (k : Core) : (s.putCore k).slotsFreed = s.slotsFreed := rfl
@[simp] theorem State.putCore_lateQuads (s : State) (k : Core) : (s.putCore k).lateQuads = s.lateQuads := rfl
@[simp] theorem State.putCore_tlbs (s : State) (k : Core) : (s.putCore k).tlbs = s.tlbs := rfl
@[simp] theorem State.putCore_walkCache (s : State) (k : Core) : (s.putCore k).walkCache = s.walkCache := rfl
@[simp] theorem State.putCore_fetchLines (s : State) (k : Core) : (s.putCore k).fetchLines = s.fetchLines := rfl
@[simp] theorem State.putCore_shootdowns (s : State) (k : Core) : (s.putCore k).shootdowns = s.shootdowns := rfl
@[simp] theorem State.putCore_faults (s : State) (k : Core) : (s.putCore k).faults = s.faults := rfl
@[simp] theorem State.putCore_accessCounts (s : State) (k : Core) : (s.putCore k).accessCounts = s.accessCounts := rfl
@[simp] theorem State.putCore_hinted (s : State) (k : Core) : (s.putCore k).hinted = s.hinted := rfl
@[simp] theorem State.putCore_collapsed (s : State) (k : Core) : (s.putCore k).collapsed = s.collapsed := rfl
@[simp] theorem State.putCore_rdupWrites (s : State) (k : Core) : (s.putCore k).rdupWrites = s.rdupWrites := rfl
@[simp] theorem State.putCore_migWindows (s : State) (k : Core) : (s.putCore k).migWindows = s.migWindows := rfl
@[simp] theorem State.putCore_replicas (s : State) (k : Core) : (s.putCore k).replicas = s.replicas := rfl
@[simp] theorem State.putCore_rtc (s : State) (k : Core) : (s.putCore k).rtc = s.rtc := rfl
@[simp] theorem State.putCore_oneTime (s : State) (k : Core) : (s.putCore k).oneTime = s.oneTime := rfl
@[simp] theorem State.putCore_lostLeases (s : State) (k : Core) : (s.putCore k).lostLeases = s.lostLeases := rfl
@[simp] theorem State.putCore_leases (s : State) (k : Core) : (s.putCore k).leases = s.leases := rfl
@[simp] theorem State.putCore_nextLease (s : State) (k : Core) : (s.putCore k).nextLease = s.nextLease := rfl
@[simp] theorem State.putCore_peerReqs (s : State) (k : Core) : (s.putCore k).peerReqs = s.peerReqs := rfl
@[simp] theorem State.putCore_recalls (s : State) (k : Core) : (s.putCore k).recalls = s.recalls := rfl
@[simp] theorem State.putCore_moving (s : State) (k : Core) : (s.putCore k).moving = s.moving := rfl
@[simp] theorem State.putCore_held (s : State) (k : Core) : (s.putCore k).held = s.held := rfl
@[simp] theorem State.putCore_readyWaits (s : State) (k : Core) : (s.putCore k).readyWaits = s.readyWaits := rfl
@[simp] theorem State.putCore_fabricOut (s : State) (k : Core) : (s.putCore k).fabricOut = s.fabricOut := rfl
@[simp] theorem State.putCore_ports (s : State) (k : Core) : (s.putCore k).ports = s.ports := rfl
@[simp] theorem State.putCore_portsDown (s : State) (k : Core) : (s.putCore k).portsDown = s.portsDown := rfl
@[simp] theorem State.putCore_records (s : State) (k : Core) : (s.putCore k).records = s.records := rfl
@[simp] theorem State.putCore_lost (s : State) (k : Core) : (s.putCore k).lost = s.lost := rfl
@[simp] theorem State.putCore_reclaimed (s : State) (k : Core) : (s.putCore k).reclaimed = s.reclaimed := rfl
@[simp] theorem State.putCore_attic (s : State) (k : Core) : (s.putCore k).attic = s.attic := rfl
@[simp] theorem State.putCore_chains (s : State) (k : Core) : (s.putCore k).chains = s.chains := rfl
@[simp] theorem State.putCore_buffer (s : State) (k : Core) : (s.putCore k).buffer = s.buffer := rfl
@[simp] theorem State.putCore_tagCounts (s : State) (k : Core) : (s.putCore k).tagCounts = s.tagCounts := rfl
@[simp] theorem State.putCore_tagMap (s : State) (k : Core) : (s.putCore k).tagMap = s.tagMap := rfl
@[simp] theorem State.putCore_cohorts (s : State) (k : Core) : (s.putCore k).cohorts = s.cohorts := rfl
@[simp] theorem State.putCore_unplaced (s : State) (k : Core) : (s.putCore k).unplaced = s.unplaced := rfl
@[simp] theorem State.putCore_halts (s : State) (k : Core) : (s.putCore k).halts = s.halts := rfl
@[simp] theorem State.putCore_cores (s : State) (k : Core) :
    (s.putCore k).cores = k :: s.cores.filter fun d => d.id != k.id := rfl
@[simp] theorem State.putCore_teams (s : State) (k : Core) : (s.putCore k).teams = s.teams := rfl
@[simp] theorem State.putCore_allocs (s : State) (k : Core) : (s.putCore k).allocs = s.allocs := rfl
@[simp] theorem State.putCore_shadows (s : State) (k : Core) : (s.putCore k).shadows = s.shadows := rfl
@[simp] theorem State.putCore_semaphores (s : State) (k : Core) : (s.putCore k).semaphores = s.semaphores := rfl
@[simp] theorem State.putCore_launches (s : State) (k : Core) : (s.putCore k).launches = s.launches := rfl
@[simp] theorem State.putCore_launchCount (s : State) (k : Core) : (s.putCore k).launchCount = s.launchCount := rfl
@[simp] theorem State.putCore_queueViews (s : State) (k : Core) : (s.putCore k).queueViews = s.queueViews := rfl
@[simp] theorem State.putCore_teamTurns (s : State) (k : Core) : (s.putCore k).teamTurns = s.teamTurns := rfl
@[simp] theorem State.putCore_engines (s : State) (k : Core) : (s.putCore k).engines = s.engines := rfl
@[simp] theorem State.putCore_collCounts (s : State) (k : Core) : (s.putCore k).collCounts = s.collCounts := rfl
@[simp] theorem State.putCore_collAborts (s : State) (k : Core) : (s.putCore k).collAborts = s.collAborts := rfl
@[simp] theorem State.putCore_table (s : State) (k : Core) : (s.putCore k).table = s.table := rfl
@[simp] theorem State.putCore_pendingTable (s : State) (k : Core) : (s.putCore k).pendingTable = s.pendingTable := rfl
@[simp] theorem State.putCore_disabling (s : State) (k : Core) : (s.putCore k).disabling = s.disabling := rfl
@[simp] theorem State.putCore_t0 (s : State) (k : Core) : (s.putCore k).t0 = s.t0 := rfl
@[simp] theorem State.putCore_drain (s : State) (k : Core) : (s.putCore k).drain = s.drain := rfl
@[simp] theorem State.putCore_saves (s : State) (k : Core) : (s.putCore k).saves = s.saves := rfl
@[simp] theorem State.putCore_budgets (s : State) (k : Core) : (s.putCore k).budgets = s.budgets := rfl
@[simp] theorem State.putCore_wheelTurns (s : State) (k : Core) : (s.putCore k).wheelTurns = s.wheelTurns := rfl
@[simp] theorem State.putCore_retiredQuads (s : State) (k : Core) : (s.putCore k).retiredQuads = s.retiredQuads := rfl
@[simp] theorem State.putCore_retiredWays (s : State) (k : Core) : (s.putCore k).retiredWays = s.retiredWays := rfl
@[simp] theorem State.putCore_retiredLanes (s : State) (k : Core) : (s.putCore k).retiredLanes = s.retiredLanes := rfl
@[simp] theorem State.putCore_tests (s : State) (k : Core) : (s.putCore k).tests = s.tests := rfl
@[simp] theorem State.putCore_retries (s : State) (k : Core) : (s.putCore k).retries = s.retries := rfl
@[simp] theorem State.putCore_outboxes (s : State) (k : Core) : (s.putCore k).outboxes = s.outboxes := rfl
@[simp] theorem State.putCore_resets (s : State) (k : Core) : (s.putCore k).resets = s.resets := rfl
@[simp] theorem State.putCore_arbiter (s : State) (k : Core) : (s.putCore k).arbiter = s.arbiter := rfl
@[simp] theorem State.putCore_irqs (s : State) (k : Core) : (s.putCore k).irqs = s.irqs := rfl
@[simp] theorem State.putCore_fatalPending (s : State) (k : Core) : (s.putCore k).fatalPending = s.fatalPending := rfl
@[simp] theorem State.putCore_hostReads (s : State) (k : Core) : (s.putCore k).hostReads = s.hostReads := rfl
@[simp] theorem State.putCore_debugTrace (s : State) (k : Core) : (s.putCore k).debugTrace = s.debugTrace := rfl
@[simp] theorem State.putCore_atomicsOn (s : State) (k : Core) : (s.putCore k).atomicsOn = s.atomicsOn := rfl
@[simp] theorem State.putCore_numVfs (s : State) (k : Core) : (s.putCore k).numVfs = s.numVfs := rfl
@[simp] theorem State.putCore_firmware (s : State) (k : Core) : (s.putCore k).firmware = s.firmware := rfl
@[simp] theorem State.putCore_matrixDuty (s : State) (k : Core) : (s.putCore k).matrixDuty = s.matrixDuty := rfl
@[simp] theorem State.putCore_powered (s : State) (k : Core) : (s.putCore k).powered = s.powered := rfl
@[simp] theorem State.putCore_gatedDies (s : State) (k : Core) : (s.putCore k).gatedDies = s.gatedDies := rfl
@[simp] theorem State.putCore_agenda (s : State) (k : Core) : (s.putCore k).agenda = s.agenda := rfl
@[simp] theorem State.putCore_freeCtr (s : State) (k : Core) : (s.putCore k).freeCtr = s.freeCtr := rfl
@[simp] theorem State.putCore_cur (s : State) (k : Core) : (s.putCore k).cur = s.cur := rfl
@[simp] theorem State.putCore_nextUid (s : State) (k : Core) : (s.putCore k).nextUid = s.nextUid := rfl
@[simp] theorem State.putCore_turn (s : State) (k : Core) : (s.putCore k).turn = s.turn := rfl

/-! ## A record changed -/

@[simp] theorem State.putRecord_clock (s : State) (r : Record) : (s.putRecord r).clock = s.clock := rfl
@[simp] theorem State.putRecord_podTick (s : State) (r : Record) : (s.putRecord r).podTick = s.podTick := rfl
@[simp] theorem State.putRecord_podSent (s : State) (r : Record) : (s.putRecord r).podSent = s.podSent := rfl
@[simp] theorem State.putRecord_podSentAt (s : State) (r : Record) : (s.putRecord r).podSentAt = s.podSentAt := rfl
@[simp] theorem State.putRecord_podPending (s : State) (r : Record) : (s.putRecord r).podPending = s.podPending := rfl
@[simp] theorem State.putRecord_regs (s : State) (r : Record) : (s.putRecord r).regs = s.regs := rfl
@[simp] theorem State.putRecord_mem (s : State) (r : Record) : (s.putRecord r).mem = s.mem := rfl
@[simp] theorem State.putRecord_hostMem (s : State) (r : Record) : (s.putRecord r).hostMem = s.hostMem := rfl
@[simp] theorem State.putRecord_undef (s : State) (r : Record) : (s.putRecord r).undef = s.undef := rfl
@[simp] theorem State.putRecord_pendingStores (s : State) (r : Record) : (s.putRecord r).pendingStores = s.pendingStores := rfl
@[simp] theorem State.putRecord_reads (s : State) (r : Record) : (s.putRecord r).reads = s.reads := rfl
@[simp] theorem State.putRecord_performs (s : State) (r : Record) : (s.putRecord r).performs = s.performs := rfl
@[simp] theorem State.putRecord_performSeq (s : State) (r : Record) : (s.putRecord r).performSeq = s.performSeq := rfl
@[simp] theorem State.putRecord_viewFloors (s : State) (r : Record) : (s.putRecord r).viewFloors = s.viewFloors := rfl
@[simp] theorem State.putRecord_seen (s : State) (r : Record) : (s.putRecord r).seen = s.seen := rfl
@[simp] theorem State.putRecord_watchSeq (s : State) (r : Record) : (s.putRecord r).watchSeq = s.watchSeq := rfl
@[simp] theorem State.putRecord_owed (s : State) (r : Record) : (s.putRecord r).owed = s.owed := rfl
@[simp] theorem State.putRecord_l1 (s : State) (r : Record) : (s.putRecord r).l1 = s.l1 := rfl
@[simp] theorem State.putRecord_l1Trees (s : State) (r : Record) : (s.putRecord r).l1Trees = s.l1Trees := rfl
@[simp] theorem State.putRecord_l1Bad (s : State) (r : Record) : (s.putRecord r).l1Bad = s.l1Bad := rfl
@[simp] theorem State.putRecord_views (s : State) (r : Record) : (s.putRecord r).views = s.views := rfl
@[simp] theorem State.putRecord_l2 (s : State) (r : Record) : (s.putRecord r).l2 = s.l2 := rfl
@[simp] theorem State.putRecord_requests (s : State) (r : Record) : (s.putRecord r).requests = s.requests := rfl
@[simp] theorem State.putRecord_flushSeq (s : State) (r : Record) : (s.putRecord r).flushSeq = s.flushSeq := rfl
@[simp] theorem State.putRecord_flushing (s : State) (r : Record) : (s.putRecord r).flushing = s.flushing := rfl
@[simp] theorem State.putRecord_errorTable (s : State) (r : Record) : (s.putRecord r).errorTable = s.errorTable := rfl
@[simp] theorem State.putRecord_badSectors (s : State) (r : Record) : (s.putRecord r).badSectors = s.badSectors := rfl
@[simp] theorem State.putRecord_badWords (s : State) (r : Record) : (s.putRecord r).badWords = s.badWords := rfl
@[simp] theorem State.putRecord_dramRows (s : State) (r : Record) : (s.putRecord r).dramRows = s.dramRows := rfl
@[simp] theorem State.putRecord_dramQueue (s : State) (r : Record) : (s.putRecord r).dramQueue = s.dramQueue := rfl
@[simp] theorem State.putRecord_joinScopes (s : State) (r : Record) : (s.putRecord r).joinScopes = s.joinScopes := rfl
@[simp] theorem State.putRecord_badTags (s : State) (r : Record) : (s.putRecord r).badTags = s.badTags := rfl
@[simp] theorem State.putRecord_dramTicks (s : State) (r : Record) : (s.putRecord r).dramTicks = s.dramTicks := rfl
@[simp] theorem State.putRecord_heldLeases (s : State) (r : Record) : (s.putRecord r).heldLeases = s.heldLeases := rfl
@[simp] theorem State.putRecord_slotsHeld (s : State) (r : Record) : (s.putRecord r).slotsHeld = s.slotsHeld := rfl
@[simp] theorem State.putRecord_slotsFreed (s : State) (r : Record) : (s.putRecord r).slotsFreed = s.slotsFreed := rfl
@[simp] theorem State.putRecord_lateQuads (s : State) (r : Record) : (s.putRecord r).lateQuads = s.lateQuads := rfl
@[simp] theorem State.putRecord_tlbs (s : State) (r : Record) : (s.putRecord r).tlbs = s.tlbs := rfl
@[simp] theorem State.putRecord_walkCache (s : State) (r : Record) : (s.putRecord r).walkCache = s.walkCache := rfl
@[simp] theorem State.putRecord_fetchLines (s : State) (r : Record) : (s.putRecord r).fetchLines = s.fetchLines := rfl
@[simp] theorem State.putRecord_shootdowns (s : State) (r : Record) : (s.putRecord r).shootdowns = s.shootdowns := rfl
@[simp] theorem State.putRecord_faults (s : State) (r : Record) : (s.putRecord r).faults = s.faults := rfl
@[simp] theorem State.putRecord_accessCounts (s : State) (r : Record) : (s.putRecord r).accessCounts = s.accessCounts := rfl
@[simp] theorem State.putRecord_hinted (s : State) (r : Record) : (s.putRecord r).hinted = s.hinted := rfl
@[simp] theorem State.putRecord_collapsed (s : State) (r : Record) : (s.putRecord r).collapsed = s.collapsed := rfl
@[simp] theorem State.putRecord_rdupWrites (s : State) (r : Record) : (s.putRecord r).rdupWrites = s.rdupWrites := rfl
@[simp] theorem State.putRecord_migWindows (s : State) (r : Record) : (s.putRecord r).migWindows = s.migWindows := rfl
@[simp] theorem State.putRecord_replicas (s : State) (r : Record) : (s.putRecord r).replicas = s.replicas := rfl
@[simp] theorem State.putRecord_rtc (s : State) (r : Record) : (s.putRecord r).rtc = s.rtc := rfl
@[simp] theorem State.putRecord_oneTime (s : State) (r : Record) : (s.putRecord r).oneTime = s.oneTime := rfl
@[simp] theorem State.putRecord_lostLeases (s : State) (r : Record) : (s.putRecord r).lostLeases = s.lostLeases := rfl
@[simp] theorem State.putRecord_leases (s : State) (r : Record) : (s.putRecord r).leases = s.leases := rfl
@[simp] theorem State.putRecord_nextLease (s : State) (r : Record) : (s.putRecord r).nextLease = s.nextLease := rfl
@[simp] theorem State.putRecord_peerReqs (s : State) (r : Record) : (s.putRecord r).peerReqs = s.peerReqs := rfl
@[simp] theorem State.putRecord_recalls (s : State) (r : Record) : (s.putRecord r).recalls = s.recalls := rfl
@[simp] theorem State.putRecord_moving (s : State) (r : Record) : (s.putRecord r).moving = s.moving := rfl
@[simp] theorem State.putRecord_held (s : State) (r : Record) : (s.putRecord r).held = s.held := rfl
@[simp] theorem State.putRecord_readyWaits (s : State) (r : Record) : (s.putRecord r).readyWaits = s.readyWaits := rfl
@[simp] theorem State.putRecord_fabricOut (s : State) (r : Record) : (s.putRecord r).fabricOut = s.fabricOut := rfl
@[simp] theorem State.putRecord_ports (s : State) (r : Record) : (s.putRecord r).ports = s.ports := rfl
@[simp] theorem State.putRecord_portsDown (s : State) (r : Record) : (s.putRecord r).portsDown = s.portsDown := rfl
@[simp] theorem State.putRecord_records (s : State) (r : Record) :
    (s.putRecord r).records = s.records.map fun q => if q.uid == r.uid then r else q := rfl
@[simp] theorem State.putRecord_lost (s : State) (r : Record) : (s.putRecord r).lost = s.lost := rfl
@[simp] theorem State.putRecord_reclaimed (s : State) (r : Record) : (s.putRecord r).reclaimed = s.reclaimed := rfl
@[simp] theorem State.putRecord_attic (s : State) (r : Record) : (s.putRecord r).attic = s.attic := rfl
@[simp] theorem State.putRecord_chains (s : State) (r : Record) : (s.putRecord r).chains = s.chains := rfl
@[simp] theorem State.putRecord_buffer (s : State) (r : Record) : (s.putRecord r).buffer = s.buffer := rfl
@[simp] theorem State.putRecord_tagCounts (s : State) (r : Record) : (s.putRecord r).tagCounts = s.tagCounts := rfl
@[simp] theorem State.putRecord_tagMap (s : State) (r : Record) : (s.putRecord r).tagMap = s.tagMap := rfl
@[simp] theorem State.putRecord_cohorts (s : State) (r : Record) : (s.putRecord r).cohorts = s.cohorts := rfl
@[simp] theorem State.putRecord_unplaced (s : State) (r : Record) : (s.putRecord r).unplaced = s.unplaced := rfl
@[simp] theorem State.putRecord_halts (s : State) (r : Record) : (s.putRecord r).halts = s.halts := rfl
@[simp] theorem State.putRecord_cores (s : State) (r : Record) : (s.putRecord r).cores = s.cores := rfl
@[simp] theorem State.putRecord_teams (s : State) (r : Record) : (s.putRecord r).teams = s.teams := rfl
@[simp] theorem State.putRecord_allocs (s : State) (r : Record) : (s.putRecord r).allocs = s.allocs := rfl
@[simp] theorem State.putRecord_shadows (s : State) (r : Record) : (s.putRecord r).shadows = s.shadows := rfl
@[simp] theorem State.putRecord_semaphores (s : State) (r : Record) : (s.putRecord r).semaphores = s.semaphores := rfl
@[simp] theorem State.putRecord_launches (s : State) (r : Record) : (s.putRecord r).launches = s.launches := rfl
@[simp] theorem State.putRecord_launchCount (s : State) (r : Record) : (s.putRecord r).launchCount = s.launchCount := rfl
@[simp] theorem State.putRecord_queueViews (s : State) (r : Record) : (s.putRecord r).queueViews = s.queueViews := rfl
@[simp] theorem State.putRecord_teamTurns (s : State) (r : Record) : (s.putRecord r).teamTurns = s.teamTurns := rfl
@[simp] theorem State.putRecord_engines (s : State) (r : Record) : (s.putRecord r).engines = s.engines := rfl
@[simp] theorem State.putRecord_collCounts (s : State) (r : Record) : (s.putRecord r).collCounts = s.collCounts := rfl
@[simp] theorem State.putRecord_collAborts (s : State) (r : Record) : (s.putRecord r).collAborts = s.collAborts := rfl
@[simp] theorem State.putRecord_table (s : State) (r : Record) : (s.putRecord r).table = s.table := rfl
@[simp] theorem State.putRecord_pendingTable (s : State) (r : Record) : (s.putRecord r).pendingTable = s.pendingTable := rfl
@[simp] theorem State.putRecord_disabling (s : State) (r : Record) : (s.putRecord r).disabling = s.disabling := rfl
@[simp] theorem State.putRecord_t0 (s : State) (r : Record) : (s.putRecord r).t0 = s.t0 := rfl
@[simp] theorem State.putRecord_drain (s : State) (r : Record) : (s.putRecord r).drain = s.drain := rfl
@[simp] theorem State.putRecord_saves (s : State) (r : Record) : (s.putRecord r).saves = s.saves := rfl
@[simp] theorem State.putRecord_budgets (s : State) (r : Record) : (s.putRecord r).budgets = s.budgets := rfl
@[simp] theorem State.putRecord_wheelTurns (s : State) (r : Record) : (s.putRecord r).wheelTurns = s.wheelTurns := rfl
@[simp] theorem State.putRecord_retiredQuads (s : State) (r : Record) : (s.putRecord r).retiredQuads = s.retiredQuads := rfl
@[simp] theorem State.putRecord_retiredWays (s : State) (r : Record) : (s.putRecord r).retiredWays = s.retiredWays := rfl
@[simp] theorem State.putRecord_retiredLanes (s : State) (r : Record) : (s.putRecord r).retiredLanes = s.retiredLanes := rfl
@[simp] theorem State.putRecord_tests (s : State) (r : Record) : (s.putRecord r).tests = s.tests := rfl
@[simp] theorem State.putRecord_retries (s : State) (r : Record) : (s.putRecord r).retries = s.retries := rfl
@[simp] theorem State.putRecord_outboxes (s : State) (r : Record) : (s.putRecord r).outboxes = s.outboxes := rfl
@[simp] theorem State.putRecord_resets (s : State) (r : Record) : (s.putRecord r).resets = s.resets := rfl
@[simp] theorem State.putRecord_arbiter (s : State) (r : Record) : (s.putRecord r).arbiter = s.arbiter := rfl
@[simp] theorem State.putRecord_irqs (s : State) (r : Record) : (s.putRecord r).irqs = s.irqs := rfl
@[simp] theorem State.putRecord_fatalPending (s : State) (r : Record) : (s.putRecord r).fatalPending = s.fatalPending := rfl
@[simp] theorem State.putRecord_hostReads (s : State) (r : Record) : (s.putRecord r).hostReads = s.hostReads := rfl
@[simp] theorem State.putRecord_debugTrace (s : State) (r : Record) : (s.putRecord r).debugTrace = s.debugTrace := rfl
@[simp] theorem State.putRecord_atomicsOn (s : State) (r : Record) : (s.putRecord r).atomicsOn = s.atomicsOn := rfl
@[simp] theorem State.putRecord_numVfs (s : State) (r : Record) : (s.putRecord r).numVfs = s.numVfs := rfl
@[simp] theorem State.putRecord_firmware (s : State) (r : Record) : (s.putRecord r).firmware = s.firmware := rfl
@[simp] theorem State.putRecord_matrixDuty (s : State) (r : Record) : (s.putRecord r).matrixDuty = s.matrixDuty := rfl
@[simp] theorem State.putRecord_powered (s : State) (r : Record) : (s.putRecord r).powered = s.powered := rfl
@[simp] theorem State.putRecord_gatedDies (s : State) (r : Record) : (s.putRecord r).gatedDies = s.gatedDies := rfl
@[simp] theorem State.putRecord_agenda (s : State) (r : Record) : (s.putRecord r).agenda = s.agenda := rfl
@[simp] theorem State.putRecord_freeCtr (s : State) (r : Record) : (s.putRecord r).freeCtr = s.freeCtr := rfl
@[simp] theorem State.putRecord_cur (s : State) (r : Record) : (s.putRecord r).cur = s.cur := rfl
@[simp] theorem State.putRecord_nextUid (s : State) (r : Record) : (s.putRecord r).nextUid = s.nextUid := rfl
@[simp] theorem State.putRecord_turn (s : State) (r : Record) : (s.putRecord r).turn = s.turn := rfl

/-! ## A byte of DRAM performed -/

@[simp] theorem State.dramSet_clock (s : State) (a : Nat) (b : Byte) : (s.dramSet a b).clock = s.clock := rfl
@[simp] theorem State.dramSet_podTick (s : State) (a : Nat) (b : Byte) : (s.dramSet a b).podTick = s.podTick := rfl
@[simp] theorem State.dramSet_podSent (s : State) (a : Nat) (b : Byte) : (s.dramSet a b).podSent = s.podSent := rfl
@[simp] theorem State.dramSet_podSentAt (s : State) (a : Nat) (b : Byte) : (s.dramSet a b).podSentAt = s.podSentAt := rfl
@[simp] theorem State.dramSet_podPending (s : State) (a : Nat) (b : Byte) : (s.dramSet a b).podPending = s.podPending := rfl
@[simp] theorem State.dramSet_regs (s : State) (a : Nat) (b : Byte) : (s.dramSet a b).regs = s.regs := rfl
@[simp] theorem State.dramSet_mem (s : State) (a : Nat) (b : Byte) :
    (s.dramSet a b).mem = cellsSet s.mem a b := rfl
@[simp] theorem State.dramSet_hostMem (s : State) (a : Nat) (b : Byte) : (s.dramSet a b).hostMem = s.hostMem := rfl
@[simp] theorem State.dramSet_undef (s : State) (a : Nat) (b : Byte) :
    (s.dramSet a b).undef = undefDrop a s.undef := rfl
@[simp] theorem State.dramSet_pendingStores (s : State) (a : Nat) (b : Byte) : (s.dramSet a b).pendingStores = s.pendingStores := rfl
@[simp] theorem State.dramSet_reads (s : State) (a : Nat) (b : Byte) : (s.dramSet a b).reads = s.reads := rfl
@[simp] theorem State.dramSet_performs (s : State) (a : Nat) (b : Byte) : (s.dramSet a b).performs = s.performs := rfl
@[simp] theorem State.dramSet_performSeq (s : State) (a : Nat) (b : Byte) : (s.dramSet a b).performSeq = s.performSeq := rfl
@[simp] theorem State.dramSet_viewFloors (s : State) (a : Nat) (b : Byte) : (s.dramSet a b).viewFloors = s.viewFloors := rfl
@[simp] theorem State.dramSet_seen (s : State) (a : Nat) (b : Byte) : (s.dramSet a b).seen = s.seen := rfl
@[simp] theorem State.dramSet_watchSeq (s : State) (a : Nat) (b : Byte) : (s.dramSet a b).watchSeq = s.watchSeq := rfl
@[simp] theorem State.dramSet_owed (s : State) (a : Nat) (b : Byte) : (s.dramSet a b).owed = s.owed := rfl
@[simp] theorem State.dramSet_l1 (s : State) (a : Nat) (b : Byte) : (s.dramSet a b).l1 = s.l1 := rfl
@[simp] theorem State.dramSet_l1Trees (s : State) (a : Nat) (b : Byte) : (s.dramSet a b).l1Trees = s.l1Trees := rfl
@[simp] theorem State.dramSet_l1Bad (s : State) (a : Nat) (b : Byte) : (s.dramSet a b).l1Bad = s.l1Bad := rfl
@[simp] theorem State.dramSet_views (s : State) (a : Nat) (b : Byte) : (s.dramSet a b).views = s.views := rfl
@[simp] theorem State.dramSet_l2 (s : State) (a : Nat) (b : Byte) : (s.dramSet a b).l2 = s.l2 := rfl
@[simp] theorem State.dramSet_requests (s : State) (a : Nat) (b : Byte) : (s.dramSet a b).requests = s.requests := rfl
@[simp] theorem State.dramSet_flushSeq (s : State) (a : Nat) (b : Byte) : (s.dramSet a b).flushSeq = s.flushSeq := rfl
@[simp] theorem State.dramSet_flushing (s : State) (a : Nat) (b : Byte) : (s.dramSet a b).flushing = s.flushing := rfl
@[simp] theorem State.dramSet_errorTable (s : State) (a : Nat) (b : Byte) : (s.dramSet a b).errorTable = s.errorTable := rfl
@[simp] theorem State.dramSet_badSectors (s : State) (a : Nat) (b : Byte) : (s.dramSet a b).badSectors = s.badSectors := rfl
@[simp] theorem State.dramSet_badWords (s : State) (a : Nat) (b : Byte) : (s.dramSet a b).badWords = s.badWords := rfl
@[simp] theorem State.dramSet_dramRows (s : State) (a : Nat) (b : Byte) : (s.dramSet a b).dramRows = s.dramRows := rfl
@[simp] theorem State.dramSet_dramQueue (s : State) (a : Nat) (b : Byte) : (s.dramSet a b).dramQueue = s.dramQueue := rfl
@[simp] theorem State.dramSet_joinScopes (s : State) (a : Nat) (b : Byte) : (s.dramSet a b).joinScopes = s.joinScopes := rfl
@[simp] theorem State.dramSet_badTags (s : State) (a : Nat) (b : Byte) : (s.dramSet a b).badTags = s.badTags := rfl
@[simp] theorem State.dramSet_dramTicks (s : State) (a : Nat) (b : Byte) : (s.dramSet a b).dramTicks = s.dramTicks := rfl
@[simp] theorem State.dramSet_heldLeases (s : State) (a : Nat) (b : Byte) : (s.dramSet a b).heldLeases = s.heldLeases := rfl
@[simp] theorem State.dramSet_slotsHeld (s : State) (a : Nat) (b : Byte) : (s.dramSet a b).slotsHeld = s.slotsHeld := rfl
@[simp] theorem State.dramSet_slotsFreed (s : State) (a : Nat) (b : Byte) : (s.dramSet a b).slotsFreed = s.slotsFreed := rfl
@[simp] theorem State.dramSet_lateQuads (s : State) (a : Nat) (b : Byte) : (s.dramSet a b).lateQuads = s.lateQuads := rfl
@[simp] theorem State.dramSet_tlbs (s : State) (a : Nat) (b : Byte) : (s.dramSet a b).tlbs = s.tlbs := rfl
@[simp] theorem State.dramSet_walkCache (s : State) (a : Nat) (b : Byte) : (s.dramSet a b).walkCache = s.walkCache := rfl
@[simp] theorem State.dramSet_fetchLines (s : State) (a : Nat) (b : Byte) : (s.dramSet a b).fetchLines = s.fetchLines := rfl
@[simp] theorem State.dramSet_shootdowns (s : State) (a : Nat) (b : Byte) : (s.dramSet a b).shootdowns = s.shootdowns := rfl
@[simp] theorem State.dramSet_faults (s : State) (a : Nat) (b : Byte) : (s.dramSet a b).faults = s.faults := rfl
@[simp] theorem State.dramSet_accessCounts (s : State) (a : Nat) (b : Byte) : (s.dramSet a b).accessCounts = s.accessCounts := rfl
@[simp] theorem State.dramSet_hinted (s : State) (a : Nat) (b : Byte) : (s.dramSet a b).hinted = s.hinted := rfl
@[simp] theorem State.dramSet_collapsed (s : State) (a : Nat) (b : Byte) : (s.dramSet a b).collapsed = s.collapsed := rfl
@[simp] theorem State.dramSet_rdupWrites (s : State) (a : Nat) (b : Byte) : (s.dramSet a b).rdupWrites = s.rdupWrites := rfl
@[simp] theorem State.dramSet_migWindows (s : State) (a : Nat) (b : Byte) : (s.dramSet a b).migWindows = s.migWindows := rfl
@[simp] theorem State.dramSet_replicas (s : State) (a : Nat) (b : Byte) : (s.dramSet a b).replicas = s.replicas := rfl
@[simp] theorem State.dramSet_rtc (s : State) (a : Nat) (b : Byte) : (s.dramSet a b).rtc = s.rtc := rfl
@[simp] theorem State.dramSet_oneTime (s : State) (a : Nat) (b : Byte) : (s.dramSet a b).oneTime = s.oneTime := rfl
@[simp] theorem State.dramSet_lostLeases (s : State) (a : Nat) (b : Byte) : (s.dramSet a b).lostLeases = s.lostLeases := rfl
@[simp] theorem State.dramSet_leases (s : State) (a : Nat) (b : Byte) : (s.dramSet a b).leases = s.leases := rfl
@[simp] theorem State.dramSet_nextLease (s : State) (a : Nat) (b : Byte) : (s.dramSet a b).nextLease = s.nextLease := rfl
@[simp] theorem State.dramSet_peerReqs (s : State) (a : Nat) (b : Byte) : (s.dramSet a b).peerReqs = s.peerReqs := rfl
@[simp] theorem State.dramSet_recalls (s : State) (a : Nat) (b : Byte) : (s.dramSet a b).recalls = s.recalls := rfl
@[simp] theorem State.dramSet_moving (s : State) (a : Nat) (b : Byte) : (s.dramSet a b).moving = s.moving := rfl
@[simp] theorem State.dramSet_held (s : State) (a : Nat) (b : Byte) : (s.dramSet a b).held = s.held := rfl
@[simp] theorem State.dramSet_readyWaits (s : State) (a : Nat) (b : Byte) : (s.dramSet a b).readyWaits = s.readyWaits := rfl
@[simp] theorem State.dramSet_fabricOut (s : State) (a : Nat) (b : Byte) : (s.dramSet a b).fabricOut = s.fabricOut := rfl
@[simp] theorem State.dramSet_ports (s : State) (a : Nat) (b : Byte) : (s.dramSet a b).ports = s.ports := rfl
@[simp] theorem State.dramSet_portsDown (s : State) (a : Nat) (b : Byte) : (s.dramSet a b).portsDown = s.portsDown := rfl
@[simp] theorem State.dramSet_records (s : State) (a : Nat) (b : Byte) : (s.dramSet a b).records = s.records := rfl
@[simp] theorem State.dramSet_lost (s : State) (a : Nat) (b : Byte) : (s.dramSet a b).lost = s.lost := rfl
@[simp] theorem State.dramSet_reclaimed (s : State) (a : Nat) (b : Byte) : (s.dramSet a b).reclaimed = s.reclaimed := rfl
@[simp] theorem State.dramSet_attic (s : State) (a : Nat) (b : Byte) : (s.dramSet a b).attic = s.attic := rfl
@[simp] theorem State.dramSet_chains (s : State) (a : Nat) (b : Byte) : (s.dramSet a b).chains = s.chains := rfl
@[simp] theorem State.dramSet_buffer (s : State) (a : Nat) (b : Byte) : (s.dramSet a b).buffer = s.buffer := rfl
@[simp] theorem State.dramSet_tagCounts (s : State) (a : Nat) (b : Byte) : (s.dramSet a b).tagCounts = s.tagCounts := rfl
@[simp] theorem State.dramSet_tagMap (s : State) (a : Nat) (b : Byte) : (s.dramSet a b).tagMap = s.tagMap := rfl
@[simp] theorem State.dramSet_cohorts (s : State) (a : Nat) (b : Byte) : (s.dramSet a b).cohorts = s.cohorts := rfl
@[simp] theorem State.dramSet_unplaced (s : State) (a : Nat) (b : Byte) : (s.dramSet a b).unplaced = s.unplaced := rfl
@[simp] theorem State.dramSet_halts (s : State) (a : Nat) (b : Byte) : (s.dramSet a b).halts = s.halts := rfl
@[simp] theorem State.dramSet_cores (s : State) (a : Nat) (b : Byte) : (s.dramSet a b).cores = s.cores := rfl
@[simp] theorem State.dramSet_teams (s : State) (a : Nat) (b : Byte) : (s.dramSet a b).teams = s.teams := rfl
@[simp] theorem State.dramSet_allocs (s : State) (a : Nat) (b : Byte) : (s.dramSet a b).allocs = s.allocs := rfl
@[simp] theorem State.dramSet_shadows (s : State) (a : Nat) (b : Byte) : (s.dramSet a b).shadows = s.shadows := rfl
@[simp] theorem State.dramSet_semaphores (s : State) (a : Nat) (b : Byte) : (s.dramSet a b).semaphores = s.semaphores := rfl
@[simp] theorem State.dramSet_launches (s : State) (a : Nat) (b : Byte) : (s.dramSet a b).launches = s.launches := rfl
@[simp] theorem State.dramSet_launchCount (s : State) (a : Nat) (b : Byte) : (s.dramSet a b).launchCount = s.launchCount := rfl
@[simp] theorem State.dramSet_queueViews (s : State) (a : Nat) (b : Byte) : (s.dramSet a b).queueViews = s.queueViews := rfl
@[simp] theorem State.dramSet_teamTurns (s : State) (a : Nat) (b : Byte) : (s.dramSet a b).teamTurns = s.teamTurns := rfl
@[simp] theorem State.dramSet_engines (s : State) (a : Nat) (b : Byte) : (s.dramSet a b).engines = s.engines := rfl
@[simp] theorem State.dramSet_collCounts (s : State) (a : Nat) (b : Byte) : (s.dramSet a b).collCounts = s.collCounts := rfl
@[simp] theorem State.dramSet_collAborts (s : State) (a : Nat) (b : Byte) : (s.dramSet a b).collAborts = s.collAborts := rfl
@[simp] theorem State.dramSet_table (s : State) (a : Nat) (b : Byte) : (s.dramSet a b).table = s.table := rfl
@[simp] theorem State.dramSet_pendingTable (s : State) (a : Nat) (b : Byte) : (s.dramSet a b).pendingTable = s.pendingTable := rfl
@[simp] theorem State.dramSet_disabling (s : State) (a : Nat) (b : Byte) : (s.dramSet a b).disabling = s.disabling := rfl
@[simp] theorem State.dramSet_t0 (s : State) (a : Nat) (b : Byte) : (s.dramSet a b).t0 = s.t0 := rfl
@[simp] theorem State.dramSet_drain (s : State) (a : Nat) (b : Byte) : (s.dramSet a b).drain = s.drain := rfl
@[simp] theorem State.dramSet_saves (s : State) (a : Nat) (b : Byte) : (s.dramSet a b).saves = s.saves := rfl
@[simp] theorem State.dramSet_budgets (s : State) (a : Nat) (b : Byte) : (s.dramSet a b).budgets = s.budgets := rfl
@[simp] theorem State.dramSet_wheelTurns (s : State) (a : Nat) (b : Byte) : (s.dramSet a b).wheelTurns = s.wheelTurns := rfl
@[simp] theorem State.dramSet_retiredQuads (s : State) (a : Nat) (b : Byte) : (s.dramSet a b).retiredQuads = s.retiredQuads := rfl
@[simp] theorem State.dramSet_retiredWays (s : State) (a : Nat) (b : Byte) : (s.dramSet a b).retiredWays = s.retiredWays := rfl
@[simp] theorem State.dramSet_retiredLanes (s : State) (a : Nat) (b : Byte) : (s.dramSet a b).retiredLanes = s.retiredLanes := rfl
@[simp] theorem State.dramSet_tests (s : State) (a : Nat) (b : Byte) : (s.dramSet a b).tests = s.tests := rfl
@[simp] theorem State.dramSet_retries (s : State) (a : Nat) (b : Byte) : (s.dramSet a b).retries = s.retries := rfl
@[simp] theorem State.dramSet_outboxes (s : State) (a : Nat) (b : Byte) : (s.dramSet a b).outboxes = s.outboxes := rfl
@[simp] theorem State.dramSet_resets (s : State) (a : Nat) (b : Byte) : (s.dramSet a b).resets = s.resets := rfl
@[simp] theorem State.dramSet_arbiter (s : State) (a : Nat) (b : Byte) : (s.dramSet a b).arbiter = s.arbiter := rfl
@[simp] theorem State.dramSet_irqs (s : State) (a : Nat) (b : Byte) : (s.dramSet a b).irqs = s.irqs := rfl
@[simp] theorem State.dramSet_fatalPending (s : State) (a : Nat) (b : Byte) : (s.dramSet a b).fatalPending = s.fatalPending := rfl
@[simp] theorem State.dramSet_hostReads (s : State) (a : Nat) (b : Byte) : (s.dramSet a b).hostReads = s.hostReads := rfl
@[simp] theorem State.dramSet_debugTrace (s : State) (a : Nat) (b : Byte) : (s.dramSet a b).debugTrace = s.debugTrace := rfl
@[simp] theorem State.dramSet_atomicsOn (s : State) (a : Nat) (b : Byte) : (s.dramSet a b).atomicsOn = s.atomicsOn := rfl
@[simp] theorem State.dramSet_numVfs (s : State) (a : Nat) (b : Byte) : (s.dramSet a b).numVfs = s.numVfs := rfl
@[simp] theorem State.dramSet_firmware (s : State) (a : Nat) (b : Byte) : (s.dramSet a b).firmware = s.firmware := rfl
@[simp] theorem State.dramSet_matrixDuty (s : State) (a : Nat) (b : Byte) : (s.dramSet a b).matrixDuty = s.matrixDuty := rfl
@[simp] theorem State.dramSet_powered (s : State) (a : Nat) (b : Byte) : (s.dramSet a b).powered = s.powered := rfl
@[simp] theorem State.dramSet_gatedDies (s : State) (a : Nat) (b : Byte) : (s.dramSet a b).gatedDies = s.gatedDies := rfl
@[simp] theorem State.dramSet_agenda (s : State) (a : Nat) (b : Byte) : (s.dramSet a b).agenda = s.agenda := rfl
@[simp] theorem State.dramSet_freeCtr (s : State) (a : Nat) (b : Byte) : (s.dramSet a b).freeCtr = s.freeCtr := rfl
@[simp] theorem State.dramSet_cur (s : State) (a : Nat) (b : Byte) : (s.dramSet a b).cur = s.cur := rfl
@[simp] theorem State.dramSet_nextUid (s : State) (a : Nat) (b : Byte) : (s.dramSet a b).nextUid = s.nextUid := rfl
@[simp] theorem State.dramSet_turn (s : State) (a : Nat) (b : Byte) : (s.dramSet a b).turn = s.turn := rfl

/-! ## A register stored -/

@[simp] theorem State.setReg_clock (s : State) (fn off v : Nat) : (s.setReg fn off v).clock = s.clock := by unfold State.setReg; split <;> rfl
@[simp] theorem State.setReg_podTick (s : State) (fn off v : Nat) : (s.setReg fn off v).podTick = s.podTick := by unfold State.setReg; split <;> rfl
@[simp] theorem State.setReg_podSent (s : State) (fn off v : Nat) : (s.setReg fn off v).podSent = s.podSent := by unfold State.setReg; split <;> rfl
@[simp] theorem State.setReg_podSentAt (s : State) (fn off v : Nat) : (s.setReg fn off v).podSentAt = s.podSentAt := by unfold State.setReg; split <;> rfl
@[simp] theorem State.setReg_podPending (s : State) (fn off v : Nat) : (s.setReg fn off v).podPending = s.podPending := by unfold State.setReg; split <;> rfl
@[simp] theorem State.setReg_mem (s : State) (fn off v : Nat) : (s.setReg fn off v).mem = s.mem := by unfold State.setReg; split <;> rfl
@[simp] theorem State.setReg_hostMem (s : State) (fn off v : Nat) : (s.setReg fn off v).hostMem = s.hostMem := by unfold State.setReg; split <;> rfl
@[simp] theorem State.setReg_undef (s : State) (fn off v : Nat) : (s.setReg fn off v).undef = s.undef := by unfold State.setReg; split <;> rfl
@[simp] theorem State.setReg_pendingStores (s : State) (fn off v : Nat) : (s.setReg fn off v).pendingStores = s.pendingStores := by unfold State.setReg; split <;> rfl
@[simp] theorem State.setReg_reads (s : State) (fn off v : Nat) : (s.setReg fn off v).reads = s.reads := by unfold State.setReg; split <;> rfl
@[simp] theorem State.setReg_performs (s : State) (fn off v : Nat) : (s.setReg fn off v).performs = s.performs := by unfold State.setReg; split <;> rfl
@[simp] theorem State.setReg_performSeq (s : State) (fn off v : Nat) : (s.setReg fn off v).performSeq = s.performSeq := by unfold State.setReg; split <;> rfl
@[simp] theorem State.setReg_viewFloors (s : State) (fn off v : Nat) : (s.setReg fn off v).viewFloors = s.viewFloors := by unfold State.setReg; split <;> rfl
@[simp] theorem State.setReg_seen (s : State) (fn off v : Nat) : (s.setReg fn off v).seen = s.seen := by unfold State.setReg; split <;> rfl
@[simp] theorem State.setReg_watchSeq (s : State) (fn off v : Nat) : (s.setReg fn off v).watchSeq = s.watchSeq := by unfold State.setReg; split <;> rfl
@[simp] theorem State.setReg_owed (s : State) (fn off v : Nat) : (s.setReg fn off v).owed = s.owed := by unfold State.setReg; split <;> rfl
@[simp] theorem State.setReg_l1 (s : State) (fn off v : Nat) : (s.setReg fn off v).l1 = s.l1 := by unfold State.setReg; split <;> rfl
@[simp] theorem State.setReg_l1Trees (s : State) (fn off v : Nat) : (s.setReg fn off v).l1Trees = s.l1Trees := by unfold State.setReg; split <;> rfl
@[simp] theorem State.setReg_l1Bad (s : State) (fn off v : Nat) : (s.setReg fn off v).l1Bad = s.l1Bad := by unfold State.setReg; split <;> rfl
@[simp] theorem State.setReg_views (s : State) (fn off v : Nat) : (s.setReg fn off v).views = s.views := by unfold State.setReg; split <;> rfl
@[simp] theorem State.setReg_l2 (s : State) (fn off v : Nat) : (s.setReg fn off v).l2 = s.l2 := by unfold State.setReg; split <;> rfl
@[simp] theorem State.setReg_requests (s : State) (fn off v : Nat) : (s.setReg fn off v).requests = s.requests := by unfold State.setReg; split <;> rfl
@[simp] theorem State.setReg_flushSeq (s : State) (fn off v : Nat) : (s.setReg fn off v).flushSeq = s.flushSeq := by unfold State.setReg; split <;> rfl
@[simp] theorem State.setReg_flushing (s : State) (fn off v : Nat) : (s.setReg fn off v).flushing = s.flushing := by unfold State.setReg; split <;> rfl
@[simp] theorem State.setReg_errorTable (s : State) (fn off v : Nat) : (s.setReg fn off v).errorTable = s.errorTable := by unfold State.setReg; split <;> rfl
@[simp] theorem State.setReg_badSectors (s : State) (fn off v : Nat) : (s.setReg fn off v).badSectors = s.badSectors := by unfold State.setReg; split <;> rfl
@[simp] theorem State.setReg_badWords (s : State) (fn off v : Nat) : (s.setReg fn off v).badWords = s.badWords := by unfold State.setReg; split <;> rfl
@[simp] theorem State.setReg_dramRows (s : State) (fn off v : Nat) : (s.setReg fn off v).dramRows = s.dramRows := by unfold State.setReg; split <;> rfl
@[simp] theorem State.setReg_dramQueue (s : State) (fn off v : Nat) : (s.setReg fn off v).dramQueue = s.dramQueue := by unfold State.setReg; split <;> rfl
@[simp] theorem State.setReg_joinScopes (s : State) (fn off v : Nat) : (s.setReg fn off v).joinScopes = s.joinScopes := by unfold State.setReg; split <;> rfl
@[simp] theorem State.setReg_badTags (s : State) (fn off v : Nat) : (s.setReg fn off v).badTags = s.badTags := by unfold State.setReg; split <;> rfl
@[simp] theorem State.setReg_dramTicks (s : State) (fn off v : Nat) : (s.setReg fn off v).dramTicks = s.dramTicks := by unfold State.setReg; split <;> rfl
@[simp] theorem State.setReg_heldLeases (s : State) (fn off v : Nat) : (s.setReg fn off v).heldLeases = s.heldLeases := by unfold State.setReg; split <;> rfl
@[simp] theorem State.setReg_slotsHeld (s : State) (fn off v : Nat) : (s.setReg fn off v).slotsHeld = s.slotsHeld := by unfold State.setReg; split <;> rfl
@[simp] theorem State.setReg_slotsFreed (s : State) (fn off v : Nat) : (s.setReg fn off v).slotsFreed = s.slotsFreed := by unfold State.setReg; split <;> rfl
@[simp] theorem State.setReg_lateQuads (s : State) (fn off v : Nat) : (s.setReg fn off v).lateQuads = s.lateQuads := by unfold State.setReg; split <;> rfl
@[simp] theorem State.setReg_tlbs (s : State) (fn off v : Nat) : (s.setReg fn off v).tlbs = s.tlbs := by unfold State.setReg; split <;> rfl
@[simp] theorem State.setReg_walkCache (s : State) (fn off v : Nat) : (s.setReg fn off v).walkCache = s.walkCache := by unfold State.setReg; split <;> rfl
@[simp] theorem State.setReg_fetchLines (s : State) (fn off v : Nat) : (s.setReg fn off v).fetchLines = s.fetchLines := by unfold State.setReg; split <;> rfl
@[simp] theorem State.setReg_shootdowns (s : State) (fn off v : Nat) : (s.setReg fn off v).shootdowns = s.shootdowns := by unfold State.setReg; split <;> rfl
@[simp] theorem State.setReg_faults (s : State) (fn off v : Nat) : (s.setReg fn off v).faults = s.faults := by unfold State.setReg; split <;> rfl
@[simp] theorem State.setReg_accessCounts (s : State) (fn off v : Nat) : (s.setReg fn off v).accessCounts = s.accessCounts := by unfold State.setReg; split <;> rfl
@[simp] theorem State.setReg_hinted (s : State) (fn off v : Nat) : (s.setReg fn off v).hinted = s.hinted := by unfold State.setReg; split <;> rfl
@[simp] theorem State.setReg_collapsed (s : State) (fn off v : Nat) : (s.setReg fn off v).collapsed = s.collapsed := by unfold State.setReg; split <;> rfl
@[simp] theorem State.setReg_rdupWrites (s : State) (fn off v : Nat) : (s.setReg fn off v).rdupWrites = s.rdupWrites := by unfold State.setReg; split <;> rfl
@[simp] theorem State.setReg_migWindows (s : State) (fn off v : Nat) : (s.setReg fn off v).migWindows = s.migWindows := by unfold State.setReg; split <;> rfl
@[simp] theorem State.setReg_replicas (s : State) (fn off v : Nat) : (s.setReg fn off v).replicas = s.replicas := by unfold State.setReg; split <;> rfl
@[simp] theorem State.setReg_rtc (s : State) (fn off v : Nat) : (s.setReg fn off v).rtc = s.rtc := by unfold State.setReg; split <;> rfl
@[simp] theorem State.setReg_oneTime (s : State) (fn off v : Nat) : (s.setReg fn off v).oneTime = s.oneTime := by unfold State.setReg; split <;> rfl
@[simp] theorem State.setReg_lostLeases (s : State) (fn off v : Nat) : (s.setReg fn off v).lostLeases = s.lostLeases := by unfold State.setReg; split <;> rfl
@[simp] theorem State.setReg_leases (s : State) (fn off v : Nat) : (s.setReg fn off v).leases = s.leases := by unfold State.setReg; split <;> rfl
@[simp] theorem State.setReg_nextLease (s : State) (fn off v : Nat) : (s.setReg fn off v).nextLease = s.nextLease := by unfold State.setReg; split <;> rfl
@[simp] theorem State.setReg_peerReqs (s : State) (fn off v : Nat) : (s.setReg fn off v).peerReqs = s.peerReqs := by unfold State.setReg; split <;> rfl
@[simp] theorem State.setReg_recalls (s : State) (fn off v : Nat) : (s.setReg fn off v).recalls = s.recalls := by unfold State.setReg; split <;> rfl
@[simp] theorem State.setReg_moving (s : State) (fn off v : Nat) : (s.setReg fn off v).moving = s.moving := by unfold State.setReg; split <;> rfl
@[simp] theorem State.setReg_held (s : State) (fn off v : Nat) : (s.setReg fn off v).held = s.held := by unfold State.setReg; split <;> rfl
@[simp] theorem State.setReg_readyWaits (s : State) (fn off v : Nat) : (s.setReg fn off v).readyWaits = s.readyWaits := by unfold State.setReg; split <;> rfl
@[simp] theorem State.setReg_fabricOut (s : State) (fn off v : Nat) : (s.setReg fn off v).fabricOut = s.fabricOut := by unfold State.setReg; split <;> rfl
@[simp] theorem State.setReg_ports (s : State) (fn off v : Nat) : (s.setReg fn off v).ports = s.ports := by unfold State.setReg; split <;> rfl
@[simp] theorem State.setReg_portsDown (s : State) (fn off v : Nat) : (s.setReg fn off v).portsDown = s.portsDown := by unfold State.setReg; split <;> rfl
@[simp] theorem State.setReg_records (s : State) (fn off v : Nat) : (s.setReg fn off v).records = s.records := by unfold State.setReg; split <;> rfl
@[simp] theorem State.setReg_lost (s : State) (fn off v : Nat) : (s.setReg fn off v).lost = s.lost := by unfold State.setReg; split <;> rfl
@[simp] theorem State.setReg_reclaimed (s : State) (fn off v : Nat) : (s.setReg fn off v).reclaimed = s.reclaimed := by unfold State.setReg; split <;> rfl
@[simp] theorem State.setReg_attic (s : State) (fn off v : Nat) : (s.setReg fn off v).attic = s.attic := by unfold State.setReg; split <;> rfl
@[simp] theorem State.setReg_chains (s : State) (fn off v : Nat) : (s.setReg fn off v).chains = s.chains := by unfold State.setReg; split <;> rfl
@[simp] theorem State.setReg_buffer (s : State) (fn off v : Nat) : (s.setReg fn off v).buffer = s.buffer := by unfold State.setReg; split <;> rfl
@[simp] theorem State.setReg_tagCounts (s : State) (fn off v : Nat) : (s.setReg fn off v).tagCounts = s.tagCounts := by unfold State.setReg; split <;> rfl
@[simp] theorem State.setReg_tagMap (s : State) (fn off v : Nat) : (s.setReg fn off v).tagMap = s.tagMap := by unfold State.setReg; split <;> rfl
@[simp] theorem State.setReg_cohorts (s : State) (fn off v : Nat) : (s.setReg fn off v).cohorts = s.cohorts := by unfold State.setReg; split <;> rfl
@[simp] theorem State.setReg_unplaced (s : State) (fn off v : Nat) : (s.setReg fn off v).unplaced = s.unplaced := by unfold State.setReg; split <;> rfl
@[simp] theorem State.setReg_halts (s : State) (fn off v : Nat) : (s.setReg fn off v).halts = s.halts := by unfold State.setReg; split <;> rfl
@[simp] theorem State.setReg_cores (s : State) (fn off v : Nat) : (s.setReg fn off v).cores = s.cores := by unfold State.setReg; split <;> rfl
@[simp] theorem State.setReg_teams (s : State) (fn off v : Nat) : (s.setReg fn off v).teams = s.teams := by unfold State.setReg; split <;> rfl
@[simp] theorem State.setReg_allocs (s : State) (fn off v : Nat) : (s.setReg fn off v).allocs = s.allocs := by unfold State.setReg; split <;> rfl
@[simp] theorem State.setReg_shadows (s : State) (fn off v : Nat) : (s.setReg fn off v).shadows = s.shadows := by unfold State.setReg; split <;> rfl
@[simp] theorem State.setReg_semaphores (s : State) (fn off v : Nat) : (s.setReg fn off v).semaphores = s.semaphores := by unfold State.setReg; split <;> rfl
@[simp] theorem State.setReg_launches (s : State) (fn off v : Nat) : (s.setReg fn off v).launches = s.launches := by unfold State.setReg; split <;> rfl
@[simp] theorem State.setReg_launchCount (s : State) (fn off v : Nat) : (s.setReg fn off v).launchCount = s.launchCount := by unfold State.setReg; split <;> rfl
@[simp] theorem State.setReg_queueViews (s : State) (fn off v : Nat) : (s.setReg fn off v).queueViews = s.queueViews := by unfold State.setReg; split <;> rfl
@[simp] theorem State.setReg_teamTurns (s : State) (fn off v : Nat) : (s.setReg fn off v).teamTurns = s.teamTurns := by unfold State.setReg; split <;> rfl
@[simp] theorem State.setReg_engines (s : State) (fn off v : Nat) : (s.setReg fn off v).engines = s.engines := by unfold State.setReg; split <;> rfl
@[simp] theorem State.setReg_collCounts (s : State) (fn off v : Nat) : (s.setReg fn off v).collCounts = s.collCounts := by unfold State.setReg; split <;> rfl
@[simp] theorem State.setReg_collAborts (s : State) (fn off v : Nat) : (s.setReg fn off v).collAborts = s.collAborts := by unfold State.setReg; split <;> rfl
@[simp] theorem State.setReg_table (s : State) (fn off v : Nat) : (s.setReg fn off v).table = s.table := by unfold State.setReg; split <;> rfl
@[simp] theorem State.setReg_pendingTable (s : State) (fn off v : Nat) : (s.setReg fn off v).pendingTable = s.pendingTable := by unfold State.setReg; split <;> rfl
@[simp] theorem State.setReg_disabling (s : State) (fn off v : Nat) : (s.setReg fn off v).disabling = s.disabling := by unfold State.setReg; split <;> rfl
@[simp] theorem State.setReg_t0 (s : State) (fn off v : Nat) : (s.setReg fn off v).t0 = s.t0 := by unfold State.setReg; split <;> rfl
@[simp] theorem State.setReg_drain (s : State) (fn off v : Nat) : (s.setReg fn off v).drain = s.drain := by unfold State.setReg; split <;> rfl
@[simp] theorem State.setReg_saves (s : State) (fn off v : Nat) : (s.setReg fn off v).saves = s.saves := by unfold State.setReg; split <;> rfl
@[simp] theorem State.setReg_budgets (s : State) (fn off v : Nat) : (s.setReg fn off v).budgets = s.budgets := by unfold State.setReg; split <;> rfl
@[simp] theorem State.setReg_wheelTurns (s : State) (fn off v : Nat) : (s.setReg fn off v).wheelTurns = s.wheelTurns := by unfold State.setReg; split <;> rfl
@[simp] theorem State.setReg_retiredQuads (s : State) (fn off v : Nat) : (s.setReg fn off v).retiredQuads = s.retiredQuads := by unfold State.setReg; split <;> rfl
@[simp] theorem State.setReg_retiredWays (s : State) (fn off v : Nat) : (s.setReg fn off v).retiredWays = s.retiredWays := by unfold State.setReg; split <;> rfl
@[simp] theorem State.setReg_retiredLanes (s : State) (fn off v : Nat) : (s.setReg fn off v).retiredLanes = s.retiredLanes := by unfold State.setReg; split <;> rfl
@[simp] theorem State.setReg_tests (s : State) (fn off v : Nat) : (s.setReg fn off v).tests = s.tests := by unfold State.setReg; split <;> rfl
@[simp] theorem State.setReg_retries (s : State) (fn off v : Nat) : (s.setReg fn off v).retries = s.retries := by unfold State.setReg; split <;> rfl
@[simp] theorem State.setReg_outboxes (s : State) (fn off v : Nat) : (s.setReg fn off v).outboxes = s.outboxes := by unfold State.setReg; split <;> rfl
@[simp] theorem State.setReg_resets (s : State) (fn off v : Nat) : (s.setReg fn off v).resets = s.resets := by unfold State.setReg; split <;> rfl
@[simp] theorem State.setReg_arbiter (s : State) (fn off v : Nat) : (s.setReg fn off v).arbiter = s.arbiter := by unfold State.setReg; split <;> rfl
@[simp] theorem State.setReg_irqs (s : State) (fn off v : Nat) : (s.setReg fn off v).irqs = s.irqs := by unfold State.setReg; split <;> rfl
@[simp] theorem State.setReg_fatalPending (s : State) (fn off v : Nat) : (s.setReg fn off v).fatalPending = s.fatalPending := by unfold State.setReg; split <;> rfl
@[simp] theorem State.setReg_hostReads (s : State) (fn off v : Nat) : (s.setReg fn off v).hostReads = s.hostReads := by unfold State.setReg; split <;> rfl
@[simp] theorem State.setReg_debugTrace (s : State) (fn off v : Nat) : (s.setReg fn off v).debugTrace = s.debugTrace := by unfold State.setReg; split <;> rfl
@[simp] theorem State.setReg_atomicsOn (s : State) (fn off v : Nat) : (s.setReg fn off v).atomicsOn = s.atomicsOn := by unfold State.setReg; split <;> rfl
@[simp] theorem State.setReg_numVfs (s : State) (fn off v : Nat) : (s.setReg fn off v).numVfs = s.numVfs := by unfold State.setReg; split <;> rfl
@[simp] theorem State.setReg_firmware (s : State) (fn off v : Nat) : (s.setReg fn off v).firmware = s.firmware := by unfold State.setReg; split <;> rfl
@[simp] theorem State.setReg_matrixDuty (s : State) (fn off v : Nat) : (s.setReg fn off v).matrixDuty = s.matrixDuty := by unfold State.setReg; split <;> rfl
@[simp] theorem State.setReg_powered (s : State) (fn off v : Nat) : (s.setReg fn off v).powered = s.powered := by unfold State.setReg; split <;> rfl
@[simp] theorem State.setReg_gatedDies (s : State) (fn off v : Nat) : (s.setReg fn off v).gatedDies = s.gatedDies := by unfold State.setReg; split <;> rfl
@[simp] theorem State.setReg_agenda (s : State) (fn off v : Nat) : (s.setReg fn off v).agenda = s.agenda := by unfold State.setReg; split <;> rfl
@[simp] theorem State.setReg_freeCtr (s : State) (fn off v : Nat) : (s.setReg fn off v).freeCtr = s.freeCtr := by unfold State.setReg; split <;> rfl
@[simp] theorem State.setReg_cur (s : State) (fn off v : Nat) : (s.setReg fn off v).cur = s.cur := by unfold State.setReg; split <;> rfl
@[simp] theorem State.setReg_nextUid (s : State) (fn off v : Nat) : (s.setReg fn off v).nextUid = s.nextUid := by unfold State.setReg; split <;> rfl
@[simp] theorem State.setReg_turn (s : State) (fn off v : Nat) : (s.setReg fn off v).turn = s.turn := by unfold State.setReg; split <;> rfl

/-! ## The package at a cycle -/

@[simp] theorem State.atCycle_clock (s : State) (t : Nat) :
    (s.atCycle t).clock = max s.clock t := rfl
@[simp] theorem State.atCycle_podTick (s : State) (t : Nat) : (s.atCycle t).podTick = s.podTick := rfl
@[simp] theorem State.atCycle_podSent (s : State) (t : Nat) : (s.atCycle t).podSent = s.podSent := rfl
@[simp] theorem State.atCycle_podSentAt (s : State) (t : Nat) : (s.atCycle t).podSentAt = s.podSentAt := rfl
@[simp] theorem State.atCycle_podPending (s : State) (t : Nat) : (s.atCycle t).podPending = s.podPending := rfl
@[simp] theorem State.atCycle_regs (s : State) (t : Nat) : (s.atCycle t).regs = s.regs := rfl
@[simp] theorem State.atCycle_mem (s : State) (t : Nat) : (s.atCycle t).mem = s.mem := rfl
@[simp] theorem State.atCycle_hostMem (s : State) (t : Nat) : (s.atCycle t).hostMem = s.hostMem := rfl
@[simp] theorem State.atCycle_undef (s : State) (t : Nat) : (s.atCycle t).undef = s.undef := rfl
@[simp] theorem State.atCycle_pendingStores (s : State) (t : Nat) : (s.atCycle t).pendingStores = s.pendingStores := rfl
@[simp] theorem State.atCycle_reads (s : State) (t : Nat) : (s.atCycle t).reads = s.reads := rfl
@[simp] theorem State.atCycle_performs (s : State) (t : Nat) : (s.atCycle t).performs = s.performs := rfl
@[simp] theorem State.atCycle_performSeq (s : State) (t : Nat) : (s.atCycle t).performSeq = s.performSeq := rfl
@[simp] theorem State.atCycle_viewFloors (s : State) (t : Nat) : (s.atCycle t).viewFloors = s.viewFloors := rfl
@[simp] theorem State.atCycle_seen (s : State) (t : Nat) : (s.atCycle t).seen = s.seen := rfl
@[simp] theorem State.atCycle_watchSeq (s : State) (t : Nat) : (s.atCycle t).watchSeq = s.watchSeq := rfl
@[simp] theorem State.atCycle_owed (s : State) (t : Nat) : (s.atCycle t).owed = s.owed := rfl
@[simp] theorem State.atCycle_l1 (s : State) (t : Nat) : (s.atCycle t).l1 = s.l1 := rfl
@[simp] theorem State.atCycle_l1Trees (s : State) (t : Nat) : (s.atCycle t).l1Trees = s.l1Trees := rfl
@[simp] theorem State.atCycle_l1Bad (s : State) (t : Nat) : (s.atCycle t).l1Bad = s.l1Bad := rfl
@[simp] theorem State.atCycle_views (s : State) (t : Nat) : (s.atCycle t).views = s.views := rfl
@[simp] theorem State.atCycle_l2 (s : State) (t : Nat) : (s.atCycle t).l2 = s.l2 := rfl
@[simp] theorem State.atCycle_requests (s : State) (t : Nat) : (s.atCycle t).requests = s.requests := rfl
@[simp] theorem State.atCycle_flushSeq (s : State) (t : Nat) : (s.atCycle t).flushSeq = s.flushSeq := rfl
@[simp] theorem State.atCycle_flushing (s : State) (t : Nat) : (s.atCycle t).flushing = s.flushing := rfl
@[simp] theorem State.atCycle_errorTable (s : State) (t : Nat) : (s.atCycle t).errorTable = s.errorTable := rfl
@[simp] theorem State.atCycle_badSectors (s : State) (t : Nat) : (s.atCycle t).badSectors = s.badSectors := rfl
@[simp] theorem State.atCycle_badWords (s : State) (t : Nat) : (s.atCycle t).badWords = s.badWords := rfl
@[simp] theorem State.atCycle_dramRows (s : State) (t : Nat) : (s.atCycle t).dramRows = s.dramRows := rfl
@[simp] theorem State.atCycle_dramQueue (s : State) (t : Nat) : (s.atCycle t).dramQueue = s.dramQueue := rfl
@[simp] theorem State.atCycle_joinScopes (s : State) (t : Nat) : (s.atCycle t).joinScopes = s.joinScopes := rfl
@[simp] theorem State.atCycle_badTags (s : State) (t : Nat) : (s.atCycle t).badTags = s.badTags := rfl
@[simp] theorem State.atCycle_dramTicks (s : State) (t : Nat) : (s.atCycle t).dramTicks = s.dramTicks := rfl
@[simp] theorem State.atCycle_heldLeases (s : State) (t : Nat) : (s.atCycle t).heldLeases = s.heldLeases := rfl
@[simp] theorem State.atCycle_slotsHeld (s : State) (t : Nat) : (s.atCycle t).slotsHeld = s.slotsHeld := rfl
@[simp] theorem State.atCycle_slotsFreed (s : State) (t : Nat) : (s.atCycle t).slotsFreed = s.slotsFreed := rfl
@[simp] theorem State.atCycle_lateQuads (s : State) (t : Nat) : (s.atCycle t).lateQuads = s.lateQuads := rfl
@[simp] theorem State.atCycle_tlbs (s : State) (t : Nat) : (s.atCycle t).tlbs = s.tlbs := rfl
@[simp] theorem State.atCycle_walkCache (s : State) (t : Nat) : (s.atCycle t).walkCache = s.walkCache := rfl
@[simp] theorem State.atCycle_fetchLines (s : State) (t : Nat) : (s.atCycle t).fetchLines = s.fetchLines := rfl
@[simp] theorem State.atCycle_shootdowns (s : State) (t : Nat) : (s.atCycle t).shootdowns = s.shootdowns := rfl
@[simp] theorem State.atCycle_faults (s : State) (t : Nat) : (s.atCycle t).faults = s.faults := rfl
@[simp] theorem State.atCycle_accessCounts (s : State) (t : Nat) : (s.atCycle t).accessCounts = s.accessCounts := rfl
@[simp] theorem State.atCycle_hinted (s : State) (t : Nat) : (s.atCycle t).hinted = s.hinted := rfl
@[simp] theorem State.atCycle_collapsed (s : State) (t : Nat) : (s.atCycle t).collapsed = s.collapsed := rfl
@[simp] theorem State.atCycle_rdupWrites (s : State) (t : Nat) : (s.atCycle t).rdupWrites = s.rdupWrites := rfl
@[simp] theorem State.atCycle_migWindows (s : State) (t : Nat) : (s.atCycle t).migWindows = s.migWindows := rfl
@[simp] theorem State.atCycle_replicas (s : State) (t : Nat) : (s.atCycle t).replicas = s.replicas := rfl
@[simp] theorem State.atCycle_rtc (s : State) (t : Nat) : (s.atCycle t).rtc = s.rtc := rfl
@[simp] theorem State.atCycle_oneTime (s : State) (t : Nat) : (s.atCycle t).oneTime = s.oneTime := rfl
@[simp] theorem State.atCycle_lostLeases (s : State) (t : Nat) : (s.atCycle t).lostLeases = s.lostLeases := rfl
@[simp] theorem State.atCycle_leases (s : State) (t : Nat) : (s.atCycle t).leases = s.leases := rfl
@[simp] theorem State.atCycle_nextLease (s : State) (t : Nat) : (s.atCycle t).nextLease = s.nextLease := rfl
@[simp] theorem State.atCycle_peerReqs (s : State) (t : Nat) : (s.atCycle t).peerReqs = s.peerReqs := rfl
@[simp] theorem State.atCycle_recalls (s : State) (t : Nat) : (s.atCycle t).recalls = s.recalls := rfl
@[simp] theorem State.atCycle_moving (s : State) (t : Nat) : (s.atCycle t).moving = s.moving := rfl
@[simp] theorem State.atCycle_held (s : State) (t : Nat) : (s.atCycle t).held = s.held := rfl
@[simp] theorem State.atCycle_readyWaits (s : State) (t : Nat) : (s.atCycle t).readyWaits = s.readyWaits := rfl
@[simp] theorem State.atCycle_fabricOut (s : State) (t : Nat) : (s.atCycle t).fabricOut = s.fabricOut := rfl
@[simp] theorem State.atCycle_ports (s : State) (t : Nat) : (s.atCycle t).ports = s.ports := rfl
@[simp] theorem State.atCycle_portsDown (s : State) (t : Nat) : (s.atCycle t).portsDown = s.portsDown := rfl
@[simp] theorem State.atCycle_records (s : State) (t : Nat) : (s.atCycle t).records = s.records := rfl
@[simp] theorem State.atCycle_lost (s : State) (t : Nat) : (s.atCycle t).lost = s.lost := rfl
@[simp] theorem State.atCycle_reclaimed (s : State) (t : Nat) : (s.atCycle t).reclaimed = s.reclaimed := rfl
@[simp] theorem State.atCycle_attic (s : State) (t : Nat) : (s.atCycle t).attic = s.attic := rfl
@[simp] theorem State.atCycle_chains (s : State) (t : Nat) : (s.atCycle t).chains = s.chains := rfl
@[simp] theorem State.atCycle_buffer (s : State) (t : Nat) : (s.atCycle t).buffer = s.buffer := rfl
@[simp] theorem State.atCycle_tagCounts (s : State) (t : Nat) : (s.atCycle t).tagCounts = s.tagCounts := rfl
@[simp] theorem State.atCycle_tagMap (s : State) (t : Nat) : (s.atCycle t).tagMap = s.tagMap := rfl
@[simp] theorem State.atCycle_cohorts (s : State) (t : Nat) : (s.atCycle t).cohorts = s.cohorts := rfl
@[simp] theorem State.atCycle_unplaced (s : State) (t : Nat) : (s.atCycle t).unplaced = s.unplaced := rfl
@[simp] theorem State.atCycle_halts (s : State) (t : Nat) : (s.atCycle t).halts = s.halts := rfl
@[simp] theorem State.atCycle_cores (s : State) (t : Nat) : (s.atCycle t).cores = s.cores := rfl
@[simp] theorem State.atCycle_teams (s : State) (t : Nat) : (s.atCycle t).teams = s.teams := rfl
@[simp] theorem State.atCycle_allocs (s : State) (t : Nat) : (s.atCycle t).allocs = s.allocs := rfl
@[simp] theorem State.atCycle_shadows (s : State) (t : Nat) : (s.atCycle t).shadows = s.shadows := rfl
@[simp] theorem State.atCycle_semaphores (s : State) (t : Nat) : (s.atCycle t).semaphores = s.semaphores := rfl
@[simp] theorem State.atCycle_launches (s : State) (t : Nat) : (s.atCycle t).launches = s.launches := rfl
@[simp] theorem State.atCycle_launchCount (s : State) (t : Nat) : (s.atCycle t).launchCount = s.launchCount := rfl
@[simp] theorem State.atCycle_queueViews (s : State) (t : Nat) : (s.atCycle t).queueViews = s.queueViews := rfl
@[simp] theorem State.atCycle_teamTurns (s : State) (t : Nat) : (s.atCycle t).teamTurns = s.teamTurns := rfl
@[simp] theorem State.atCycle_engines (s : State) (t : Nat) : (s.atCycle t).engines = s.engines := rfl
@[simp] theorem State.atCycle_collCounts (s : State) (t : Nat) : (s.atCycle t).collCounts = s.collCounts := rfl
@[simp] theorem State.atCycle_collAborts (s : State) (t : Nat) : (s.atCycle t).collAborts = s.collAborts := rfl
@[simp] theorem State.atCycle_table (s : State) (t : Nat) : (s.atCycle t).table = s.table := rfl
@[simp] theorem State.atCycle_pendingTable (s : State) (t : Nat) : (s.atCycle t).pendingTable = s.pendingTable := rfl
@[simp] theorem State.atCycle_disabling (s : State) (t : Nat) : (s.atCycle t).disabling = s.disabling := rfl
@[simp] theorem State.atCycle_t0 (s : State) (t : Nat) : (s.atCycle t).t0 = s.t0 := rfl
@[simp] theorem State.atCycle_drain (s : State) (t : Nat) : (s.atCycle t).drain = s.drain := rfl
@[simp] theorem State.atCycle_saves (s : State) (t : Nat) : (s.atCycle t).saves = s.saves := rfl
@[simp] theorem State.atCycle_budgets (s : State) (t : Nat) : (s.atCycle t).budgets = s.budgets := rfl
@[simp] theorem State.atCycle_wheelTurns (s : State) (t : Nat) : (s.atCycle t).wheelTurns = s.wheelTurns := rfl
@[simp] theorem State.atCycle_retiredQuads (s : State) (t : Nat) : (s.atCycle t).retiredQuads = s.retiredQuads := rfl
@[simp] theorem State.atCycle_retiredWays (s : State) (t : Nat) : (s.atCycle t).retiredWays = s.retiredWays := rfl
@[simp] theorem State.atCycle_retiredLanes (s : State) (t : Nat) : (s.atCycle t).retiredLanes = s.retiredLanes := rfl
@[simp] theorem State.atCycle_tests (s : State) (t : Nat) : (s.atCycle t).tests = s.tests := rfl
@[simp] theorem State.atCycle_retries (s : State) (t : Nat) : (s.atCycle t).retries = s.retries := rfl
@[simp] theorem State.atCycle_outboxes (s : State) (t : Nat) : (s.atCycle t).outboxes = s.outboxes := rfl
@[simp] theorem State.atCycle_resets (s : State) (t : Nat) : (s.atCycle t).resets = s.resets := rfl
@[simp] theorem State.atCycle_arbiter (s : State) (t : Nat) : (s.atCycle t).arbiter = s.arbiter := rfl
@[simp] theorem State.atCycle_irqs (s : State) (t : Nat) : (s.atCycle t).irqs = s.irqs := rfl
@[simp] theorem State.atCycle_fatalPending (s : State) (t : Nat) : (s.atCycle t).fatalPending = s.fatalPending := rfl
@[simp] theorem State.atCycle_hostReads (s : State) (t : Nat) : (s.atCycle t).hostReads = s.hostReads := rfl
@[simp] theorem State.atCycle_debugTrace (s : State) (t : Nat) : (s.atCycle t).debugTrace = s.debugTrace := rfl
@[simp] theorem State.atCycle_atomicsOn (s : State) (t : Nat) : (s.atCycle t).atomicsOn = s.atomicsOn := rfl
@[simp] theorem State.atCycle_numVfs (s : State) (t : Nat) : (s.atCycle t).numVfs = s.numVfs := rfl
@[simp] theorem State.atCycle_firmware (s : State) (t : Nat) : (s.atCycle t).firmware = s.firmware := rfl
@[simp] theorem State.atCycle_matrixDuty (s : State) (t : Nat) : (s.atCycle t).matrixDuty = s.matrixDuty := rfl
@[simp] theorem State.atCycle_powered (s : State) (t : Nat) : (s.atCycle t).powered = s.powered := rfl
@[simp] theorem State.atCycle_gatedDies (s : State) (t : Nat) : (s.atCycle t).gatedDies = s.gatedDies := rfl
@[simp] theorem State.atCycle_agenda (s : State) (t : Nat) : (s.atCycle t).agenda = s.agenda := rfl
@[simp] theorem State.atCycle_freeCtr (s : State) (t : Nat) : (s.atCycle t).freeCtr = s.freeCtr := rfl
@[simp] theorem State.atCycle_cur (s : State) (t : Nat) : (s.atCycle t).cur = s.cur := rfl
@[simp] theorem State.atCycle_nextUid (s : State) (t : Nat) : (s.atCycle t).nextUid = s.nextUid := rfl
@[simp] theorem State.atCycle_turn (s : State) (t : Nat) : (s.atCycle t).turn = s.turn := rfl

end Sys2Proof.Machine
end

