-- ==== Sys2Proof/Laws/Memory.lean ====
section
/-! SUPPORT. Lists of cells: a read after a write, and the canonical form that every memory operation keeps. -/

namespace Sys2Proof.Machine

open Sys2Proof

/-! ## The canonical form, one cell at a time -/

/-- Every cell of a list lies above an address. -/
def cellsAbove (a : Nat) (m : List Host.Cell) : Prop := ∀ c ∈ m, a < c.1

/-- A list in canonical form: its head holds no default, lies below the rest, and the rest is in the form. -/
theorem cellsWf_cons (c : Host.Cell) (m : List Host.Cell) :
    cellsWf (c :: m) = true ↔ c.2 ≠ cellDefault ∧ cellsAbove c.1 m ∧ cellsWf m = true := by
  induction m generalizing c with
  | nil => simp [cellsWf, cellsAbove]
  | cons d m ih =>
    simp only [cellsWf, Bool.and_eq_true, bne_iff_ne, decide_eq_true_eq, ih d, cellsAbove, List.mem_cons,
      forall_eq_or_imp]
    constructor
    · rintro ⟨⟨h1, h2⟩, h3, h4, h5⟩
      exact ⟨h1, ⟨h2, fun x hx => Nat.lt_trans h2 (h4 x hx)⟩, h3, h4, h5⟩
    · rintro ⟨h1, ⟨h2, -⟩, h3, h4, h5⟩
      exact ⟨⟨h1, h2⟩, h3, h4, h5⟩

/-- The addresses of a list with one byte written are those of the list and the written one. -/
theorem cellsSet_mem (m : List Host.Cell) (a : Nat) (b : Byte) (c : Host.Cell) (h : c ∈ cellsSet m a b) :
    c = (a, b) ∨ c ∈ m := by
  induction m with
  | nil => simp only [cellsSet] at h; split at h <;> simp_all
  | cons d m ih =>
    simp only [cellsSet] at h
    split at h
    · split at h
      · exact .inr (List.mem_cons_of_mem _ h)
      · rcases List.mem_cons.1 h with h | h
        · exact .inl h
        · exact .inr (List.mem_cons_of_mem _ h)
    · split at h
      · split at h
        · exact .inr h
        · rcases List.mem_cons.1 h with h | h
          · exact .inl h
          · exact .inr h
      · rcases List.mem_cons.1 h with h | h
        · exact .inr (h ▸ List.mem_cons_self ..)
        · exact (ih h).imp id (List.mem_cons_of_mem _)

/-- A byte written keeps the canonical form. -/
theorem cellsSet_wf (m : List Host.Cell) (a : Nat) (b : Byte) (h : cellsWf m = true) : cellsWf (cellsSet m a b) = true := by
  induction m with
  | nil => by_cases hb : b = cellDefault <;> simp [cellsSet, hb, cellsWf]
  | cons c m ih =>
    obtain ⟨h1, h2, h3⟩ := (cellsWf_cons c m).1 h
    unfold cellsSet
    split
    · rename_i he
      have he : c.1 = a := by simpa using he
      split
      · exact h3
      · rename_i hb
        exact (cellsWf_cons _ _).2 ⟨by simpa using hb, fun x hx => he ▸ h2 x hx, h3⟩
    · rename_i he
      have he : c.1 ≠ a := by simpa using he
      split
      · rename_i hl
        split
        · exact h
        · rename_i hb
          refine (cellsWf_cons _ _).2 ⟨by simpa using hb, ?_, h⟩
          intro x hx
          rcases List.mem_cons.1 hx with hx | hx
          · exact hx ▸ hl
          · exact Nat.lt_trans hl (h2 x hx)
      · rename_i hl
        refine (cellsWf_cons _ _).2 ⟨h1, ?_, ih h3⟩
        intro x hx
        rcases cellsSet_mem m a b x hx with hx | hx
        · subst hx; simp only; omega
        · exact h2 x hx

/-- Consecutive bytes written keep the canonical form. -/
theorem cellsWrite_wf (m : List Host.Cell) (a : Nat) (bs : List Byte) (h : cellsWf m = true) :
    cellsWf (cellsWrite m a bs) = true := by
  induction bs generalizing m a with
  | nil => exact h
  | cons b bs ih => exact ih _ _ (cellsSet_wf m a b h)

/-- Cells taken out keep the canonical form. -/
theorem cellsFilter_wf (p : Host.Cell → Bool) (m : List Host.Cell) (h : cellsWf m = true) : cellsWf (m.filter p) = true := by
  induction m with
  | nil => rfl
  | cons c m ih =>
    obtain ⟨h1, h2, h3⟩ := (cellsWf_cons c m).1 h
    rw [List.filter_cons]
    split
    · exact (cellsWf_cons _ _).2 ⟨h1, fun x hx => h2 x (List.mem_filter.1 hx).1, ih h3⟩
    · exact ih h3

/-! ## A read after a write -/

/-- Below every cell of a list, a byte reads as the default. -/
theorem cellsGet_below (m : List Host.Cell) (a : Nat) (h : cellsAbove a m) : cellsGet m a = cellDefault := by
  cases m with
  | nil => rfl
  | cons c m =>
    have := h c (List.mem_cons_self ..)
    simp only [cellsGet, beq_iff_eq]
    rw [if_neg (by omega), if_pos this]

/-- A byte reads as it was written, and every other byte as before. -/
theorem cellsGet_set (m : List Host.Cell) (a x : Nat) (b : Byte) (h : cellsWf m = true) :
    cellsGet (cellsSet m a b) x = if x = a then b else cellsGet m x := by
  induction m with
  | nil =>
    by_cases hb : b = cellDefault
    · simp [cellsSet, hb, cellsGet]
    · rcases Nat.lt_trichotomy x a with hx | hx | hx
      · simp [cellsSet, hb, cellsGet, hx, (Nat.ne_of_lt hx), (Nat.ne_of_gt hx)]
      · simp [cellsSet, hb, cellsGet, hx]
      · simp [cellsSet, hb, cellsGet, (Nat.ne_of_gt hx), (Nat.ne_of_lt hx), Nat.not_lt.2 (Nat.le_of_lt hx)]
  | cons c m ih =>
    obtain ⟨h1, h2, h3⟩ := (cellsWf_cons c m).1 h
    have low : x ≤ c.1 → cellsGet m x = cellDefault := fun hx =>
      cellsGet_below m x fun d hd => Nat.lt_of_le_of_lt hx (h2 d hd)
    simp only [cellsSet, beq_iff_eq]
    split
    · rename_i he
      subst he
      split
      · rename_i hb
        rcases Nat.lt_trichotomy x c.1 with hx | hx | hx
        · simp [cellsGet, hx, (Nat.ne_of_lt hx), (Nat.ne_of_gt hx), low (Nat.le_of_lt hx)]
        · subst hx; simp [low (Nat.le_refl _), hb]
        · simp [cellsGet, (Nat.ne_of_gt hx), (Nat.ne_of_lt hx), Nat.not_lt.2 (Nat.le_of_lt hx)]
      · rcases Nat.lt_trichotomy x c.1 with hx | hx | hx
        · simp [cellsGet, hx, (Nat.ne_of_lt hx), (Nat.ne_of_gt hx)]
        · simp [cellsGet, hx]
        · simp [cellsGet, (Nat.ne_of_gt hx), (Nat.ne_of_lt hx), Nat.not_lt.2 (Nat.le_of_lt hx)]
    · rename_i he
      split
      · rename_i hl
        split
        · rename_i hb
          rcases Decidable.em (x = a) with hx | hx
          · subst hx; simp [cellsGet, hl, hb, Ne.symm (Nat.ne_of_lt hl)]
          · simp [hx]
        · rcases Nat.lt_trichotomy x a with hx | hx | hx
          · have : x < c.1 := Nat.lt_trans hx hl
            simp [cellsGet, hx, (Nat.ne_of_lt hx), (Nat.ne_of_gt hx), this, (Nat.ne_of_gt this)]
          · simp [cellsGet, hx]
          · simp [cellsGet, (Nat.ne_of_gt hx), (Nat.ne_of_lt hx), Nat.not_lt.2 (Nat.le_of_lt hx)]
      · rename_i hl
        have hl : c.1 < a := by omega
        simp only [cellsGet, beq_iff_eq]
        rcases Nat.lt_trichotomy x c.1 with hx | hx | hx
        · simp [(Nat.ne_of_gt hx), hx, (Nat.ne_of_lt (Nat.lt_trans hx hl))]
        · simp [hx, (Nat.ne_of_lt hl)]
        · simp [(Nat.ne_of_lt hx), Nat.not_lt.2 (Nat.le_of_lt hx), ih h3]

/-! ## The operations on the state's memories -/

/-- The state's memories are in form when both lists are. -/
theorem memory_wf_iff (s : State) : Memory.wf s = true ↔ cellsWf s.mem = true ∧ cellsWf s.hostMem = true := by
  simp [Memory.wf]

/-- Reset lists nothing. -/
theorem memory_wf_reset : Memory.wf State.reset = true := rfl

/-- The form depends on the two lists alone. -/
theorem memory_wf_of_eq {s t : State} (hm : t.mem = s.mem) (hh : t.hostMem = s.hostMem) (h : Memory.wf s = true) :
    Memory.wf t = true := by
  simpa [Memory.wf, hm, hh] using h

theorem memory_wf_dramSet (s : State) (a : Nat) (b : Byte) (h : Memory.wf s = true) : Memory.wf (s.dramSet a b) = true := by
  obtain ⟨h1, h2⟩ := (memory_wf_iff s).1 h
  exact (memory_wf_iff _).2 ⟨cellsSet_wf s.mem a b h1, h2⟩

theorem memory_wf_dramWrite (s : State) (a : Nat) (bs : List Byte) (h : Memory.wf s = true) :
    Memory.wf (s.dramWrite a bs) = true := by
  induction bs generalizing s a with
  | nil => exact h
  | cons b bs ih => exact ih _ _ (memory_wf_dramSet s a b h)

theorem memory_wf_packWrite (s : State) (a : Nat) (bs : List Byte) (h : Memory.wf s = true) :
    Memory.wf (s.packWrite a bs) = true := memory_wf_dramWrite _ _ _ h

theorem memory_wf_hostWriteBytes (s : State) (a : Nat) (bs : List Byte) (h : Memory.wf s = true) :
    Memory.wf (s.hostWriteBytes a bs) = true := by
  obtain ⟨h1, h2⟩ := (memory_wf_iff s).1 h
  exact (memory_wf_iff _).2 ⟨h1, cellsWrite_wf s.hostMem a bs h2⟩

theorem memory_wf_encodeSector (s : State) (w : Window) (sector : Nat) (bs : List Byte) (h : Memory.wf s = true) :
    Memory.wf (s.encodeSector w sector bs) = true := by
  unfold State.encodeSector
  dsimp only
  split
  · exact memory_wf_packWrite _ _ _ (memory_wf_packWrite _ _ _ h)
  · split <;> exact memory_wf_packWrite _ _ _ h

theorem memory_wf_viewWriteUncached (s : State) (w : Window) (pa : Nat) (bs : List Byte) (h : Memory.wf s = true) :
    Memory.wf (s.viewWriteUncached w pa bs) = true := by
  unfold State.viewWriteUncached
  dsimp only
  split
  · exact h
  · exact memory_wf_encodeSector _ _ _ _ h

theorem memory_wf_perform (s : State) (l : Loc) (bs : List Byte) (u : Bool) (core grain : Option Nat) (h : Memory.wf s = true) :
    Memory.wf (s.perform l bs u core grain) = true := by
  unfold State.perform
  split
  · split
    · exact h
    · split
      · split
        · exact memory_wf_viewWriteUncached _ _ _ _ h
        · exact h
      · exact memory_wf_dramWrite _ _ _ h
  · exact memory_wf_hostWriteBytes _ _ _ h
  · exact h

/-- A core that sees the last entries changes no byte. -/
theorem viewed_mem (s : State) (core : Nat) (l : Loc) (ts : List Nat) :
    (s.viewed core l ts).mem = s.mem ∧ (s.viewed core l ts).hostMem = s.hostMem := by
  unfold State.viewed
  dsimp only
  split <;> exact ⟨rfl, rfl⟩

theorem memory_wf_sawLast (s : State) (core : Nat) (l : Loc) (bs : List Byte) (h : Memory.wf s = true) :
    Memory.wf (s.sawLast core l bs) = true :=
  memory_wf_of_eq (viewed_mem s core l _).1 (viewed_mem s core l _).2 h

theorem memory_wf_performWrite (s : State) (p : PendingStore) (h : Memory.wf s = true) :
    Memory.wf (s.performWrite p) = true := by
  unfold State.performWrite
  dsimp only
  have hp (t : State) (ht : Memory.wf t = true) :
      Memory.wf (t.perform p.loc (p.op.apply (t.performedRead p.loc p.op.len)) p.uncached (some p.core) p.grain) = true :=
    memory_wf_perform _ _ _ _ _ _ ht
  split <;> split
  · exact hp _ h
  · exact hp _ h
  · exact memory_wf_of_eq rfl rfl (memory_wf_sawLast _ p.core p.loc _ (hp _ h))
  · exact memory_wf_of_eq rfl rfl (memory_wf_sawLast _ p.core p.loc _ (hp _ h))

/-- A fold of operations that each keep the form keeps it. -/
theorem memory_wf_foldl {α : Type} (f : State → α → State) (hf : ∀ s a, Memory.wf s = true → Memory.wf (f s a) = true)
    (xs : List α) (s : State) (h : Memory.wf s = true) : Memory.wf (xs.foldl f s) = true := by
  induction xs generalizing s with
  | nil => exact h
  | cons a xs ih => exact ih _ (hf s a h)

theorem memory_wf_readFrom (s : State) (data : List Byte × List Nat) (r : PendingRead) (h : Memory.wf s = true) :
    Memory.wf (s.readFrom data r) = true :=
  memory_wf_of_eq (viewed_mem _ r.core r.loc _).1 (viewed_mem _ r.core r.loc _).2 h

theorem memory_wf_readsBefore (s : State) (core : Nat) (who : Agent) (mark : Nat) (h : Memory.wf s = true) :
    Memory.wf (s.readsBefore core who mark) = true := memory_wf_foldl _ (fun t r ht => memory_wf_readFrom t _ r ht) _ _ h

theorem memory_wf_leavePending (s : State) (p : PendingStore) (h : Memory.wf s = true) :
    Memory.wf (s.leavePending p) = true :=
  memory_wf_of_eq rfl rfl (memory_wf_performWrite _ p (memory_wf_foldl _ (fun t _ ht => memory_wf_readsBefore t _ _ _ ht) _ _ h))

theorem memory_wf_drainStores (s : State) (p : PendingStore → Bool) (h : Memory.wf s = true) :
    Memory.wf (s.drainStores p) = true := memory_wf_foldl _ memory_wf_leavePending _ _ h

theorem memory_wf_storeDrift (s : State) (h : Memory.wf s = true) : Memory.wf s.storeDrift = true := by
  unfold State.storeDrift
  split
  · exact h
  · dsimp only
    split
    · split
      · exact h
      · exact memory_wf_drainStores _ _ h
    · exact h

theorem memory_wf_releaseStep (s : State) (core scope : Nat) (h : Memory.wf s = true) :
    Memory.wf (s.releaseStep core scope) = true := memory_wf_drainStores _ _ h

theorem memory_wf_drainCore (s : State) (core : Nat) (h : Memory.wf s = true) : Memory.wf (s.drainCore core) = true :=
  memory_wf_drainStores _ _ h

theorem memory_wf_performOwn (s : State) (core : Nat) (l : Loc) (n : Nat) (h : Memory.wf s = true) :
    Memory.wf (s.performOwn core l n) = true := memory_wf_drainStores _ _ h

theorem memory_wf_acquireStep (s : State) (core scope : Nat) (h : Memory.wf s = true) :
    Memory.wf (s.acquireStep core scope) = true := by
  unfold State.acquireStep
  split <;> exact h

theorem memory_wf_readCell (s : State) (r : PendingRead) (h : Memory.wf s = true) : Memory.wf (s.readCell r) = true :=
  memory_wf_sawLast _ _ _ _ (memory_wf_of_eq (t := State.mk ..) rfl rfl (memory_wf_performOwn s r.core r.loc 64 h))

theorem memory_wf_giveSector (s : State) (core : Nat) (base : Loc) (h : Memory.wf s = true) :
    Memory.wf (s.giveSector core base) = true :=
  memory_wf_foldl _ memory_wf_readCell _ _ (memory_wf_foldl _ (fun t r ht => memory_wf_readFrom t _ r ht) _ _ h)

/-- The order of performed writes is cut without a byte changed. -/
theorem memory_wf_forget (s : State) (h : Memory.wf s = true) : Memory.wf s.forget = true := by
  unfold State.forget
  split <;> exact h

/-! ## The slices and the DRAM behind them -/

/-- A register stored changes no byte. -/
theorem setReg_mem (s : State) (fn off val : Nat) :
    (s.setReg fn off val).mem = s.mem ∧ (s.setReg fn off val).hostMem = s.hostMem := by
  unfold State.setReg
  dsimp only
  split <;> exact ⟨rfl, rfl⟩

theorem memory_wf_regInc (s : State) (fn off : Nat) (h : Memory.wf s = true) : Memory.wf (s.regInc fn off) = true :=
  memory_wf_of_eq (setReg_mem ..).1 (setReg_mem ..).2 h

theorem memory_wf_ask (s : State) (r : SliceReq) (h : Memory.wf s = true) : Memory.wf (s.ask r) = true := by
  unfold State.ask
  dsimp only
  split <;> exact h

theorem memory_wf_askRange (s : State) (fn pa n : Nat) (kind : ReqKind) (u : Bool) (page : Option PageRef)
    (h : Memory.wf s = true) : Memory.wf (s.askRange fn pa n kind u page) = true := memory_wf_foldl _ memory_wf_ask _ _ h

theorem memory_wf_openRow (s : State) (r : DramReq) (h : Memory.wf s = true) : Memory.wf (s.openRow r) = true := h

theorem memory_wf_dramCount (s : State) (off : Nat) (h : Memory.wf s = true) : Memory.wf (s.dramCount off) = true :=
  memory_wf_of_eq (t := s.regInc 0 off) rfl rfl (memory_wf_regInc s 0 off h)

theorem memory_wf_dramServe (s : State) (r : DramReq) (h : Memory.wf s = true) : Memory.wf (s.dramServe r) = true := by
  unfold State.dramServe
  refine memory_wf_openRow _ _ ?_
  split
  · exact memory_wf_dramCount _ _ h
  · exact memory_wf_dramCount _ _ (memory_wf_dramCount _ _ h)

theorem memory_wf_dramTake (b : BankId) (n : Nat) (s : State) (h : Memory.wf s = true) :
    Memory.wf (State.dramTake b n s) = true := by
  induction n generalizing s with
  | zero => exact h
  | succ n ih =>
    unfold State.dramTake
    split
    · exact ih _ (memory_wf_dramServe _ _ h)
    · exact h

theorem memory_wf_dramUntil (pa : Nat) (b : BankId) (n : Nat) (s : State) (h : Memory.wf s = true) :
    Memory.wf (State.dramUntil pa b n s) = true := by
  induction n generalizing s with
  | zero => exact h
  | succ n ih =>
    unfold State.dramUntil
    split
    · split
      · exact memory_wf_dramServe _ _ h
      · exact ih _ (memory_wf_dramServe _ _ h)
    · exact h

theorem memory_wf_dramAsk (s : State) (fn pa : Nat) (w : Bool) (h : Memory.wf s = true) : Memory.wf (s.dramAsk fn pa w) = true := by
  unfold State.dramAsk
  dsimp only
  split
  · exact memory_wf_of_eq rfl rfl (memory_wf_dramTake _ 1 s h)
  · exact h

theorem memory_wf_dramAccess (s : State) (fn pa : Nat) (w : Bool) (h : Memory.wf s = true) :
    Memory.wf (s.dramAccess fn pa w) = true := by
  unfold State.dramAccess
  dsimp only
  split
  · exact memory_wf_dramAsk _ _ _ _ h
  · exact memory_wf_dramUntil _ _ _ _ (memory_wf_dramAsk _ _ _ _ h)

theorem memory_wf_dramDrift (s : State) (h : Memory.wf s = true) : Memory.wf s.dramDrift = true :=
  memory_wf_foldl _ (fun _ _ ht => memory_wf_dramTake _ _ _ ht) _ _ h

theorem memory_wf_askSources (s : State) (fn : Nat) (w : Window) (sector : Nat) (h : Memory.wf s = true) :
    Memory.wf (s.askSources fn w sector) = true :=
  memory_wf_foldl _ (fun _ _ ht => memory_wf_askRange _ _ _ _ _ _ _ ht) _ _ h

theorem memory_wf_writeBack (s : State) (fn sector : Nat) (h : Memory.wf s = true) : Memory.wf (s.writeBack fn sector) = true := by
  unfold State.writeBack
  split
  · exact memory_wf_dramAccess _ _ _ _ h
  · split
    · exact h
    · dsimp only
      split
      · exact memory_wf_of_eq rfl rfl (memory_wf_askSources _ _ _ _ (memory_wf_encodeSector _ _ _ _ h))
      · exact h

theorem memory_wf_dramQuiet (s : State) (p : DramReq → Bool) (h : Memory.wf s = true) : Memory.wf (s.dramQuiet p) = true :=
  memory_wf_foldl _ (fun t r ht => by split <;> first | exact memory_wf_dramUntil _ _ _ _ ht | exact ht) _ _ h

theorem memory_wf_endFetch (s : State) (sector : Nat) (h : Memory.wf s = true) : Memory.wf (s.endFetch sector) = true := by
  unfold State.endFetch
  split
  · exact memory_wf_dramQuiet _ _ h
  · exact memory_wf_foldl _ (fun t x ht => by split <;> first | exact ht | exact memory_wf_dramAccess _ _ _ _ ht) _ _ h

theorem memory_wf_ringPut (s : State) (fn q p : Nat) (bs : List Byte) (h : Memory.wf s = true) : Memory.wf (s.ringPut fn q p bs) = true := by
  unfold State.ringPut State.ringWrite State.physWrite
  dsimp only
  refine memory_wf_of_eq (setReg_mem ..).1 (setReg_mem ..).2 ?_
  split
  · refine memory_wf_perform _ _ _ _ _ _ ?_
    split
    · exact memory_wf_askRange _ _ _ _ _ _ _ h
    · exact h
  · exact h

theorem memory_wf_signal (s : State) (fn vec : Nat) (h : Memory.wf s = true) : Memory.wf (s.signal fn vec) = true := by
  unfold State.signal
  split
  · exact memory_wf_of_eq (setReg_mem ..).1 (setReg_mem ..).2 h
  · exact h

/-- An error record is a write of the ring, and nothing else of memory. -/
theorem memory_wf_postError (s : State) (code sev verdict die unit row pa fn : Nat) (h : Memory.wf s = true) :
    Memory.wf (s.postError code sev verdict die unit row pa fn) = true := by
  have hs (t : State) (ht : Memory.wf t = true) (u : Option HwUnit) : Memory.wf (u.elim t t.schedule) = true := by
    cases u
    · exact ht
    · simp only [Option.elim_some, State.schedule]; split <;> exact ht
  unfold State.postError
  dsimp only
  generalize he : (if verdict == 0 then _ else s) = s1
  have h1 : Memory.wf s1 = true := by
    rw [← he]; split
    · exact hs _ h _
    · exact h
  split
  · exact memory_wf_regInc _ _ _ h1
  · exact memory_wf_signal _ _ _ (memory_wf_ringPut _ _ _ _ _ h1)

theorem memory_wf_listSector (s : State) (sector : Nat) (h : Memory.wf s = true) : Memory.wf (s.listSector sector) = true := by
  unfold State.listSector
  dsimp only
  split
  · exact h
  · split
    · exact memory_wf_of_eq rfl rfl (memory_wf_postError s 1 2 0 _ _ _ _ _ h)
    · exact h

theorem memory_wf_l2Evict (s : State) (fn : Nat) (l : L2Line) (h : Memory.wf s = true) : Memory.wf (s.l2Evict fn l) = true := by
  unfold State.l2Evict
  refine memory_wf_of_eq rfl rfl (memory_wf_foldl _ (fun t i ht => ?_) (List.range 4) (s.l2Drop l) h)
  dsimp only
  split
  · exact memory_wf_postError _ _ _ _ _ _ _ _ _ (memory_wf_listSector _ _ ht)
  · split
    · refine memory_wf_writeBack _ _ _ ?_
      split
      · exact ht
      · exact memory_wf_endFetch _ _ ht
    · exact ht

theorem memory_wf_l2Flush (s : State) (p : L2Line → Bool) (h : Memory.wf s = true) : Memory.wf (s.l2Flush p) = true :=
  memory_wf_foldl _ (fun _ _ ht => memory_wf_l2Evict _ _ _ ht) _ _ h

end Sys2Proof.Machine
end

