-- ==== Sys2Proof/Laws/Ops.lean ====
section
/-! SUPPORT. Everything that each shared operation of the words and of the events can do. -/

namespace Sys2Proof.Machine

open Sys2Proof

/-! ## Words -/

/-- A word answers a next state exactly where a cohort stands at it: its effect, or ILLEGAL. -/
theorem onCohort_next_iff (i : Instr) (s t : State) (k : Cohort → State) :
    onCohort i s k = .next t ↔
      ∃ c, s.current = some c ∧
        t = if i.wf then k c else s.takeTrap c (wordOf i) { code := .illegal } [] := by
  unfold onCohort admitted
  cases s.current with
  | none => simp
  | some c => by_cases h : i.wf <;> simp [h, eq_comm]

theorem onCohort_wf {i : Instr} {s : State} {c : Cohort} (k : Cohort → State) (hc : s.current = some c) (hw : i.wf = true) :
    onCohort i s k = .next (k c) := (onCohort_next_iff ..).2 ⟨c, hc, by simp [hw]⟩

theorem onCohort_illegal {i : Instr} {s : State} {c : Cohort} (k : Cohort → State) (hc : s.current = some c)
    (hw : i.wf = false) : onCohort i s k = .next (s.takeTrap c (wordOf i) { code := .illegal } []) :=
  (onCohort_next_iff ..).2 ⟨c, hc, by simp [hw]⟩

theorem onCohort_noCohort {i : Instr} {s : State} (k : Cohort → State) (hc : s.current = none) :
    onCohort i s k = .fault .noCohort := by simp [onCohort, hc]

/-- A word never answers a refusal. -/
theorem onCohort_not_refused (i : Instr) (s : State) (k : Cohort → State) (r : Refusal) : onCohort i s k ≠ .refused r := by
  unfold onCohort
  split
  · simp
  · split <;> simp

/-- What a uniform word with latency 2 leaves. -/
theorem issueUniform_wf {i : Instr} {s : State} {c : Cohort} (dst : Nat) (val : Cohort → Nat) (hc : s.current = some c)
    (hw : i.wf = true) :
    issueUniform i s dst val =
      .next (s.finish ({ c with flightU := c.flightU ++ [({ left := 2, reg := dst, val := BitVec.ofNat 64 (val c) } : InFlightU)] }.tickU) (wordOf i)) :=
  onCohort_wf _ hc hw

/-- What a vector word leaves that writes a register, where no trap of R266 comes first. -/
theorem issueVector_clear {i : Instr} {s : State} {c : Cohort} (v : VectorOp) (pair : Bool) (dst : Nat)
    (val : Cohort → Fibre → Nat) (hc : s.current = some c) (hw : i.wf = true) (hv : c.vectorTrap v = none) :
    issueVector i s v pair dst val =
      .next (s.finish (c.issueVec v
        (vecWrites pair dst ((c.active v.guard).map fun f => (f.lane, val c f % 2 ^ (if pair then 64 else 32))))
        (some (latchFor v.wbs ((c.active v.guard).map fun f => (f.lane, val c f % 2 ^ (if pair then 64 else 32))))))
        (wordOf i)) := by
  unfold issueVector
  rw [onCohort_wf _ hc hw, hv]

/-- A vector word whose trap of R266 comes first. -/
theorem issueVector_trap {i : Instr} {s : State} {c : Cohort} {t : TrapCode} (v : VectorOp) (pair : Bool) (dst : Nat)
    (val : Cohort → Fibre → Nat) (hc : s.current = some c) (hw : i.wf = true) (hv : c.vectorTrap v = some t) :
    issueVector i s v pair dst val =
      .next (s.takeTrap c (wordOf i) { code := t } (lanesOf (c.active v.guard))) := by
  unfold issueVector
  rw [onCohort_wf _ hc hw, hv]

/-- What a vector word leaves that writes a predicate. -/
theorem issuePred_clear {i : Instr} {s : State} {c : Cohort} (v : VectorOp) (dst : Nat) (val : Cohort → Fibre → Bool)
    (hc : s.current = some c) (hw : i.wf = true) (hv : c.vectorTrap v = none) :
    issuePred i s v dst val =
      .next (s.finish (c.issueVec v ((c.active v.guard).map fun f => RegWrite.pred f.lane dst (val c f)) none) (wordOf i)) := by
  unfold issuePred
  rw [onCohort_wf _ hc hw, hv]

theorem issuePred_trap {i : Instr} {s : State} {c : Cohort} {t : TrapCode} (v : VectorOp) (dst : Nat)
    (val : Cohort → Fibre → Bool) (hc : s.current = some c) (hw : i.wf = true) (hv : c.vectorTrap v = some t) :
    issuePred i s v dst val = .next (s.takeTrap c (wordOf i) { code := t } (lanesOf (c.active v.guard))) := by
  unfold issuePred
  rw [onCohort_wf _ hc hw, hv]

/-- No trap of its own stops a word whose registers lie inside W, with no live latch and no hazard. -/
theorem stopTrap_clear {d : Cohort} {g : Guard} {runs : List RegRun} (ts : StopTraps) (preds : List Nat) (ho : d.outside runs = false)
    (hl : d.latchLive = false) (hh : d.hazard runs = false) (hp : d.predHazard (g.psel.toNat :: preds) = false) :
    d.stopTrap ts g runs preds = none := by simp [Cohort.stopTrap, ho, hl, hh, hp]

/-- A potential stall point that no trap of its own comes before: the sides that it drains are, the latches are dead, and a word that
captured its uniform operands as it was passed drains the uniform side at its end. -/
theorem atStop_clear {i : Instr} {s0 s : State} {c d : Cohort} (passed : Bool) (g : Guard) (runs : List RegRun) (preds : List Nat)
    (k : State → Cohort → State) (hc : s0.current = some c) (hw : i.wf = true) (ht : s0.tileStores (c.atStop passed) = (s, d))
    (hf : d.failed = none) (ho : d.outside runs = false) (hl : d.latchLive = false) (hh : d.hazard runs = false)
    (hp : d.predHazard (g.psel.toNat :: preds) = false) :
    atStop passed i s0 g runs preds k = .next (if passed then (k s { d with latches := deadLatches, liveRun := 0 }).drained d.uid d.pc
      else k s { d with latches := deadLatches, liveRun := 0 }) := by
  unfold atStop atStopWith
  rw [onCohort_wf _ hc hw, ht]
  simp [hf, stopTrap_clear _ _ ho hl hh hp]

/-- A word of the uniform side, or a meeting word, at such a point. -/
theorem atStall_clear {i : Instr} {s0 s : State} {c d : Cohort} (g : Guard) (runs : List RegRun) (preds : List Nat)
    (k : State → Cohort → State) (hc : s0.current = some c) (hw : i.wf = true) (ht : s0.tileStores c.drain = (s, d))
    (hf : d.failed = none) (ho : d.outside runs = false) (hl : d.latchLive = false) (hh : d.hazard runs = false)
    (hp : d.predHazard (g.psel.toNat :: preds) = false) :
    atStall i s0 g runs preds k = .next (k s { d with latches := deadLatches, liveRun := 0 }) := by
  simpa [atStall] using atStop_clear false g runs preds k hc hw ht hf ho hl hh hp

/-- A word performed while STEP is not asked for: its cohort goes on, past SKIP. -/
theorem performed_plain (s : State) (c : Cohort) (w : Word64) (h : c.stepping = false) :
    s.performed c w = s.putCohort { c with skip := false, stepping := false, stepDue := none } := by simp [State.performed, h]

theorem finish_plain (s : State) (c : Cohort) (w : Word64) (h : c.advance.stepping = false) :
    s.finish c w = s.putCohort { c.advance with skip := false, stepping := false, stepDue := none } := performed_plain _ _ _ h

@[simp] theorem advance_stepping (c : Cohort) : c.advance.stepping = c.stepping := by
  unfold Cohort.advance; dsimp only; split <;> rfl
@[simp] theorem advance_sregs (c : Cohort) : c.advance.sregs = c.sregs := by
  unfold Cohort.advance; dsimp only; split <;> rfl
@[simp] theorem advance_fibres (c : Cohort) : c.advance.fibres = c.fibres := by
  unfold Cohort.advance; dsimp only; split <;> rfl
@[simp] theorem advance_uid (c : Cohort) : c.advance.uid = c.uid := by
  unfold Cohort.advance; dsimp only; split <;> rfl
@[simp] theorem advance_pc (c : Cohort) : c.advance.pc = c.pc + 8 := by
  unfold Cohort.advance; dsimp only; split <;> rfl

/-! ## Events -/

/-- An event always answers a next state: its effect where its subject exists, else no change. -/
@[simp] theorem onSubject_true (s t : State) : onSubject s true t = .next t := rfl
@[simp] theorem onSubject_false (s t : State) : onSubject s false t = .next s := rfl
@[simp] theorem onFound_some {α : Type} (s : State) (a : α) (k : α → State) : onFound s (some a) k = .next (k a) := rfl
@[simp] theorem onFound_none {α : Type} (s : State) (k : α → State) : onFound s (none : Option α) k = .next s := rfl

theorem onSubject_next_iff (s : State) (ok : Bool) (t u : State) : onSubject s ok t = .next u ↔ u = if ok then t else s := by
  cases ok <;> simp [eq_comm]

theorem onFound_next_iff {α : Type} (s : State) (x : Option α) (k : α → State) (u : State) :
    onFound s x k = .next u ↔ u = x.elim s k := by
  cases x <;> simp [eq_comm]

/-- A write of an aperture changes something exactly where its register exists and the boot has set READY. -/
theorem onWrite_next_iff (ok : Bool) (s t u : State) :
    onWrite ok s t = .next u ↔ u = if ok && s.booted then t else s := by
  cases ok <;> cases hb : s.booted <;> simp [onWrite, hb, eq_comm]

/-! ## A step -/

theorem settled_next_iff (o : Host.Outcome State Fault Refusal) (t : State) :
    settled o = .next t ↔ ∃ u, o = .next u ∧ t = u.after := by
  cases o <;> simp [settled, eq_comm]

/-- A step with its power gone. -/
theorem step_noPower (s : State) (h : s.powered = false) : step s = .fault .noPower := by simp [step, h]

end Sys2Proof.Machine
end

