-- ==== Sys2Proof/Laws/PerInstr.lean ====
section
/-! SUPPORT. The family OpcodeField: the word of an instruction has the opcode of R263 in bits 63:56, and an event
has no word; one lemma per constructor. -/

namespace Sys2Proof.Laws.OpcodeField

open Sys2Proof

/-- The OP that R263 gives an instruction word, and none for an event. -/
def opcodeOf : Instr → Option (BitVec 8)
  | .uadd _ => some 0x00#8
  | .uaddImm _ => some 0x18#8
  | .usub _ => some 0x01#8
  | .umul _ => some 0x02#8
  | .umulImm _ => some 0x19#8
  | .umulh _ => some 0x03#8
  | .umad _ => some 0x04#8
  | .udiv _ => some 0x05#8
  | .urem _ => some 0x06#8
  | .umin _ => some 0x07#8
  | .umax _ => some 0x08#8
  | .uand _ => some 0x09#8
  | .uandImm _ => some 0x1A#8
  | .uor _ => some 0x0A#8
  | .uorImm _ => some 0x1B#8
  | .uxor _ => some 0x0B#8
  | .uxorImm _ => some 0x1C#8
  | .uandn _ => some 0x0C#8
  | .ushl _ => some 0x0D#8
  | .ushr _ => some 0x0E#8
  | .urot _ => some 0x0F#8
  | .ucmp _ => some 0x10#8
  | .ucmpImm _ => some 0x1D#8
  | .usel _ => some 0x11#8
  | .umov _ => some 0x12#8
  | .umovImm _ => some 0x1E#8
  | .uext _ => some 0x13#8
  | .upop _ => some 0x14#8
  | .uclz _ => some 0x15#8
  | .ubfx _ => some 0x16#8
  | .ulea _ => some 0x17#8
  | .ucat _ => some 0x1F#8
  | .bra _ => some 0x20#8
  | .brc _ => some 0x21#8
  | .brv _ => some 0x22#8
  | .call _ => some 0x23#8
  | .callr _ => some 0x24#8
  | .ret _ => some 0x25#8
  | .jtab _ => some 0x26#8
  | .exitW _ => some 0x27#8
  | .trap _ => some 0x28#8
  | .brk _ => some 0x29#8
  | .nop _ => some 0x2A#8
  | .yield _ => some 0x2B#8
  | .qput _ => some 0x2C#8
  | .qget _ => some 0x2D#8
  | .qret _ => some 0x2E#8
  | .qrcvB64 _ => some 0x2F#8
  | .qrcvB32 _ => some 0x2F#8
  | .vadd _ => some 0x30#8
  | .vaddImm _ => some 0x48#8
  | .vsub _ => some 0x31#8
  | .vmul _ => some 0x32#8
  | .vmulImm _ => some 0x49#8
  | .vmulh _ => some 0x33#8
  | .vmad _ => some 0x34#8
  | .vmin _ => some 0x35#8
  | .vmax _ => some 0x36#8
  | .vabs _ => some 0x37#8
  | .vand _ => some 0x38#8
  | .vandImm _ => some 0x4A#8
  | .vor _ => some 0x39#8
  | .vorImm _ => some 0x4B#8
  | .vxor _ => some 0x3A#8
  | .vxorImm _ => some 0x4C#8
  | .vandn _ => some 0x3B#8
  | .vshl _ => some 0x3C#8
  | .vshr _ => some 0x3D#8
  | .vrot _ => some 0x3E#8
  | .vcmp _ => some 0x3F#8
  | .vcmpImm _ => some 0x4D#8
  | .vsel _ => some 0x40#8
  | .vselImm _ => some 0x4F#8
  | .vmov _ => some 0x41#8
  | .vmovImm _ => some 0x4E#8
  | .vext _ => some 0x42#8
  | .vpop _ => some 0x43#8
  | .vclz _ => some 0x44#8
  | .vbfx _ => some 0x45#8
  | .vbfi _ => some 0x46#8
  | .vdot4 _ => some 0x47#8
  | .fadd _ => some 0x50#8
  | .faddImm _ => some 0x64#8
  | .fsub _ => some 0x51#8
  | .fmul _ => some 0x52#8
  | .fmulImm _ => some 0x65#8
  | .ffma _ => some 0x53#8
  | .fmin _ => some 0x54#8
  | .fminImm _ => some 0x66#8
  | .fmax _ => some 0x55#8
  | .fmaxImm _ => some 0x67#8
  | .fabs _ => some 0x56#8
  | .fneg _ => some 0x57#8
  | .fcsgn _ => some 0x58#8
  | .fcmp _ => some 0x59#8
  | .fclass _ => some 0x5A#8
  | .frcp _ => some 0x5B#8
  | .frsq _ => some 0x5C#8
  | .fsqrt _ => some 0x5D#8
  | .fexp2 _ => some 0x5E#8
  | .flog2 _ => some 0x5F#8
  | .fsin _ => some 0x60#8
  | .fcos _ => some 0x61#8
  | .ftanh _ => some 0x62#8
  | .fexp _ => some 0x63#8
  | .cvt _ => some 0x68#8
  | .cvtp _ => some 0x69#8
  | .bpack _ => some 0x6A#8
  | .bunpk _ => some 0x6B#8
  | .bscl _ => some 0x6C#8
  | .cvtx _ => some 0x6D#8
  | .shfl _ => some 0x70#8
  | .vote _ => some 0x71#8
  | .vred _ => some 0x72#8
  | .vredQ _ => some 0x72#8
  | .vscan _ => some 0x73#8
  | .vbcast _ => some 0x74#8
  | .ld _ => some 0x80#8
  | .st _ => some 0x81#8
  | .pref _ => some 0x82#8
  | .aadd _ => some 0x83#8
  | .amin _ => some 0x84#8
  | .amax _ => some 0x85#8
  | .aand _ => some 0x86#8
  | .aor _ => some 0x87#8
  | .axor _ => some 0x88#8
  | .axch _ => some 0x89#8
  | .acas _ => some 0x8A#8
  | .xadd _ => some 0x8B#8
  | .xrd _ => some 0x8C#8
  | .xst _ => some 0x8D#8
  | .fence _ => some 0x8E#8
  | .fenceSc _ => some 0x8F#8
  | .fenceScPod _ => some 0x8F#8
  | .fenceFmt _ => some 0x90#8
  | .mma _ => some 0xA0#8
  | .tileAlloc _ => some 0xA1#8
  | .tileFree _ => some 0xA2#8
  | .tileZero _ => some 0xA3#8
  | .tileLd _ => some 0xA4#8
  | .tileSt _ => some 0xA5#8
  | .tileDrain _ => some 0xA6#8
  | .tileRd _ => some 0xA7#8
  | .tileWr _ => some 0xA8#8
  | .tileMov _ => some 0xA9#8
  | .barInit _ => some 0xC0#8
  | .barArrive _ => some 0xC1#8
  | .barWait _ => some 0xC2#8
  | .barInval _ => some 0xC3#8
  | .semInc _ => some 0xC4#8
  | .semWait _ => some 0xC5#8
  | .waitv _ => some 0xC6#8
  | .spawn _ => some 0xC7#8
  | .joinW _ => some 0xC8#8
  | .lwait _ => some 0xC9#8
  | .copy _ => some 0xCA#8
  | .copy2d _ => some 0xCA#8
  | .gath _ => some 0xCB#8
  | .scat _ => some 0xCC#8
  | .coll _ => some 0xCD#8
  | .engQ _ => some 0xCE#8
  | .srd _ => some 0xE0#8
  | .srdMbin _ => some 0xE0#8
  | .srdv _ => some 0xE1#8
  | .swr _ => some 0xE2#8
  | .dbg _ => some 0xE3#8
  | .tlbinv _ => some 0xE4#8
  | .icinv _ => some 0xE5#8
  | .tableWalk .. | .faultptrTailWrite .. | .pagedoneRelease .. | .pagedoneFail .. | .shootdown .. 
  | .shootdownAck .. | .shootdownDone .. | .shootdownTimeout .. | .migrationWindow .. | .replicaInsert .. 
  | .replicaRemove .. | .replicaRemoveAll .. | .replicaReservedOp .. | .replicaCommandDone .. 
  | .translationRequest .. | .leaseGrant .. | .nack .. | .notready .. | .ready .. | .leaseRecall .. | .recallAck .. 
  | .leaseExpiry .. | .peerRead .. | .peerWrite .. | .peerAtomic .. | .completion .. | .peerRequestTimeout .. 
  | .linkCredit .. | .flitRetry .. | .sliceRequest .. | .sectorFill .. | .l1Fill .. | .storeAck .. 
  | .missStatusGrant .. | .retryReissue .. | .landing .. | .xstAccept .. | .dramRefresh .. | .rowIdleClose .. 
  | .hashOpen .. | .hashReady .. | .hashMaskWrite .. | .hashClose .. | .formatWindowEnable .. 
  | .formatWindowActive .. | .formatWindowDisable .. | .formatFlushDone .. | .registerWrite .. 
  | .binAgeExpiry .. | .cobblerDrain .. | .recordSend .. | .recordData .. | .ack .. | .handoffTimeout .. 
  | .commit .. | .refuse .. | .cellarExhaustion .. | .placement .. | .placementWaitTimeout .. 
  | .splitWaitTimeout .. | .priorityPreemption .. | .haltRequest .. | .issueSlotTake .. | .teamMove .. 
  | .qbell .. | .queueEnable .. | .queueDisable .. | .launchStart .. | .teamCreate .. | .launchComplete .. 
  | .distLoad | .distLoadDone | .matrixUnitExecute .. | .engineChunkDone .. | .engineOpDone .. 
  | .engineCheckpoint .. | .collectiveData .. | .collectiveStageDone .. | .collectiveAbort .. 
  | .packageHeartbeat | .podTickSend | .podTick .. | .podTickAdopt .. | .slotEdge | .frameBoundary | .wheelTurn 
  | .wheelPosition .. | .engineOverrun | .drainWindowEnd | .slotTableLoad | .slotTableEnable | .slotTableDisable 
  | .partitionRebuild | .tenantReset .. | .tenantResetDone .. | .arbiterMessage .. | .selfTest .. 
  | .dbgctlHalt .. | .mbinWrite .. | .mboutRead .. | .hostRead .. | .hostWrite .. | .routeOpen | .routeReady 
  | .podrtWrite .. | .routeClose | .firmwareStage | .attestRequest .. | .attestDone .. | .packageBoot 
  | .thermalThrottle | .thermalShutdown | .diePowerGating .. | .fabricPortStateChange .. | .firmwareStageDone 
  | .partitionRebuildDone => none

/-- Bits 63:56 of the instruction's word. -/
def Statement (i : Instr) : Prop := (encode i).map (fun w => w.extractLsb' 56 8) = opcodeOf i

/-- The high bits of an append are its left part. -/
theorem high_append {n : Nat} (x : BitVec 8) (y : BitVec n) : (x ++ y).extractLsb' n 8 = x := by
  apply BitVec.eq_of_getLsbD_eq
  intro i hi
  simp [BitVec.getLsbD_append, hi]

/-- Bits above an append's right part are bits of its left part. -/
theorem high_step {m n k : Nat} (x : BitVec m) (y : BitVec n) : (x ++ y).extractLsb' (k + n) 8 = x.extractLsb' k 8 := by
  apply BitVec.eq_of_getLsbD_eq
  intro i hi
  have h : ¬ k + n + i < n := by omega
  simp [BitVec.getLsbD_append, h, hi, show k + n + i - n = k + i by omega]

theorem encodeUr_high (op : BitVec 8) (w : UrWord) : (encodeUr op w).extractLsb' 56 8 = op := by
  unfold encodeUr
  exact (high_step (k := 51) (n := 5) _ _).trans ((high_step (k := 48) (n := 3) _ _).trans ((high_step (k := 43) (n := 5) _ _).trans ((high_step (k := 33) (n := 10) _ _).trans ((high_step (k := 23) (n := 10) _ _).trans ((high_step (k := 13) (n := 10) _ _).trans ((high_step (k := 5) (n := 8) _ _).trans (high_append _ _)))))))

theorem encodeUi_high (op : BitVec 8) (w : UiWord) : (encodeUi op w).extractLsb' 56 8 = op := by
  unfold encodeUi
  exact (high_step (k := 31) (n := 25) _ _).trans ((high_step (k := 28) (n := 3) _ _).trans ((high_step (k := 23) (n := 5) _ _).trans ((high_step (k := 13) (n := 10) _ _).trans ((high_step (k := 5) (n := 8) _ _).trans (high_append _ _)))))

theorem encodeVr_high (op : BitVec 8) (w : VrWord) : (encodeVr op w).extractLsb' 56 8 = op := by
  unfold encodeVr
  exact (high_step (k := 51) (n := 5) _ _).trans ((high_step (k := 48) (n := 3) _ _).trans ((high_step (k := 43) (n := 5) _ _).trans ((high_step (k := 33) (n := 10) _ _).trans ((high_step (k := 23) (n := 10) _ _).trans ((high_step (k := 13) (n := 10) _ _).trans ((high_step (k := 5) (n := 8) _ _).trans ((high_step (k := 4) (n := 1) _ _).trans (high_append _ _))))))))

theorem encodeVi_high (op : BitVec 8) (w : ViWord) : (encodeVi op w).extractLsb' 56 8 = op := by
  unfold encodeVi
  exact (high_step (k := 31) (n := 25) _ _).trans ((high_step (k := 28) (n := 3) _ _).trans ((high_step (k := 23) (n := 5) _ _).trans ((high_step (k := 13) (n := 10) _ _).trans ((high_step (k := 5) (n := 8) _ _).trans ((high_step (k := 4) (n := 1) _ _).trans (high_append _ _))))))

theorem encodeMem_high (op : BitVec 8) (w : MemWord) : (encodeMem op w).extractLsb' 56 8 = op := by
  unfold encodeMem
  exact (high_step (k := 55) (n := 1) _ _).trans ((high_step (k := 52) (n := 3) _ _).trans ((high_step (k := 50) (n := 2) _ _).trans ((high_step (k := 47) (n := 3) _ _).trans ((high_step (k := 43) (n := 4) _ _).trans ((high_step (k := 31) (n := 12) _ _).trans ((high_step (k := 21) (n := 10) _ _).trans ((high_step (k := 13) (n := 8) _ _).trans ((high_step (k := 5) (n := 8) _ _).trans ((high_step (k := 4) (n := 1) _ _).trans (high_append _ _))))))))))

theorem encodeMma_high (op : BitVec 8) (w : MmaWord) : (encodeMma op w).extractLsb' 56 8 = op := by
  unfold encodeMma
  exact (high_step (k := 51) (n := 5) _ _).trans ((high_step (k := 43) (n := 8) _ _).trans ((high_step (k := 39) (n := 4) _ _).trans ((high_step (k := 38) (n := 1) _ _).trans ((high_step (k := 37) (n := 1) _ _).trans ((high_step (k := 34) (n := 3) _ _).trans ((high_step (k := 29) (n := 5) _ _).trans ((high_step (k := 24) (n := 5) _ _).trans ((high_step (k := 16) (n := 8) _ _).trans ((high_step (k := 8) (n := 8) _ _).trans ((high_step (k := 5) (n := 3) _ _).trans ((high_step (k := 4) (n := 1) _ _).trans (high_append _ _))))))))))))

theorem encodeCtl_high (op : BitVec 8) (w : CtlWord) : (encodeCtl op w).extractLsb' 56 8 = op := by
  unfold encodeCtl
  exact (high_step (k := 32) (n := 24) _ _).trans ((high_step (k := 31) (n := 1) _ _).trans ((high_step (k := 28) (n := 3) _ _).trans ((high_step (k := 23) (n := 5) _ _).trans ((high_step (k := 13) (n := 10) _ _).trans ((high_step (k := 5) (n := 8) _ _).trans ((high_step (k := 4) (n := 1) _ _).trans (high_append _ _)))))))

theorem encodeSyn_high (op : BitVec 8) (w : SynWord) : (encodeSyn op w).extractLsb' 56 8 = op := by
  unfold encodeSyn
  exact (high_step (k := 52) (n := 4) _ _).trans ((high_step (k := 48) (n := 4) _ _).trans ((high_step (k := 45) (n := 3) _ _).trans ((high_step (k := 42) (n := 3) _ _).trans ((high_step (k := 36) (n := 6) _ _).trans ((high_step (k := 32) (n := 4) _ _).trans ((high_step (k := 29) (n := 3) _ _).trans ((high_step (k := 21) (n := 8) _ _).trans ((high_step (k := 13) (n := 8) _ _).trans ((high_step (k := 5) (n := 8) _ _).trans ((high_step (k := 4) (n := 1) _ _).trans (high_append _ _)))))))))))

theorem uadd (w : UrWord) : Statement (.uadd w) := congrArg some (encodeUr_high _ w)
theorem uaddImm (w : UiWord) : Statement (.uaddImm w) := congrArg some (encodeUi_high _ w)
theorem usub (w : UrWord) : Statement (.usub w) := congrArg some (encodeUr_high _ w)
theorem umul (w : UrWord) : Statement (.umul w) := congrArg some (encodeUr_high _ w)
theorem umulImm (w : UiWord) : Statement (.umulImm w) := congrArg some (encodeUi_high _ w)
theorem umulh (w : UrWord) : Statement (.umulh w) := congrArg some (encodeUr_high _ w)
theorem umad (w : UrWord) : Statement (.umad w) := congrArg some (encodeUr_high _ w)
theorem udiv (w : UrWord) : Statement (.udiv w) := congrArg some (encodeUr_high _ w)
theorem urem (w : UrWord) : Statement (.urem w) := congrArg some (encodeUr_high _ w)
theorem umin (w : UrWord) : Statement (.umin w) := congrArg some (encodeUr_high _ w)
theorem umax (w : UrWord) : Statement (.umax w) := congrArg some (encodeUr_high _ w)
theorem uand (w : UrWord) : Statement (.uand w) := congrArg some (encodeUr_high _ w)
theorem uandImm (w : UiWord) : Statement (.uandImm w) := congrArg some (encodeUi_high _ w)
theorem uor (w : UrWord) : Statement (.uor w) := congrArg some (encodeUr_high _ w)
theorem uorImm (w : UiWord) : Statement (.uorImm w) := congrArg some (encodeUi_high _ w)
theorem uxor (w : UrWord) : Statement (.uxor w) := congrArg some (encodeUr_high _ w)
theorem uxorImm (w : UiWord) : Statement (.uxorImm w) := congrArg some (encodeUi_high _ w)
theorem uandn (w : UrWord) : Statement (.uandn w) := congrArg some (encodeUr_high _ w)
theorem ushl (w : UrWord) : Statement (.ushl w) := congrArg some (encodeUr_high _ w)
theorem ushr (w : UrWord) : Statement (.ushr w) := congrArg some (encodeUr_high _ w)
theorem urot (w : UrWord) : Statement (.urot w) := congrArg some (encodeUr_high _ w)
theorem ucmp (w : UrWord) : Statement (.ucmp w) := congrArg some (encodeUr_high _ w)
theorem ucmpImm (w : UiWord) : Statement (.ucmpImm w) := congrArg some (encodeUi_high _ w)
theorem usel (w : UrWord) : Statement (.usel w) := congrArg some (encodeUr_high _ w)
theorem umov (w : UrWord) : Statement (.umov w) := congrArg some (encodeUr_high _ w)
theorem umovImm (w : UiWord) : Statement (.umovImm w) := congrArg some (encodeUi_high _ w)
theorem uext (w : UrWord) : Statement (.uext w) := congrArg some (encodeUr_high _ w)
theorem upop (w : UrWord) : Statement (.upop w) := congrArg some (encodeUr_high _ w)
theorem uclz (w : UrWord) : Statement (.uclz w) := congrArg some (encodeUr_high _ w)
theorem ubfx (w : UrWord) : Statement (.ubfx w) := congrArg some (encodeUr_high _ w)
theorem ulea (w : UrWord) : Statement (.ulea w) := congrArg some (encodeUr_high _ w)
theorem ucat (w : UiWord) : Statement (.ucat w) := congrArg some (encodeUi_high _ w)
theorem bra (w : CtlWord) : Statement (.bra w) := congrArg some (encodeCtl_high _ w)
theorem brc (w : CtlWord) : Statement (.brc w) := congrArg some (encodeCtl_high _ w)
theorem brv (w : CtlWord) : Statement (.brv w) := congrArg some (encodeCtl_high _ w)
theorem call (w : CtlWord) : Statement (.call w) := congrArg some (encodeCtl_high _ w)
theorem callr (w : CtlWord) : Statement (.callr w) := congrArg some (encodeCtl_high _ w)
theorem ret (w : CtlWord) : Statement (.ret w) := congrArg some (encodeCtl_high _ w)
theorem jtab (w : CtlWord) : Statement (.jtab w) := congrArg some (encodeCtl_high _ w)
theorem exitW (w : CtlWord) : Statement (.exitW w) := congrArg some (encodeCtl_high _ w)
theorem trap (w : CtlWord) : Statement (.trap w) := congrArg some (encodeCtl_high _ w)
theorem brk (w : CtlWord) : Statement (.brk w) := congrArg some (encodeCtl_high _ w)
theorem nop (w : CtlWord) : Statement (.nop w) := congrArg some (encodeCtl_high _ w)
theorem yield (w : CtlWord) : Statement (.yield w) := congrArg some (encodeCtl_high _ w)
theorem qput (w : UrWord) : Statement (.qput w) := congrArg some (encodeUr_high _ w)
theorem qget (w : VrWord) : Statement (.qget w) := congrArg some (encodeVr_high _ w)
theorem qret (w : VrWord) : Statement (.qret w) := congrArg some (encodeVr_high _ w)
theorem qrcvB64 (w : UrWord) : Statement (.qrcvB64 w) := congrArg some (encodeUr_high _ w)
theorem qrcvB32 (w : UrWord) : Statement (.qrcvB32 w) := congrArg some (encodeUr_high _ w)
theorem vadd (w : VrWord) : Statement (.vadd w) := congrArg some (encodeVr_high _ w)
theorem vaddImm (w : ViWord) : Statement (.vaddImm w) := congrArg some (encodeVi_high _ w)
theorem vsub (w : VrWord) : Statement (.vsub w) := congrArg some (encodeVr_high _ w)
theorem vmul (w : VrWord) : Statement (.vmul w) := congrArg some (encodeVr_high _ w)
theorem vmulImm (w : ViWord) : Statement (.vmulImm w) := congrArg some (encodeVi_high _ w)
theorem vmulh (w : VrWord) : Statement (.vmulh w) := congrArg some (encodeVr_high _ w)
theorem vmad (w : VrWord) : Statement (.vmad w) := congrArg some (encodeVr_high _ w)
theorem vmin (w : VrWord) : Statement (.vmin w) := congrArg some (encodeVr_high _ w)
theorem vmax (w : VrWord) : Statement (.vmax w) := congrArg some (encodeVr_high _ w)
theorem vabs (w : VrWord) : Statement (.vabs w) := congrArg some (encodeVr_high _ w)
theorem vand (w : VrWord) : Statement (.vand w) := congrArg some (encodeVr_high _ w)
theorem vandImm (w : ViWord) : Statement (.vandImm w) := congrArg some (encodeVi_high _ w)
theorem vor (w : VrWord) : Statement (.vor w) := congrArg some (encodeVr_high _ w)
theorem vorImm (w : ViWord) : Statement (.vorImm w) := congrArg some (encodeVi_high _ w)
theorem vxor (w : VrWord) : Statement (.vxor w) := congrArg some (encodeVr_high _ w)
theorem vxorImm (w : ViWord) : Statement (.vxorImm w) := congrArg some (encodeVi_high _ w)
theorem vandn (w : VrWord) : Statement (.vandn w) := congrArg some (encodeVr_high _ w)
theorem vshl (w : VrWord) : Statement (.vshl w) := congrArg some (encodeVr_high _ w)
theorem vshr (w : VrWord) : Statement (.vshr w) := congrArg some (encodeVr_high _ w)
theorem vrot (w : VrWord) : Statement (.vrot w) := congrArg some (encodeVr_high _ w)
theorem vcmp (w : VrWord) : Statement (.vcmp w) := congrArg some (encodeVr_high _ w)
theorem vcmpImm (w : ViWord) : Statement (.vcmpImm w) := congrArg some (encodeVi_high _ w)
theorem vsel (w : VrWord) : Statement (.vsel w) := congrArg some (encodeVr_high _ w)
theorem vselImm (w : ViWord) : Statement (.vselImm w) := congrArg some (encodeVi_high _ w)
theorem vmov (w : VrWord) : Statement (.vmov w) := congrArg some (encodeVr_high _ w)
theorem vmovImm (w : ViWord) : Statement (.vmovImm w) := congrArg some (encodeVi_high _ w)
theorem vext (w : VrWord) : Statement (.vext w) := congrArg some (encodeVr_high _ w)
theorem vpop (w : VrWord) : Statement (.vpop w) := congrArg some (encodeVr_high _ w)
theorem vclz (w : VrWord) : Statement (.vclz w) := congrArg some (encodeVr_high _ w)
theorem vbfx (w : VrWord) : Statement (.vbfx w) := congrArg some (encodeVr_high _ w)
theorem vbfi (w : VrWord) : Statement (.vbfi w) := congrArg some (encodeVr_high _ w)
theorem vdot4 (w : VrWord) : Statement (.vdot4 w) := congrArg some (encodeVr_high _ w)
theorem fadd (w : VrWord) : Statement (.fadd w) := congrArg some (encodeVr_high _ w)
theorem faddImm (w : ViWord) : Statement (.faddImm w) := congrArg some (encodeVi_high _ w)
theorem fsub (w : VrWord) : Statement (.fsub w) := congrArg some (encodeVr_high _ w)
theorem fmul (w : VrWord) : Statement (.fmul w) := congrArg some (encodeVr_high _ w)
theorem fmulImm (w : ViWord) : Statement (.fmulImm w) := congrArg some (encodeVi_high _ w)
theorem ffma (w : VrWord) : Statement (.ffma w) := congrArg some (encodeVr_high _ w)
theorem fmin (w : VrWord) : Statement (.fmin w) := congrArg some (encodeVr_high _ w)
theorem fminImm (w : ViWord) : Statement (.fminImm w) := congrArg some (encodeVi_high _ w)
theorem fmax (w : VrWord) : Statement (.fmax w) := congrArg some (encodeVr_high _ w)
theorem fmaxImm (w : ViWord) : Statement (.fmaxImm w) := congrArg some (encodeVi_high _ w)
theorem fabs (w : VrWord) : Statement (.fabs w) := congrArg some (encodeVr_high _ w)
theorem fneg (w : VrWord) : Statement (.fneg w) := congrArg some (encodeVr_high _ w)
theorem fcsgn (w : VrWord) : Statement (.fcsgn w) := congrArg some (encodeVr_high _ w)
theorem fcmp (w : VrWord) : Statement (.fcmp w) := congrArg some (encodeVr_high _ w)
theorem fclass (w : VrWord) : Statement (.fclass w) := congrArg some (encodeVr_high _ w)
theorem frcp (w : VrWord) : Statement (.frcp w) := congrArg some (encodeVr_high _ w)
theorem frsq (w : VrWord) : Statement (.frsq w) := congrArg some (encodeVr_high _ w)
theorem fsqrt (w : VrWord) : Statement (.fsqrt w) := congrArg some (encodeVr_high _ w)
theorem fexp2 (w : VrWord) : Statement (.fexp2 w) := congrArg some (encodeVr_high _ w)
theorem flog2 (w : VrWord) : Statement (.flog2 w) := congrArg some (encodeVr_high _ w)
theorem fsin (w : VrWord) : Statement (.fsin w) := congrArg some (encodeVr_high _ w)
theorem fcos (w : VrWord) : Statement (.fcos w) := congrArg some (encodeVr_high _ w)
theorem ftanh (w : VrWord) : Statement (.ftanh w) := congrArg some (encodeVr_high _ w)
theorem fexp (w : VrWord) : Statement (.fexp w) := congrArg some (encodeVr_high _ w)
theorem cvt (w : VrWord) : Statement (.cvt w) := congrArg some (encodeVr_high _ w)
theorem cvtp (w : VrWord) : Statement (.cvtp w) := congrArg some (encodeVr_high _ w)
theorem bpack (w : VrWord) : Statement (.bpack w) := congrArg some (encodeVr_high _ w)
theorem bunpk (w : VrWord) : Statement (.bunpk w) := congrArg some (encodeVr_high _ w)
theorem bscl (w : VrWord) : Statement (.bscl w) := congrArg some (encodeVr_high _ w)
theorem cvtx (w : VrWord) : Statement (.cvtx w) := congrArg some (encodeVr_high _ w)
theorem shfl (w : VrWord) : Statement (.shfl w) := congrArg some (encodeVr_high _ w)
theorem vote (w : VrWord) : Statement (.vote w) := congrArg some (encodeVr_high _ w)
theorem vred (w : VrWord) : Statement (.vred w) := congrArg some (encodeVr_high _ w)
theorem vredQ (w : VrWord) : Statement (.vredQ w) := congrArg some (encodeVr_high _ w)
theorem vscan (w : VrWord) : Statement (.vscan w) := congrArg some (encodeVr_high _ w)
theorem vbcast (w : VrWord) : Statement (.vbcast w) := congrArg some (encodeVr_high _ w)
theorem ld (w : MemWord) : Statement (.ld w) := congrArg some (encodeMem_high _ w)
theorem st (w : MemWord) : Statement (.st w) := congrArg some (encodeMem_high _ w)
theorem pref (w : MemWord) : Statement (.pref w) := congrArg some (encodeMem_high _ w)
theorem aadd (w : MemWord) : Statement (.aadd w) := congrArg some (encodeMem_high _ w)
theorem amin (w : MemWord) : Statement (.amin w) := congrArg some (encodeMem_high _ w)
theorem amax (w : MemWord) : Statement (.amax w) := congrArg some (encodeMem_high _ w)
theorem aand (w : MemWord) : Statement (.aand w) := congrArg some (encodeMem_high _ w)
theorem aor (w : MemWord) : Statement (.aor w) := congrArg some (encodeMem_high _ w)
theorem axor (w : MemWord) : Statement (.axor w) := congrArg some (encodeMem_high _ w)
theorem axch (w : MemWord) : Statement (.axch w) := congrArg some (encodeMem_high _ w)
theorem acas (w : MemWord) : Statement (.acas w) := congrArg some (encodeMem_high _ w)
theorem xadd (w : MemWord) : Statement (.xadd w) := congrArg some (encodeMem_high _ w)
theorem xrd (w : MemWord) : Statement (.xrd w) := congrArg some (encodeMem_high _ w)
theorem xst (w : MemWord) : Statement (.xst w) := congrArg some (encodeMem_high _ w)
theorem fence (w : MemWord) : Statement (.fence w) := congrArg some (encodeMem_high _ w)
theorem fenceSc (w : MemWord) : Statement (.fenceSc w) := congrArg some (encodeMem_high _ w)
theorem fenceScPod (w : MemWord) : Statement (.fenceScPod w) := congrArg some (encodeMem_high _ w)
theorem fenceFmt (w : MemWord) : Statement (.fenceFmt w) := congrArg some (encodeMem_high _ w)
theorem mma (w : MmaWord) : Statement (.mma w) := congrArg some (encodeMma_high _ w)
theorem tileAlloc (w : MmaWord) : Statement (.tileAlloc w) := congrArg some (encodeMma_high _ w)
theorem tileFree (w : MmaWord) : Statement (.tileFree w) := congrArg some (encodeMma_high _ w)
theorem tileZero (w : MmaWord) : Statement (.tileZero w) := congrArg some (encodeMma_high _ w)
theorem tileLd (w : MmaWord) : Statement (.tileLd w) := congrArg some (encodeMma_high _ w)
theorem tileSt (w : MmaWord) : Statement (.tileSt w) := congrArg some (encodeMma_high _ w)
theorem tileDrain (w : MmaWord) : Statement (.tileDrain w) := congrArg some (encodeMma_high _ w)
theorem tileRd (w : MmaWord) : Statement (.tileRd w) := congrArg some (encodeMma_high _ w)
theorem tileWr (w : MmaWord) : Statement (.tileWr w) := congrArg some (encodeMma_high _ w)
theorem tileMov (w : MmaWord) : Statement (.tileMov w) := congrArg some (encodeMma_high _ w)
theorem barInit (w : SynWord) : Statement (.barInit w) := congrArg some (encodeSyn_high _ w)
theorem barArrive (w : SynWord) : Statement (.barArrive w) := congrArg some (encodeSyn_high _ w)
theorem barWait (w : SynWord) : Statement (.barWait w) := congrArg some (encodeSyn_high _ w)
theorem barInval (w : SynWord) : Statement (.barInval w) := congrArg some (encodeSyn_high _ w)
theorem semInc (w : SynWord) : Statement (.semInc w) := congrArg some (encodeSyn_high _ w)
theorem semWait (w : SynWord) : Statement (.semWait w) := congrArg some (encodeSyn_high _ w)
theorem waitv (w : SynWord) : Statement (.waitv w) := congrArg some (encodeSyn_high _ w)
theorem spawn (w : SynWord) : Statement (.spawn w) := congrArg some (encodeSyn_high _ w)
theorem joinW (w : SynWord) : Statement (.joinW w) := congrArg some (encodeSyn_high _ w)
theorem lwait (w : SynWord) : Statement (.lwait w) := congrArg some (encodeSyn_high _ w)
theorem copy (w : SynWord) : Statement (.copy w) := congrArg some (encodeSyn_high _ w)
theorem copy2d (w : SynWord) : Statement (.copy2d w) := congrArg some (encodeSyn_high _ w)
theorem gath (w : SynWord) : Statement (.gath w) := congrArg some (encodeSyn_high _ w)
theorem scat (w : SynWord) : Statement (.scat w) := congrArg some (encodeSyn_high _ w)
theorem coll (w : SynWord) : Statement (.coll w) := congrArg some (encodeSyn_high _ w)
theorem engQ (w : SynWord) : Statement (.engQ w) := congrArg some (encodeSyn_high _ w)
theorem srd (w : UrWord) : Statement (.srd w) := congrArg some (encodeUr_high _ w)
theorem srdMbin (w : UrWord) : Statement (.srdMbin w) := congrArg some (encodeUr_high _ w)
theorem srdv (w : VrWord) : Statement (.srdv w) := congrArg some (encodeVr_high _ w)
theorem swr (w : UrWord) : Statement (.swr w) := congrArg some (encodeUr_high _ w)
theorem dbg (w : SynWord) : Statement (.dbg w) := congrArg some (encodeSyn_high _ w)
theorem tlbinv (w : UrWord) : Statement (.tlbinv w) := congrArg some (encodeUr_high _ w)
theorem icinv (w : UrWord) : Statement (.icinv w) := congrArg some (encodeUr_high _ w)
theorem tableWalk (core ctx va : Nat) (acc : Access) : Statement (.tableWalk core ctx va acc) := rfl
theorem faultptrTailWrite (fn slot : Nat) (val : BitVec 64) : Statement (.faultptrTailWrite fn slot val) := rfl
theorem pagedoneRelease (fn : Nat) (val : BitVec 64) : Statement (.pagedoneRelease fn val) := rfl
theorem pagedoneFail (fn : Nat) (val : BitVec 64) : Statement (.pagedoneFail fn val) := rfl
theorem shootdown (fn slot : Nat) (val : BitVec 64) : Statement (.shootdown fn slot val) := rfl
theorem shootdownAck (ctx : Nat) (agent : TlbOwner) : Statement (.shootdownAck ctx agent) := rfl
theorem shootdownDone (ctx : Nat) : Statement (.shootdownDone ctx) := rfl
theorem shootdownTimeout (ctx : Nat) : Statement (.shootdownTimeout ctx) := rfl
theorem migrationWindow (ctx : Nat) : Statement (.migrationWindow ctx) := rfl
theorem replicaInsert (die : Nat) : Statement (.replicaInsert die) := rfl
theorem replicaRemove (die : Nat) : Statement (.replicaRemove die) := rfl
theorem replicaRemoveAll (die : Nat) : Statement (.replicaRemoveAll die) := rfl
theorem replicaReservedOp (die : Nat) : Statement (.replicaReservedOp die) := rfl
theorem replicaCommandDone (die : Nat) : Statement (.replicaCommandDone die) := rfl
theorem translationRequest (pkg fn addr txn : Nat) : Statement (.translationRequest pkg fn addr txn) := rfl
theorem leaseGrant (txn frame : Nat) (writable : Bool) (lease expiry : Nat) : Statement (.leaseGrant txn frame writable lease expiry) := rfl
theorem nack (txn : Nat) : Statement (.nack txn) := rfl
theorem notready (txn : Nat) : Statement (.notready txn) := rfl
theorem ready (pkg page : Nat) : Statement (.ready pkg page) := rfl
theorem leaseRecall (pkg lease : Nat) : Statement (.leaseRecall pkg lease) := rfl
theorem recallAck (pkg lease : Nat) : Statement (.recallAck pkg lease) := rfl
theorem leaseExpiry (lease : Nat) : Statement (.leaseExpiry lease) := rfl
theorem peerRead (pkg fn lease addr bytes txn : Nat) : Statement (.peerRead pkg fn lease addr bytes txn) := rfl
theorem peerWrite (pkg fn lease addr : Nat) (data : List (BitVec 8)) (txn : Nat) : Statement (.peerWrite pkg fn lease addr data txn) := rfl
theorem peerAtomic (pkg fn lease addr : Nat) (op : AtomicOp) (wide : Bool) (operand compare : BitVec 64) (txn : Nat) : Statement (.peerAtomic pkg fn lease addr op wide operand compare txn) := rfl
theorem completion (txn : Nat) (data : List (BitVec 8)) (aborted : Bool) : Statement (.completion txn data aborted) := rfl
theorem peerRequestTimeout (txn : Nat) : Statement (.peerRequestTimeout txn) := rfl
theorem linkCredit (port flits : Nat) : Statement (.linkCredit port flits) := rfl
theorem flitRetry (port : Nat) : Statement (.flitRetry port) := rfl
theorem sliceRequest (fn pa : Nat) (store : Bool) : Statement (.sliceRequest fn pa store) := rfl
theorem sectorFill (pa : Nat) : Statement (.sectorFill pa) := rfl
theorem l1Fill (core pa : Nat) : Statement (.l1Fill core pa) := rfl
theorem storeAck (core : Nat) (loc : Loc) : Statement (.storeAck core loc) := rfl
theorem missStatusGrant (core : Nat) : Statement (.missStatusGrant core) := rfl
theorem retryReissue (uid : Nat) : Statement (.retryReissue uid) := rfl
theorem landing (uid tag : Nat) : Statement (.landing uid tag) := rfl
theorem xstAccept (uid : Nat) : Statement (.xstAccept uid) := rfl
theorem dramRefresh (bank : BankId) : Statement (.dramRefresh bank) := rfl
theorem rowIdleClose (bank : BankId) : Statement (.rowIdleClose bank) := rfl
theorem hashOpen (die : Nat) : Statement (.hashOpen die) := rfl
theorem hashReady (die : Nat) : Statement (.hashReady die) := rfl
theorem hashMaskWrite (die reg : Nat) (val : BitVec 64) : Statement (.hashMaskWrite die reg val) := rfl
theorem hashClose (die : Nat) : Statement (.hashClose die) := rfl
theorem formatWindowEnable (win : Nat) : Statement (.formatWindowEnable win) := rfl
theorem formatWindowActive (win : Nat) : Statement (.formatWindowActive win) := rfl
theorem formatWindowDisable (win : Nat) : Statement (.formatWindowDisable win) := rfl
theorem formatFlushDone (seq : Nat) : Statement (.formatFlushDone seq) := rfl
theorem registerWrite (fn off : Nat) (val : BitVec 64) : Statement (.registerWrite fn off val) := rfl
theorem binAgeExpiry (rec : Nat) : Statement (.binAgeExpiry rec) := rfl
theorem cobblerDrain (rec : Nat) : Statement (.cobblerDrain rec) := rfl
theorem recordSend (rec pkg die : Nat) : Statement (.recordSend rec pkg die) := rfl
theorem recordData (pkg txn die : Nat) (image : List (BitVec 8)) : Statement (.recordData pkg txn die image) := rfl
theorem ack (rec : Nat) : Statement (.ack rec) := rfl
theorem handoffTimeout (rec : Nat) : Statement (.handoffTimeout rec) := rfl
theorem commit (rec : Nat) : Statement (.commit rec) := rfl
theorem refuse (rec : Nat) : Statement (.refuse rec) := rfl
theorem cellarExhaustion (fn : Nat) : Statement (.cellarExhaustion fn) := rfl
theorem placement (uid : Nat) : Statement (.placement uid) := rfl
theorem placementWaitTimeout (uid : Nat) : Statement (.placementWaitTimeout uid) := rfl
theorem splitWaitTimeout (uid : Nat) : Statement (.splitWaitTimeout uid) := rfl
theorem priorityPreemption (fn queue : Nat) : Statement (.priorityPreemption fn queue) := rfl
theorem haltRequest (uid cause : Nat) : Statement (.haltRequest uid cause) := rfl
theorem issueSlotTake (core slot : Nat) : Statement (.issueSlotTake core slot) := rfl
theorem teamMove (launch team : Nat) (members : List Nat) : Statement (.teamMove launch team members) := rfl
theorem qbell (fn queue : Nat) : Statement (.qbell fn queue) := rfl
theorem queueEnable (fn queue : Nat) (val : BitVec 64) : Statement (.queueEnable fn queue val) := rfl
theorem queueDisable (fn queue : Nat) (val : BitVec 64) : Statement (.queueDisable fn queue val) := rfl
theorem launchStart (fn queue : Nat) : Statement (.launchStart fn queue) := rfl
theorem teamCreate (fn queue : Nat) : Statement (.teamCreate fn queue) := rfl
theorem launchComplete (launch : Nat) : Statement (.launchComplete launch) := rfl
theorem distLoad : Statement (.distLoad) := rfl
theorem distLoadDone : Statement (.distLoadDone) := rfl
theorem matrixUnitExecute (core : Nat) : Statement (.matrixUnitExecute core) := rfl
theorem engineChunkDone (op : Nat) : Statement (.engineChunkDone op) := rfl
theorem engineOpDone (op : Nat) : Statement (.engineOpDone op) := rfl
theorem engineCheckpoint (op : Nat) : Statement (.engineCheckpoint op) := rfl
theorem collectiveData (op peer : Nat) (data : List (BitVec 8)) : Statement (.collectiveData op peer data) := rfl
theorem collectiveStageDone (op : Nat) : Statement (.collectiveStageDone op) := rfl
theorem collectiveAbort (op : Nat) : Statement (.collectiveAbort op) := rfl
theorem packageHeartbeat : Statement (.packageHeartbeat) := rfl
theorem podTickSend : Statement (.podTickSend) := rfl
theorem podTick (count stamp : Nat) : Statement (.podTick count stamp) := rfl
theorem podTickAdopt (count : Nat) : Statement (.podTickAdopt count) := rfl
theorem slotEdge : Statement (.slotEdge) := rfl
theorem frameBoundary : Statement (.frameBoundary) := rfl
theorem wheelTurn : Statement (.wheelTurn) := rfl
theorem wheelPosition (die cls pos : Nat) : Statement (.wheelPosition die cls pos) := rfl
theorem engineOverrun : Statement (.engineOverrun) := rfl
theorem drainWindowEnd : Statement (.drainWindowEnd) := rfl
theorem slotTableLoad : Statement (.slotTableLoad) := rfl
theorem slotTableEnable : Statement (.slotTableEnable) := rfl
theorem slotTableDisable : Statement (.slotTableDisable) := rfl
theorem partitionRebuild : Statement (.partitionRebuild) := rfl
theorem tenantReset (fn : Nat) : Statement (.tenantReset fn) := rfl
theorem tenantResetDone (fn : Nat) : Statement (.tenantResetDone fn) := rfl
theorem arbiterMessage (fn : Nat) : Statement (.arbiterMessage fn) := rfl
theorem selfTest (unit : HwUnit) (lasting : Bool) : Statement (.selfTest unit lasting) := rfl
theorem dbgctlHalt (fn core : Nat) : Statement (.dbgctlHalt fn core) := rfl
theorem mbinWrite (fn core : Nat) (val : BitVec 64) : Statement (.mbinWrite fn core val) := rfl
theorem mboutRead (fn core : Nat) : Statement (.mboutRead fn core) := rfl
theorem hostRead (fn off bytes : Nat) : Statement (.hostRead fn off bytes) := rfl
theorem hostWrite (fn off : Nat) (store : HostStore) : Statement (.hostWrite fn off store) := rfl
theorem routeOpen : Statement (.routeOpen) := rfl
theorem routeReady : Statement (.routeReady) := rfl
theorem podrtWrite (pkg : Nat) (val : BitVec 64) : Statement (.podrtWrite pkg val) := rfl
theorem routeClose : Statement (.routeClose) := rfl
theorem firmwareStage : Statement (.firmwareStage) := rfl
theorem attestRequest (fn : Nat) : Statement (.attestRequest fn) := rfl
theorem attestDone (fn : Nat) : Statement (.attestDone fn) := rfl
theorem packageBoot : Statement (.packageBoot) := rfl
theorem thermalThrottle : Statement (.thermalThrottle) := rfl
theorem thermalShutdown : Statement (.thermalShutdown) := rfl
theorem diePowerGating (die : Nat) : Statement (.diePowerGating die) := rfl
theorem fabricPortStateChange (port : Nat) (up : Bool) : Statement (.fabricPortStateChange port up) := rfl
theorem firmwareStageDone : Statement (.firmwareStageDone) := rfl
theorem partitionRebuildDone : Statement (.partitionRebuildDone) := rfl

end Sys2Proof.Laws.OpcodeField
end

