-- ==== Sys2Proof/Laws/Regs.lean ====
section
/-! SUPPORT. The registers: what is stored reads back, and no other register changes. -/

namespace Sys2Proof.Machine

open Sys2Proof

/-- A list's first cell of a register, past a filter that keeps every cell of it. -/
theorem find_filter_ne (l : List RegCell) (fn off f o : Nat) (h : f ≠ fn ∨ o ≠ off) :
    (l.filter fun r => !(r.fn == fn && r.off == off)).find? (fun r => r.fn == f && r.off == o) =
      l.find? fun r => r.fn == f && r.off == o := by
  induction l with
  | nil => rfl
  | cons r l ih =>
    by_cases hr : r.fn = fn ∧ r.off = off
    · rw [List.filter_cons_of_neg (by simp [hr]), ih, List.find?_cons_of_neg]
      simp only [Bool.and_eq_true, beq_iff_eq, not_and]
      rintro rfl rfl
      rcases h with h | h
      · exact h hr.1
      · exact h hr.2
    · rw [List.filter_cons_of_pos (by simp only [Bool.not_eq_true', Bool.and_eq_false_iff, beq_eq_false_iff_ne]; exact Decidable.not_and_iff_or_not.1 hr)]
      simp only [List.find?_cons, ih]

/-- No cell of a register is left by the filter that drops it. -/
theorem find_filter_eq (l : List RegCell) (fn off : Nat) :
    (l.filter fun r => !(r.fn == fn && r.off == off)).find? (fun r => r.fn == fn && r.off == off) = none := by
  simp only [List.find?_eq_none, List.mem_filter]
  rintro x ⟨-, hx⟩ hy
  simp [hy] at hx

/-- The cells after a register is stored. -/
theorem setReg_regs (s : State) (fn off val : Nat) : (s.setReg fn off val).regs =
    if val % 2 ^ 64 == (regSpec fn off).elim 0 RegSpec.reset then s.regs.filter fun r => !(r.fn == fn && r.off == off)
    else { fn, off, val := BitVec.ofNat 64 val } :: s.regs.filter fun r => !(r.fn == fn && r.off == off) := by
  unfold State.setReg
  dsimp only
  split <;> rfl

/-- What is stored reads back. -/
@[simp] theorem setReg_reg (s : State) (fn off val : Nat) : (s.setReg fn off val).reg fn off = val % 2 ^ 64 := by
  unfold State.reg State.regRaw
  rw [setReg_regs]
  by_cases h : (val % 2 ^ 64 == (regSpec fn off).elim 0 RegSpec.reset) = true
  · rw [if_pos h, find_filter_eq]
    simp only [beq_iff_eq] at h
    simp [← h]
  · rw [if_neg h]
    simp

/-- No other register changes. -/
theorem setReg_reg_ne (s : State) (fn off val f o : Nat) (h : f ≠ fn ∨ o ≠ off) :
    (s.setReg fn off val).reg f o = s.reg f o := by
  unfold State.reg State.regRaw
  rw [setReg_regs]
  by_cases hv : (val % 2 ^ 64 == (regSpec fn off).elim 0 RegSpec.reset) = true
  · rw [if_pos hv, find_filter_ne _ _ _ _ _ h]
  · rw [if_neg hv, List.find?_cons_of_neg, find_filter_ne _ _ _ _ _ h]
    simp only [Bool.and_eq_true, beq_iff_eq, not_and]
    rintro rfl rfl
    rcases h with h | h <;> exact h rfl

theorem reg_lt (s : State) (fn off : Nat) : s.reg fn off < 2 ^ 64 := (s.regRaw ..).isLt

/-- Bits set, one at a time. -/
@[simp] theorem regSet_bit (s : State) (fn off bits i : Nat) (hi : i < 64) :
    bitOf ((s.regSet fn off bits).reg fn off) i = (bitOf (s.reg fn off) i || bits.testBit i) := by
  simp only [State.regSet, setReg_reg, bitOf, Nat.testBit_mod_two_pow, hi, decide_true, Bool.true_and, Nat.testBit_or]

/-- Bits cleared, one at a time. -/
@[simp] theorem regClear_bit (s : State) (fn off bits i : Nat) (hi : i < 64) :
    bitOf ((s.regClear fn off bits).reg fn off) i = (bitOf (s.reg fn off) i && !bits.testBit i) := by
  simp only [State.regClear, setReg_reg, bitOf, Nat.testBit_mod_two_pow, hi, decide_true, Bool.true_and, Nat.testBit_and,
    Nat.testBit_xor, maskAll, Nat.testBit_two_pow_sub_one, Bool.xor_true]

theorem regSet_ne (s : State) (fn off bits f o : Nat) (h : f ≠ fn ∨ o ≠ off) :
    (s.regSet fn off bits).reg f o = s.reg f o := setReg_reg_ne _ _ _ _ _ _ h
theorem regClear_ne (s : State) (fn off bits f o : Nat) (h : f ≠ fn ∨ o ≠ off) :
    (s.regClear fn off bits).reg f o = s.reg f o := setReg_reg_ne _ _ _ _ _ _ h
theorem regField_ne (s : State) (fn off hi lo val f o : Nat) (h : f ≠ fn ∨ o ≠ off) :
    (s.regField fn off hi lo val).reg f o = s.reg f o := setReg_reg_ne _ _ _ _ _ _ h

/-- A field replaced, one bit at a time. -/
theorem regField_bit (s : State) (fn off hi lo val i : Nat) (hi' : i < 64) (hl : lo ≤ hi) :
    bitOf ((s.regField fn off hi lo val).reg fn off) i =
      if lo ≤ i ∧ i ≤ hi then val.testBit (i - lo) else bitOf (s.reg fn off) i := by
  have hm : (maskBits hi lo).testBit i = decide (lo ≤ i ∧ i ≤ hi) := by
    rw [maskBits, Nat.testBit_mul_two_pow, Nat.testBit_two_pow_sub_one]
    rw [Bool.eq_iff_iff]
    simp only [Bool.and_eq_true, decide_eq_true_eq]
    omega
  simp only [State.regField, setReg_reg, bitOf, Nat.testBit_mod_two_pow, hi', decide_true, Bool.true_and, Nat.testBit_or,
    Nat.testBit_and, Nat.testBit_xor, hm, maskAll, Nat.testBit_two_pow_sub_one, Nat.testBit_mul_two_pow]
  by_cases h : lo ≤ i ∧ i ≤ hi
  · simp [h]
  · simp [h]

/-- A field replaced reads back. -/
theorem regField_field (s : State) (fn off hi lo val : Nat) (hh : hi < 64) (hl : lo ≤ hi) :
    (s.regField fn off hi lo val).field fn off hi lo = val % 2 ^ (hi - lo + 1) := by
  apply Nat.eq_of_testBit_eq
  intro i
  rw [State.field, slice, Nat.testBit_mod_two_pow, Nat.testBit_mod_two_pow, Nat.testBit_shiftRight]
  by_cases h : i < hi - lo + 1
  · have := regField_bit s fn off hi lo val (lo + i) (by omega) hl
    rw [bitOf] at this
    rw [this, if_pos (by omega)]
    simp [h]
  · simp [h]

end Sys2Proof.Machine
end

