-- ==== Sys2Proof/Tests/Slice0.lean ====
section
/-! SUPPORT. Tests: words of the spec's encodings, ill-formed words, and for each statement a concrete state and operands
that meet its hypotheses. -/

open Sys2Proof Sys2Proof.Machine Sys2Proof.Claims

set_option Elab.async false

set_option linter.unusedVariables false
namespace Sys2Proof.Tests

/-! ## Small states -/

/-- The package after its boot. -/
def booted : State := { State.reset with regs := [{ fn := 0, off := 0xF9F0, val := 1#64 }] }

/-- Cohort 0 of function 0 at an instruction's word, in the midst of its step, changed by `g`. -/
def here (i : Instr) (g : Cohort → Cohort := id) : State :=
  { State.reset.withFetchWord 64 (wordOf i).toNat with cohorts := [g probeCohort], cur := some 0 }
/-- Its cohort. -/
def runner (s : State) : Cohort := s.current.getD probeCohort
/-- The state and the cohort past the stall point, and past the matrix words. -/
def stalled (s : State) : State × Cohort := s.tileStores (runner s).drain
def resumed (s : State) : State × Cohort := (stalled s).1.matrixDrain (calm (stalled s).2)
/-- The header at an address. -/
def headerOf (s : State) (c : Cohort) (va : Nat) : Header :=
  match s.headerAt c va with
  | .good h => h
  | _ => { len := 0, livev := 0, lives := 0, reconv := 0, kept := false, susp := false, entry := false }
/-- Words of memory written. -/
def poke (ws : List (Nat × Word64)) (s : State) : State :=
  { s with mem := ws.foldl (fun m p => cellsWrite m p.1 (wordBytes p.2)) s.mem }
/-- Uniform registers set. -/
def sregs (xs : List (Nat × Nat)) (c : Cohort) : Cohort := xs.foldl (fun d p => d.setSreg p.1 (BitVec.ofNat 64 p.2)) c
/-- Two lanes, of which lane 1 has `p1`. -/
def twoLanes (c : Cohort) : Cohort :=
  { c with fibres := c.fibres ++ c.fibres.map fun f => { f with lane := 1, preds := 2#8 } }
/-- The guards `p0` and `p1`. -/
def always : Guard := ⟨false, 0⟩
def never : Guard := ⟨false, 1⟩

/-- The state and the cohort past the stall point of a word that the scalar side may have passed. -/
def stalledAt (passed : Bool) (s : State) : State × Cohort := s.tileStores ((runner s).atStop passed)

theorem passes_of {p : Bool} {s0 : State} {i : Instr} {g : Guard} {runs : List RegRun} {preds : List Nat} {c : Cohort}
    (h : s0.current = some c ∧ i.wf = true ∧ (s0.tileStores (c.atStop p)).2.failed = none ∧
      (s0.tileStores (c.atStop p)).2.outside runs = false ∧ (s0.tileStores (c.atStop p)).2.latchLive = false ∧
      (s0.tileStores (c.atStop p)).2.hazard runs = false ∧
      (s0.tileStores (c.atStop p)).2.predHazard (g.psel.toNat :: preds) = false) :
    Passes p s0 i g runs preds c (s0.tileStores (c.atStop p)).1 (s0.tileStores (c.atStop p)).2 :=
  ⟨h.1, h.2.1, rfl, h.2.2.1, h.2.2.2.1, h.2.2.2.2.1, h.2.2.2.2.2.1, h.2.2.2.2.2.2⟩

/-- Blank words of each format, whose fields the tests change. -/
def blankUr : UrWord := ⟨0, .vreg 0, .vreg 0, .vreg 0, .n64, 0, 0⟩
def blankVr : VrWord := ⟨always, false, 0, .vreg 0, .vreg 0, .vreg 0, .n32, 0, 0⟩
def blankMem : MemWord := ⟨always, false, 0, 0, .imm 0, 0, 0, 4, 0, 0, false⟩
def blankFence : MemWord := ⟨always, false, 0, 0, .vreg 0, 0, 0, 0, 0, 0, false⟩
def blankMma : MmaWord := ⟨always, 0, 0, 0, 0, 0, 0, false, false, 0, 0, 0⟩
def blankSyn : SynWord := ⟨always, 0, 0, 0, 0, 0, 0, 0, 0, 0, 0⟩
/-- A row that no word gives. -/
def noRow : VecRow := ⟨vrOp blankVr [] false 4, false, 0, fun _ => 0⟩

/-- A team of the probe's launch, with its allocation of scratchpad and barrier 0 valid. -/
def withTeam (s : State) : State :=
  { s with
    teams := [{ launch := 1, num := 0, fn := 0, span := 0, inst := 0, foot := 1024, fibres := 1, members := [0]
                barriers := { Barrier.fresh with valid := true, expA := 1 } :: List.replicate 15 Barrier.fresh }]
    allocs := [{ core := 0, launch := 1, team := 0, size := 1024, row := 0, data := [] }] }
/-- Tile 0 of core 0 owned under handle 0, and tile 1 under handle 1. -/
def withTile (s : State) : State :=
  s.putCore { s.core 0 with tiles := [⟨some (0, 0), []⟩, ⟨some (0, 1), []⟩] }
/-- A writable page with EXACT at 4 MiB. -/
def withExact (s : State) : State :=
  { s.setReg 0 0x1000 1 with tlbs := [{ owner := .core 0, ctx := 0, page := 0x400000, size := 0x10000
                                        leaf := 0x9000000000400003, frame := 0x400000, writable := true }] }
/-- A Cellar and an Attic of 1 MiB each for function 0. -/
def withCellar (s : State) : State := (s.setReg 0 0x4008 (2 ^ 20)).setReg 0 0x4018 (2 ^ 20)
/-- An engine operation accepted. -/
def withOp (e : EngineOp) (s : State) : State := { s with engines := [e] }
theorem resumes_of {s0 : State} {i : Instr} {g : Guard} {runs : List RegRun} {preds : List Nat} {h : Header}
    (hr : Ready s0 i g runs preds (runner s0) (stalled s0).1 (stalled s0).2)
    (hs : (resumed s0).2.failed = none ∧ (resumed s0).1.peerOpen (resumed s0).2 = false ∧ (resumed s0).2.lastWord = true ∧
      (resumed s0).1.headerAt (resumed s0).2 ((resumed s0).2.pc + 8) = .good h ∧ h.susp = true ∧
      h.liveV ≤ (resumed s0).2.window) :
    Resumes s0 i g runs preds (runner s0) (resumed s0).1 (resumed s0).2 h :=
  ⟨⟨_, _, hr, rfl⟩, hs.1, hs.2.1, hs.2.2.1, hs.2.2.2.1, hs.2.2.2.2.1, hs.2.2.2.2.2⟩

theorem access_of {s0 s : State} {i : Instr} {w : MemWord} {runs : List RegRun} {tag : Option Nat} {c d : Cohort}
    (hr : Passes (!w.ua) s0 i w.guard runs [] c s d) (ht : ∀ n ∈ tag.toList, d.tagBusy n = false) (ha : d.active w.guard ≠ []) :
    AtAccess s0 i w runs tag c s d := ⟨hr, fun n hn => ht n (by simp [hn]), fun _ => ha⟩

theorem tile_of {s0 s : State} {i : Instr} {w : MmaWord} {runs : List RegRun} {preds : List Nat} {tag : Option Nat} {c d : Cohort}
    {tile : Nat} (hr : Passes true s0 i w.guard runs preds c s d) (ht : ∀ n ∈ tag.toList, d.tagBusy n = false)
    (h : s.tileOf (calm d) w.th.toNat = some tile) : AtTile s0 i w runs preds tag c s d tile :=
  ⟨hr, fun n hn => ht n (by simp [hn]), h⟩

theorem owes_none {s : State} {c : Cohort} (h : s.owedBy c.uid = none) :
    ∀ o, s.owedBy c.uid = some o → 5 ≤ o.1 → s.peerOpen c = false := fun o ho => by simp [h] at ho

theorem clear_of {s : State} {c : Cohort} {accs : List Acc} {rd wr : Bool} {len : Nat}
    (h : accs.find? Acc.failed = none ∧ s.abortedReq c.uid = none ∧
      wantedPeers ((if rd then 1 else 0) + (if wr then 2 else 0)) accs = [] ∧ s.watchTrap c rd wr len accs = none ∧
      s.owedBy c.uid = none) :
    Clear s c accs rd wr len := ⟨h.1, h.2.1, h.2.2.1, h.2.2.2.1, fun _ => owes_none h.2.2.2.2⟩

theorem free_of {s : State} {c : Cohort} {scope : Nat} (h : s.owedBy c.uid = none ∧ (paid s c).peerOpen c = false) :
    freeToRelease s c scope := ⟨owes_none h.1, fun _ => h.2⟩

theorem ends_of {s : State} {c : Cohort} (h : (s.matrixDrain c).1.peerOpen (s.matrixDrain c).2 = false) :
    segmentEnds s c ((s.matrixDrain c).1.closeOut (s.matrixDrain c).2).1 ((s.matrixDrain c).1.closeOut (s.matrixDrain c).2).2 :=
  ⟨_, _, rfl, h, rfl⟩

/-- A cohort's end, a record of the probe's fibre in a place, and a cohort that waits for its core. -/
def suspends : Cause := ⟨.continuation, 0x10000, false, 0, false, 4, 4, none, 0, none, false, false, none, .plain⟩
def aRecord (p : Place) : Record := { State.reset.makeRecord probeCohort suspends 0 .none 5 probeCohort.fibres with place := p }
def withRecord (r : Record) : State := { withCellar booted with records := [r] }
def anUnplaced : Unplaced :=
  { cohort := probeCohort, cause := 0, since := 0, die := 0, writer := none, semCore := none, bound := none
    keptFlag := false, limits := [], heavy := false, overdue := false, fromTeam := true, tileData := [] }
/-- A launch of one team of one fibre, and its queue 0 with its QCB at 0x40000, whose ring at 0x50000 holds it. -/
def aLaunch : Launch :=
  { num := 1, fn := 0, slot := 0, queue := 0, seq := 0, prio := 1, entry := 0x10000, win := 1, stack := 0, span := 0
    pinned := false, irq := false, foot := 0, teams := 1, fibres := 1, members := 0, split := 255, args := []
    doneAddr := 0, next := 0, status := 0, complete := false }
def aView : QueueView := { fn := 0, queue := 0, base := 0x40000, head := 1, tail := 0, doneSeq := 0, desc := none, since := none, bound := none }
def withQueue : State :=
  { poke [(0x40000, 1), (0x40008, 0x50000), (0x40010, 0x0801), (0x50000, 0x10000), (0x50008, 1), (0x50010, 0x100000001),
          (0x50018, 0xFF000000)]
      (((withCellar booted).setReg 0 0x1800 0x40001).setReg 0 0x4000 0x800000 |>.setReg 0 0x4010 0xA00000 |>.setReg 0 0x4038 1) with queueViews := [aView] }
/-- An operation of the engine, and one of a collective. -/
def copyOp : EngineOp :=
  { id := 1, opcode := 0xCA, mod := 0, cnt := 4, co := 0, obj := 0, fn := 0, ctx := 0, launch := 1, team := 0, core := 0, tag := 0, win := 1
    regs := [0x40000, 0x20000, 0x30000, 64], done := 0, counted := 0, chunk := 0, moves := [], state := .queued, borrowed := none
    since := 0, stops := false, ended := none
    coll := ⟨0, 0, 0, false, 0, 0, []⟩ }
def collOp : EngineOp := { copyOp with opcode := 0xCD, state := .running, coll := ⟨0, 0, 0, true, 0, 0, []⟩ }
/-- A request to package 1, and a lease granted to it. -/
def aRequest (k : PeerKind) : PeerReq :=
  { txn := 9, uid := 0, core := some 0, die := 0, ctx := 0, fn := 0, pkg := 1, page := 0x20000, addr := 0x20000, va := 0x20000, acc := 1
    lane := 0, lease := 3, kind := k, sent := true, reply := none, aborted := false }
def withRequest (k : PeerKind) : State :=
  { here (.nop ⟨always, 0, .vreg 0, 0, 0, false, 0⟩) with peerReqs := [aRequest k] }
def withLease : State :=
  { booted with leases := [{ id := 3, pkg := 1, fn := 0, ctx := 0, page := 0x20000, frame := 0x20000, writable := true
                             expiry := 5, recalled := false }] }
/-- The import table at 0x20000, with an entry for function 0 of package 1. -/
def withImports : State :=
  poke [(0x20000, 0x0003000000000001)] (((booted.setReg 0 0xF908 0x20001).setReg 0 0x1010 (2 ^ 21)).setReg 0 0x1020 6)
/-- A slot table in force, whose entries are all those of function 0. -/
def withTable : State :=
  { booted.setReg 0 0x9010 1 with
    table := some { entries := List.replicate 16 openEntry, wheels := [], image := [] } }
/-- The next state of an outcome. -/
def landsOn (o : Host.Outcome State Fault Refusal) : Option State := match o with | .next t => some t | _ => none
theorem next_of {o : Host.Outcome State Fault Refusal} {t : State} (h : landsOn o = some t) : o = .next t := by
  cases o <;> simp [landsOn] at h; rw [h]
theorem some_getD {α : Type} {o : Option α} {a : α} (h : o.isSome = true) : o = some (o.getD a) := by
  cases o <;> simp at h ⊢
/-- An access that nothing makes, an error in sector 0, and one in the first bank word of core 0's scratchpad. -/
def noAcc : Acc := { lane := none, team := 0, va := 0, x := .trap { code := .illegal } }
def badSector0 (s : State) : State := { s with badSectors := [0] }
def padBad (s : State) : State := { withTeam s with badWords := [(0, 0, 0)] }
/-- The fibre of the probe. -/
def aFibre : Fibre := probeCohort.fibres.headD { lane := 0, fidx := 0, team := 0, depth := 0, preds := 0, base := 0, regs := []
                                                 frames := [], join := none }
/-- A write of core 0 to a peer that has not yet performed, and its request. -/
def aPost : PendingStore :=
  { core := 0, ctx := 0, placed := 0, lane := some 0, id := 1, request := 0, loc := .peer 1 0x20000, op := .store [some 1]
    uncached := false, txn := some 9, entry := false, grain := none, whole := false, issued := true, rel := [] }
def aPostReq : PeerReq := { aRequest (.write [1]) with lane := 64 }
/-- A miss of a load. -/
def aMiss : MissEntry := { key := .hbm (0xBFFFFFFFFF / 64), fills := true }

/-! ## Words packed by the bit positions of R245 and R257 to R262 -/

theorem test_decode_uniform_1 :
  decode 0x0000440FFF800300#64 = some (.uadd ⟨8, .ureg 7, .imm 0xFF, .vreg 0, .i64, 0, 0⟩) ∧
  decode 0x01004C0FFF000600#64 = some (.usub ⟨9, .ureg 7, .imm 0xFE, .vreg 0, .n32, 0, 0⟩) ∧
  decode 0x0200540FFE800200#64 = some (.umul ⟨10, .ureg 7, .imm 0xFD, .vreg 0, .i32, 0, 0⟩) ∧
  decode 0x03005C0FFE000700#64 = some (.umulh ⟨11, .ureg 7, .imm 0xFC, .vreg 0, .n64, 0, 0⟩) ∧
  decode 0x0400640FFDD3E300#64 = some (.umad ⟨12, .ureg 7, .imm 0xFB, .ureg 159, .i64, 0, 0⟩) ∧
  decode 0x05006C0FFD000600#64 = some (.udiv ⟨13, .ureg 7, .imm 0xFA, .vreg 0, .n32, 0, 0⟩) ∧
  decode 0x0600740FFC800200#64 = some (.urem ⟨14, .ureg 7, .imm 0xF9, .vreg 0, .i32, 0, 0⟩) ∧
  decode 0x07007C0FFC000700#64 = some (.umin ⟨15, .ureg 7, .imm 0xF8, .vreg 0, .n64, 0, 0⟩) ∧
  decode 0x0800840FFB800300#64 = some (.umax ⟨16, .ureg 7, .imm 0xF7, .vreg 0, .i64, 0, 0⟩) ∧
  decode 0x09008C0FFB000900#64 = some (.uand ⟨17, .ureg 7, .imm 0xF6, .vreg 0, .b64, 0, 0⟩) ∧
  decode 0x0A00940FFA800900#64 = some (.uor ⟨18, .ureg 7, .imm 0xF5, .vreg 0, .b64, 0, 0⟩) ∧
  decode 0x0B009C0FFA000900#64 = some (.uxor ⟨19, .ureg 7, .imm 0xF4, .vreg 0, .b64, 0, 0⟩) ∧
  decode 0x0C00A40FF9800900#64 = some (.uandn ⟨20, .ureg 7, .imm 0xF3, .vreg 0, .b64, 0, 0⟩) ∧
  decode 0x0D00AC0FF9000900#64 = some (.ushl ⟨21, .ureg 7, .imm 0xF2, .vreg 0, .b64, 0, 0⟩) ∧
  decode 0x0E00B40FF8800200#64 = some (.ushr ⟨22, .ureg 7, .imm 0xF1, .vreg 0, .i32, 0, 0⟩) ∧
  decode 0x0F00BC0FF8000900#64 = some (.urot ⟨23, .ureg 7, .imm 0xF0, .vreg 0, .b64, 0, 0⟩) := by decide +kernel

theorem test_decode_uniform_2 :
  decode 0x1000C40FF7800360#64 = some (.ucmp ⟨24, .ureg 7, .imm 0xEF, .vreg 0, .i64, 3, 0⟩) ∧
  decode 0x1100CC0FF753E900#64 = some (.usel ⟨25, .ureg 7, .imm 0xEE, .ureg 159, .b64, 0, 0⟩) ∧
  decode 0x1200D40E00000900#64 = some (.umov ⟨26, .ureg 7, .vreg 0, .vreg 0, .b64, 0, 0⟩) ∧
  decode 0x1300DC0FF6000700#64 = some (.uext ⟨27, .ureg 7, .imm 0xEC, .vreg 0, .n64, 0, 0⟩) ∧
  decode 0x1400E40E00000900#64 = some (.upop ⟨28, .ureg 7, .vreg 0, .vreg 0, .b64, 0, 0⟩) ∧
  decode 0x1500EC0E00000900#64 = some (.uclz ⟨29, .ureg 7, .vreg 0, .vreg 0, .b64, 0, 0⟩) ∧
  decode 0x1600F40FF4E06200#64 = some (.ubfx ⟨30, .ureg 7, .imm 0xE9, .imm 0x3, .i32, 0, 0⟩) ∧
  decode 0x1700FC0FF4606700#64 = some (.ulea ⟨31, .ureg 7, .imm 0xE8, .imm 0x3, .n64, 0, 0⟩) ∧
  decode 0x1800241221FFFFFF#64 = some (.uaddImm ⟨4, .ureg 9, .i32, 0, 0x1FFFFFF⟩) ∧
  decode 0x19002C1430000003#64 = some (.umulImm ⟨5, .ureg 10, .i64, 0, 0x3⟩) ∧
  decode 0x1A003416900000FF#64 = some (.uandImm ⟨6, .ureg 11, .b64, 0, 0xFF⟩) ∧
  decode 0x1B003C1881000000#64 = some (.uorImm ⟨7, .ureg 12, .b32, 0, 0x1000000⟩) ∧
  decode 0x1C00441A90000001#64 = some (.uxorImm ⟨8, .ureg 13, .b64, 0, 0x1⟩) ∧
  decode 0x1D004C1C7A000007#64 = some (.ucmpImm ⟨9, .ureg 14, .n64, 5, 0x7⟩) ∧
  decode 0x1E0050003000811A#64 = some (.umovImm ⟨10, .vreg 0, .i64, 0, 0x811A⟩) ∧
  decode 0x1F005C2090567800#64 = some (.ucat ⟨11, .ureg 16, .b64, 0, 0x567800⟩) := by decide +kernel

theorem test_decode_uniform_3 :
  decode 0x2C00040800000900#64 = some (.qput ⟨0, .ureg 4, .vreg 0, .vreg 0, .b64, 0, 0⟩) ∧
  decode 0x2F00800000000900#64 = some (.qrcvB64 ⟨16, .vreg 0, .vreg 0, .vreg 0, .b64, 0, 0⟩) ∧
  decode 0x2F00800182800800#64 = some (.qrcvB32 ⟨16, .vreg 0, .imm 0x5, .vreg 0, .b32, 0, 0⟩) ∧
  decode 0xE00038000000090F#64 = some (.srd ⟨7, .vreg 0, .vreg 0, .vreg 0, .b64, 0, 15⟩) ∧
  decode 0xE000380000000918#64 = some (.srdMbin ⟨7, .vreg 0, .vreg 0, .vreg 0, .b64, 0, 24⟩) ∧
  decode 0xE200040200000919#64 = some (.swr ⟨0, .ureg 1, .vreg 0, .vreg 0, .b64, 0, 25⟩) ∧
  decode 0xE300000000000009#64 = some (.dbg ⟨⟨false, 0⟩, 0, 0, 0, 0, 0, 0, 0, 0, 0, 9⟩) ∧
  decode 0xE4001C0301000900#64 = some (.tlbinv ⟨3, .ureg 1, .ureg 2, .vreg 0, .b64, 0, 0⟩) ∧
  decode 0xE500180101000900#64 = some (.icinv ⟨3, .vreg 0, .ureg 2, .vreg 0, .b64, 0, 0⟩) := by decide +kernel

theorem test_decode_control :
  decode 0x2000000000FFFFFE#64 = some (.bra ⟨⟨false, 0⟩, 0, .vreg 0, 0, 0, false, 0xFFFFFE⟩) ∧
  decode 0x21002EC834FFFFFC#64 = some (.brc ⟨⟨false, 0⟩, 5, .imm 0x64, 3, 2, false, 0xFFFFFC⟩) ∧
  decode 0x22A0000001000009#64 = some (.brv ⟨⟨true, 2⟩, 0, .vreg 0, 0, 0, true, 0x9⟩) ∧
  decode 0x2300061000000071#64 = some (.call ⟨⟨false, 0⟩, 0, .imm 0x8, 0, 0, false, 0x71⟩) ∧
  decode 0x2400F60000000000#64 = some (.callr ⟨⟨false, 0⟩, 30, .imm 0x0, 0, 0, false, 0x0⟩) ∧
  decode 0x2500000000000000#64 = some (.ret ⟨⟨false, 0⟩, 0, .vreg 0, 0, 0, false, 0x0⟩) ∧
  decode 0x2600361800000004#64 = some (.jtab ⟨⟨false, 0⟩, 6, .imm 0xC, 0, 0, false, 0x4⟩) ∧
  decode 0x2730000000000000#64 = some (.exitW ⟨⟨false, 3⟩, 0, .vreg 0, 0, 0, false, 0x0⟩) ∧
  decode 0x280000000000BEEF#64 = some (.trap ⟨⟨false, 0⟩, 0, .vreg 0, 0, 0, false, 0xBEEF⟩) ∧
  decode 0x2900000000000000#64 = some (.brk ⟨⟨false, 0⟩, 0, .vreg 0, 0, 0, false, 0x0⟩) ∧
  decode 0x2A00000000000000#64 = some (.nop ⟨⟨false, 0⟩, 0, .vreg 0, 0, 0, false, 0x0⟩) ∧
  decode 0x2B00000000000000#64 = some (.yield ⟨⟨false, 0⟩, 0, .vreg 0, 0, 0, false, 0x0⟩) := by decide +kernel

theorem test_decode_vector_1 :
  decode 0x2D00300000000900#64 = some (.qget ⟨⟨false, 0⟩, false, 6, .vreg 0, .vreg 0, .vreg 0, .b64, 0, 0⟩) ∧
  decode 0x2E00000600000800#64 = some (.qret ⟨⟨false, 0⟩, false, 0, .vreg 3, .vreg 0, .vreg 0, .b32, 0, 0⟩) ∧
  decode 0x3008020501000200#64 = some (.vadd ⟨⟨false, 0⟩, true, 0, .latch 2, .ureg 2, .vreg 0, .i32, 0, 0⟩) ∧
  decode 0x3110580301000200#64 = some (.vsub ⟨⟨false, 1⟩, false, 11, .vreg 1, .ureg 2, .vreg 0, .i32, 0, 0⟩) ∧
  decode 0x3220600301000200#64 = some (.vmul ⟨⟨false, 2⟩, false, 12, .vreg 1, .ureg 2, .vreg 0, .i32, 0, 0⟩) ∧
  decode 0x3330680301000200#64 = some (.vmulh ⟨⟨false, 3⟩, false, 13, .vreg 1, .ureg 2, .vreg 0, .i32, 0, 0⟩) ∧
  decode 0x34407003010FE200#64 = some (.vmad ⟨⟨false, 4⟩, false, 14, .vreg 1, .ureg 2, .vreg 127, .i32, 0, 0⟩) ∧
  decode 0x3550780301000200#64 = some (.vmin ⟨⟨false, 5⟩, false, 15, .vreg 1, .ureg 2, .vreg 0, .i32, 0, 0⟩) ∧
  decode 0x3660800301000200#64 = some (.vmax ⟨⟨false, 6⟩, false, 16, .vreg 1, .ureg 2, .vreg 0, .i32, 0, 0⟩) ∧
  decode 0x3770880200000200#64 = some (.vabs ⟨⟨false, 7⟩, false, 17, .vreg 1, .vreg 0, .vreg 0, .i32, 0, 0⟩) ∧
  decode 0x3800900301000800#64 = some (.vand ⟨⟨false, 0⟩, false, 18, .vreg 1, .ureg 2, .vreg 0, .b32, 0, 0⟩) ∧
  decode 0x3910980301000800#64 = some (.vor ⟨⟨false, 1⟩, false, 19, .vreg 1, .ureg 2, .vreg 0, .b32, 0, 0⟩) ∧
  decode 0x3A20A00301000800#64 = some (.vxor ⟨⟨false, 2⟩, false, 20, .vreg 1, .ureg 2, .vreg 0, .b32, 0, 0⟩) ∧
  decode 0x3B30A80301000800#64 = some (.vandn ⟨⟨false, 3⟩, false, 21, .vreg 1, .ureg 2, .vreg 0, .b32, 0, 0⟩) ∧
  decode 0x3C40B00301000800#64 = some (.vshl ⟨⟨false, 4⟩, false, 22, .vreg 1, .ureg 2, .vreg 0, .b32, 0, 0⟩) ∧
  decode 0x3D50B80301000200#64 = some (.vshr ⟨⟨false, 5⟩, false, 23, .vreg 1, .ureg 2, .vreg 0, .i32, 0, 0⟩) := by decide +kernel

theorem test_decode_vector_2 :
  decode 0x3E60C00301000800#64 = some (.vrot ⟨⟨false, 6⟩, false, 24, .vreg 1, .ureg 2, .vreg 0, .b32, 0, 0⟩) ∧
  decode 0x3F70280301000280#64 = some (.vcmp ⟨⟨false, 7⟩, false, 5, .vreg 1, .ureg 2, .vreg 0, .i32, 4, 0⟩) ∧
  decode 0x4000D003010FE220#64 = some (.vsel ⟨⟨false, 0⟩, false, 26, .vreg 1, .ureg 2, .vreg 127, .i32, 1, 0⟩) ∧
  decode 0x4110D80200000800#64 = some (.vmov ⟨⟨false, 1⟩, false, 27, .vreg 1, .vreg 0, .vreg 0, .b32, 0, 0⟩) ∧
  decode 0x4220E00301000200#64 = some (.vext ⟨⟨false, 2⟩, false, 28, .vreg 1, .ureg 2, .vreg 0, .i32, 0, 0⟩) ∧
  decode 0x4330E80200000800#64 = some (.vpop ⟨⟨false, 3⟩, false, 29, .vreg 1, .vreg 0, .vreg 0, .b32, 0, 0⟩) ∧
  decode 0x4440F00200000800#64 = some (.vclz ⟨⟨false, 4⟩, false, 30, .vreg 1, .vreg 0, .vreg 0, .b32, 0, 0⟩) ∧
  decode 0x4550F80301606200#64 = some (.vbfx ⟨⟨false, 5⟩, false, 31, .vreg 1, .ureg 2, .imm 0x3, .i32, 0, 0⟩) ∧
  decode 0x46610003010FE807#64 = some (.vbfi ⟨⟨false, 6⟩, false, 32, .vreg 1, .ureg 2, .vreg 127, .b32, 0, 7⟩) ∧
  decode 0x47710803010FE002#64 = some (.vdot4 ⟨⟨false, 7⟩, false, 33, .vreg 1, .ureg 2, .vreg 127, .i8, 0, 2⟩) ∧
  decode 0x4890301031FFFFFF#64 = some (.vaddImm ⟨⟨true, 1⟩, false, 6, .vreg 8, .i64, 0, 0x1FFFFFF⟩) ∧
  decode 0x4990301020000003#64 = some (.vmulImm ⟨⟨true, 1⟩, false, 6, .vreg 8, .i32, 0, 0x3⟩) ∧
  decode 0x4A903010900000FF#64 = some (.vandImm ⟨⟨true, 1⟩, false, 6, .vreg 8, .b64, 0, 0xFF⟩) ∧
  decode 0x4B90301080000002#64 = some (.vorImm ⟨⟨true, 1⟩, false, 6, .vreg 8, .b32, 0, 0x2⟩) ∧
  decode 0x4C90301080000001#64 = some (.vxorImm ⟨⟨true, 1⟩, false, 6, .vreg 8, .b32, 0, 0x1⟩) ∧
  decode 0x4D9018106A000007#64 = some (.vcmpImm ⟨⟨true, 1⟩, false, 3, .vreg 8, .n32, 5, 0x7⟩) := by decide +kernel

theorem test_decode_vector_3 :
  decode 0x4E90300111BF0000#64 = some (.vmovImm ⟨⟨true, 1⟩, false, 6, .vreg 0, .f32, 0, 0x1BF0000⟩) ∧
  decode 0x4F90301022000009#64 = some (.vselImm ⟨⟨true, 1⟩, false, 6, .vreg 8, .i32, 1, 0x9⟩) ∧
  decode 0xE100380000000802#64 = some (.srdv ⟨⟨false, 0⟩, false, 7, .vreg 0, .vreg 0, .vreg 0, .b32, 0, 2⟩) := by decide +kernel

theorem test_decode_float_1 :
  decode 0x5000200402001100#64 = some (.fadd ⟨⟨false, 0⟩, false, 4, .vreg 2, .vreg 4, .vreg 0, .f32, 0, 0⟩) ∧
  decode 0x5100300402001020#64 = some (.fsub ⟨⟨false, 0⟩, false, 6, .vreg 2, .vreg 4, .vreg 0, .f64, 1, 0⟩) ∧
  decode 0x5200400402001240#64 = some (.fmul ⟨⟨false, 0⟩, false, 8, .vreg 2, .vreg 4, .vreg 0, .bf16, 2, 0⟩) ∧
  decode 0x530050040200D360#64 = some (.ffma ⟨⟨false, 0⟩, false, 10, .vreg 2, .vreg 4, .vreg 6, .f16, 3, 0⟩) ∧
  decode 0x5400600402001100#64 = some (.fmin ⟨⟨false, 0⟩, false, 12, .vreg 2, .vreg 4, .vreg 0, .f32, 0, 0⟩) ∧
  decode 0x5500700402001000#64 = some (.fmax ⟨⟨false, 0⟩, false, 14, .vreg 2, .vreg 4, .vreg 0, .f64, 0, 0⟩) ∧
  decode 0x5600800400001200#64 = some (.fabs ⟨⟨false, 0⟩, false, 16, .vreg 2, .vreg 0, .vreg 0, .bf16, 0, 0⟩) ∧
  decode 0x5700900400001300#64 = some (.fneg ⟨⟨false, 0⟩, false, 18, .vreg 2, .vreg 0, .vreg 0, .f16, 0, 0⟩) ∧
  decode 0x5800A00402001100#64 = some (.fcsgn ⟨⟨false, 0⟩, false, 20, .vreg 2, .vreg 4, .vreg 0, .f32, 0, 0⟩) ∧
  decode 0x59001004020010C0#64 = some (.fcmp ⟨⟨false, 0⟩, false, 2, .vreg 2, .vreg 4, .vreg 0, .f64, 6, 0⟩) ∧
  decode 0x5A00C00400001200#64 = some (.fclass ⟨⟨false, 0⟩, false, 24, .vreg 2, .vreg 0, .vreg 0, .bf16, 0, 0⟩) ∧
  decode 0x5B00D00400001100#64 = some (.frcp ⟨⟨false, 0⟩, false, 26, .vreg 2, .vreg 0, .vreg 0, .f32, 0, 0⟩) ∧
  decode 0x5C00E00400001100#64 = some (.frsq ⟨⟨false, 0⟩, false, 28, .vreg 2, .vreg 0, .vreg 0, .f32, 0, 0⟩) ∧
  decode 0x5D00F00400001100#64 = some (.fsqrt ⟨⟨false, 0⟩, false, 30, .vreg 2, .vreg 0, .vreg 0, .f32, 0, 0⟩) ∧
  decode 0x5E01000400001100#64 = some (.fexp2 ⟨⟨false, 0⟩, false, 32, .vreg 2, .vreg 0, .vreg 0, .f32, 0, 0⟩) ∧
  decode 0x5F01100400001100#64 = some (.flog2 ⟨⟨false, 0⟩, false, 34, .vreg 2, .vreg 0, .vreg 0, .f32, 0, 0⟩) := by decide +kernel

theorem test_decode_float_2 :
  decode 0x6001200400001100#64 = some (.fsin ⟨⟨false, 0⟩, false, 36, .vreg 2, .vreg 0, .vreg 0, .f32, 0, 0⟩) ∧
  decode 0x6101300400001100#64 = some (.fcos ⟨⟨false, 0⟩, false, 38, .vreg 2, .vreg 0, .vreg 0, .f32, 0, 0⟩) ∧
  decode 0x6201400400001100#64 = some (.ftanh ⟨⟨false, 0⟩, false, 40, .vreg 2, .vreg 0, .vreg 0, .f32, 0, 0⟩) ∧
  decode 0x6301500400001100#64 = some (.fexp ⟨⟨false, 0⟩, false, 42, .vreg 2, .vreg 0, .vreg 0, .f32, 0, 0⟩) ∧
  decode 0x6400301110003F80#64 = some (.faddImm ⟨⟨false, 0⟩, false, 6, .vreg 8, .f32, 0, 0x3F80⟩) ∧
  decode 0x6500301100003F80#64 = some (.fmulImm ⟨⟨false, 0⟩, false, 6, .vreg 8, .f64, 0, 0x3F80⟩) ∧
  decode 0x6600301120003F80#64 = some (.fminImm ⟨⟨false, 0⟩, false, 6, .vreg 8, .bf16, 0, 0x3F80⟩) ∧
  decode 0x6700301130003F80#64 = some (.fmaxImm ⟨⟨false, 0⟩, false, 6, .vreg 8, .f16, 0, 0x3F80⟩) ∧
  decode 0x6800400200001102#64 = some (.cvt ⟨⟨false, 0⟩, false, 8, .vreg 1, .vreg 0, .vreg 0, .f32, 0, 2⟩) ∧
  decode 0x6900400201001211#64 = some (.cvtp ⟨⟨false, 0⟩, false, 8, .vreg 1, .vreg 2, .vreg 0, .bf16, 0, 17⟩) ∧
  decode 0x6A00400800001712#64 = some (.bpack ⟨⟨false, 0⟩, false, 8, .vreg 4, .vreg 0, .vreg 0, .bs4, 0, 18⟩) ∧
  decode 0x6B00400981001214#64 = some (.bunpk ⟨⟨false, 0⟩, false, 8, .vreg 4, .imm 0x2, .vreg 0, .bf16, 0, 20⟩) ∧
  decode 0x6C004009FF801200#64 = some (.bscl ⟨⟨false, 0⟩, false, 8, .vreg 4, .imm 0xFF, .vreg 0, .bf16, 0, 0⟩) ∧
  decode 0x6D00200201001391#64 = some (.cvtx ⟨⟨false, 0⟩, false, 4, .vreg 1, .vreg 2, .vreg 0, .f16, 4, 17⟩) := by decide +kernel

theorem test_decode_cross :
  decode 0x7000200380800800#64 = some (.shfl ⟨⟨false, 0⟩, false, 4, .vreg 1, .imm 0x1, .vreg 0, .b32, 0, 0⟩) ∧
  decode 0x7100200000000800#64 = some (.vote ⟨⟨false, 0⟩, false, 4, .vreg 0, .vreg 0, .vreg 0, .b32, 0, 0⟩) ∧
  decode 0x7200200200001100#64 = some (.vred ⟨⟨false, 0⟩, false, 4, .vreg 1, .vreg 0, .vreg 0, .f32, 0, 0⟩) ∧
  decode 0x7200000200001108#64 = some (.vredQ ⟨⟨false, 0⟩, false, 0, .vreg 1, .vreg 0, .vreg 0, .f32, 0, 8⟩) ∧
  decode 0x7300200200000200#64 = some (.vscan ⟨⟨false, 0⟩, false, 4, .vreg 1, .vreg 0, .vreg 0, .i32, 0, 0⟩) ∧
  decode 0x7400200304800800#64 = some (.vbcast ⟨⟨false, 0⟩, false, 4, .vreg 1, .ureg 9, .vreg 0, .b32, 0, 0⟩) := by decide +kernel

theorem test_decode_memory_1 :
  decode 0x8000204807FF0558#64 = some (.ld ⟨⟨false, 0⟩, false, 4, 9, .vreg 3, 0xFF8, 2, 5, 1, 4, false⟩) ∧
  decode 0x8100384C0A01012D#64 = some (.st ⟨⟨false, 0⟩, false, 7, 9, .ureg 5, 0x8, 0, 4, 2, 6, true⟩) ∧
  decode 0x8200004E20080000#64 = some (.pref ⟨⟨false, 0⟩, false, 0, 9, .imm 0x10, 0x40, 0, 0, 0, 0, false⟩) ∧
  decode 0x8300280E00010300#64 = some (.aadd ⟨⟨false, 0⟩, false, 5, 1, .imm 0x0, 0x8, 1, 4, 0, 0, false⟩) ∧
  decode 0x8400280E00010512#64 = some (.amin ⟨⟨false, 0⟩, false, 5, 1, .imm 0x0, 0x8, 2, 4, 1, 1, false⟩) ∧
  decode 0x8500280E00010722#64 = some (.amax ⟨⟨false, 0⟩, false, 5, 1, .imm 0x0, 0x8, 3, 4, 2, 1, false⟩) ∧
  decode 0x8600280E00010932#64 = some (.aand ⟨⟨false, 0⟩, false, 5, 1, .imm 0x0, 0x8, 4, 4, 3, 1, false⟩) ∧
  decode 0x8700280E00010B00#64 = some (.aor ⟨⟨false, 0⟩, false, 5, 1, .imm 0x0, 0x8, 5, 4, 0, 0, false⟩) ∧
  decode 0x8800280E00010D12#64 = some (.axor ⟨⟨false, 0⟩, false, 5, 1, .imm 0x0, 0x8, 6, 4, 1, 1, false⟩) ∧
  decode 0x8900280E00010F22#64 = some (.axch ⟨⟨false, 0⟩, false, 5, 1, .imm 0x0, 0x8, 7, 4, 2, 1, false⟩) ∧
  decode 0x8A00400C04000738#64 = some (.acas ⟨⟨false, 0⟩, false, 8, 1, .ureg 2, 0x0, 3, 4, 3, 4, false⟩) ∧
  decode 0x8B00280806000128#64 = some (.xadd ⟨⟨false, 0⟩, false, 5, 1, .vreg 3, 0x0, 0, 4, 2, 4, false⟩) ∧
  decode 0x8C00280806000900#64 = some (.xrd ⟨⟨false, 0⟩, false, 5, 1, .vreg 3, 0x0, 4, 4, 0, 0, false⟩) ∧
  decode 0x8D00280806000128#64 = some (.xst ⟨⟨false, 0⟩, false, 5, 1, .vreg 3, 0x0, 0, 4, 2, 4, false⟩) ∧
  decode 0x8E00000000000026#64 = some (.fence ⟨⟨false, 0⟩, false, 0, 0, .vreg 0, 0x0, 0, 0, 2, 3, false⟩) ∧
  decode 0x8F00000000000000#64 = some (.fenceSc ⟨⟨false, 0⟩, false, 0, 0, .vreg 0, 0x0, 0, 0, 0, 0, false⟩) := by decide +kernel

theorem test_decode_memory_2 :
  decode 0x8F0000000000000A#64 = some (.fenceScPod ⟨⟨false, 0⟩, false, 0, 0, .vreg 0, 0x0, 0, 0, 0, 5, false⟩) ∧
  decode 0x9000000000000000#64 = some (.fenceFmt ⟨⟨false, 0⟩, false, 0, 0, .vreg 0, 0x0, 0, 0, 0, 0, false⟩) := by decide +kernel

theorem test_decode_matrix :
  decode 0xA0020814BDC002C0#64 = some (.mma ⟨⟨false, 0⟩, 2, 8, 20, 23, 23, 0, false, false, 0, 22, 0⟩) ∧
  decode 0xA107000000000000#64 = some (.tileAlloc ⟨⟨false, 0⟩, 7, 0, 0, 0, 0, 0, false, false, 0, 0, 0⟩) ∧
  decode 0xA206000000000000#64 = some (.tileFree ⟨⟨false, 0⟩, 6, 0, 0, 0, 0, 0, false, false, 0, 0, 0⟩) ∧
  decode 0xA315000000000000#64 = some (.tileZero ⟨⟨false, 1⟩, 5, 0, 0, 0, 0, 0, false, false, 0, 0, 0⟩) ∧
  decode 0xA401000240000000#64 = some (.tileLd ⟨⟨false, 0⟩, 1, 0, 2, 8, 0, 0, false, false, 0, 0, 0⟩) ∧
  decode 0xA501000240000000#64 = some (.tileSt ⟨⟨false, 0⟩, 1, 0, 2, 8, 0, 0, false, false, 0, 0, 0⟩) ∧
  decode 0xA603000E8C800201#64 = some (.tileDrain ⟨⟨false, 0⟩, 3, 0, 14, 17, 18, 0, false, false, 0, 16, 1⟩) ∧
  decode 0xA704080200012000#64 = some (.tileRd ⟨⟨false, 0⟩, 4, 8, 2, 0, 0, 0, false, false, 9, 0, 0⟩) ∧
  decode 0xA804080200000000#64 = some (.tileWr ⟨⟨false, 0⟩, 4, 8, 2, 0, 0, 0, false, false, 0, 0, 0⟩) ∧
  decode 0xA900000000000003#64 = some (.tileMov ⟨⟨false, 0⟩, 0, 0, 0, 0, 0, 0, false, false, 0, 0, 3⟩) := by decide +kernel

theorem test_decode_sync :
  decode 0xC000505800500000#64 = some (.barInit ⟨⟨false, 0⟩, 10, 11, 0, 0, 5, 0, 0, 0, 0, 0⟩) ∧
  decode 0xC110000000600000#64 = some (.barArrive ⟨⟨false, 1⟩, 0, 0, 0, 0, 6, 0, 0, 0, 0, 0⟩) ∧
  decode 0xC200000004101000#64 = some (.barWait ⟨⟨false, 0⟩, 0, 0, 0, 4, 1, 0, 2, 0, 0, 0⟩) ∧
  decode 0xC300000000F00000#64 = some (.barInval ⟨⟨false, 0⟩, 0, 0, 0, 0, 15, 0, 0, 0, 0, 0⟩) ∧
  decode 0xC400500000010000#64 = some (.semInc ⟨⟨false, 0⟩, 10, 0, 0, 0, 0, 4, 0, 0, 0, 0⟩) ∧
  decode 0xC5005000000FD800#64 = some (.semWait ⟨⟨false, 0⟩, 10, 0, 0, 0, 0, 63, 3, 0, 0, 0⟩) ∧
  decode 0xC600081018000008#64 = some (.waitv ⟨⟨false, 0⟩, 1, 2, 3, 0, 0, 0, 0, 0, 0, 8⟩) ∧
  decode 0xC710100832000040#64 = some (.spawn ⟨⟨false, 1⟩, 2, 1, 6, 2, 0, 0, 0, 0, 4, 0⟩) ∧
  decode 0xC800080000002000#64 = some (.joinW ⟨⟨false, 0⟩, 1, 0, 0, 0, 0, 0, 4, 0, 0, 0⟩) ∧
  decode 0xC904007800000000#64 = some (.lwait ⟨⟨false, 0⟩, 128, 15, 0, 0, 0, 0, 0, 0, 0, 0⟩) ∧
  decode 0xCA00800000500140#64 = some (.copy ⟨⟨false, 0⟩, 16, 0, 0, 0, 5, 0, 0, 1, 4, 0⟩) ∧
  decode 0xCA00800000000051#64 = some (.copy2d ⟨⟨false, 0⟩, 16, 0, 0, 0, 0, 0, 0, 0, 5, 1⟩) ∧
  decode 0xCB0080000000C260#64 = some (.gath ⟨⟨false, 0⟩, 16, 0, 0, 0, 0, 3, 0, 2, 6, 0⟩) ∧
  decode 0xCC00800000000060#64 = some (.scat ⟨⟨false, 0⟩, 16, 0, 0, 0, 0, 0, 0, 0, 6, 0⟩) ∧
  decode 0xCD00800000000053#64 = some (.coll ⟨⟨false, 0⟩, 16, 0, 0, 0, 0, 0, 0, 0, 5, 3⟩) ∧
  decode 0xCE00202800000000#64 = some (.engQ ⟨⟨false, 0⟩, 4, 5, 0, 0, 0, 0, 0, 0, 0, 0⟩) := by decide +kernel

/-! ## A term that each check of `Instr.wf` refuses -/

def okUr : UrWord := { blankUr with dst := 8, a := .ureg 7, b := .imm 1 }
def okVr : VrWord := { blankVr with dst := 8, a := .vreg 2, b := .vreg 4, ty := .i32 }
def okMem : MemWord := { blankMem with data := 4, base := 1 }

/-- R252 to R258, R277: types, registers, source kinds, unused fields, conditions and MOD of UR and UI words. -/
theorem test_ill_formed_uniform :
  ([.uadd { okUr with ty := .f32 }, .uadd { okUr with dst := 160 }, .uadd { okUr with a := .vreg 1 }, .uadd { okUr with b := .latch 0 },
    .uadd { okUr with c := .ureg 1 }, .uadd { okUr with rm := 1 }, .uadd { okUr with mod := 2 }, .umulh { okUr with mod := 1 },
    .ucmp { okUr with rm := 6 }, .umov okUr, .uaddImm ⟨8, .vreg 0, .i64, 0, 0⟩, .ucmpImm ⟨8, .ureg 1, .i64, 7, 0⟩,
    .umovImm ⟨8, .ureg 1, .i64, 0, 0⟩, .ucat ⟨8, .ureg 1, .i64, 0, 0⟩, .uext { okUr with ty := .i8 }, .ubfx { okUr with ty := .b32 },
    .ulea { okUr with ty := .n64, c := .imm 8 }, .qput { blankUr with a := .ureg 1, dst := 1 }, .qput { blankUr with a := .ureg 1, ty := .n8 },
    .qrcvB64 { blankUr with dst := 8, ty := .b64 }, .qrcvB64 { blankUr with dst := 160, ty := .b64 },
    .qrcvB32 { blankUr with b := .imm 1, ty := .n16 }, .srd { blankUr with ty := .b64, mod := 7 }, .srdMbin { blankUr with ty := .b64, mod := 0 },
    .swr { blankUr with ty := .b64, a := .ureg 1, mod := 0 }, .tlbinv okUr, .icinv { okUr with ty := .b64 }, .dbg { blankSyn with ua := 1 }] :
    List Instr).all (fun i => !i.wf) = true := by decide +kernel

/-- R246, R247, R252 to R258: vector words. -/
theorem test_ill_formed_vector :
  ([.vadd { okVr with guard := ⟨true, 0⟩ }, .vadd { okVr with wbs := true }, .vadd { okVr with dst := 128 }, .vadd { okVr with a := .vreg 128 },
    .vadd { okVr with a := .latch 8 }, .vadd { okVr with a := .ureg 160 }, .vadd { okVr with ty := .i64, a := .vreg 3 },
    .vadd { okVr with ty := .i64, dst := 3 }, .vadd { okVr with ty := .f32 }, .vadd { okVr with c := .vreg 1 }, .vadd { okVr with rm := 1 },
    .vadd { okVr with mod := 2 }, .vcmp { okVr with dst := 8 }, .vcmp { okVr with dst := 0, wbs := true }, .vcmp { okVr with dst := 1, rm := 6 },
    .vabs { okVr with ty := .n32, b := .vreg 0 }, .vbfx { okVr with ty := .i8 }, .vbfi okVr, .vdot4 okVr, .vdot4 { okVr with ty := .n8, mod := 2 },
    .vaddImm ⟨always, false, 8, .vreg 1, .f32, 0, 0⟩, .vmovImm ⟨always, false, 8, .vreg 0, .f16, 0, 0x10000⟩,
    .qget { blankVr with ty := .i8 }, .qret { blankVr with a := .vreg 2, ty := .i64 }, .srdv { blankVr with ty := .b32, mod := 4 },
    .shfl { okVr with mod := 5 }, .vote { blankVr with ty := .i32 }, .vote { blankVr with ty := .b32, mod := 4 },
    .vred { blankVr with a := .vreg 1, ty := .b32, mod := 6 }, .vred { blankVr with a := .vreg 1, ty := .f32, mod := 3 },
    .vredQ { blankVr with a := .vreg 1, ty := .f32, mod := 8, dst := 1 }, .vbcast { okVr with ty := .b32 }] :
    List Instr).all (fun i => !i.wf) = true := by decide +kernel

/-- R310 to R322: floating-point words and conversions. -/
theorem test_ill_formed_float :
  ([.fadd okVr, .fadd { okVr with ty := .f32, rm := 5 }, .fadd { okVr with ty := .f32, mod := 2 }, .fmin { okVr with ty := .f32, rm := 1 },
    .fcmp { okVr with ty := .f32, dst := 1, mod := 1 }, .fclass { okVr with ty := .f32 }, .frcp { blankVr with a := .vreg 1, ty := .f64 },
    .frcp { blankVr with a := .vreg 1, ty := .f32, rm := 4 }, .cvt { blankVr with a := .vreg 1, ty := .b32, mod := 0x11 },
    .cvt { blankVr with a := .vreg 1, ty := .f32, mod := 0x0A }, .cvt { blankVr with a := .vreg 1, ty := .f32, mod := 2, c := .vreg 2 },
    .cvtp { okVr with ty := .f32, mod := 0x11 }, .cvtp { okVr with ty := .f16, mod := 0x12 }, .bpack { blankVr with a := .vreg 2, ty := .bs4, mod := 0x12 },
    .bpack { blankVr with a := .latch 0, ty := .e4m3, mod := 0x12 }, .bunpk { okVr with ty := .f64, mod := 0x14 },
    .bunpk { okVr with ty := .f32, mod := 0x14, rm := 1 }, .bscl { okVr with ty := .i32 }, .cvtx { okVr with ty := .f16, mod := 0x11, rm := 0 }] :
    List Instr).all (fun i => !i.wf) = true := by decide +kernel

/-- R261: control words. -/
theorem test_ill_formed_control :
  ([.bra ⟨never, 0, .vreg 0, 0, 0, false, 0⟩, .bra ⟨always, 1, .vreg 0, 0, 0, false, 0⟩, .bra ⟨always, 0, .vreg 0, 0, 0, true, 0⟩,
    .brc ⟨always, 160, .imm 0, 3, 0, false, 0⟩, .brc ⟨always, 1, .vreg 1, 3, 0, false, 0⟩, .brc ⟨always, 1, .imm 0, 0x11, 0, false, 0⟩,
    .brc ⟨always, 1, .imm 0, 3, 6, false, 0⟩, .brv ⟨⟨true, 0⟩, 0, .vreg 0, 0, 0, false, 0⟩, .call ⟨always, 0, .imm 0x80, 0, 0, false, 0⟩,
    .callr ⟨always, 1, .imm 0, 0, 0, false, 1⟩, .jtab ⟨always, 1, .imm 0, 0, 0, false, 0⟩, .ret ⟨always, 1, .vreg 0, 0, 0, false, 0⟩,
    .exitW ⟨always, 0, .vreg 0, 1, 0, false, 0⟩, .trap ⟨always, 0, .vreg 0, 0, 0, false, 0x10000⟩, .brk ⟨always, 0, .vreg 0, 0, 0, false, 1⟩,
    .nop ⟨never, 0, .vreg 0, 0, 0, false, 0⟩, .yield ⟨always, 0, .imm 1, 0, 0, false, 0⟩] : List Instr).all (fun i => !i.wf) = true := by
  decide +kernel

/-- R254, R259, R263, R357: memory words and fences. -/
theorem test_ill_formed_memory :
  ([.ld { okMem with base := 160 }, .ld { okMem with off := .latch 0 }, .ld { okMem with off := .vreg 1, ua := true }, .ld { okMem with sz := 7 },
    .ld { okMem with sz := 6, ua := true }, .ld { okMem with sz := 5, data := 3 }, .ld { okMem with sz := 6, data := 2 },
    .ld { okMem with ord := 2 }, .ld { okMem with scope := 4 }, .ld { okMem with ord := 1, scope := 7 }, .ld { okMem with wbs := true },
    .ld { okMem with ua := true, ltag := 1 }, .st { okMem with sz := 1 }, .st { okMem with ltag := 1 }, .st { okMem with ord := 1 },
    .pref okMem, .pref { okMem with data := 0, ua := true }, .aadd { okMem with sz := 0 }, .aadd { okMem with wbs := true, ltag := 1 },
    .acas { okMem with data := 3 }, .acas { okMem with data := 159, ua := true }, .xadd { okMem with sz := 5 }, .xrd { okMem with sz := 2 },
    .xst { okMem with ua := true }, .xst { okMem with scope := 1 }, .fence blankFence, .fence { blankFence with ord := 1, scope := 7 },
    .fenceSc { blankFence with scope := 1 }, .fenceScPod { blankFence with ord := 1, scope := 5 }, .fenceFmt { blankFence with sz := 4 }] :
    List Instr).all (fun i => !i.wf) = true := by decide +kernel

/-- R334 to R350, R369, R379, R381: matrix, tile, synchronisation and engine words. -/
theorem test_ill_formed_matrix_sync :
  ([.mma { blankMma with ta := 0x12, tb := 0x13 }, .mma { blankMma with ta := 0x12, tb := 0x12, ub := 160 },
    .mma { blankMma with ta := 0x12, tb := 0x12, sat := true }, .mma { blankMma with ta := 0, tb := 0, ltag := 1 },
    .mma { blankMma with ta := 0, tb := 0, sat := true, mod := 8 }, .mma { blankMma with ta := 0x17, tb := 0x17, vx := 3 },
    .tileAlloc { blankMma with guard := never }, .tileFree { blankMma with vx := 1 }, .tileZero { blankMma with mod := 1 },
    .tileLd { blankMma with ub := 1, ta := 8 }, .tileLd { blankMma with ta := 0x11 }, .tileSt { blankMma with ta := 0x12 },
    .tileDrain { blankMma with ta := 0x12, tb := 0x11 }, .tileDrain { blankMma with ta := 0x11, tb := 0x11, rm := 4 },
    .tileDrain { blankMma with ta := 0x11, tb := 0x11, mod := 1, uc := 1 }, .tileRd { blankMma with vx := 4 }, .tileWr { blankMma with ltag := 1 },
    .tileMov { blankMma with mod := 8 }, .barInit { blankSyn with ua := 160 }, .barArrive { blankSyn with sem := 1 },
    .barWait { blankSyn with scope := 7 }, .barInval { blankSyn with pd := 1 }, .semInc { blankSyn with scope := 1 },
    .semWait { blankSyn with bar := 1 }, .waitv { blankSyn with mod := 6 }, .waitv { blankSyn with vx := 128 },
    .spawn blankSyn, .spawn { blankSyn with pd := 1, cnt := 5 }, .joinW { blankSyn with ub := 1 }, .lwait { blankSyn with mod := 1 },
    .copy { blankSyn with cnt := 5 }, .copy { blankSyn with cnt := 4, ua := 157 }, .copy { blankSyn with cnt := 4, co := 3 },
    .copy { blankSyn with cnt := 4, bar := 1 }, .copy { blankSyn with cnt := 4, sem := 1 }, .copy2d { blankSyn with cnt := 5 },
    .coll { blankSyn with cnt := 5, mod := 5 }, .engQ { blankSyn with bar := 1 }] : List Instr).all (fun i => !i.wf) = true := by
  decide +kernel

/-- Their blanks, with the fields that the words ask for, are admitted. -/
theorem test_well_formed_blanks :
  ([.uadd okUr, .vadd okVr, .ld okMem, .fence { blankFence with ord := 1, scope := 4 }, .mma { blankMma with ta := 0x12, tb := 0x12 },
    .spawn { blankSyn with pd := 1 }, .bra ⟨always, 0, .vreg 0, 0, 0, false, 0⟩] : List Instr).all Instr.wf = true := by decide +kernel

/-! ## One step each: the expected values are those of the manual's worked examples and of R278, R279, R284 -/

/-- The cohort after an instruction, its results written. -/
def ran (i : Instr) (g : Cohort → Cohort := id) : Cohort :=
  (((landsOn (exec i (here i g))).bind fun t => t.cohorts.head?).map Cohort.drain).getD probeCohort
/-- Registers of lane 0 from `v0`. -/
def lane0 (xs : List (Nat × Word32)) (c : Cohort) : Cohort :=
  { c with fibres := c.fibres.map fun f => { f with regs := xs.foldl (fun r p => r.set p.1 p.2) f.regs } }
/-- Register `n` of the cohort's lane `k`. -/
def vreg (c : Cohort) (k n : Nat) : Word32 := ((c.fibres.filter fun f => f.lane == k).map fun f => f.regs.getD n 0).headD 0
/-- The group of spec/10, Worked example 1. -/
def packGroup : Cohort → Cohort :=
  lane0 [(4, 0xC0404171), (5, 0x00003F00), (6, 0xBE803FE0), (7, 0x400040F0), (10, 0x258100A7), (11, 0x89)]
/-- Fibres of spec/10, Worked example 2: 2^24 in one lane and 1.0 in the others of lanes 0 to 30. -/
def treeLanes (big : Nat) (c : Cohort) : Cohort :=
  { c with fibres := (List.range 31).flatMap fun l => c.fibres.map fun f =>
      { f with lane := l, regs := f.regs.set 3 (if l = big then 0x4B800000 else 0x3F800000) } }

theorem test_uadd_wraps : (ran (.uadd { okUr with ty := .i32 }) (sregs [(7, 0x7FFFFFFF)])).sreg 8 = 0xFFFFFFFF80000000 := by
  decide +kernel
theorem test_uadd_saturates : (ran (.uadd { okUr with ty := .i32, mod := 1 }) (sregs [(7, 0x7FFFFFFF)])).sreg 8 = 0x7FFFFFFF := by
  decide +kernel
theorem test_udiv_by_zero : (ran (.udiv { okUr with b := .imm 0, ty := .n32 }) (sregs [(7, 5)])).sreg 8 = 0xFFFFFFFF := by
  decide +kernel
theorem test_udiv_overflow :
    (ran (.udiv { okUr with b := .imm 0xFF, ty := .i32 }) (sregs [(7, 0x80000000)])).sreg 8 = 0xFFFFFFFF80000000 := by decide +kernel
theorem test_urem_overflow : (ran (.urem { okUr with b := .imm 0xFF, ty := .i32 }) (sregs [(7, 0x80000000)])).sreg 8 = 0 := by
  decide +kernel
theorem test_ubfx_signed : (ran (.ubfx { okUr with b := .imm 4, c := .imm 4, ty := .i64 }) (sregs [(7, 0xF0)])).sreg 8 = 0xFFFFFFFFFFFFFFFF := by
  decide +kernel
theorem test_ushl_negative_count :
    (ran (.ushl { okUr with b := .imm 0xFF, ty := .b64 }) (sregs [(7, 1)])).sreg 8 = 0x8000000000000000 := by decide +kernel
theorem test_bpack : let c := ran (.bpack { blankVr with dst := 10, a := .vreg 4, ty := .bs4, mod := 0x12 }) packGroup
    (vreg c 0 10, vreg c 0 11) = (0x258100A7, 0x89) := by decide +kernel
theorem test_fmax : vreg (ran (.fmax { blankVr with dst := 8, a := .vreg 4, b := .vreg 6, ty := .bf16 }) packGroup) 0 8 = 0xBE804171 := by
  decide +kernel
theorem test_fclass : vreg (ran (.fclass { blankVr with dst := 9, a := .vreg 5, ty := .bf16 }) packGroup) 0 9 = 0x00100040 := by
  decide +kernel
theorem test_bscl : vreg (ran (.bscl { blankVr with dst := 14, a := .vreg 7, b := .imm 0xFF, ty := .bf16 }) packGroup) 0 14 = 0x3F804070 := by
  decide +kernel
theorem test_bunpk :
    vreg (ran (.bunpk { blankVr with dst := 12, a := .vreg 10, b := .imm 6, c := .vreg 11, ty := .bf16, mod := 0x17 }) packGroup) 0 12 =
      0x40F6 := by decide +kernel
theorem test_cvt_up : vreg (ran (.cvt { blankVr with dst := 4, a := .vreg 1, ty := .e4m3, mod := 0x11, rm := 3 }) (lane0 [(1, 0x41710000)])) 0 4 =
    0x58 := by decide +kernel
theorem test_cvt_nearest : vreg (ran (.cvt { blankVr with dst := 4, a := .vreg 1, ty := .e4m3, mod := 0x11 }) (lane0 [(1, 0x41710000)])) 0 4 =
    0x57 := by decide +kernel
theorem test_vred_low_lane : vreg (ran (.vred { blankVr with dst := 20, a := .vreg 3, ty := .f32 }) (treeLanes 0)) 30 20 = 0x4B80000E := by
  decide +kernel
theorem test_vred_high_lane : vreg (ran (.vred { blankVr with dst := 20, a := .vreg 3, ty := .f32 }) (treeLanes 30)) 0 20 = 0x4B80000F := by
  decide +kernel

/-! ## For each statement, a state and operands that meet its hypotheses -/

theorem meets_DecodeOfEncode_0 :
    let i : Instr := .uadd { blankUr with dst := 8, a := .ureg 7, b := .imm 0xFF, ty := .i64 }
    let w : Word64 := (encode i).getD 0
    (i.wf = true) ∧ (encode i = some w) :=
  by and_intros <;> decide +kernel

theorem meets_EncodeOfDecode_0 :
    let i : Instr := .uadd { blankUr with dst := 8, a := .ureg 7, b := .imm 0xFF, ty := .i64 }
    let w : Word64 := 0x0000440FFF800300#64
    (decode w = some i) :=
  by decide +kernel

theorem meets_UnassignedOpcodes_0_0 :
    let w : Word64 := 0x6E00000000000000#64
    let op : Nat := 0x6E
    (op = (w.extractLsb' 56 8).toNat) ∧ (((0x6E ≤ op ∧ op ≤ 0x6F) ∨ (0x75 ≤ op ∧ op ≤ 0x7F) ∨ (0x91 ≤ op ∧ op ≤ 0x9F) ∨ (0xAA ≤ op ∧ op ≤ 0xBF) ∨ (0xCF ≤ op ∧ op ≤ 0xDF) ∨ 0xE6 ≤ op)) :=
  by and_intros <;> decide +kernel

theorem meets_UnassignedOpcodes_0_1 :
    let w : Word64 := 0x6F00000000000000#64
    let op : Nat := 0x6F
    (op = (w.extractLsb' 56 8).toNat) ∧ (((0x6E ≤ op ∧ op ≤ 0x6F) ∨ (0x75 ≤ op ∧ op ≤ 0x7F) ∨ (0x91 ≤ op ∧ op ≤ 0x9F) ∨ (0xAA ≤ op ∧ op ≤ 0xBF) ∨ (0xCF ≤ op ∧ op ≤ 0xDF) ∨ 0xE6 ≤ op)) :=
  by and_intros <;> decide +kernel

theorem meets_UnassignedOpcodes_0_2 :
    let w : Word64 := 0x7500000000000000#64
    let op : Nat := 0x75
    (op = (w.extractLsb' 56 8).toNat) ∧ (((0x6E ≤ op ∧ op ≤ 0x6F) ∨ (0x75 ≤ op ∧ op ≤ 0x7F) ∨ (0x91 ≤ op ∧ op ≤ 0x9F) ∨ (0xAA ≤ op ∧ op ≤ 0xBF) ∨ (0xCF ≤ op ∧ op ≤ 0xDF) ∨ 0xE6 ≤ op)) :=
  by and_intros <;> decide +kernel

theorem meets_UnassignedOpcodes_0_3 :
    let w : Word64 := 0x7F00000000000000#64
    let op : Nat := 0x7F
    (op = (w.extractLsb' 56 8).toNat) ∧ (((0x6E ≤ op ∧ op ≤ 0x6F) ∨ (0x75 ≤ op ∧ op ≤ 0x7F) ∨ (0x91 ≤ op ∧ op ≤ 0x9F) ∨ (0xAA ≤ op ∧ op ≤ 0xBF) ∨ (0xCF ≤ op ∧ op ≤ 0xDF) ∨ 0xE6 ≤ op)) :=
  by and_intros <;> decide +kernel

theorem meets_UnassignedOpcodes_0_4 :
    let w : Word64 := 0x9100000000000000#64
    let op : Nat := 0x91
    (op = (w.extractLsb' 56 8).toNat) ∧ (((0x6E ≤ op ∧ op ≤ 0x6F) ∨ (0x75 ≤ op ∧ op ≤ 0x7F) ∨ (0x91 ≤ op ∧ op ≤ 0x9F) ∨ (0xAA ≤ op ∧ op ≤ 0xBF) ∨ (0xCF ≤ op ∧ op ≤ 0xDF) ∨ 0xE6 ≤ op)) :=
  by and_intros <;> decide +kernel

theorem meets_UnassignedOpcodes_0_5 :
    let w : Word64 := 0x9F00000000000000#64
    let op : Nat := 0x9F
    (op = (w.extractLsb' 56 8).toNat) ∧ (((0x6E ≤ op ∧ op ≤ 0x6F) ∨ (0x75 ≤ op ∧ op ≤ 0x7F) ∨ (0x91 ≤ op ∧ op ≤ 0x9F) ∨ (0xAA ≤ op ∧ op ≤ 0xBF) ∨ (0xCF ≤ op ∧ op ≤ 0xDF) ∨ 0xE6 ≤ op)) :=
  by and_intros <;> decide +kernel

theorem meets_UnassignedOpcodes_0_6 :
    let w : Word64 := 0xAA00000000000000#64
    let op : Nat := 0xAA
    (op = (w.extractLsb' 56 8).toNat) ∧ (((0x6E ≤ op ∧ op ≤ 0x6F) ∨ (0x75 ≤ op ∧ op ≤ 0x7F) ∨ (0x91 ≤ op ∧ op ≤ 0x9F) ∨ (0xAA ≤ op ∧ op ≤ 0xBF) ∨ (0xCF ≤ op ∧ op ≤ 0xDF) ∨ 0xE6 ≤ op)) :=
  by and_intros <;> decide +kernel

theorem meets_UnassignedOpcodes_0_7 :
    let w : Word64 := 0xBF00000000000000#64
    let op : Nat := 0xBF
    (op = (w.extractLsb' 56 8).toNat) ∧ (((0x6E ≤ op ∧ op ≤ 0x6F) ∨ (0x75 ≤ op ∧ op ≤ 0x7F) ∨ (0x91 ≤ op ∧ op ≤ 0x9F) ∨ (0xAA ≤ op ∧ op ≤ 0xBF) ∨ (0xCF ≤ op ∧ op ≤ 0xDF) ∨ 0xE6 ≤ op)) :=
  by and_intros <;> decide +kernel

theorem meets_UnassignedOpcodes_0_8 :
    let w : Word64 := 0xCF00000000000000#64
    let op : Nat := 0xCF
    (op = (w.extractLsb' 56 8).toNat) ∧ (((0x6E ≤ op ∧ op ≤ 0x6F) ∨ (0x75 ≤ op ∧ op ≤ 0x7F) ∨ (0x91 ≤ op ∧ op ≤ 0x9F) ∨ (0xAA ≤ op ∧ op ≤ 0xBF) ∨ (0xCF ≤ op ∧ op ≤ 0xDF) ∨ 0xE6 ≤ op)) :=
  by and_intros <;> decide +kernel

theorem meets_UnassignedOpcodes_0_9 :
    let w : Word64 := 0xDF00000000000000#64
    let op : Nat := 0xDF
    (op = (w.extractLsb' 56 8).toNat) ∧ (((0x6E ≤ op ∧ op ≤ 0x6F) ∨ (0x75 ≤ op ∧ op ≤ 0x7F) ∨ (0x91 ≤ op ∧ op ≤ 0x9F) ∨ (0xAA ≤ op ∧ op ≤ 0xBF) ∨ (0xCF ≤ op ∧ op ≤ 0xDF) ∨ 0xE6 ≤ op)) :=
  by and_intros <;> decide +kernel

theorem meets_UnassignedOpcodes_0_10 :
    let w : Word64 := 0xE600000000000000#64
    let op : Nat := 0xE6
    (op = (w.extractLsb' 56 8).toNat) ∧ (((0x6E ≤ op ∧ op ≤ 0x6F) ∨ (0x75 ≤ op ∧ op ≤ 0x7F) ∨ (0x91 ≤ op ∧ op ≤ 0x9F) ∨ (0xAA ≤ op ∧ op ≤ 0xBF) ∨ (0xCF ≤ op ∧ op ≤ 0xDF) ∨ 0xE6 ≤ op)) :=
  by and_intros <;> decide +kernel

theorem meets_UnassignedOpcodes_0_11 :
    let w : Word64 := 0xFF00000000000000#64
    let op : Nat := 0xFF
    (op = (w.extractLsb' 56 8).toNat) ∧ (((0x6E ≤ op ∧ op ≤ 0x6F) ∨ (0x75 ≤ op ∧ op ≤ 0x7F) ∨ (0x91 ≤ op ∧ op ≤ 0x9F) ∨ (0xAA ≤ op ∧ op ≤ 0xBF) ∨ (0xCF ≤ op ∧ op ≤ 0xDF) ∨ 0xE6 ≤ op)) :=
  by and_intros <;> decide +kernel

theorem meets_StepRunsDecodedWord_0 :
    let w : Word64 := 0x0000440FFF800300#64
    let i : Instr := .uadd { blankUr with dst := 8, a := .ureg 7, b := .imm 0xFF, ty := .i64 }
    let s : State := State.reset.withFetchWord 64 w.toNat
    let c : Cohort := probeCohort
    (s.powered = true) ∧ (s.agenda = []) ∧ (s.turn % 8 ≠ 7) ∧ (s.pick = some c) ∧ (s.boundary c = none) ∧ (c.atHeader = false) ∧ (c.badFor i = false) ∧ (s.breakpoint c = none) ∧ (s.fetch c c.pc = .ok w) ∧ (decode w = some i) :=
  by and_intros <;> decide +kernel

theorem meets_StepTraps_0 :
    let w : Word64 := 0x6E00000000000000#64
    let s : State := State.reset.withFetchWord 64 w.toNat
    let c : Cohort := probeCohort
    (s.powered = true) ∧ (s.agenda = []) ∧ (s.turn % 8 ≠ 7) ∧ (s.pick = some c) ∧ (s.boundary c = none) ∧ (c.atHeader = false) ∧ (s.breakpoint c = none) ∧ (s.fetch c c.pc = .ok w) ∧ (rawDecode w = none) :=
  by and_intros <;> decide +kernel

theorem meets_StepTraps_1 :
    let i : Instr := .uadd { blankUr with dst := 8, a := .ureg 7, b := .imm 0xFF, ty := .i64 }
    let w : Word64 := 0x0000440FFF800300#64
    let c : Cohort := { probeCohort with bad := [.uni 7] }
    let s : State := { State.reset.withFetchWord 64 0x0000440FFF800300 with cohorts := [c] }
    (s.powered = true) ∧ (s.agenda = []) ∧ (s.turn % 8 ≠ 7) ∧ (s.pick = some c) ∧ (s.boundary c = none) ∧ (c.atHeader = false) ∧ (s.breakpoint c = none) ∧ (s.fetch c c.pc = .ok w) ∧ (rawDecode w = some i) ∧ (c.badFor i = true) :=
  by and_intros <;> decide +kernel

theorem meets_StepTraps_2 :
    let s : State := (State.reset.withFetchWord 64 0x0000440FFF800300).setReg 0 0x10000 (2 ^ 63 + 0x10008)
    let c : Cohort := probeCohort
    let w : Word64 := 0x0000440FFF800300#64
    let n : Nat := 0
    (s.powered = true) ∧ (s.agenda = []) ∧ (s.turn % 8 ≠ 7) ∧ (s.pick = some c) ∧ (s.boundary c = none) ∧ (c.atHeader = false) ∧ (s.breakpoint c = some n) ∧ (s.fetch c c.pc = .ok w) :=
  by and_intros <;> decide +kernel

theorem meets_StepTraps_3 :
    let c : Cohort := { probeCohort with stepDue := some 5 }
    let s : State := { State.reset.withFetchWord 64 0x0000440FFF800300 with cohorts := [c] }
    let w : Word64 := 5#64
    (s.powered = true) ∧ (s.agenda = []) ∧ (s.turn % 8 ≠ 7) ∧ (s.pick = some c) ∧ (c.stepDue = some w) :=
  by and_intros <;> decide +kernel

theorem meets_StepTraps_4 :
    let c : Cohort := probeCohort
    let s : State := { State.reset.withFetchWord 64 0x0000440FFF800300 with halts := [(0, 4)] }
    let k : Nat := 4
    (s.powered = true) ∧ (s.agenda = []) ∧ (s.turn % 8 ≠ 7) ∧ (s.pick = some c) ∧ (c.stepDue = none) ∧ (s.abortedWrite c.uid = none) ∧ (s.haltDue c = some k) :=
  by and_intros <;> decide +kernel

theorem meets_ReservedWordIsIllegal_0 :
    let i : Instr := .uand { blankUr with a := .ureg 1, b := .ureg 2, mod := 1 }
    let s : State := here i
    let c : Cohort := runner s
    let w : Word64 := wordOf i
    (encode i = some w) ∧ (i.wf = false) ∧ (s.current = some c) :=
  by and_intros <;> decide +kernel

theorem meets_UniformResults_0 :
    let i : Instr := .uadd { blankUr with dst := 8, a := .ureg 7, b := .imm 0xFF }
    let s : State := here i
    let c : Cohort := runner s
    let dst : BitVec 8 := 8
    let x : Word64 := ((uniformRow c i).getD (0, 0)).2
    (s.current = some c) ∧ (i.wf = true) ∧ (uniformRow c i = some (dst, x)) :=
  ⟨by decide +kernel, by decide +kernel, rfl⟩

theorem meets_VectorIntegerResults_0 :
    let i : Instr := .vadd { blankVr with dst := 3, a := .vreg 1, b := .ureg 2 }
    let s : State := here i
    let c : Cohort := runner s
    let r : VecRow := (integerRow c i).getD noRow
    (s.current = some c) ∧ (i.wf = true) ∧ (integerRow c i = some r) ∧ (c.vectorTrap r.op = none) :=
  ⟨by decide +kernel, by decide +kernel, rfl, by decide +kernel⟩

theorem meets_FloatResults_0 :
    let i : Instr := .ffma { blankVr with dst := 4, a := .vreg 1, b := .ureg 2, c := .vreg 3, ty := .f32 }
    let s : State := here i
    let c : Cohort := runner s
    let r : VecRow := (floatRow s c i).getD noRow
    (s.current = some c) ∧ (i.wf = true) ∧ (floatRow s c i = some r) ∧ (c.vectorTrap r.op = none) :=
  ⟨by decide +kernel, by decide +kernel, rfl, by decide +kernel⟩

theorem meets_TranscendentalResults_0 :
    let i : Instr := .fsqrt { blankVr with dst := 4, a := .vreg 1, ty := .f32 }
    let s : State := here i
    let c : Cohort := runner s
    let r : VecRow := (transcRow c i).getD noRow
    (s.current = some c) ∧ (i.wf = true) ∧ (transcRow c i = some r) ∧ (c.vectorTrap r.op = none) :=
  ⟨by decide +kernel, by decide +kernel, rfl, by decide +kernel⟩

theorem meets_ConversionResults_0 :
    let i : Instr := .cvtx { blankVr with dst := 4, a := .vreg 1, b := .vreg 2, ty := .f16, mod := 0x11, rm := 4 }
    let s : State := here i
    let c : Cohort := runner s
    let r : VecRow := (conversionRow s c i).getD noRow
    (s.current = some c) ∧ (i.wf = true) ∧ (conversionRow s c i = some r) ∧ (c.vectorTrap r.op = none) :=
  ⟨by decide +kernel, by decide +kernel, rfl, by decide +kernel⟩

theorem meets_CrossLaneAndPredicateResults_0 :
    let i : Instr := .vscan { blankVr with dst := 4, a := .vreg 1, ty := .f32 }
    let s : State := here i
    let c : Cohort := runner s
    let r : VecRow := (crossRow c i).getD noRow
    (s.current = some c) ∧ (i.wf = true) ∧ (crossRow c i = some r) ∧ (c.vectorTrap r.op = none) :=
  ⟨by decide +kernel, by decide +kernel, rfl, by decide +kernel⟩

theorem meets_CrossLaneAndPredicateResults_1 :
    let i : Instr := .vcmp { blankVr with dst := 4, a := .vreg 1, b := .imm 3, ty := .i32, rm := 2 }
    let s : State := here i
    let c : Cohort := runner s
    let v : VectorOp := ((predicateRow c i).getD (noRow.op, 0, fun _ => false)).1
    let dst : Nat := 4
    let h : Fibre → Bool := ((predicateRow c i).getD (noRow.op, 0, fun _ => false)).2.2
    (s.current = some c) ∧ (i.wf = true) ∧ (predicateRow c i = some (v, dst, h)) ∧ (c.vectorTrap v = none) :=
  ⟨by decide +kernel, by decide +kernel, rfl, by decide +kernel⟩

theorem meets_VectorTraps_0_0 :
    let i : Instr := .vadd { blankVr with dst := 3, a := .vreg 1, b := .ureg 2 }
    let s : State := here i fun c => { c with win := 0 }
    let c : Cohort := runner s
    let v : VectorOp := ((integerRow c i).getD noRow).op
    let t : TrapCode := .regbound
    (s.current = some c) ∧ (i.wf = true) ∧ (vectorNames s c i v) ∧ (((c.outside (v.reads ++ v.writes) = true ∧ t = .regbound) ∨ (c.outside (v.reads ++ v.writes) = false ∧ (c.readsDead v.srcs || (c.latchLive && 24 ≤ c.liveRun)) = true ∧ t = .latch) ∨ (c.outside (v.reads ++ v.writes) = false ∧ (c.readsDead v.srcs || (c.latchLive && 24 ≤ c.liveRun)) = false ∧ (c.hazard (v.reads ++ v.writes) || c.predHazard (v.guard.psel.toNat :: v.preds)) = true ∧ t = .landhaz))) :=
  ⟨by decide +kernel, by decide +kernel, .inl ⟨_, rfl, .inl rfl⟩, by decide +kernel⟩

theorem meets_VectorTraps_0_1 :
    let i : Instr := .vadd { blankVr with dst := 3, a := .latch 0, b := .ureg 2 }
    let s : State := here i
    let c : Cohort := runner s
    let v : VectorOp := ((integerRow c i).getD noRow).op
    let t : TrapCode := .latch
    (s.current = some c) ∧ (i.wf = true) ∧ (vectorNames s c i v) ∧ (((c.outside (v.reads ++ v.writes) = true ∧ t = .regbound) ∨ (c.outside (v.reads ++ v.writes) = false ∧ (c.readsDead v.srcs || (c.latchLive && 24 ≤ c.liveRun)) = true ∧ t = .latch) ∨ (c.outside (v.reads ++ v.writes) = false ∧ (c.readsDead v.srcs || (c.latchLive && 24 ≤ c.liveRun)) = false ∧ (c.hazard (v.reads ++ v.writes) || c.predHazard (v.guard.psel.toNat :: v.preds)) = true ∧ t = .landhaz))) :=
  ⟨by decide +kernel, by decide +kernel, .inl ⟨_, rfl, .inl rfl⟩, by decide +kernel⟩

theorem meets_VectorTraps_0_2 :
    let i : Instr := .vadd { blankVr with dst := 3, a := .vreg 1, b := .ureg 2 }
    let s : State := here i (lands 2 [1] none 9)
    let c : Cohort := runner s
    let v : VectorOp := ((integerRow c i).getD noRow).op
    let t : TrapCode := .landhaz
    (s.current = some c) ∧ (i.wf = true) ∧ (vectorNames s c i v) ∧ (((c.outside (v.reads ++ v.writes) = true ∧ t = .regbound) ∨ (c.outside (v.reads ++ v.writes) = false ∧ (c.readsDead v.srcs || (c.latchLive && 24 ≤ c.liveRun)) = true ∧ t = .latch) ∨ (c.outside (v.reads ++ v.writes) = false ∧ (c.readsDead v.srcs || (c.latchLive && 24 ≤ c.liveRun)) = false ∧ (c.hazard (v.reads ++ v.writes) || c.predHazard (v.guard.psel.toNat :: v.preds)) = true ∧ t = .landhaz))) :=
  ⟨by decide +kernel, by decide +kernel, .inl ⟨_, rfl, .inl rfl⟩, by decide +kernel⟩

theorem meets_VectorTraps_0_3 :
    let i : Instr := .vcmp { blankVr with dst := 4, a := .vreg 1, b := .imm 3, ty := .i32, rm := 2 }
    let s : State := here i fun c => { c with win := 0 }
    let c : Cohort := runner s
    let v : VectorOp := ((predicateRow c i).getD (noRow.op, 0, fun _ => false)).1
    let t : TrapCode := .regbound
    (s.current = some c) ∧ (i.wf = true) ∧ (vectorNames s c i v) ∧ (((c.outside (v.reads ++ v.writes) = true ∧ t = .regbound) ∨ (c.outside (v.reads ++ v.writes) = false ∧ (c.readsDead v.srcs || (c.latchLive && 24 ≤ c.liveRun)) = true ∧ t = .latch) ∨ (c.outside (v.reads ++ v.writes) = false ∧ (c.readsDead v.srcs || (c.latchLive && 24 ≤ c.liveRun)) = false ∧ (c.hazard (v.reads ++ v.writes) || c.predHazard (v.guard.psel.toNat :: v.preds)) = true ∧ t = .landhaz))) :=
  ⟨by decide +kernel, by decide +kernel, .inr ⟨_, _, rfl⟩, by decide +kernel⟩

theorem meets_ArithmeticFrame_0_0 :
    let i : Instr := .uadd { blankUr with dst := 8, a := .ureg 7, b := .imm 0xFF }
    let s : State := here i
    let c : Cohort := runner s
    let v : VectorOp := noRow.op
    let dst : BitVec 8 := 8
    let x : Word64 := ((uniformRow c i).getD (0, 0)).2
    (s.current = some c) ∧ (i.wf = true) ∧ (c.stepping = false) ∧ ((uniformRow c i = some (dst, x) ∨ (vectorNames s c i v ∧ c.vectorTrap v = none))) :=
  ⟨by decide +kernel, by decide +kernel, by decide +kernel, .inl (by decide +kernel)⟩

theorem meets_ArithmeticFrame_0_1 :
    let i : Instr := .vscan { blankVr with dst := 4, a := .vreg 1, ty := .f32 }
    let s : State := here i
    let c : Cohort := runner s
    let v : VectorOp := ((crossRow c i).getD noRow).op
    let dst : BitVec 8 := 0
    let x : Word64 := 0
    (s.current = some c) ∧ (i.wf = true) ∧ (c.stepping = false) ∧ ((uniformRow c i = some (dst, x) ∨ (vectorNames s c i v ∧ c.vectorTrap v = none))) :=
  ⟨by decide +kernel, by decide +kernel, by decide +kernel, .inr ⟨.inl ⟨_, rfl, .inr (.inr (.inr (.inr rfl)))⟩, by decide +kernel⟩⟩

theorem meets_ResultLatency_0 :
    let c : Cohort := probeCohort
    let dst : Nat := 8
    let n : Nat := 9
    let x : Word64 := 5
    (dst < c.sregs.length) :=
  by decide +kernel

theorem meets_ResultLatency_1 :
    let c : Cohort := probeCohort
    let v : VectorOp := vrOp blankVr [] false 4
    let ws : List RegWrite := [.vec 0 3 7]
    let l : Option Latch := none
    let n : Nat := 1
    (c.flightV = []) ∧ (v.wbs = false) ∧ (1 ≤ v.latency) :=
  by and_intros <;> decide +kernel

theorem meets_BranchesComplete_0 :
    let w : CtlWord := ⟨always, 0, .vreg 0, 0, 0, false, 1⟩
    let s0 : State := here (.bra w)
    let s : State := (stalledAt false s0).1
    let c : Cohort := runner s0
    let d : Cohort := (stalledAt false s0).2
    let h : Header := headerOf s (calm d) (target d w)
    (Ready s0 (.bra w) Guard.always [] [] c s d) ∧ (c.lastWord = true) ∧ (s.headerAt (calm d) (target d w) = .good h) :=
  ⟨passes_of (by decide +kernel), by and_intros <;> decide +kernel⟩

theorem meets_BranchesComplete_1 :
    let w : CtlWord := ⟨always, 0, .imm 0, 7, 0, false, 1⟩
    let s0 : State := here (.brc w)
    let s : State := (stalledAt false s0).1
    let c : Cohort := runner s0
    let d : Cohort := (stalledAt false s0).2
    let h : Header := headerOf s (calm d) (target d w)
    let ty := Ty.n64
    (Ready s0 (.brc w) Guard.always [] [] c s d) ∧ (c.lastWord = true) ∧ (Ty.ofCode w.ty = some ty) ∧ (branchCond d w ty = true) ∧ (s.headerAt (calm d) (target d w) = .good h) :=
  ⟨passes_of (by decide +kernel), by and_intros <;> decide +kernel⟩

theorem meets_BranchesComplete_2 :
    let w : CtlWord := ⟨always, 0, .imm 0, 7, 1, false, 1⟩
    let s0 : State := here (.brc w)
    let s : State := (stalledAt false s0).1
    let c : Cohort := runner s0
    let d : Cohort := (stalledAt false s0).2
    let ty := Ty.n64
    (Ready s0 (.brc w) Guard.always [] [] c s d) ∧ (c.lastWord = true) ∧ (Ty.ofCode w.ty = some ty) ∧ (branchCond d w ty = false) :=
  ⟨passes_of (by decide +kernel), by and_intros <;> decide +kernel⟩

theorem meets_BranchesComplete_3 :
    let w : CtlWord := ⟨always, 0, .imm 1, 0, 0, false, 1⟩
    let s0 : State := here (.jtab w)
    let s : State := (stalledAt false s0).1
    let c : Cohort := runner s0
    let d : Cohort := (stalledAt false s0).2
    let h : Header := headerOf s (calm d) (lowBits 64 ((target d w : Nat) + 16 * (d.sreg w.ua.toNat : Int)))
    let k := 1
    (Ready s0 (.jtab w) Guard.always [] [] c s d) ∧ (c.lastWord = true) ∧ (w.sb = .imm k) ∧ (d.sreg w.ua.toNat < k.toNat) ∧ (s.headerAt (calm d) (lowBits 64 ((target d w : Nat) + 16 * (d.sreg w.ua.toNat : Int))) = .good h) :=
  ⟨passes_of (by decide +kernel), by and_intros <;> decide +kernel⟩

theorem meets_BranchesComplete_4 :
    let w : CtlWord := ⟨always, 0, .imm 1, 0, 0, false, 1⟩
    let s0 : State := here (.jtab w) (sregs [(0, 1)])
    let s : State := (stalledAt false s0).1
    let c : Cohort := runner s0
    let d : Cohort := (stalledAt false s0).2
    let k := 1
    (Ready s0 (.jtab w) Guard.always [] [] c s d) ∧ (c.lastWord = true) ∧ (w.sb = .imm k) ∧ (k.toNat ≤ d.sreg w.ua.toNat) :=
  ⟨passes_of (by decide +kernel), by and_intros <;> decide +kernel⟩

theorem meets_VectorBranch_0 :
    let w : CtlWord := ⟨always, 0, .vreg 0, 0, 0, false, 1⟩
    let s0 : State := here (.brv w)
    let s : State := (stalledAt false s0).1
    let c : Cohort := runner s0
    let d : Cohort := (stalledAt false s0).2
    let h : Header := headerOf s (calm d) (target d w)
    (Ready s0 (.brv w) Guard.always [] [w.guard.psel.toNat] c s d) ∧ (c.lastWord = true) ∧ (d.active w.guard = d.fibres) ∧ (s.headerAt (calm d) (target d w) = .good h) :=
  ⟨passes_of (by decide +kernel), by and_intros <;> decide +kernel⟩

theorem meets_VectorBranch_1 :
    let w : CtlWord := ⟨never, 0, .vreg 0, 0, 0, false, 1⟩
    let s0 : State := here (.brv w)
    let s : State := (stalledAt false s0).1
    let c : Cohort := runner s0
    let d : Cohort := (stalledAt false s0).2
    (Ready s0 (.brv w) Guard.always [] [w.guard.psel.toNat] c s d) ∧ (c.lastWord = true) ∧ (d.fibres ≠ []) ∧ (d.active w.guard = []) :=
  ⟨passes_of (by decide +kernel), by and_intros <;> decide +kernel⟩

theorem meets_VectorBranch_2 :
    let w : CtlWord := ⟨never, 0, .vreg 0, 0, 0, false, 1⟩
    let s0 : State := here (.brv w) (fun c => { twoLanes c with reconv := 1 })
    let s : State := (stalledAt false s0).1
    let c : Cohort := runner s0
    let d : Cohort := (stalledAt false s0).2
    let h : Header := headerOf s (calm d) (target d w)
    let slot := 1
    let n := 0
    (Ready s0 (.brv w) Guard.always [] [w.guard.psel.toNat] c s d) ∧ (c.lastWord = true) ∧ (someActive d w.guard) ∧ ((d.active w.guard).length ≠ d.fibres.length) ∧ (s.headerAt (calm d) (target d w) = .good h) ∧ (s.freeSlot d.core = some slot) ∧ (d.reconv ≠ 0) ∧ ((s.core d.core).freeEntry = some n) :=
  ⟨passes_of (by decide +kernel), by decide +kernel, (by decide +kernel : _ ≠ _), by and_intros <;> decide +kernel⟩

theorem meets_VectorBranch_3 :
    let w : CtlWord := ⟨never, 0, .vreg 0, 0, 0, false, 1⟩
    let s0 : State := here (.brv w) (twoLanes)
    let s : State := (stalledAt false s0).1
    let c : Cohort := runner s0
    let d : Cohort := (stalledAt false s0).2
    let h : Header := headerOf s (calm d) (target d w)
    let slot := 1
    (Ready s0 (.brv w) Guard.always [] [w.guard.psel.toNat] c s d) ∧ (c.lastWord = true) ∧ (someActive d w.guard) ∧ ((d.active w.guard).length ≠ d.fibres.length) ∧ (s.headerAt (calm d) (target d w) = .good h) ∧ (s.freeSlot d.core = some slot) ∧ (d.reconv = 0) :=
  ⟨passes_of (by decide +kernel), by decide +kernel, (by decide +kernel : _ ≠ _), by and_intros <;> decide +kernel⟩

theorem meets_VectorBranch_4 :
    let w : CtlWord := ⟨never, 0, .vreg 0, 0, 0, false, 1⟩
    let s0 : State := (fun s : State => { s with cohorts := s.cohorts ++ (List.range 32).map fun n => { probeCohort with uid := 1 + n, slot := n } }) (here (.brv w) (twoLanes))
    let s : State := (stalledAt false s0).1
    let c : Cohort := runner s0
    let d : Cohort := (stalledAt false s0).2
    let h : Header := headerOf s (calm d) (target d w)
    (Ready s0 (.brv w) Guard.always [] [w.guard.psel.toNat] c s d) ∧ (c.lastWord = true) ∧ (someActive d w.guard) ∧ ((d.active w.guard).length ≠ d.fibres.length) ∧ (s.headerAt (calm d) (target d w) = .good h) ∧ ((s.freeSlot d.core = none ∨ (d.reconv ≠ 0 ∧ (s.core d.core).freeEntry = none))) :=
  ⟨passes_of (by decide +kernel), by decide +kernel, (by decide +kernel : _ ≠ _), by and_intros <;> decide +kernel⟩

theorem meets_PlainCalls_0 :
    let w : CtlWord := ⟨always, 0, .imm 0, 0, 0, false, 0xF⟩
    let s0 : State := poke [(0x10080, 0xB700000000000300#64)] (here (.call w))
    let s : State := (stalledAt false s0).1
    let c : Cohort := runner s0
    let d : Cohort := (stalledAt false s0).2
    let h : Header := headerOf s (calm d) (target d w)
    (Ready s0 (.call w) Guard.always [] [] c s d) ∧ (c.lastWord = true) ∧ (w.sb = .imm 0) ∧ (s.headerAt (calm d) (target d w) = .good h) ∧ (h.entry = true) :=
  ⟨passes_of (by decide +kernel), by and_intros <;> decide +kernel⟩

theorem meets_PlainCalls_1 :
    let w : CtlWord := ⟨always, 0, .imm 0, 0, 0, false, 0⟩
    let s0 : State := poke [(0x10080, 0xB700000000000300#64)] (here (.callr w) (sregs [(0, 0x10080)]))
    let s : State := (stalledAt false s0).1
    let c : Cohort := runner s0
    let d : Cohort := (stalledAt false s0).2
    let h : Header := headerOf s (calm d) (d.sreg w.ua.toNat)
    (Ready s0 (.callr w) Guard.always [] [] c s d) ∧ (c.lastWord = true) ∧ (w.sb = .imm 0) ∧ (d.sreg w.ua.toNat < 2 ^ 49) ∧ (d.sreg w.ua.toNat % 8 = 0) ∧ (s.headerAt (calm d) (d.sreg w.ua.toNat) = .good h) ∧ (h.entry = true) :=
  ⟨passes_of (by decide +kernel), by and_intros <;> decide +kernel⟩

theorem meets_PlainCalls_2 :
    let w : CtlWord := ⟨always, 0, .vreg 0, 0, 0, false, 0⟩
    let s0 : State := poke [(0x10080, 0xB700000000000300#64)] (here (.ret w) (sregs [(0, 0x10080)]))
    let s : State := (stalledAt false s0).1
    let c : Cohort := runner s0
    let d : Cohort := (stalledAt false s0).2
    let h : Header := headerOf s (calm d) (d.sreg 0)
    (Ready s0 (.ret w) Guard.always [] [] c s d) ∧ (c.lastWord = true) ∧ (d.sreg 0 < 2 ^ 49) ∧ (d.sreg 0 % 8 = 0) ∧ (s.headerAt (calm d) (d.sreg 0) = .good h) :=
  ⟨passes_of (by decide +kernel), by and_intros <;> decide +kernel⟩

theorem meets_FramedCall_0 :
    let w : CtlWord := ⟨always, 0, .imm 1, 0, 0, false, 0xF⟩
    let s0 : State := (poke [(0x10080, 0xB700000000000300#64)] (here (.call w))).setReg 0 0x4018 (2 ^ 20)
    let s : State := (stalledAt false s0).1
    let c : Cohort := runner s0
    let d : Cohort := (stalledAt false s0).2
    let h : Header := headerOf s (calm d) (target d w)
    let k : BitVec 8 := 1
    (Ready s0 (.call w) Guard.always [] [] c s d) ∧ (c.lastWord = true) ∧ (w.sb = .imm k) ∧ (k ≠ 0) ∧ (s.headerAt (calm d) (target d w) = .good h) ∧ (h.entry = true) ∧ (s.atticCharged (fnOf d.ctx) + d.fibres.length * frameCharge k.toNat ≤ s.atticBays (fnOf d.ctx)) :=
  ⟨passes_of (by decide +kernel), by and_intros <;> decide +kernel⟩

theorem meets_FramedCall_1 :
    let w : CtlWord := ⟨always, 0, .vreg 0, 0, 0, false, 0⟩
    let s0 : State := poke [(0x10080, 0xB700000000000300#64)] (here (.ret w) (fun c => { sregs [(0, 0x10081)] c with fibres := c.fibres.map fun f => { f with frames := [⟨1, 0, [7], none, 0⟩] } }))
    let s : State := (stalledAt false s0).1
    let c : Cohort := runner s0
    let d : Cohort := (stalledAt false s0).2
    let h : Header := headerOf s (calm d) (d.sreg 0 - 1)
    (Ready s0 (.ret w) Guard.always [] [] c s d) ∧ (c.lastWord = true) ∧ (d.sreg 0 < 2 ^ 49) ∧ (d.sreg 0 % 8 = 1) ∧ ((∀ f ∈ d.fibres, f.frames ≠ [])) ∧ (s.headerAt (calm d) (d.sreg 0 - 1) = .good h) ∧ (s.badFill (calm d) = none) :=
  ⟨passes_of (by decide +kernel), by and_intros <;> decide +kernel⟩

theorem meets_ControlTraps_0 :
    let w : CtlWord := ⟨always, 0, .imm 0, 0, 0, false, 1⟩
    let s0 : State := here (.call w)
    let s : State := (stalledAt false s0).1
    let c : Cohort := runner s0
    let d : Cohort := (stalledAt false s0).2
    let h : Header := headerOf s (calm d) (target d w)
    (Ready s0 (.call w) Guard.always [] [] c s d) ∧ (c.lastWord = true) ∧ (s.headerAt (calm d) (target d w) = .good h) ∧ (h.entry = false) :=
  ⟨passes_of (by decide +kernel), by and_intros <;> decide +kernel⟩

theorem meets_ControlTraps_1 :
    let w : CtlWord := ⟨always, 0, .imm 0, 0, 0, false, 0⟩
    let s0 : State := poke [(0x10080, 0xB700000000000000#64)] (here (.callr w) (sregs [(0, 0x10080)]))
    let s : State := (stalledAt false s0).1
    let c : Cohort := runner s0
    let d : Cohort := (stalledAt false s0).2
    let h : Header := headerOf s (calm d) (d.sreg w.ua.toNat)
    (Ready s0 (.callr w) Guard.always [] [] c s d) ∧ (c.lastWord = true) ∧ (d.sreg w.ua.toNat < 2 ^ 49) ∧ (d.sreg w.ua.toNat % 8 = 0) ∧ (s.headerAt (calm d) (d.sreg w.ua.toNat) = .good h) ∧ (h.entry = false) :=
  ⟨passes_of (by decide +kernel), by and_intros <;> decide +kernel⟩

theorem meets_ControlTraps_2_0 :
    let w : CtlWord := ⟨always, 0, .imm 0, 0, 0, false, 0⟩
    let s0 : State := here (.callr w) (sregs [(0, 2 ^ 49)])
    let s : State := (stalledAt false s0).1
    let c : Cohort := runner s0
    let d : Cohort := (stalledAt false s0).2
    (Ready s0 (.callr w) Guard.always [] [] c s d) ∧ (c.lastWord = true) ∧ ((2 ^ 49 ≤ d.sreg w.ua.toNat ∨ d.sreg w.ua.toNat % 8 ≠ 0)) :=
  ⟨passes_of (by decide +kernel), by and_intros <;> decide +kernel⟩

theorem meets_ControlTraps_2_1 :
    let w : CtlWord := ⟨always, 0, .imm 0, 0, 0, false, 0⟩
    let s0 : State := here (.callr w) (sregs [(0, 0x10084)])
    let s : State := (stalledAt false s0).1
    let c : Cohort := runner s0
    let d : Cohort := (stalledAt false s0).2
    (Ready s0 (.callr w) Guard.always [] [] c s d) ∧ (c.lastWord = true) ∧ ((2 ^ 49 ≤ d.sreg w.ua.toNat ∨ d.sreg w.ua.toNat % 8 ≠ 0)) :=
  ⟨passes_of (by decide +kernel), by and_intros <;> decide +kernel⟩

theorem meets_ControlTraps_3_0 :
    let w : CtlWord := ⟨always, 0, .vreg 0, 0, 0, false, 0xF⟩
    let i : Instr := .bra w
    let s0 : State := poke [(0x10080, 0x5#64)] (here (.bra w))
    let s : State := (stalledAt false s0).1
    let c : Cohort := runner s0
    let d : Cohort := (stalledAt false s0).2
    let x := 0x5
    (i ∈ [Instr.bra w, .call w]) ∧ (Ready s0 i Guard.always [] [] c s d) ∧ (c.lastWord = true) ∧ (s.headerAt (calm d) (target d w) = .bad x) :=
  ⟨by decide +kernel, passes_of (by decide +kernel), by and_intros <;> decide +kernel⟩

theorem meets_ControlTraps_3_1 :
    let w : CtlWord := ⟨always, 0, .imm 0, 0, 0, false, 0xF⟩
    let i : Instr := .call w
    let s0 : State := poke [(0x10080, 0x5#64)] (here (.call w))
    let s : State := (stalledAt false s0).1
    let c : Cohort := runner s0
    let d : Cohort := (stalledAt false s0).2
    let x := 0x5
    (i ∈ [Instr.bra w, .call w]) ∧ (Ready s0 i Guard.always [] [] c s d) ∧ (c.lastWord = true) ∧ (s.headerAt (calm d) (target d w) = .bad x) :=
  ⟨by decide +kernel, passes_of (by decide +kernel), by and_intros <;> decide +kernel⟩

theorem meets_ControlTraps_4 :
    let w : CtlWord := ⟨always, 0, .imm 1, 0, 0, false, 0xF⟩
    let i : Instr := .call w
    let s0 : State := poke [(0x10080, 0xB700000000000300#64)] (here (.call w))
    let s : State := (stalledAt false s0).1
    let c : Cohort := runner s0
    let d : Cohort := (stalledAt false s0).2
    let k : BitVec 8 := 1
    let t := target d w
    let h : Header := headerOf s (calm d) t
    ((i, t) ∈ [(Instr.call w, target d w), (.callr w, d.sreg w.ua.toNat)]) ∧ (Ready s0 i Guard.always [] [] c s d) ∧ (c.lastWord = true) ∧ (w.sb = .imm k) ∧ (k ≠ 0) ∧ (t < 2 ^ 49) ∧ (t % 8 = 0) ∧ (s.headerAt (calm d) t = .good h) ∧ (h.entry = true) ∧ (s.atticBays (fnOf d.ctx) < s.atticCharged (fnOf d.ctx) + d.fibres.length * frameCharge k.toNat) :=
  ⟨by decide +kernel, passes_of (by decide +kernel), by and_intros <;> decide +kernel⟩

theorem meets_ControlTraps_5_0 :
    let w : CtlWord := ⟨always, 0, .vreg 0, 0, 0, false, 0⟩
    let s0 : State := here (.ret w) (sregs [(0, 2 ^ 49)])
    let s : State := (stalledAt false s0).1
    let c : Cohort := runner s0
    let d : Cohort := (stalledAt false s0).2
    (Ready s0 (.ret w) Guard.always [] [] c s d) ∧ (c.lastWord = true) ∧ ((2 ^ 49 ≤ d.sreg 0 ∨ d.sreg 0 % 8 / 2 ≠ 0)) :=
  ⟨passes_of (by decide +kernel), by and_intros <;> decide +kernel⟩

theorem meets_ControlTraps_5_1 :
    let w : CtlWord := ⟨always, 0, .vreg 0, 0, 0, false, 0⟩
    let s0 : State := here (.ret w) (sregs [(0, 0x10082)])
    let s : State := (stalledAt false s0).1
    let c : Cohort := runner s0
    let d : Cohort := (stalledAt false s0).2
    (Ready s0 (.ret w) Guard.always [] [] c s d) ∧ (c.lastWord = true) ∧ ((2 ^ 49 ≤ d.sreg 0 ∨ d.sreg 0 % 8 / 2 ≠ 0)) :=
  ⟨passes_of (by decide +kernel), by and_intros <;> decide +kernel⟩

theorem meets_ControlTraps_6 :
    let w : CtlWord := ⟨always, 0, .vreg 0, 0, 0, false, 0⟩
    let s0 : State := here (.ret w) (sregs [(0, 0x10081)])
    let s : State := (stalledAt false s0).1
    let c : Cohort := runner s0
    let d : Cohort := (stalledAt false s0).2
    (Ready s0 (.ret w) Guard.always [] [] c s d) ∧ (c.lastWord = true) ∧ (d.sreg 0 < 2 ^ 49) ∧ (d.sreg 0 % 8 = 1) ∧ ((∃ f ∈ d.fibres, f.frames = [])) :=
  ⟨passes_of (by decide +kernel), by and_intros <;> decide +kernel⟩

theorem meets_ControlTraps_7 :
    let x : CtlWord := ⟨always, 0, .vreg 0, 0, 0, false, 1⟩
    let i : Instr := .bra x
    let s : State := here i fun c => { c with len := 2 }
    let c : Cohort := runner s
    (i ∈ [Instr.bra x, .brc x, .brv x, .call x, .callr x, .ret x, .jtab x]) ∧ (s.current = some c) ∧ (c.lastWord = false) :=
  by and_intros <;> decide +kernel

theorem meets_ExitCompletes_0 :
    let w : CtlWord := ⟨always, 0, .vreg 0, 0, 0, false, 0⟩
    let s0 : State := here (.exitW w)
    let s : State := (stalledAt false s0).1
    let c : Cohort := runner s0
    let d : Cohort := (stalledAt false s0).2
    let s1 : State := (s.matrixDrain (calm d)).1
    let e : Cohort := (s.matrixDrain (calm d)).2
    (Ready s0 (.exitW w) w.guard [] [] c s d) ∧ (someActive d w.guard) ∧ (s.matrixDrain (calm d) = (s1, e)) ∧ (e.failed = none) ∧ 
    (let fs := e.active w.guard
    
    (let accs : List Acc := fs.filterMap fun f => f.join.map fun j => { lane := some f.lane, team := f.team, va := j.addr, x := s1.checkAccess e f.team j.addr 8 .rmw s1.counterCheck }
    
    (let s2 := noted s1 e accs true true
    
    (let s3 := s2.releaseAt e.core 5 (readOfLanes e w.guard)
    (Clear s1 e accs true true 8) ∧ (s2.peerOpen e = false) ∧ (s3.missReady e (s3.lineNeed e 8 accs) = true))))) :=
  ⟨passes_of (by decide +kernel), (by decide +kernel : _ ≠ _), by decide +kernel, by decide +kernel, clear_of (by decide +kernel), by and_intros <;> decide +kernel⟩

theorem meets_MarkersComplete_0 :
    let w : CtlWord := ⟨always, 0, .vreg 0, 0, 0, false, 5⟩
    let s0 : State := here (.trap w)
    let s : State := (stalledAt false s0).1
    let c : Cohort := runner s0
    let d : Cohort := (stalledAt false s0).2
    (Ready s0 (.trap w) w.guard [] [] c s d) ∧ (someActive d w.guard) ∧ ((w.off.toNat ≠ 0xFFFF ∨ inHandler (s.trapEnt d.ctx) d.pc = false ∨ bitOf (s.trapEnt d.ctx) 63 = false)) :=
  ⟨passes_of (by decide +kernel), (by decide +kernel : _ ≠ _), by decide +kernel⟩

theorem meets_MarkersComplete_1 :
    let w : CtlWord := ⟨always, 0, .vreg 0, 0, 0, false, 0xFFFF⟩
    let s0 : State := (here (.trap w)).setReg 0 0x1E00 (2 ^ 63 + 0x10000)
    let s : State := (stalledAt false s0).1
    let c : Cohort := runner s0
    let d : Cohort := (stalledAt false s0).2
    (Ready s0 (.trap w) w.guard [] [] c s d) ∧ (someActive d w.guard) ∧ (w.off.toNat = 0xFFFF) ∧ (inHandler (s.trapEnt d.ctx) d.pc = true) ∧ (bitOf (s.trapEnt d.ctx) 63 = true) :=
  ⟨passes_of (by decide +kernel), (by decide +kernel : _ ≠ _), by and_intros <;> decide +kernel⟩

theorem meets_MarkersComplete_2 :
    let w : CtlWord := ⟨always, 0, .vreg 0, 0, 0, false, 0⟩
    let s0 : State := here (.brk w)
    let s : State := (stalledAt false s0).1
    let c : Cohort := runner s0
    let d : Cohort := (stalledAt false s0).2
    (Ready s0 (.brk w) w.guard [] [] c s d) ∧ (someActive d w.guard) ∧ (s.peerOpen (calm d) = false) :=
  ⟨passes_of (by decide +kernel), (by decide +kernel : _ ≠ _), by decide +kernel⟩

theorem meets_MarkersComplete_3 :
    let w : CtlWord := ⟨always, 0, .vreg 0, 0, 0, false, 0⟩
    let s0 : State := here (.nop w)
    let s : State := (stalledAt false s0).1
    let c : Cohort := runner s0
    let d : Cohort := (stalledAt false s0).2
    (Ready s0 (.nop w) Guard.always [] [] c s d) :=
  passes_of (by decide +kernel)

theorem meets_MarkersComplete_4 :
    let w : CtlWord := ⟨always, 0, .vreg 0, 0, 0, false, 0⟩
    let s0 : State := here (.yield w)
    let s1 : State := (resumed s0).1
    let c : Cohort := runner s0
    let e : Cohort := (resumed s0).2
    let h : Header := headerOf s1 e (e.pc + 8)
    (Resumes s0 (.yield w) w.guard [] [] c s1 e h) ∧ (someActive e w.guard) :=
  ⟨resumes_of (passes_of (by decide +kernel)) (by decide +kernel), (by decide +kernel : _ ≠ _)⟩

theorem meets_MarkersComplete_5 :
    let w : CtlWord := ⟨never, 0, .vreg 0, 0, 0, false, 0⟩
    let s0 : State := here (.exitW w)
    let s : State := (stalledAt false s0).1
    let c : Cohort := runner s0
    let d : Cohort := (stalledAt false s0).2
    (Ready s0 (.exitW w) w.guard [] [] c s d) ∧ (d.active w.guard = []) :=
  ⟨passes_of (by decide +kernel), by decide +kernel⟩

theorem meets_MarkersComplete_6 :
    let w : CtlWord := ⟨never, 0, .vreg 0, 0, 0, false, 5⟩
    let s0 : State := here (.trap w)
    let s : State := (stalledAt false s0).1
    let c : Cohort := runner s0
    let d : Cohort := (stalledAt false s0).2
    (Ready s0 (.trap w) w.guard [] [] c s d) ∧ (d.active w.guard = []) :=
  ⟨passes_of (by decide +kernel), by decide +kernel⟩

theorem meets_MarkersComplete_7 :
    let w : CtlWord := ⟨never, 0, .vreg 0, 0, 0, false, 0⟩
    let s0 : State := here (.brk w)
    let s : State := (stalledAt false s0).1
    let c : Cohort := runner s0
    let d : Cohort := (stalledAt false s0).2
    (Ready s0 (.brk w) w.guard [] [] c s d) ∧ (d.active w.guard = []) :=
  ⟨passes_of (by decide +kernel), by decide +kernel⟩

theorem meets_MarkersComplete_8 :
    let w : SynWord := ⟨never, 0, 0, 0, 0, 0, 0, 0, 0, 0, 0⟩
    let i : Instr := .semInc w
    let s0 : State := here i
    let s : State := (stalledAt false s0).1
    let c : Cohort := runner s0
    let d : Cohort := (stalledAt false s0).2
    (i ∈ [Instr.barInit w, .barArrive w, .barInval w, .semInc w, .copy w, .copy2d w, .gath w, .scat w, .coll w, .engQ w, .dbg w]) ∧ (Ready s0 i w.guard [] [] c s d) ∧ (d.active w.guard = []) :=
  ⟨by decide +kernel, passes_of (by decide +kernel), by decide +kernel⟩

theorem meets_MarkersComplete_9 :
    let w : MemWord := { blankMem with guard := never, ua := true, sz := 2 }
    let i : Instr := .ld w
    let regs := szRegs w.sz
    let s0 : State := here i
    let s : State := (stalledAt false s0).1
    let c : Cohort := runner s0
    let d : Cohort := (stalledAt false s0).2
    ((i, regs) ∈ [(Instr.ld w, szRegs w.sz), (.st w, szRegs w.sz), (.aadd w, atomicRegs .add w), (.amin w, atomicRegs .min w), (.amax w, atomicRegs .max w), (.aand w, atomicRegs .and w), (.aor w, atomicRegs .or w), (.axor w, atomicRegs .xor w), (.axch w, atomicRegs .xch w), (.acas w, atomicRegs .cas w), (.xadd w, 1), (.xrd w, 1)]) ∧ (w.ua = true) ∧ (Ready s0 i w.guard (memRuns w regs) [] c s d) ∧ (d.active w.guard = []) :=
  ⟨by decide +kernel, by decide +kernel, passes_of (by decide +kernel), by decide +kernel⟩

theorem meets_QueueWords_0 :
    let w : UrWord := { blankUr with a := .ureg 4 }
    let s : State := here (.qput w)
    let c : Cohort := runner s
    (s.current = some c) ∧ ((Instr.qput w).wf = true) ∧ (c.uq.length < 16) :=
  by and_intros <;> decide +kernel

theorem meets_QueueWords_1 :
    let w : VrWord := { blankVr with dst := 6, ty := .b64 }
    let s : State := here (.qget w) fun c => { c with uq := [7, 8] }
    let c : Cohort := runner s
    let x : Word64 := 7
    let rest : List Word64 := [8]
    let _ty_x := Word64
    let _ty_rest := List Word64
    (s.current = some c) ∧ ((Instr.qget w).wf = true) ∧ (c.uq = x :: rest) ∧ (c.vectorTrap (vrOp w [] w.ty.pair 4) = none) :=
  by and_intros <;> decide +kernel

theorem meets_QueueWords_2 :
    let w : VrWord := { blankVr with a := .vreg 3, ty := .b32 }
    let s : State := here (.qret w)
    let c : Cohort := runner s
    (s.current = some c) ∧ ((Instr.qret w).wf = true) ∧ (c.vq.length < 16) ∧ (c.vectorTrap { vrOp w (srcRun w.ty w.a) false 4 with writes := [] } = none) :=
  by and_intros <;> decide +kernel

theorem meets_QueueWords_3 :
    let w : VrWord := { blankVr with a := .vreg 3, ty := .f32, mod := 8 }
    let s : State := here (.vredQ w)
    let c : Cohort := runner s
    (s.current = some c) ∧ ((Instr.vredQ w).wf = true) ∧ (c.vq.length < 16) ∧ (c.vectorTrap { vrOp w (srcRun w.ty w.a) w.ty.pair 6 with writes := [] } = none) :=
  by and_intros <;> decide +kernel

theorem meets_QueueWords_4 :
    let w : UrWord := { blankUr with dst := 16, ty := .b64 }
    let s : State := here (.qrcvB64 w) fun c => { c with vq := [List.replicate 32 9] }
    let c : Cohort := runner s
    let e := List.replicate 32 9
    let rest := []
    (s.current = some c) ∧ ((Instr.qrcvB64 w).wf = true) ∧ (c.vq = e :: rest) :=
  by and_intros <;> decide +kernel

theorem meets_QueueWords_5 :
    let w : UrWord := { blankUr with dst := 16, b := .imm 33, ty := .b32 }
    let s : State := here (.qrcvB32 w) fun c => { c with vq := [List.replicate 32 9] }
    let c : Cohort := runner s
    let e := List.replicate 32 9
    let rest := []
    (s.current = some c) ∧ ((Instr.qrcvB32 w).wf = true) ∧ (c.vq = e :: rest) :=
  by and_intros <;> decide +kernel

theorem meets_QueueTraps_0 :
    let w : UrWord := { blankUr with a := .ureg 4 }
    let s : State := here (.qput w) fun c => { c with uq := List.replicate 16 0 }
    let c : Cohort := runner s
    (s.current = some c) ∧ ((Instr.qput w).wf = true) ∧ (16 ≤ c.uq.length) :=
  by and_intros <;> decide +kernel

theorem meets_QueueTraps_1 :
    let w : UrWord := { blankUr with dst := 16, ty := .b64 }
    let s : State := here (.qrcvB64 w)
    let c : Cohort := runner s
    (s.current = some c) ∧ ((Instr.qrcvB64 w).wf = true) ∧ (c.vq = []) :=
  by and_intros <;> decide +kernel

theorem meets_QueueTraps_2 :
    let w : UrWord := { blankUr with dst := 16, b := .imm 33, ty := .b32 }
    let s : State := here (.qrcvB32 w)
    let c : Cohort := runner s
    (s.current = some c) ∧ ((Instr.qrcvB32 w).wf = true) ∧ (c.vq = []) :=
  by and_intros <;> decide +kernel

theorem meets_QueueTraps_3 :
    let w : VrWord := { blankVr with dst := 6, ty := .b64 }
    let s : State := here (.qget w) fun c => { c with uq := [] }
    let c : Cohort := runner s
    (s.current = some c) ∧ ((Instr.qget w).wf = true) ∧ (c.vectorTrap (vrOp w [] w.ty.pair 4) = none) ∧ (c.uq = []) :=
  by and_intros <;> decide +kernel

theorem meets_QueueTraps_4 :
    let w : VrWord := { blankVr with a := .vreg 3, ty := .b32 }
    let s : State := here (.qret w) fun c => { c with vq := List.replicate 16 [] }
    let c : Cohort := runner s
    (s.current = some c) ∧ ((Instr.qret w).wf = true) ∧ (c.vectorTrap { vrOp w (srcRun w.ty w.a) false 4 with writes := [] } = none) ∧ (16 ≤ c.vq.length) :=
  by and_intros <;> decide +kernel

theorem meets_QueueTraps_5 :
    let w : VrWord := { blankVr with a := .vreg 3, ty := .f32, mod := 8 }
    let s : State := here (.vredQ w) fun c => { c with vq := List.replicate 16 [] }
    let c : Cohort := runner s
    (s.current = some c) ∧ ((Instr.vredQ w).wf = true) ∧ (c.vectorTrap { vrOp w (srcRun w.ty w.a) w.ty.pair 6 with writes := [] } = none) ∧ (16 ≤ c.vq.length) :=
  by and_intros <;> decide +kernel

theorem meets_SpecialRegisters_0 :
    let w : UrWord := { blankUr with dst := 7, ty := .b64, mod := 0xF }
    let s : State := here (.srd w)
    let c : Cohort := runner s
    (s.current = some c) ∧ ((Instr.srd w).wf = true) :=
  by and_intros <;> decide +kernel

theorem meets_SpecialRegisters_1 :
    let w : VrWord := { blankVr with dst := 7, ty := .b32, mod := 2 }
    let s : State := here (.srdv w)
    let c : Cohort := runner s
    (s.current = some c) ∧ ((Instr.srdv w).wf = true) ∧ (c.vectorTrap (vrOp w [] false 4) = none) :=
  by and_intros <;> decide +kernel

theorem meets_SpecialRegisters_2 :
    let w : UrWord := { blankUr with dst := 7, ty := .b64, mod := 0x18 }
    let s : State := here (.srdMbin w)
    let c : Cohort := runner s
    (s.current = some c) ∧ ((Instr.srdMbin w).wf = true) :=
  by and_intros <;> decide +kernel

theorem meets_SpecialRegisters_3 :
    let w : UrWord := { blankUr with a := .ureg 1, ty := .b64, mod := 0x19 }
    let s : State := here (.swr w)
    let c : Cohort := runner s
    (s.current = some c) ∧ ((Instr.swr w).wf = true) :=
  by and_intros <;> decide +kernel

theorem meets_SpecialRegisters_4 :
    let w : SynWord := { blankSyn with mod := 3 }
    let s0 : State := here (.dbg w)
    let s : State := (stalledAt false s0).1
    let c : Cohort := runner s0
    let d : Cohort := (stalledAt false s0).2
    (Ready s0 (.dbg w) w.guard [] [] c s d) ∧ (someActive d w.guard) :=
  ⟨passes_of (by decide +kernel), (by decide +kernel : _ ≠ _)⟩

theorem meets_Invalidations_0 :
    let w : UrWord := { blankUr with dst := 3, a := .ureg 1, b := .ureg 2, ty := .b64 }
    let s : State := here (.tlbinv w)
    let c : Cohort := runner s
    (s.current = some c) ∧ ((Instr.tlbinv w).wf = true) ∧ (c.ctx / 8 = 0) ∧ (c.usrc w.b ≤ 2055) ∧ (shootBad (c.usrc w.a) = false) ∧ (bitOf (s.ctxReg (c.usrc w.b) 0x48) 16 = false) :=
  by and_intros <;> decide +kernel

theorem meets_Invalidations_1_0 :
    let w : UrWord := { blankUr with dst := 3, a := .ureg 1, b := .ureg 2, ty := .b64 }
    let s : State := here (.tlbinv w) (sregs [(2, 2056)])
    let c : Cohort := runner s
    (s.current = some c) ∧ ((Instr.tlbinv w).wf = true) ∧ (c.ctx / 8 = 0) ∧ ((2055 < c.usrc w.b ∨ shootBad (c.usrc w.a) = true)) :=
  by and_intros <;> decide +kernel

theorem meets_Invalidations_1_1 :
    let w : UrWord := { blankUr with dst := 3, a := .ureg 1, b := .ureg 2, ty := .b64 }
    let s : State := here (.tlbinv w) (sregs [(1, 0x14000)])
    let c : Cohort := runner s
    (s.current = some c) ∧ ((Instr.tlbinv w).wf = true) ∧ (c.ctx / 8 = 0) ∧ ((2055 < c.usrc w.b ∨ shootBad (c.usrc w.a) = true)) :=
  by and_intros <;> decide +kernel

theorem meets_Invalidations_2 :
    let w : UrWord := { blankUr with dst := 3, b := .ureg 2, ty := .b64 }
    let s : State := here (.icinv w)
    let c : Cohort := runner s
    (s.current = some c) ∧ ((Instr.icinv w).wf = true) ∧ (c.ctx / 8 = 0) ∧ (c.usrc w.b ≤ 2055) :=
  by and_intros <;> decide +kernel

theorem meets_Invalidations_3 :
    let w : UrWord := { blankUr with dst := 3, b := .ureg 2, ty := .b64 }
    let s : State := here (.icinv w) (sregs [(2, 2056)])
    let c : Cohort := runner s
    (s.current = some c) ∧ ((Instr.icinv w).wf = true) ∧ (c.ctx / 8 = 0) ∧ (2055 < c.usrc w.b) :=
  by and_intros <;> decide +kernel

theorem meets_Invalidations_4 :
    let w : UrWord := { blankUr with dst := 3, a := .ureg 1, b := .ureg 2, ty := .b64 }
    let s : State := (here (.tlbinv w)).setReg 0 0x1048 0x10000
    let c : Cohort := runner s
    (s.current = some c) ∧ ((Instr.tlbinv w).wf = true) ∧ (c.ctx / 8 = 0) ∧ (c.usrc w.b ≤ 2055) ∧ (shootBad (c.usrc w.a) = false) ∧ (bitOf (s.ctxReg (c.usrc w.b) 0x48) 16 = true) :=
  by and_intros <;> decide +kernel

theorem meets_Privilege_0 :
    let w : UrWord := { blankUr with dst := 3, b := .ureg 2, ty := .b64 }
    let i : Instr := .icinv w
    let s : State := here i fun c => { c with ctx := 8 }
    let c : Cohort := runner s
    (i ∈ [Instr.tlbinv w, .icinv w]) ∧ (s.current = some c) ∧ (i.wf = true) ∧ (c.ctx / 8 ≠ 0) :=
  by and_intros <;> decide +kernel

theorem meets_LoadCompletes_0 :
    let w : MemWord := { blankMem with data := 4, base := 1, disp := 8 }
    let s0 : State := here (.ld w)
    let s : State := (stalledAt (!w.ua) s0).1
    let c : Cohort := runner s0
    let d : Cohort := (stalledAt (!w.ua) s0).2
    (AtAccess s0 (.ld w) w (memRuns w (szRegs w.sz)) (returnTag w) c s d) ∧ 
    (let n := szBytes w.sz
    
    (let accs := s.memAccs (calm d) w n .read fun _ => none
    
    (let s1 := noted s (calm d) accs true false
    
    (let s2 := (s1.spendGrant (calm d)).settle (calm d) false n accs
    (Clear s (calm d) accs true false n) ∧ (s1.missReady (calm d) (s1.loadNeed (calm d) true n accs) = true) ∧ ((s1.spendGrant (calm d)).askData (calm d) accs (fun _ => .read n) n = none) ∧ ((w.ua = true → s2.errorAcc n accs = none)))))) :=
  ⟨access_of (passes_of (by decide +kernel)) (by decide +kernel) (by decide +kernel), clear_of (by decide +kernel), by and_intros <;> decide +kernel⟩

theorem meets_LoadCompletes_1 :
    let w : MemWord := { blankMem with ua := true, data := 4, base := 1, disp := 8, sz := 2 }
    let s0 : State := badSector0 (here (.ld w))
    let s : State := (stalledAt (!w.ua) s0).1
    let c : Cohort := runner s0
    let d : Cohort := (stalledAt (!w.ua) s0).2
    let a : Acc := ((s.settle (calm d) false 4 (s.memAccs (calm d) w 4 .read fun _ => none)).errorAcc 4 (s.memAccs (calm d) w 4 .read fun _ => none)).getD noAcc
    (AtAccess s0 (.ld w) w (memRuns w (szRegs w.sz)) (returnTag w) c s d) ∧ 
    (let n := szBytes w.sz
    
    (let accs := s.memAccs (calm d) w n .read fun _ => none
    
    (let s1 := noted s (calm d) accs true false
    
    (let s2 := (s1.spendGrant (calm d)).settle (calm d) false n accs
    (Clear s (calm d) accs true false n) ∧ (s1.missReady (calm d) (s1.loadNeed (calm d) true n accs) = true) ∧ ((s1.spendGrant (calm d)).askData (calm d) accs (fun _ => .read n) n = none) ∧ (w.ua = true) ∧ (s2.errorAcc n accs = some a) ∧ (s2.peerOpen (calm d) = false))))) :=
  ⟨access_of (passes_of (by decide +kernel)) (by decide +kernel) (by decide +kernel), clear_of (by decide +kernel), by and_intros <;> decide +kernel⟩

theorem meets_StoreCompletes_0 :
    let w : MemWord := { blankMem with data := 4, base := 1, disp := 8 }
    let s0 : State := here (.st w)
    let s : State := (stalledAt (!w.ua) s0).1
    let c : Cohort := runner s0
    let d : Cohort := (stalledAt (!w.ua) s0).2
    (AtAccess s0 (.st w) w (memRuns w (szRegs w.sz)) none c s d) ∧ 
    (let n := szBytes w.sz
    
    (let accs := s.memAccs (calm d) w n .write fun _ => none
    
    (let s1 := noted s (calm d) accs false true
    
    (let s2 := released s1 (calm d) w accs
    
    (let s3 := s2.spendGrant (calm d)
    (Clear s (calm d) accs false true n) ∧ (s1.padPartial n accs = none) ∧ (mayRelease s1 (calm d) w accs) ∧ (s2.missReady (calm d) (s2.lineNeed (calm d) n accs) = true)))))) :=
  ⟨access_of (passes_of (by decide +kernel)) (by decide +kernel) (by decide +kernel), clear_of (by decide +kernel), by decide +kernel, fun h => absurd h (by decide +kernel), by decide +kernel⟩

theorem meets_StoreCompletes_1 :
    let w : MemWord := { blankMem with data := 4, base := 1, sz := 0 }
    let s0 : State := padBad (here (.st w) (sregs [(1, 0x1FFFF00000000)]))
    let s : State := (stalledAt (!w.ua) s0).1
    let c : Cohort := runner s0
    let d : Cohort := (stalledAt (!w.ua) s0).2
    let a : Acc := (s.padPartial 1 (s.memAccs (calm d) w 1 .write fun _ => none)).getD noAcc
    (AtAccess s0 (.st w) w (memRuns w (szRegs w.sz)) none c s d) ∧ 
    (let n := szBytes w.sz
    
    (let accs := s.memAccs (calm d) w n .write fun _ => none
    
    (let s1 := noted s (calm d) accs false true
    (Clear s (calm d) accs false true n) ∧ (s1.padPartial n accs = some a) ∧ (s1.peerOpen (calm d) = false)))) :=
  ⟨access_of (passes_of (by decide +kernel)) (by decide +kernel) (by decide +kernel), clear_of (by decide +kernel), by and_intros <;> decide +kernel⟩

theorem meets_StoreEffects_1 :
    let pa : Nat := 0x1006
    let bs : List Byte := [1, 2]
    let p : PendingStore := { core := 3, ctx := 0, placed := 0, lane := some 0, id := 1, request := 0, loc := .hbm pa, op := .store (bs.map some), uncached := false, txn := none, entry := false, grain := none, whole := false, issued := true, rel := [] }
    let s : State := State.reset
    (p.loc = .hbm pa) ∧ (p.op = .store (bs.map some)) ∧ (pa % 64 + bs.length ≤ 64) ∧ ((∀ x ∈ s.l1, x.bytes.length = 64)) :=
  by and_intros <;> decide +kernel

theorem meets_StoreEffects_3 :
    let s : State := State.reset
    let pa : Nat := 0x1003
    let bs : List Byte := [1, 2]
    let core : Option Nat := none
    let grain : Option Nat := none
    let x : Nat := 0x1004
    (Memory.wf s = true) ∧ (s.sectorBad pa = false) ∧ (s.viewOf pa = none) :=
  by and_intros <;> decide +kernel

theorem meets_StoreEffects_4 :
    let s : State := State.reset
    let core : Nat := 0
    let i : Nat := 1
    let n : Nat := 2
    let who : Agent := (0, some 0)
    let l : Loc := .hbm 0x1000
    (i < n) ∧ (s.l1Hit core l = none) ∧ ((∀ p ∈ s.performs, p.seq ≤ s.performSeq)) ∧ ((∀ x ∈ s.seen, x.seq ≤ s.performSeq)) ∧ ((∀ x ∈ s.viewFloors, x.2 ≤ s.performSeq)) :=
  by and_intros <;> decide +kernel

theorem meets_PrefetchCompletes_0 :
    let w : MemWord := { blankMem with base := 1 }
    let s0 : State := here (.pref w)
    let s : State := (stalledAt (!w.ua) s0).1
    let c : Cohort := runner s0
    let d : Cohort := (stalledAt (!w.ua) s0).2
    (AtAccess s0 (.pref w) w (srcRun .n32 w.off) none c s d) :=
  access_of (passes_of (by decide +kernel)) (by decide +kernel) (by decide +kernel)

theorem meets_AtomicsComplete_0 :
    let w : MemWord := { blankMem with data := 5, base := 1, disp := 8 }
    let i := .aadd w
    let s0 : State := here i
    let s : State := (stalledAt (!w.ua) s0).1
    let c : Cohort := runner s0
    let d : Cohort := (stalledAt (!w.ua) s0).2
    let op := .add
    let new := fun n old x _ => (old + x) % 2 ^ n
    (atomicRow i = some (w, op, new)) ∧ (AtAccess s0 i w (memRuns w (atomicRegs op w)) (returnTag w) c s d) ∧ 
    (let n := szBytes w.sz
    
    (let accs := s.memAccs (calm d) w n .rmw (s.atomicCheck (calm d) op)
    
    (let s1 := noted s (calm d) accs true true
    
    (let s2 := released s1 (calm d) w accs
    
    (let s3 := s2.spendGrant (calm d)
    
    (let s4 := s3.settle (calm d) true n accs
    (Clear s (calm d) accs true true n) ∧ (mayRelease s1 (calm d) w accs) ∧ (s2.missReady (calm d) (s2.lineNeed (calm d) n accs) = true) ∧ (s3.askData (calm d) accs (fun a => .atomic op (n == 8) (BitVec.ofNat 64 (atomicOperands op (calm d) w a.lane).1) (BitVec.ofNat 64 (atomicOperands op (calm d) w a.lane).2)) n = none) ∧ (((s4.errorAcc n accs).filter fun a => if w.wbs then s4.errCode a == 4 else w.ua) = none))))))) :=
  ⟨rfl, access_of (passes_of (by decide +kernel)) (by decide +kernel) (by decide +kernel), clear_of (by decide +kernel), fun h => absurd h (by decide +kernel), by and_intros <;> decide +kernel⟩

theorem meets_AtomicsComplete_1 :
    let w : MemWord := blankMem
    let i := .aadd w
    let op : AtomicOp := .add
    let new : Nat → Nat → Nat → Nat → Nat := fun n old x _ => (old + x) % 2 ^ n
    let wide : Bool := false
    let x : Word64 := 1
    let y : Word64 := 0
    let old : List Byte := [255, 255, 255, 255]
    (atomicRow i = some (w, op, new)) :=
  rfl

theorem meets_AtomicsComplete_2 :
    let pa := 0x1000
    let op : AtomicOp := .add
    let wide : Bool := true
    let x : Word64 := 1
    let y : Word64 := 0
    let p : PendingStore := { core := 3, ctx := 0, placed := 0, lane := some 0, id := 1, request := 0, loc := .hbm pa, op := .atomic op wide x y, uncached := false, txn := none, entry := false, grain := none, whole := false, issued := true, rel := [] }
    let s : State := State.reset
    (p.loc = .hbm pa) ∧ (p.op = .atomic op wide x y) ∧ (p.whole = false) ∧ (Memory.wf s = true) ∧ (s.sectorBad pa = false) ∧ (s.viewOf pa = none) :=
  by and_intros <;> decide +kernel

theorem meets_ExactCells_0 :
    let w : MemWord := { blankMem with data := 5, base := 1 }
    let s0 : State := withExact (here (.xadd w) (sregs [(1, 0x400000)]))
    let s : State := (stalledAt (!w.ua) s0).1
    let c : Cohort := runner s0
    let d : Cohort := (stalledAt (!w.ua) s0).2
    (AtAccess s0 (.xadd w) w (memRuns w 1) none c s d) ∧ 
    (let accs := s.memAccs (calm d) w 64 .rmw (s.xaddCheck (calm d))
    
    (let s1 := noted s (calm d) accs true true
    
    (let s2 := released s1 (calm d) w accs
    
    (let s3 := s2.spendGrant (calm d)
    (Clear s (calm d) accs true true 64) ∧ (mayRelease s1 (calm d) w accs) ∧ (s2.missReady (calm d) (s2.lineNeed (calm d) 64 accs) = true))))) :=
  ⟨access_of (passes_of (by decide +kernel)) (by decide +kernel) (by decide +kernel), clear_of (by decide +kernel), fun h => absurd h (by decide +kernel), by decide +kernel⟩

theorem meets_ExactCells_1 :
    let w : MemWord := { blankMem with data := 5, base := 1 }
    let s0 : State := withExact (here (.xrd w) (sregs [(1, 0x400000)]))
    let s : State := (stalledAt (!w.ua) s0).1
    let c : Cohort := runner s0
    let d : Cohort := (stalledAt (!w.ua) s0).2
    (AtAccess s0 (.xrd w) w (memRuns w 1) (returnTag w) c s d) ∧ 
    (let accs := s.memAccs (calm d) w 64 .read s.xrdCheck
    
    (let s1 := noted s (calm d) accs true false
    
    (let s2 := (s1.spendGrant (calm d)).settle (calm d) false 64 accs
    (Clear s (calm d) accs true false 64) ∧ (s1.missReady (calm d) (s1.loadNeed (calm d) false 64 accs) = true) ∧ ((s1.spendGrant (calm d)).askData (calm d) accs (fun _ => .read 64) 64 = none) ∧ ((w.ua = true → s2.errorAcc 64 accs = none))))) :=
  ⟨access_of (passes_of (by decide +kernel)) (by decide +kernel) (by decide +kernel), clear_of (by decide +kernel), by and_intros <;> decide +kernel⟩

theorem meets_ExactCells_3 :
    let bs : List Byte := List.replicate 64 0
    let r : PendingRead := { landing := 0, core := 0, placed := 0, lane := 0, va := 0, loc := .hbm 0x1000, len := 64, sz := 4, dst := 5, kind := .cell, bytes := some bs }
    (r.kind = .cell) ∧ (r.bytes = some bs) :=
  by and_intros <;> decide +kernel

theorem meets_ExchangeStore_0 :
    let w : MemWord := { blankMem with data := 5, base := 1 }
    let s0 : State := withTeam (here (.xst w) (sregs [(1, 0x1FFFF10000000)]))
    let s : State := (stalledAt (!w.ua) s0).1
    let c : Cohort := runner s0
    let d : Cohort := (stalledAt (!w.ua) s0).2
    (AtAccess s0 (.xst w) w (memRuns w (szRegs w.sz)) none c s d) ∧ (someActive d w.guard) ∧ ((∀ f ∈ d.active w.guard, f.team ≠ 0xFFFFFFFF#32)) ∧ 
    (let accs := s.xstAccs (calm d) w
    
    (let s1 := noted s (calm d) accs false true
    (Clear s (calm d) accs false true (szBytes w.sz)) ∧ (s1.missReady (calm d) 1 = true))) :=
  ⟨access_of (passes_of (by decide +kernel)) (by decide +kernel) (by decide +kernel), (by decide +kernel : _ ≠ _), by decide +kernel, clear_of (by decide +kernel), by decide +kernel⟩

theorem meets_FencesComplete_0 :
    let w : MemWord := { blankFence with ord := 3, scope := 4 }
    let s0 : State := here (.fence w)
    let s : State := (stalledAt false s0).1
    let c : Cohort := runner s0
    let d : Cohort := (stalledAt false s0).2
    (Ready s0 (.fence w) w.guard [] [] c s d) :=
  passes_of (by decide +kernel)

theorem meets_FencesComplete_1 :
    let w : MemWord := blankFence
    let s0 : State := here (.fenceSc w)
    let s : State := (stalledAt false s0).1
    let c : Cohort := runner s0
    let d : Cohort := (stalledAt false s0).2
    (Ready s0 (.fenceSc w) w.guard [] [] c s d) ∧ (s.peerOpen (calm d) = false) :=
  ⟨passes_of (by decide +kernel), by decide +kernel⟩

theorem meets_FencesComplete_2 :
    let w : MemWord := { blankFence with scope := 5 }
    let s0 : State := here (.fenceScPod w)
    let s1 : State := (resumed s0).1
    let c : Cohort := runner s0
    let e : Cohort := (resumed s0).2
    let h : Header := headerOf s1 e (e.pc + 8)
    (Resumes s0 (.fenceScPod w) w.guard [] [] c s1 e h) :=
  resumes_of (passes_of (by decide +kernel)) (by decide +kernel)

theorem meets_FencesComplete_3 :
    let w : MemWord := blankFence
    let s0 : State := here (.fenceFmt w)
    let s1 : State := (resumed s0).1
    let c : Cohort := runner s0
    let e : Cohort := (resumed s0).2
    let h : Header := headerOf s1 e (e.pc + 8)
    (Resumes s0 (.fenceFmt w) w.guard [] [] c s1 e h) ∧ ((completed s1 e).anyWindow = false) :=
  ⟨resumes_of (passes_of (by decide +kernel)) (by decide +kernel), by decide +kernel⟩

theorem meets_FencesComplete_4 :
    let w : MemWord := blankFence
    let s0 : State := (here (.fenceFmt w)).setReg 0 0x2230 1
    let s1 : State := (resumed s0).1
    let c : Cohort := runner s0
    let e : Cohort := (resumed s0).2
    let h : Header := headerOf s1 e (e.pc + 8)
    (Resumes s0 (.fenceFmt w) w.guard [] [] c s1 e h) ∧ ((completed s1 e).anyWindow = true) :=
  ⟨resumes_of (passes_of (by decide +kernel)) (by decide +kernel), by decide +kernel⟩

theorem meets_FencesComplete_5 :
    let w : MemWord := blankFence
    let s0 : State := { here (.fenceSc w) with pendingStores := [aPost], peerReqs := [aPostReq] }
    let s : State := (stalledAt false s0).1
    let c : Cohort := runner s0
    let d : Cohort := (stalledAt false s0).2
    (Ready s0 (.fenceSc w) w.guard [] [] c s d) ∧ (s.peerOpen (calm d) = true) :=
  ⟨passes_of (by decide +kernel), by decide +kernel⟩

theorem meets_FenceSteps_0 :
    let s : State := State.reset.l1Fill 0 0
    let core : Nat := 0
    let scope : Nat := 2
    (2 ≤ scope) :=
  by decide +kernel

theorem meets_FenceSteps_2 :
    let s : State := State.reset
    let core : Nat := 0
    let scope : Nat := 2
    let l : Loc := .hbm 0
    (2 ≤ scope) :=
  by decide +kernel

theorem meets_MatrixWords_0 :
    let w : MmaWord := { blankMma with vx := 4, ub := 10, ta := Ty.i8.code, tb := Ty.i8.code, sat := true, mod := 5, ltag := 3 }
    let s0 : State := (fun s => withTeam (withTile s)) (here (.mma w))
    let s : State := (stalledAt true s0).1
    let c : Cohort := runner s0
    let d : Cohort := (stalledAt true s0).2
    let tile := 0
    (AtTile s0 (.mma w) w [(w.vx.toNat, if (Ty.ofCode w.ta).getD .bf16 == .bs4 then 2 else 1)] (flagOf w).toList ((flagOf w).map fun _ => w.ltag.toNat) c s d tile) ∧ 
    (let ta := (Ty.ofCode w.ta).getD .bf16
    
    (let tb := (Ty.ofCode w.tb).getD .bf16
    
    (let fs := (calm d).active w.guard
    (someActive d w.guard) ∧ (s.mmaTrap (calm d) w ta tb fs = none) ∧ (s.mmaWatch (calm d) w ta tb fs = none) ∧ (s.mmaBad (calm d) w ta tb fs = none)))) :=
  ⟨tile_of (passes_of (by decide +kernel)) (by decide +kernel) (by decide +kernel), (by decide +kernel : _ ≠ _), by and_intros <;> decide +kernel⟩

theorem meets_MatrixWords_1 :
    let w : MmaWord := { blankMma with th := 2 }
    let s0 : State := withCellar (here (.tileAlloc w))
    let s : State := (stalledAt false s0).1
    let c : Cohort := runner s0
    let d : Cohort := (stalledAt false s0).2
    let n := 0
    (Ready s0 (.tileAlloc w) Guard.always [] [] c s d) ∧ (s.tileOf (calm d) w.th.toNat = none) ∧ (s.cellarCharged (fnOf d.ctx) + 128 ≤ s.cellarBays (fnOf d.ctx)) ∧ ((s.core d.core).freeTile = some n) ∧ (s.saveVolume d.core + 32768 ≤ s.saveCap (fnOf d.ctx)) :=
  ⟨passes_of (by decide +kernel), by and_intros <;> decide +kernel⟩

theorem meets_MatrixWords_2 :
    let w : MmaWord := blankMma
    let s0 : State := withTile (here (.tileFree w))
    let s : State := (stalledAt true s0).1
    let c : Cohort := runner s0
    let d : Cohort := (stalledAt true s0).2
    let tile := 0
    (AtTile s0 (.tileFree w) w [] [] none c s d tile) :=
  tile_of (passes_of (by decide +kernel)) (by decide +kernel) (by decide +kernel)

theorem meets_MatrixWords_3 :
    let w : MmaWord := blankMma
    let s0 : State := withTile (here (.tileZero w))
    let s : State := (stalledAt true s0).1
    let c : Cohort := runner s0
    let d : Cohort := (stalledAt true s0).2
    let tile := 0
    (AtTile s0 (.tileZero w) w [] [] none c s d tile) ∧ (someActive d w.guard) :=
  ⟨tile_of (passes_of (by decide +kernel)) (by decide +kernel) (by decide +kernel), (by decide +kernel : _ ≠ _)⟩

theorem meets_MatrixWords_4 :
    let w : MmaWord := { blankMma with mod := 1 }
    let s0 : State := withTile (here (.tileMov w))
    let s : State := (stalledAt true s0).1
    let c : Cohort := runner s0
    let d : Cohort := (stalledAt true s0).2
    let tile := 0
    let source := 1
    (AtTile s0 (.tileMov w) w [] [] none c s d tile) ∧ (someActive d w.guard) ∧ (s.tileOf (calm d) (w.mod.toNat % 8) = some source) :=
  ⟨tile_of (passes_of (by decide +kernel)) (by decide +kernel) (by decide +kernel), (by decide +kernel : _ ≠ _), by decide +kernel⟩

theorem meets_MatrixWords_5 :
    let w : MmaWord := { blankMma with vx := 8, ub := 2, ltag := 1 }
    let s0 : State := withTile (here (.tileRd w))
    let s : State := (stalledAt true s0).1
    let c : Cohort := runner s0
    let d : Cohort := (stalledAt true s0).2
    let tile := 0
    (AtTile s0 (.tileRd w) w [(w.vx.toNat, 8)] [] (some w.ltag.toNat) c s d tile) :=
  tile_of (passes_of (by decide +kernel)) (by decide +kernel) (by decide +kernel)

theorem meets_MatrixWords_6 :
    let w : MmaWord := { blankMma with vx := 8, ub := 2 }
    let s0 : State := withTile (here (.tileWr w))
    let s : State := (stalledAt true s0).1
    let c : Cohort := runner s0
    let d : Cohort := (stalledAt true s0).2
    let tile := 0
    (AtTile s0 (.tileWr w) w [(w.vx.toNat, 8)] [] none c s d tile) ∧ (someActive d w.guard) :=
  ⟨tile_of (passes_of (by decide +kernel)) (by decide +kernel) (by decide +kernel), (by decide +kernel : _ ≠ _)⟩

theorem meets_MatrixWords_7 :
    let w : MmaWord := { blankMma with guard := never, vx := 8, ub := 2 }
    let i : Instr := .tileWr w
    let tile := 0
    let runs : List RegRun := [(w.vx.toNat, 8)]
    let s0 : State := withTile (here i)
    let s : State := (stalledAt true s0).1
    let c : Cohort := runner s0
    let d : Cohort := (stalledAt true s0).2
    ((i, runs) ∈ [(Instr.tileZero w, []), (.tileWr w, [(w.vx.toNat, 8)])]) ∧ (AtTile s0 i w runs [] none c s d tile) ∧ (d.active w.guard = []) :=
  ⟨by decide +kernel, tile_of (passes_of (by decide +kernel)) (by decide +kernel) (by decide +kernel), by decide +kernel⟩

theorem meets_TileMemoryWords_0 :
    let w : MmaWord := { blankMma with ub := 2, ta := Ty.b32.code }
    let s0 : State := withTile (here (.tileLd w) (sregs [(2, 0x20000), (3, 1024)]))
    let s : State := (stalledAt true s0).1
    let c : Cohort := runner s0
    let d : Cohort := (stalledAt true s0).2
    let s2 := (loadBuffer (noted s (calm d) (((calm d).active w.guard).flatMap (s.rowAccs (calm d) w (256 * (((Ty.ofCode w.ta).getD .b32).width / 8)) .read)) true false) (calm d)).1
    let e : Cohort := (loadBuffer (noted s (calm d) (((calm d).active w.guard).flatMap (s.rowAccs (calm d) w (256 * (((Ty.ofCode w.ta).getD .b32).width / 8)) .read)) true false) (calm d)).2
    let tile := 0
    (AtTile s0 (.tileLd w) w [] [] none c s d tile) ∧ 
    (let ty := (Ty.ofCode w.ta).getD .b32
    
    (let fs := (calm d).active w.guard
    
    (let accs := fs.flatMap (s.rowAccs (calm d) w (256 * (ty.width / 8)) .read)
    
    (let s1 := noted s (calm d) accs true false
    
    (let s3 := (s2.settle e false 64 accs).bufferReads e 64 accs
    (loadBuffer s1 (calm d) = (s2, e)) ∧ (someActive e w.guard) ∧ (State.rowTrap (calm d) w 0 fs = none) ∧ (Clear s (calm d) accs true false 64) ∧ (s2.askData e accs (fun _ => .read 64) 64 = none) ∧ (s2.errorAcc 64 accs = none)))))) :=
  ⟨tile_of (passes_of (by decide +kernel)) (by decide +kernel) (by decide +kernel), by decide +kernel, (by decide +kernel : _ ≠ _), by decide +kernel, clear_of (by decide +kernel), by and_intros <;> decide +kernel⟩

theorem meets_TileMemoryWords_1 :
    let w : MmaWord := { blankMma with ub := 2, ta := Ty.b32.code }
    let s0 : State := withTile (here (.tileSt w) (sregs [(2, 0x20000), (3, 1024)]))
    let s : State := (stalledAt true s0).1
    let c : Cohort := runner s0
    let d : Cohort := (stalledAt true s0).2
    let s2 := (storeBuffer (noted s (calm d) (((calm d).active w.guard).flatMap (s.rowAccs (calm d) w 1024 .write)) false true) (calm d)).1
    let e : Cohort := (storeBuffer (noted s (calm d) (((calm d).active w.guard).flatMap (s.rowAccs (calm d) w 1024 .write)) false true) (calm d)).2
    let tile := 0
    (AtTile s0 (.tileSt w) w [] [] none c s d tile) ∧ 
    (let fs := (calm d).active w.guard
    
    (let accs := fs.flatMap (s.rowAccs (calm d) w 1024 .write)
    
    (let s1 := noted s (calm d) accs false true
    (storeBuffer s1 (calm d) = (s2, e)) ∧ (someActive e w.guard) ∧ (s2.pendingStores.any (rowWrite d.core) = false) ∧ (State.rowTrap (calm d) w 1024 fs = none) ∧ (Clear s (calm d) accs false true 64)))) :=
  ⟨tile_of (passes_of (by decide +kernel)) (by decide +kernel) (by decide +kernel), by decide +kernel, (by decide +kernel : _ ≠ _), by decide +kernel, by decide +kernel, clear_of (by decide +kernel)⟩

theorem meets_TileMemoryWords_2_0 :
    let w : MmaWord := { blankMma with ub := 14, ta := Ty.f32.code, tb := Ty.f32.code }
    let s0 : State := withTile (here (.tileDrain w) (sregs [(14, 0x20000), (15, 1024)]))
    let s : State := (stalledAt true s0).1
    let c : Cohort := runner s0
    let d : Cohort := (stalledAt true s0).2
    let s2 := (storeBuffer (noted s (calm d) (((calm d).active w.guard).flatMap fun f => (if w.mod.getLsbD 0 then [s.bandAcc (calm d) w f] else []) ++ s.rowAccs (calm d) w (256 * (((Ty.ofCode w.tb).getD .f32).width / 8)) .write f) false false) (calm d)).1
    let e : Cohort := (storeBuffer (noted s (calm d) (((calm d).active w.guard).flatMap fun f => (if w.mod.getLsbD 0 then [s.bandAcc (calm d) w f] else []) ++ s.rowAccs (calm d) w (256 * (((Ty.ofCode w.tb).getD .f32).width / 8)) .write f) false false) (calm d)).2
    let tile := 0
    (AtTile s0 (.tileDrain w) w [] [] none c s d tile) ∧ 
    (let ta := (Ty.ofCode w.ta).getD .f32
    
    (let tb := (Ty.ofCode w.tb).getD .f32
    
    (let fs := (calm d).active w.guard
    
    (let bands (f : Fibre) : List Acc := if w.mod.getLsbD 0 then [s.bandAcc (calm d) w f] else []
    
    (let row := s.rowAccs (calm d) w (256 * (tb.width / 8)) .write
    
    (let rows := fs.flatMap row
    
    (let scales := fs.flatMap bands
    
    (let accs := fs.flatMap fun f => bands f ++ row f
    
    (let s1 := noted s (calm d) accs false false
    
    (let s3 := (s2.settle e false 2 scales).bufferReads e 2 scales
    
    (let s4 := paid s3 e
    (storeBuffer s1 (calm d) = (s2, e)) ∧ (someActive e w.guard) ∧ (s2.pendingStores.any (rowWrite d.core) = false) ∧ (State.rowTrap (calm d) w (256 * (tb.width / 8)) fs = none) ∧ ((w.mod.getLsbD 0 = true → bandTrap (calm d) w = none)) ∧ (Clear s (calm d) accs false false 64) ∧ (s2.askData e scales (fun _ => .read 2) 2 = none) ∧ (s2.watchTrap e true false 2 scales = none) ∧ (s2.watchTrap e false true 64 rows = none) ∧ (s2.errorAcc 2 scales = none) ∧ ((∀ o, s3.owedBy e.uid = some o → 5 ≤ o.1 → s3.peerOpen e = false))))))))))))) :=
  ⟨tile_of (passes_of (by decide +kernel)) (by decide +kernel) (by decide +kernel), by decide +kernel, (by decide +kernel : _ ≠ _), by decide +kernel, by decide +kernel, by decide +kernel, clear_of (by decide +kernel), by decide +kernel, by decide +kernel, by decide +kernel, by decide +kernel, owes_none (by decide +kernel)⟩

theorem meets_TileMemoryWords_2_1 :
    let w : MmaWord := { blankMma with ub := 14, ta := Ty.f32.code, tb := Ty.f32.code, uc := 16, mod := 1 }
    let s0 : State := withTile (here (.tileDrain w) (sregs [(14, 0x20000), (15, 1024), (16, 0x30000), (17, 2)]))
    let s : State := (stalledAt true s0).1
    let c : Cohort := runner s0
    let d : Cohort := (stalledAt true s0).2
    let s2 := (storeBuffer (noted s (calm d) (((calm d).active w.guard).flatMap fun f => (if w.mod.getLsbD 0 then [s.bandAcc (calm d) w f] else []) ++ s.rowAccs (calm d) w (256 * (((Ty.ofCode w.tb).getD .f32).width / 8)) .write f) false false) (calm d)).1
    let e : Cohort := (storeBuffer (noted s (calm d) (((calm d).active w.guard).flatMap fun f => (if w.mod.getLsbD 0 then [s.bandAcc (calm d) w f] else []) ++ s.rowAccs (calm d) w (256 * (((Ty.ofCode w.tb).getD .f32).width / 8)) .write f) false false) (calm d)).2
    let tile := 0
    (AtTile s0 (.tileDrain w) w [] [] none c s d tile) ∧ 
    (let ta := (Ty.ofCode w.ta).getD .f32
    
    (let tb := (Ty.ofCode w.tb).getD .f32
    
    (let fs := (calm d).active w.guard
    
    (let bands (f : Fibre) : List Acc := if w.mod.getLsbD 0 then [s.bandAcc (calm d) w f] else []
    
    (let row := s.rowAccs (calm d) w (256 * (tb.width / 8)) .write
    
    (let rows := fs.flatMap row
    
    (let scales := fs.flatMap bands
    
    (let accs := fs.flatMap fun f => bands f ++ row f
    
    (let s1 := noted s (calm d) accs false false
    
    (let s3 := (s2.settle e false 2 scales).bufferReads e 2 scales
    
    (let s4 := paid s3 e
    (storeBuffer s1 (calm d) = (s2, e)) ∧ (someActive e w.guard) ∧ (s2.pendingStores.any (rowWrite d.core) = false) ∧ (State.rowTrap (calm d) w (256 * (tb.width / 8)) fs = none) ∧ ((w.mod.getLsbD 0 = true → bandTrap (calm d) w = none)) ∧ (Clear s (calm d) accs false false 64) ∧ (s2.askData e scales (fun _ => .read 2) 2 = none) ∧ (s2.watchTrap e true false 2 scales = none) ∧ (s2.watchTrap e false true 64 rows = none) ∧ (s2.errorAcc 2 scales = none) ∧ ((∀ o, s3.owedBy e.uid = some o → 5 ≤ o.1 → s3.peerOpen e = false))))))))))))) :=
  ⟨tile_of (passes_of (by decide +kernel)) (by decide +kernel) (by decide +kernel), by decide +kernel, (by decide +kernel : _ ≠ _), by decide +kernel, by decide +kernel, by decide +kernel, clear_of (by decide +kernel), by decide +kernel, by decide +kernel, by decide +kernel, by decide +kernel, owes_none (by decide +kernel)⟩

theorem meets_MatrixUnit_0 :
    let op : MatrixOp := { id := 9, issuer := [0], placed := 0, ctx := 0, tag := 0, handle := 0, tile := 0, addr := 0, tagOut := none, lanes := [], kind := .zero }
    let rest : List MatrixOp := []
    let k := 0
    let s : State := State.reset.putCore { State.reset.core 0 with matrixQueue := [op] }
    ((s.core k).matrixQueue = op :: rest) :=
  by decide +kernel

theorem meets_MatrixUnit_1 :
    let ta : Ty := .i8
    let tb : Ty := .n8
    let sat : Bool := true
    let a : List Byte := [1, 0x80]
    let b : List Byte := [2, 3]
    let acc : Word32 := 7
    ((ta = .i8 ∨ ta = .n8)) :=
  by decide +kernel

theorem meets_MatrixUnit_2 :
    let ta : Ty := .bf16
    let tb : Ty := .bf16
    let sat : Bool := false
    let a : List Byte := [0x80, 0x3F]
    let aS : List Byte := []
    let b : List Byte := [0, 0x40]
    let bS : List Byte := []
    let acc : Word32 := 0
    ((ta = .bf16 ∨ ta = .f16)) :=
  by decide +kernel

theorem meets_MatrixUnit_3 :
    let i : Nat := 31
    let t : Tile := ⟨none, []⟩
    let lanes : List Nat := [0, 2]
    let g : Nat → List Word32 → List Word32 := fun _ _ => [1]
    (i < 32) ∧ (i ∉ lanes) :=
  by and_intros <;> decide +kernel

theorem meets_MatrixUnit_4 :
    let op : MatrixOp := { id := 9, issuer := [0], placed := 0, ctx := 0, tag := 0, handle := 0, tile := 7, addr := 0, tagOut := none, lanes := [], kind := .free }
    let s : State := State.reset
    let k : Nat := 0
    (op.kind = .free) ∧ (op.tile < 8) :=
  by and_intros <;> decide +kernel

theorem meets_BarrierWords_0 :
    let w : SynWord := { blankSyn with ua := 10, ub := 11 }
    let s0 : State := withTeam (here (.barInit w) (sregs [(10, 65536), (11, 64)]))
    let s : State := (stalledAt false s0).1
    let c : Cohort := runner s0
    let d : Cohort := (stalledAt false s0).2
    let t := (withTeam State.reset).teams.headD ⟨0, 0, 0, 0, 0, 0, 0, [], []⟩
    (Ready s0 (.barInit w) w.guard [] [] c s d) ∧ (someActive d w.guard) ∧ (s.leadOf (calm d) ((calm d).active w.guard) = some t) ∧ (d.sreg w.ua.toNat ≤ 65536) ∧ (d.sreg w.ub.toNat < 2 ^ 48) ∧ ((d.sreg w.ua.toNat ≠ 0 ∨ d.sreg w.ub.toNat ≠ 0)) ∧ ((∀ r ∈ s.records, r.waitsOn d.launch t.num w.bar.toNat = false)) :=
  ⟨passes_of (by decide +kernel), (by decide +kernel : _ ≠ _), by and_intros <;> decide +kernel⟩

theorem meets_BarrierWords_1 :
    let w : SynWord := blankSyn
    let s0 : State := withTeam (here (.barArrive w))
    let s : State := (stalledAt false s0).1
    let c : Cohort := runner s0
    let d : Cohort := (stalledAt false s0).2
    (Ready s0 (.barArrive w) w.guard [] [] c s d) ∧ (someActive d w.guard) ∧ 
    (let fs := (calm d).active w.guard
    (s.memberTrap (calm d) fs w.bar.toNat = none) ∧ (freeToRelease s (calm d) (s.barScope (calm d) fs))) :=
  ⟨passes_of (by decide +kernel), (by decide +kernel : _ ≠ _), by decide +kernel, free_of (by decide +kernel)⟩

theorem meets_BarrierWords_2 :
    let w : SynWord := { blankSyn with pd := 4 }
    let s0 : State := (withTeam (here (.barWait w))).arrive 1 0 0 0
    let s1 : State := (resumed s0).1
    let c : Cohort := runner s0
    let e : Cohort := (resumed s0).2
    let h : Header := headerOf s1 e (e.pc + 8)
    let s2 := ((e.active w.guard).foldl (waitOne e w.bar.toNat) (s1, [], [])).1
    let done := ((e.active w.guard).foldl (waitOne e w.bar.toNat) (s1, [], [])).2.1
    (Resumes s0 (.barWait w) w.guard [] [w.pd.toNat] c s1 e h) ∧ (someActive e w.guard) ∧ 
    (let fs := e.active w.guard
    (s1.memberTrap e fs w.bar.toNat = none) ∧ (fs.foldl (waitOne e w.bar.toNat) (s1, [], []) = (s2, done, []))) :=
  ⟨resumes_of (passes_of (by decide +kernel)) (by decide +kernel), (by decide +kernel : _ ≠ _), by and_intros <;> decide +kernel⟩

theorem meets_BarrierWords_3 :
    let w : SynWord := { blankSyn with pd := 4 }
    let s0 : State := withTeam (here (.barWait w))
    let s1 : State := (resumed s0).1
    let c : Cohort := runner s0
    let e : Cohort := (resumed s0).2
    let h : Header := headerOf s1 e (e.pc + 8)
    let s2 := ((e.active w.guard).foldl (waitOne e w.bar.toNat) (s1, [], [])).1
    let done := ((e.active w.guard).foldl (waitOne e w.bar.toNat) (s1, [], [])).2.1
    let held := ((e.active w.guard).foldl (waitOne e w.bar.toNat) (s1, [], [])).2.2
    (Resumes s0 (.barWait w) w.guard [] [w.pd.toNat] c s1 e h) ∧ (someActive e w.guard) ∧ 
    (let fs := e.active w.guard
    (s1.memberTrap e fs w.bar.toNat = none) ∧ (fs.foldl (waitOne e w.bar.toNat) (s1, [], []) = (s2, done, held)) ∧ (held ≠ [])) :=
  ⟨resumes_of (passes_of (by decide +kernel)) (by decide +kernel), (by decide +kernel : _ ≠ _), by and_intros <;> decide +kernel⟩

theorem meets_BarrierWords_4 :
    let w : SynWord := blankSyn
    let s0 : State := withTeam (here (.barInval w))
    let s : State := (stalledAt false s0).1
    let c : Cohort := runner s0
    let d : Cohort := (stalledAt false s0).2
    let t := (withTeam State.reset).teams.headD ⟨0, 0, 0, 0, 0, 0, 0, [], []⟩
    (Ready s0 (.barInval w) w.guard [] [] c s d) ∧ (someActive d w.guard) ∧ (s.leadOf (calm d) ((calm d).active w.guard) = some t) ∧ ((t.bar w.bar.toNat).valid = true) ∧ (freeToRelease s (calm d) (t.span + 1)) :=
  ⟨passes_of (by decide +kernel), (by decide +kernel : _ ≠ _), by decide +kernel, by decide +kernel, free_of (by decide +kernel)⟩

theorem meets_BarrierWords_6 :
    let s : State := withTeam State.reset
    let c : Cohort := probeCohort
    let bar := 0
    let f : Fibre := { aFibre with fidx := 0 }
    let t : Team := (withTeam State.reset).teams.headD ⟨0, 0, 0, 0, 0, 0, 0, [], []⟩
    let done : List (Nat × Bool) := []
    let held : List Fibre := []
    (s.team? c.launch f.team = some t) ∧ ((t.bar bar).full = false) :=
  by and_intros <;> decide +kernel

theorem meets_BarrierWords_7 :
    let s : State := (withTeam State.reset).putBar ((withTeam State.reset).teams.headD ⟨0, 0, 0, 0, 0, 0, 0, [], []⟩) 0 { Barrier.fresh with valid := true, expA := 1, cntA := 1 }
    let c : Cohort := probeCohort
    let bar := 0
    let f : Fibre := aFibre
    let t : Team := (s.team? c.launch f.team).getD ((withTeam State.reset).teams.headD ⟨0, 0, 0, 0, 0, 0, 0, [], []⟩)
    let done : List (Nat × Bool) := []
    let held : List Fibre := []
    (s.team? c.launch f.team = some t) ∧ ((t.bar bar).full = true) ∧ (((t.bar bar).parity f.fidx != (t.bar bar).phase) = false) :=
  by and_intros <;> decide +kernel

theorem meets_WaitingWords_1 :
    let w : SynWord := { blankSyn with ua := 10, sem := 4 }
    let s0 : State := here (.semInc w)
    let s : State := (stalledAt false s0).1
    let c : Cohort := runner s0
    let d : Cohort := (stalledAt false s0).2
    (Ready s0 (.semInc w) w.guard [] [] c s d) ∧ (someActive d w.guard) ∧ (freeToRelease s (calm d) 1) :=
  ⟨passes_of (by decide +kernel), (by decide +kernel : _ ≠ _), free_of (by decide +kernel)⟩

theorem meets_WaitingWords_2 :
    let w : SynWord := { blankSyn with ua := 10, sem := 4 }
    let s0 : State := here (.semWait w)
    let s1 : State := (resumed s0).1
    let c : Cohort := runner s0
    let e : Cohort := (resumed s0).2
    let h : Header := headerOf s1 e (e.pc + 8)
    (Resumes s0 (.semWait w) w.guard [] [] c s1 e h) ∧ (someActive e w.guard) :=
  ⟨resumes_of (passes_of (by decide +kernel)) (by decide +kernel), (by decide +kernel : _ ≠ _)⟩

theorem meets_WaitingWords_3 :
    let w : SynWord := { blankSyn with ub := 1, vx := 3, mod := 0 }
    let s0 : State := here (.waitv w)
    let s1 : State := (resumed s0).1
    let c : Cohort := runner s0
    let e : Cohort := (resumed s0).2
    let h : Header := headerOf s1 e (e.pc + 8)
    (Resumes s0 (.waitv w) w.guard [(w.vx.toNat, 1)] [] c s1 e h) ∧ (someActive e w.guard) ∧ 
    (let accs := s1.watchAccs e w
    
    (let s2 := noted s1 e accs true false
    
    (let s3 := watched s2 e 4 accs
    (Clear s1 e accs true false 4) ∧ (s2.errorAcc 4 accs = none) ∧ (s2.missReady e (s2.loadNeed e false 4 accs) = true) ∧ ((∀ a ∈ accs, s3.watchHolds (waitCond e w a.devicePa) = true))))) :=
  ⟨resumes_of (passes_of (by decide +kernel)) (by decide +kernel), (by decide +kernel : _ ≠ _), clear_of (by decide +kernel), by and_intros <;> decide +kernel⟩

theorem meets_WaitingWords_4 :
    let w : SynWord := { blankSyn with ub := 1, vx := 3, mod := 1 }
    let s0 : State := here (.waitv w)
    let s1 : State := (resumed s0).1
    let c : Cohort := runner s0
    let e : Cohort := (resumed s0).2
    let h : Header := headerOf s1 e (e.pc + 8)
    (Resumes s0 (.waitv w) w.guard [(w.vx.toNat, 1)] [] c s1 e h) ∧ (someActive e w.guard) ∧ 
    (let accs := s1.watchAccs e w
    
    (let s2 := noted s1 e accs true false
    
    (let s3 := watched s2 e 4 accs
    
    (let held := accs.filter fun a => !s3.watchHolds (waitCond e w a.devicePa)
    (Clear s1 e accs true false 4) ∧ (s2.errorAcc 4 accs = none) ∧ (s2.missReady e (s2.loadNeed e false 4 accs) = true) ∧ (held ≠ []))))) :=
  ⟨resumes_of (passes_of (by decide +kernel)) (by decide +kernel), (by decide +kernel : _ ≠ _), clear_of (by decide +kernel), by and_intros <;> decide +kernel⟩

theorem meets_WaitingWords_5 :
    let w : SynWord := { blankSyn with ub := 4 }
    let s0 : State := here (.lwait w) (lands 2 [5] none 9)
    let s : State := (stalledAt false s0).1
    let c : Cohort := runner s0
    let d : Cohort := (stalledAt false s0).2
    let s2 := (let named (l : Landing) : Bool := bitOf (w.ua.toNat * 2 ^ 8 + w.ub.toNat) l.tag; let s1 := State.matrixWhile d.core (fun o => (calm d).landings.any fun l => named l && l.unitWord == some o.id) (s.core d.core).matrixQueue.length (s.putCohort (calm d)); let d1 := (s1.cohort? d.uid).getD (calm d); (s1.gather d.core fun r => d1.landings.any fun l => named l && r.ofLanding d1 l).takeReads d1 named).1
    let e : Cohort := (let named (l : Landing) : Bool := bitOf (w.ua.toNat * 2 ^ 8 + w.ub.toNat) l.tag; let s1 := State.matrixWhile d.core (fun o => (calm d).landings.any fun l => named l && l.unitWord == some o.id) (s.core d.core).matrixQueue.length (s.putCohort (calm d)); let d1 := (s1.cohort? d.uid).getD (calm d); (s1.gather d.core fun r => d1.landings.any fun l => named l && r.ofLanding d1 l).takeReads d1 named).2
    (Ready s0 (.lwait w) Guard.always [] [] c s d) ∧ 
    (let named (l : Landing) : Bool := bitOf (w.ua.toNat * 2 ^ 8 + w.ub.toNat) l.tag
    
    (let s1 := State.matrixWhile d.core (fun o => (calm d).landings.any fun l => named l && l.unitWord == some o.id) (s.core d.core).matrixQueue.length (s.putCohort (calm d))
    
    (let d1 := (s1.cohort? d.uid).getD (calm d)
    ((s1.gather d.core fun r => d1.landings.any fun l => named l && r.ofLanding d1 l).takeReads d1 named = (s2, e)) ∧ ((∀ l ∈ e.landings, named l = true → l.error = none))))) :=
  ⟨passes_of (by decide +kernel), by and_intros <;> decide +kernel⟩

theorem meets_WaitingWords_6 :
    let w : SynWord := { blankSyn with ub := 4 }
    let s0 : State := here (.lwait w) fun c => { c with landings := [{ id := 9, tag := 2, rows := [5], pred := none, writes := [], unitWord := none, landed := true, error := some ⟨3, 0x80, 4⟩ }] }
    let s : State := (stalledAt false s0).1
    let c : Cohort := runner s0
    let d : Cohort := (stalledAt false s0).2
    let s2 := (let named (l : Landing) : Bool := bitOf (w.ua.toNat * 2 ^ 8 + w.ub.toNat) l.tag; let s1 := State.matrixWhile d.core (fun o => (calm d).landings.any fun l => named l && l.unitWord == some o.id) (s.core d.core).matrixQueue.length (s.putCohort (calm d)); let d1 := (s1.cohort? d.uid).getD (calm d); (s1.gather d.core fun r => d1.landings.any fun l => named l && r.ofLanding d1 l).takeReads d1 named).1
    let e : Cohort := (let named (l : Landing) : Bool := bitOf (w.ua.toNat * 2 ^ 8 + w.ub.toNat) l.tag; let s1 := State.matrixWhile d.core (fun o => (calm d).landings.any fun l => named l && l.unitWord == some o.id) (s.core d.core).matrixQueue.length (s.putCohort (calm d)); let d1 := (s1.cohort? d.uid).getD (calm d); (s1.gather d.core fun r => d1.landings.any fun l => named l && r.ofLanding d1 l).takeReads d1 named).2
    let x : LandError := ⟨3, 0x80, 4⟩
    (Ready s0 (.lwait w) Guard.always [] [] c s d) ∧ 
    (let named (l : Landing) : Bool := bitOf (w.ua.toNat * 2 ^ 8 + w.ub.toNat) l.tag
    
    (let s1 := State.matrixWhile d.core (fun o => (calm d).landings.any fun l => named l && l.unitWord == some o.id) (s.core d.core).matrixQueue.length (s.putCohort (calm d))
    
    (let d1 := (s1.cohort? d.uid).getD (calm d)
    ((s1.gather d.core fun r => d1.landings.any fun l => named l && r.ofLanding d1 l).takeReads d1 named = (s2, e)) ∧ ((e.landings.filter named).findSome? Landing.error = some x) ∧ (s2.peerOpen e = false)))) :=
  ⟨passes_of (by decide +kernel), by and_intros <;> decide +kernel⟩

theorem meets_SpawnAndJoin_0 :
    let w : SynWord := { blankSyn with ua := 2, ub := 1, vx := 6, pd := 2, cnt := 1 }
    let s0 : State := withCellar (poke [(0x10080, 0xB700000000000300#64)] (here (.spawn w) (sregs [(2, 0x10080), (1, 0x20000)])))
    let s : State := (stalledAt false s0).1
    let c : Cohort := runner s0
    let d : Cohort := (stalledAt false s0).2
    let h : Header := headerOf s (calm d) (d.sreg w.ua.toNat)
    (Ready s0 (.spawn w) w.guard [] [w.pd.toNat] c s d) ∧ (someActive d w.guard) ∧ (d.hazard [(w.vx.toNat, w.cnt.toNat)] = false) ∧ (d.sreg w.ua.toNat % 8 = 0) ∧ (s.headerAt (calm d) (d.sreg w.ua.toNat) = .good h) ∧ (h.entry = true) ∧ (h.susp = true) ∧ 
    (let accs := s.counterAcc (calm d) (d.sreg w.ub.toNat) .rmw
    
    (let s1 := noted s (calm d) accs true true
    (Clear s (calm d) accs true true 8) ∧ (d.outside [(w.vx.toNat, w.cnt.toNat)] = false) ∧ 
    (let fs := (calm d).active w.guard
    
    (let kids := grantSpawns (s1.cellarBays (fnOf d.ctx)) (s1.spawnReserve (fnOf d.ctx)) (s1.cellarCharged (fnOf d.ctx)) fs
    
    (let s2 := releasedFor s1 (calm d) 5 w.guard
    ((kids ≠ [] → freeToRelease s1 (calm d) 5 ∧ s2.missReady (calm d) (s2.lineNeed (calm d) 8 accs) = true))))))) :=
  ⟨passes_of (by decide +kernel), (by decide +kernel : _ ≠ _), by decide +kernel, by decide +kernel, by decide +kernel, by decide +kernel, by decide +kernel, clear_of (by decide +kernel), by decide +kernel, fun _ => ⟨free_of (by decide +kernel), by decide +kernel⟩⟩

theorem meets_SpawnAndJoin_2 :
    let w : SynWord := { blankSyn with ua := 1 }
    let s0 : State := here (.joinW w) (sregs [(1, 0x20000)])
    let s1 : State := (resumed s0).1
    let c : Cohort := runner s0
    let e : Cohort := (resumed s0).2
    let h : Header := headerOf s1 e (e.pc + 8)
    let a : Acc := ((s1.counterAcc e (e.sreg w.ua.toNat) .read).head?).getD noAcc
    (Resumes s0 (.joinW w) w.guard [] [] c s1 e h) ∧ (someActive e w.guard) ∧ (e.sreg w.ua.toNat ≠ 0) ∧ 
    (let accs := s1.counterAcc e (e.sreg w.ua.toNat) .read
    
    (let s2 := noted s1 e accs true false
    
    (let s3 := watched s2 e 8 accs
    (accs = [a]) ∧ (Clear s1 e accs true false 8) ∧ (s2.accBad 8 a = false) ∧ (s2.missReady e (s2.loadNeed e false 8 accs) = true) ∧ (s3.counter a.devicePa = 0)))) :=
  ⟨resumes_of (passes_of (by decide +kernel)) (by decide +kernel), (by decide +kernel : _ ≠ _), by decide +kernel, by decide +kernel, clear_of (by decide +kernel), by and_intros <;> decide +kernel⟩

theorem meets_SpawnAndJoin_3 :
    let w : SynWord := { blankSyn with ua := 1 }
    let s0 : State := here (.joinW w)
    let s1 : State := (resumed s0).1
    let c : Cohort := runner s0
    let e : Cohort := (resumed s0).2
    let h : Header := headerOf s1 e (e.pc + 8)
    (Resumes s0 (.joinW w) w.guard [] [] c s1 e h) ∧ (someActive e w.guard) ∧ (e.sreg w.ua.toNat = 0) ∧ (s1.abortedReq e.uid = none) :=
  ⟨resumes_of (passes_of (by decide +kernel)) (by decide +kernel), (by decide +kernel : _ ≠ _), by and_intros <;> decide +kernel⟩

theorem meets_SpawnAndJoin_4 :
    let w : SynWord := { blankSyn with ua := 1 }
    let s0 : State := poke [(0x20000, 2)] (here (.joinW w) (sregs [(1, 0x20000)]))
    let s1 : State := (resumed s0).1
    let c : Cohort := runner s0
    let e : Cohort := (resumed s0).2
    let h : Header := headerOf s1 e (e.pc + 8)
    let a : Acc := ((s1.counterAcc e (e.sreg w.ua.toNat) .read).head?).getD noAcc
    (Resumes s0 (.joinW w) w.guard [] [] c s1 e h) ∧ (someActive e w.guard) ∧ (e.sreg w.ua.toNat ≠ 0) ∧ 
    (let accs := s1.counterAcc e (e.sreg w.ua.toNat) .read
    
    (let s2 := noted s1 e accs true false
    
    (let s3 := watched s2 e 8 accs
    (accs = [a]) ∧ (Clear s1 e accs true false 8) ∧ (s2.accBad 8 a = false) ∧ (s2.missReady e (s2.loadNeed e false 8 accs) = true) ∧ (s3.counter a.devicePa ≠ 0)))) :=
  ⟨resumes_of (passes_of (by decide +kernel)) (by decide +kernel), (by decide +kernel : _ ≠ _), by decide +kernel, by decide +kernel, clear_of (by decide +kernel), by and_intros <;> decide +kernel⟩

theorem meets_EngineWords_0 :
    let w : SynWord := { blankSyn with ua := 16, cnt := 4 }
    let i : Instr := .copy w
    let op : Nat := 0xCA
    let s0 : State := withCellar (here i (sregs [(16, 0x20000), (17, 0x30000), (18, 0x40000), (19, 64)]))
    let s : State := (stalledAt false s0).1
    let c : Cohort := runner s0
    let d : Cohort := (stalledAt false s0).2
    ((i, op) ∈ [(Instr.copy w, 0xCA), (.copy2d w, 0xCA), (.gath w, 0xCB), (.scat w, 0xCC), (.coll w, 0xCD)]) ∧ (Ready s0 i w.guard [] [] c s d) ∧ (someActive d w.guard) ∧ ((w.co = 1 → ∃ t, s.leadOf (calm d) ((calm d).active w.guard) = some t ∧ (t.bar w.bar.toNat).valid = true)) ∧ (engineBad op w.mod.toNat ((engineRegs d w).map BitVec.toNat) = false) ∧ (s.engineRoom (dieOf d.core) (fnOf d.ctx) = true) ∧ (s.cellarCharged (fnOf d.ctx) + 1 ≤ s.cellarBays (fnOf d.ctx)) ∧ ((∀ o, s.owedBy d.uid = some o → 5 ≤ o.1 → s.peerOpen (calm d) = false)) :=
  ⟨by decide +kernel, passes_of (by decide +kernel), (by decide +kernel : _ ≠ _), by decide +kernel, by decide +kernel, by decide +kernel, by decide +kernel, owes_none (by decide +kernel)⟩

theorem meets_EngineWords_1 :
    let w : SynWord := { blankSyn with ua := 4, ub := 5 }
    let s0 : State := here (.engQ w)
    let s : State := (stalledAt false s0).1
    let c : Cohort := runner s0
    let d : Cohort := (stalledAt false s0).2
    (Ready s0 (.engQ w) w.guard [] [] c s d) ∧ (someActive d w.guard) ∧ (d.sreg w.ua.toNat = 0) :=
  ⟨passes_of (by decide +kernel), (by decide +kernel : _ ≠ _), by decide +kernel⟩

theorem meets_EngineWords_2 :
    let w : SynWord := { blankSyn with ua := 4, ub := 5 }
    let e : EngineOp := copyOp
    let s0 : State := withOp e (here (.engQ w) (sregs [(4, 0x40000)]))
    let s : State := (stalledAt false s0).1
    let c : Cohort := runner s0
    let d : Cohort := (stalledAt false s0).2
    (Ready s0 (.engQ w) w.guard [] [] c s d) ∧ (someActive d w.guard) ∧ (d.sreg w.ua.toNat ≠ 0) ∧ (s.engineAt d.ctx (d.sreg w.ua.toNat) = some e) :=
  ⟨passes_of (by decide +kernel), (by decide +kernel : _ ≠ _), by and_intros <;> decide +kernel⟩

theorem meets_EngineWords_3 :
    let w : SynWord := { blankSyn with ua := 4, ub := 5 }
    let s0 : State := here (.engQ w) (sregs [(4, 0x40000)])
    let s : State := (stalledAt false s0).1
    let c : Cohort := runner s0
    let d : Cohort := (stalledAt false s0).2
    (Ready s0 (.engQ w) w.guard [] [] c s d) ∧ (someActive d w.guard) ∧ (d.sreg w.ua.toNat ≠ 0) ∧ (s.engineAt d.ctx (d.sreg w.ua.toNat) = none) ∧ 
    (let accs : List Acc := [{ lane := none, team := d.leadTeam, va := d.sreg w.ua.toNat, x := s.checkAccess (calm d) d.leadTeam (d.sreg w.ua.toNat) 16 .read fun _ => none }]
    
    (let s1 := noted s (calm d) accs true false
    
    (let s2 := s1.spendGrant (calm d)
    
    (let s3 := (s2.settle (calm d) false 16 accs).readSectors (calm d) 16 accs
    (Clear s (calm d) accs true false 16) ∧ (s1.missReady (calm d) (s1.loadNeed (calm d) true 16 accs) = true) ∧ (s2.askData (calm d) accs (fun _ => .read 16) 16 = none) ∧ (s2.errorAcc 16 accs = none))))) :=
  ⟨passes_of (by decide +kernel), (by decide +kernel : _ ≠ _), by decide +kernel, by decide +kernel, clear_of (by decide +kernel), by and_intros <;> decide +kernel⟩

theorem meets_TrapEntry_0 :
    let s : State := (poke [(0x10080, 0xB700000000000300#64)] (here (.nop ⟨always, 0, .vreg 0, 0, 0, false, 0⟩))).setReg 0 0x1E00 (2 ^ 63 + 0x10080)
    let c : Cohort := probeCohort
    let s1 : State := ((s.matrixDrain c).1.closeOut (s.matrixDrain c).2).1
    let d : Cohort := ((s.matrixDrain c).1.closeOut (s.matrixDrain c).2).2
    let word : Word64 := 5
    let t : TrapInfo := { code := .priv }
    let lanes : List Nat := []
    (segmentEnds s c s1 d) ∧ (d.failure = none) ∧ (s1.fatalWhy d t = none) ∧ (d.sregs.length = 160) :=
  ⟨ends_of (by decide +kernel), by and_intros <;> decide +kernel⟩

theorem meets_FatalTraps_0 :
    let s : State := State.reset
    let c : Cohort := probeCohort
    let t : TrapInfo := { code := .cellarfull }
    (0x80 ≤ t.code.code) :=
  by decide +kernel

theorem meets_FatalTraps_1 :
    let s : State := State.reset
    let c : Cohort := probeCohort
    let t : TrapInfo := { code := .priv }
    (t.code.code < 0x80) ∧ (bitOf (s.trapEnt c.ctx) 63 = false) :=
  by and_intros <;> decide +kernel

theorem meets_FatalTraps_2 :
    let s : State := State.reset.setReg 0 0x1E00 (2 ^ 63 + 0x10000)
    let c : Cohort := probeCohort
    let t : TrapInfo := { code := .priv }
    (t.code.code < 0x80) ∧ (bitOf (s.trapEnt c.ctx) 63 = true) ∧ (inHandler (s.trapEnt c.ctx) (t.site.getD c.pc) = true) :=
  by and_intros <;> decide +kernel

theorem meets_FatalTraps_4 :
    let s : State := (poke [(0x10080, 0xB700000000000200#64)] (here (.nop ⟨always, 0, .vreg 0, 0, 0, false, 0⟩))).setReg 0 0x1E00 (2 ^ 63 + 0x10080)
    let c : Cohort := runner s
    let t : TrapInfo := { code := .priv }
    let h : Header := headerOf s c 0x10080
    (t.code.code < 0x80) ∧ (bitOf (s.trapEnt c.ctx) 63 = true) ∧ (inHandler (s.trapEnt c.ctx) (t.site.getD c.pc) = false) ∧ (s.headerAt c (handlerEntry (s.trapEnt c.ctx)) = .good h) ∧ ((h.entry && h.susp) = false) :=
  by and_intros <;> decide +kernel

theorem meets_FatalTraps_5 :
    let s : State := (poke [(0x10080, 0x5#64)] (here (.nop ⟨always, 0, .vreg 0, 0, 0, false, 0⟩))).setReg 0 0x1E00 (2 ^ 63 + 0x10080)
    let c : Cohort := runner s
    let t : TrapInfo := { code := .priv }
    let w : Word64 := 5
    (t.code.code < 0x80) ∧ (bitOf (s.trapEnt c.ctx) 63 = true) ∧ (inHandler (s.trapEnt c.ctx) (t.site.getD c.pc) = false) ∧ (s.headerAt c (handlerEntry (s.trapEnt c.ctx)) = .bad w) :=
  by and_intros <;> decide +kernel

theorem meets_FatalTraps_6 :
    let s : State := (poke [(0x10080, 0xB700000000000300#64)] (here (.nop ⟨always, 0, .vreg 0, 0, 0, false, 0⟩))).setReg 0 0x1E00 (2 ^ 63 + 0x10080)
    let c : Cohort := runner s
    let t : TrapInfo := { code := .priv }
    let h : Header := headerOf s c 0x10080
    (t.code.code < 0x80) ∧ (bitOf (s.trapEnt c.ctx) 63 = true) ∧ (inHandler (s.trapEnt c.ctx) (t.site.getD c.pc) = false) ∧ (s.headerAt c (handlerEntry (s.trapEnt c.ctx)) = .good h) ∧ ((h.entry && h.susp) = true) :=
  by and_intros <;> decide +kernel

theorem meets_FatalTraps_7 :
    let s : State := State.reset
    let c : Cohort := probeCohort
    let s1 : State := ((s.matrixDrain c).1.closeOut (s.matrixDrain c).2).1
    let d : Cohort := ((s.matrixDrain c).1.closeOut (s.matrixDrain c).2).2
    let word : Word64 := 5
    let t : TrapInfo := { code := .priv }
    let lanes : List Nat := []
    let why : Nat := 1
    (segmentEnds s c s1 d) ∧ (d.failure = none) ∧ (s1.fatalWhy d t = some why) :=
  ⟨ends_of (by decide +kernel), by and_intros <;> decide +kernel⟩

theorem meets_TrapReturn_0 :
    let s : State := here (.trap ⟨always, 0, .vreg 0, 0, 0, false, 0xFFFF⟩) (sregs [(156, 0x10008), (157, 0x10003)])
    let c : Cohort := runner s
    let s1 : State := ((s.matrixDrain c).1.closeOut (s.matrixDrain c).2).1
    let d : Cohort := ((s.matrixDrain c).1.closeOut (s.matrixDrain c).2).2
    let word : Word64 := 5
    let lane : Nat := 0
    let h : Header := (s1.returnHeader d).getD (headerOf s c 0x10000)
    let h0 : Header := headerOf s c 0x10000
    (badReturn c = false) ∧ (s.headerAt c (slice (c.sreg 157) 48 3 * 8) = .good h0) ∧ (segmentEnds s c s1 d) ∧ (d.failure = none) ∧ (s1.returnHeader d = some h) :=
  ⟨by decide +kernel, by decide +kernel, ends_of (by decide +kernel), by and_intros <;> decide +kernel⟩

theorem meets_RegisterRules_0 :
    let r : RegSpec := ⟨0, 0xFF, 0x100⟩
    let old : Nat := 0x1FF
    let val : Nat := 0x100
    let j : Nat := 8
    (j < 64) :=
  by decide +kernel

theorem meets_RegisterRules_2 :
    let s : State := booted
    let fn : Nat := 0
    let off : Nat := 0x1010
    let val : Nat := 5
    let f : Nat := 0
    let o : Nat := 0x1020
    ((f ≠ fn ∨ o ≠ off)) :=
  by decide +kernel

theorem meets_RegisterRules_3 :
    let s : State := booted
    let fn : Nat := 0
    let off : Nat := 0xF9E8
    let val : Word64 := 5
    (fn < 257) ∧ (s.booted = true) ∧ (regSpec fn off = none) :=
  by and_intros <;> decide +kernel

theorem meets_RegisterRules_4 :
    let s : State := State.reset
    let fn : Nat := 0
    let off : Nat := 0x1010
    let val : Word64 := 5
    (fn < 257) ∧ (s.booted = false) :=
  by and_intros <;> decide +kernel

theorem meets_RegisterRules_5 :
    let s : State := booted
    let fn : Nat := 0
    let off : Nat := 0x1600
    let val : Word64 := 5
    let r : RegSpec := (regSpec 0 0x1600).getD ⟨0, 0, 0⟩
    (fn < 257) ∧ (s.booted = true) ∧ (plainRegister fn off = true) ∧ (regSpec fn off = some r) ∧ (s.accepts fn off val.toNat = true) :=
  by and_intros <;> decide +kernel

theorem meets_RegisterRules_6 :
    let s : State := booted
    let fn : Nat := 256
    let val : Word64 := 4#64
    (fn < 257) ∧ (s.booted = true) ∧ (bitOf val.toNat 0 = false) :=
  by and_intros <;> decide +kernel

theorem meets_ResetState_6 :
    let die := 3
    let q := 31
    (die < 4) ∧ (q < 32) :=
  by and_intros <;> decide +kernel

theorem meets_ResetState_7 :
    let die := 3
    let j := 4
    (die < 4) ∧ (j < 5) :=
  by and_intros <;> decide +kernel

theorem meets_ResetState_8 :
    let die := 3
    (die < 4) :=
  by decide +kernel

theorem meets_ResetState_9 :
    let fn := 256
    (fn < 257) :=
  by decide +kernel

theorem meets_ResetState_10 :
    let fn := 256
    let slot := 7
    (fn < 257) ∧ (slot < 8) :=
  by and_intros <;> decide +kernel

theorem meets_MemoryForm_0 :
    let s : State := State.reset.withFetchWord 64 0x0000440FFF800300
    let t : State := (landsOn (step s)).getD s
    (Safe s) ∧ (step s = .next t) :=
  ⟨(by decide +kernel : Memory.wf _ = true), next_of (some_getD (by decide +kernel))⟩

theorem meets_TranslationEvents_0 :
    let s : State := booted.setReg 0 0x1000 1
    let core := 511
    let ctx := 0
    let va := 0x400000
    let acc := Access.read
    (core < 512) ∧ (ctx < 2056) ∧ (s.isPaged ctx va = true) ∧ (bitOf (s.ctxReg ctx 0) 0 = true) :=
  by and_intros <;> decide +kernel

theorem meets_TranslationEvents_1 :
    let s : State := booted
    let fn := 256
    let slot := 7
    let val : Word64 := 3
    (s.booted = true) ∧ (fn < 257) ∧ (slot < 8) :=
  by and_intros <;> decide +kernel

theorem meets_TranslationEvents_2 :
    let s : State := booted
    let fn := 0
    let val : Word64 := 0x10000
    let ctx := 0
    let lo := 0x10000
    let hi := 0x20000
    (s.booted = true) ∧ (fn < 257) ∧ (bitOf val.toNat 63 = false) ∧ (pageDone fn val.toNat = some (ctx, lo, hi)) :=
  by and_intros <;> decide +kernel

theorem meets_TranslationEvents_3 :
    let s : State := booted
    let fn := 0
    let val : Word64 := 0x8000000000010000
    let ctx := 0
    let lo := 0x10000
    let hi := 0x20000
    (s.booted = true) ∧ (fn < 257) ∧ (bitOf val.toNat 63 = true) ∧ (pageDone fn val.toNat = some (ctx, lo, hi)) :=
  by and_intros <;> decide +kernel

theorem meets_TranslationEvents_4 :
    let s : State := { booted with clock := 1000, migWindows := [(2055, 0, 0)] }
    let ctx := 2055
    (ctx < 2056) ∧ (s.due (s.nextWindow ctx) = true) ∧ ((∀ p ∈ s.collapsed, p.1 = ctx → p ∈ s.rdupWrites)) :=
  by and_intros <;> decide +kernel

theorem meets_TranslationEvents_5 :
    let s : State := booted
    let fn := 256
    let slot := 7
    let val : Word64 := 0xC000
    (s.booted = true) ∧ (fn < 257) ∧ (slot < 8) ∧ (s.shootBusy (8 * fn + slot) = false) ∧ (shootBad val.toNat = false) :=
  by and_intros <;> decide +kernel

theorem meets_TranslationEvents_6 :
    let s : State := booted
    let fn := 0
    let slot := 0
    let val : Word64 := 0x14000
    (s.booted = true) ∧ (fn < 257) ∧ (slot < 8) ∧ ((s.shootBusy (8 * fn + slot) = true ∨ shootBad val.toNat = true)) :=
  by and_intros <;> decide +kernel

theorem meets_TranslationEvents_7 :
    let d : Shootdown := { ctx := 3, lo := 0, hi := 0x10000, epoch := 0, waiting := [.core 511, .die 0], since := 0, late := false }
    let s : State := { booted with shootdowns := [d] }
    let ctx := 3
    let agent : TlbOwner := .core 511
    (s.shootdowns.find? (fun d => d.ctx == ctx) = some d) ∧ (agent ∈ d.waiting) ∧ (s.agentBusy agent d.epoch = false) :=
  by and_intros <;> decide +kernel

theorem meets_TranslationEvents_8 :
    let d : Shootdown := { ctx := 3, lo := 0, hi := 0x10000, epoch := 0, waiting := [], since := 0, late := false }
    let s : State := { booted with shootdowns := [d] }
    let ctx := 3
    (s.shootdowns.find? (fun d => d.ctx == ctx && d.waiting == []) = some d) :=
  by decide +kernel

theorem meets_TranslationEvents_9 :
    let d : Shootdown := { ctx := 3, lo := 0, hi := 0x10000, epoch := 0, waiting := [.core 511], since := 0, late := false }
    let s : State := { booted with shootdowns := [d], clock := 50000 }
    let ctx := 3
    (s.shootdowns.find? (fun d => d.ctx == ctx && !d.late && s.due (d.since + 50000)) = some d) :=
  by decide +kernel

theorem meets_TranslationEvents_10 :
    let s : State := booted.setReg 0 0x3110 0x100
    let die := 0
    let i : Instr := .replicaReservedOp die
    (i ∈ [Instr.replicaInsert die, .replicaRemove die, .replicaRemoveAll die, .replicaReservedOp die]) ∧ (s.booted = true) ∧ (die < 4) ∧ (bitOf (s.reg 0 (0x3110 + die * 0x20)) 8 = true) :=
  by and_intros <;> decide +kernel

theorem meets_TranslationEvents_11 :
    let s : State := booted.setReg 0 0x3100 0x10000 |>.setReg 0 0x3108 0x30000
    let die := 0
    let size := 0x10000
    let ctx := 0
    let page := 0x10000
    (s.booted = true) ∧ (die < 4) ∧ (bitOf (s.reg 0 (0x3110 + die * 0x20)) 8 = false) ∧ (s.repKey die = (size, ctx, page)) ∧ (s.field 0 (0x3100 + die * 0x20) 62 61 ≠ 3) ∧ (page % size = 0) ∧ (s.replicas.countP (fun r => r.die == die && fnOf r.ctx == fnOf ctx) < s.quota 4096 (fnOf ctx)) ∧ ((∀ r ∈ s.replicas, r.die = die → r.ctx = ctx → ¬ (r.page < page + size ∧ page < r.page + r.size))) ∧ (s.repFrameBad die (fnOf ctx) size = false) :=
  by and_intros <;> decide +kernel

theorem meets_TranslationEvents_12 :
    let s : State := { booted.setReg 0 0x3100 0x10000 with replicas := [⟨0, 0, 0x10000, 0x10000, 0x30000⟩] }
    let die := 0
    let size := 0x10000
    let ctx := 0
    let page := 0x10000
    (s.booted = true) ∧ (die < 4) ∧ (bitOf (s.reg 0 (0x3110 + die * 0x20)) 8 = false) ∧ (s.repKey die = (size, ctx, page)) ∧ (s.field 0 (0x3100 + die * 0x20) 62 61 ≠ 3) ∧ ((∃ r ∈ s.replicas, r.die = die ∧ r.ctx = ctx ∧ r.page = page)) :=
  by and_intros <;> decide +kernel

theorem meets_TranslationEvents_13 :
    let s : State := { booted.setReg 0 0x3100 0x10000 with replicas := [⟨0, 0, 0x10000, 0x10000, 0x30000⟩] }
    let die := 0
    let size := 0x10000
    let ctx := 0
    let page := 0x10000
    (s.booted = true) ∧ (die < 4) ∧ (bitOf (s.reg 0 (0x3110 + die * 0x20)) 8 = false) ∧ (s.repKey die = (size, ctx, page)) ∧ (s.field 0 (0x3100 + die * 0x20) 62 61 ≠ 3) :=
  by and_intros <;> decide +kernel

theorem meets_TranslationEvents_14 :
    let s : State := booted
    let die := 3
    (s.booted = true) ∧ (die < 4) ∧ (bitOf (s.reg 0 (0x3110 + die * 0x20)) 8 = false) :=
  by and_intros <;> decide +kernel

theorem meets_TranslationEvents_15 :
    let s : State := booted.setReg 0 0x3170 0x100
    let die := 3
    (die < 4) ∧ (bitOf (s.reg 0 (0x3110 + die * 0x20)) 8 = true) :=
  by and_intros <;> decide +kernel

theorem meets_FabricEvents_0 :
    let s : State := booted
    let pkg := 1
    let fn := 0
    let addr := 0x50
    let txn := 7
    (s.importEntry pkg fn = none) :=
  by decide +kernel

theorem meets_FabricEvents_1 :
    let s : State := withImports
    let pkg := 1
    let fn := 0
    let addr := 0x30040
    let txn := 7
    let ctx := 0
    let w := true
    let pa := 0x30000
    let wr := true
    (s.importEntry pkg fn = some (ctx, w)) ∧ 
    (let u := (s.importAsk pkg fn).walkNote none 0 ctx (faultPage addr)
    (u.resets.contains (fnOf ctx) = false) ∧ (u.recalling ctx (faultPage addr) = false) ∧ ((ctx, faultPage addr) ∉ u.moving) ∧ (u.exportXlate ctx addr = .frame pa wr)) :=
  by and_intros <;> decide +kernel

theorem meets_FabricEvents_2 :
    let s : State := withRequest .translate
    let txn := 9
    let frame := 0x70000
    let wr := true
    let lease := 4
    let expiry := 99
    let r : PeerReq := aRequest .translate
    (s.peerReq? txn = some r) ∧ (r.kind = .translate) ∧ (r.lane < postedLane) :=
  by and_intros <;> decide +kernel

theorem meets_FabricEvents_3 :
    let s : State := withRequest .translate
    let txn := 9
    let r : PeerReq := aRequest .translate
    (s.peerReq? txn = some r) :=
  by decide +kernel

theorem meets_FabricEvents_4 :
    let s : State := withRequest .translate
    let txn := 9
    let r : PeerReq := aRequest .translate
    let c : Cohort := probeCohort
    (s.peerReq? txn = some r) ∧ (r.kind = .translate) ∧ (r.lane < postedLane) ∧ ((s.dropReq txn).cohort? r.uid = some c) :=
  by and_intros <;> decide +kernel

theorem meets_FabricEvents_6 :
    let s : State := withLease
    let lease := 3
    let l : Lease := withLease.leases.headD ⟨0, 0, 0, 0, 0, 0, false, 0, false⟩
    (s.leases.find? (fun l => l.id == lease) = some l) :=
  by decide +kernel

theorem meets_FabricEvents_7 :
    let s : State := booted
    let pkg := 5
    let lease := 3
    (pkg ≠ s.pkgNum) :=
  by decide +kernel

theorem meets_FabricEvents_8 :
    let l : Lease := { withLease.leases.headD ⟨0, 0, 0, 0, 0, 0, false, 0, false⟩ with recalled := true }
    let s : State := { withLease with leases := [l] }
    let pkg := 1
    let lease := 3
    (s.leases.find? (fun l => l.id == lease && l.pkg == pkg && l.recalled) = some l) :=
  by decide +kernel

theorem meets_FabricEvents_9 :
    let s : State := { withLease with podTick := 6 }
    let lease := 3
    let l := withLease.leases.headD ⟨0, 0, 0, 0, 0, 0, false, 0, false⟩
    (s.leases.find? (fun l => l.id == lease && decide (l.expiry + 1 ≤ s.podTick)) = some l) :=
  by decide +kernel

theorem meets_FabricEvents_10 :
    let s : State := withLease
    let pkg := 1
    let fn := 0
    let lease := 3
    let addr := 0x2FFF9
    let n := 8
    let txn := 7
    (s.leaseFor pkg fn lease addr n false = none) :=
  by decide +kernel

theorem meets_FabricEvents_11 :
    let s : State := withLease
    let pkg := 1
    let fn := 0
    let lease := 3
    let addr := 0x2FFF8
    let n := 8
    let txn := 7
    let l := withLease.leases.headD ⟨0, 0, 0, 0, 0, 0, false, 0, false⟩
    (s.leaseFor pkg fn lease addr n false = some l) ∧ (s.resets.contains (fnOf l.ctx) = false) ∧ (s.badIn (s.locOf addr) n = none) :=
  by and_intros <;> decide +kernel

theorem meets_FabricEvents_12 :
    let s : State := { withLease with badSectors := [0x20000] }
    let pkg := 1
    let fn := 0
    let lease := 3
    let addr := 0x20000
    let n := 8
    let txn := 7
    let l : Lease := withLease.leases.headD ⟨0, 0, 0, 0, 0, 0, false, 0, false⟩
    let b := (s.badIn (s.locOf addr) n).getD 0
    (s.leaseFor pkg fn lease addr n false = some l) ∧ (s.resets.contains (fnOf l.ctx) = false) ∧ (s.badIn (s.locOf addr) n = some b) :=
  by and_intros <;> decide +kernel

theorem meets_FabricEvents_13 :
    let s : State := withLease
    let pkg := 1
    let fn := 0
    let lease := 3
    let addr := 0x2FFFE
    let data : List Byte := [1, 2]
    let txn := 7
    let l := withLease.leases.headD ⟨0, 0, 0, 0, 0, 0, false, 0, false⟩
    (s.leaseFor pkg fn lease addr data.length true = some l) ∧ (s.resets.contains (fnOf l.ctx) = false) :=
  by and_intros <;> decide +kernel

theorem meets_FabricEvents_14 :
    let s : State := withLease
    let pkg := 1
    let fn := 0
    let lease := 3
    let addr := 0x2FFFC
    let op : AtomicOp := .add
    let wide : Bool := false
    let x : Word64 := 1
    let y : Word64 := 0
    let txn := 7
    let l := withLease.leases.headD ⟨0, 0, 0, 0, 0, 0, false, 0, false⟩
    (s.leaseFor pkg fn lease addr (if wide then 8 else 4) true = some l) ∧ (s.resets.contains (fnOf l.ctx) = false) ∧ (s.badIn (s.locOf addr) (if wide then 8 else 4) = none) ∧ (s.onView (s.locOf addr) = false) :=
  by and_intros <;> decide +kernel

theorem meets_FabricEvents_15 :
    let s : State := withRequest (.read 2)
    let txn := 9
    let data : List Byte := [1, 2]
    let r : PeerReq := aRequest (.read 2)
    (s.peerReq? txn = some r) ∧ (r.kind ≠ .translate) ∧ (s.askerLives r.uid = true) ∧ (r.lane ≠ postedLane) :=
  by and_intros <;> decide +kernel

theorem meets_FabricEvents_16 :
    let s : State := withRequest (.read 2)
    let txn := 9
    let r : PeerReq := aRequest (.read 2)
    (s.peerReq? txn = some r) ∧ (r.sent = true) ∧ (r.lane ≤ postedLane) :=
  by and_intros <;> decide +kernel

theorem meets_FabricEvents_17 :
    let s : State := booted
    let port := 19
    let flits := 3
    (port < 20) :=
  by decide +kernel

theorem meets_FabricEvents_18 :
    let s : State := booted
    let port := 19
    (port < 20) :=
  by decide +kernel

theorem meets_FabricEvents_19 :
    let s : State := booted
    let port := 19
    let up := false
    (port < 20) :=
  by decide +kernel

theorem meets_FabricEvents_20 :
    let s : State := booted
    (s.booted = true) :=
  by decide +kernel

theorem meets_FabricEvents_21 :
    let s : State := booted.setReg 0 0xF900 1
    (s.routeOpenNow = true) ∧ (s.fabricQuiet = true) :=
  by and_intros <;> decide +kernel

theorem meets_FabricEvents_22 :
    let s : State := booted.setReg 0 0xF900 2
    let pkg := 1023
    let val : Word64 := 0xFFFFF
    (s.booted = true) ∧ (pkg < 1024) ∧ (bitOf (s.reg 0 0xF900) 1 = true) :=
  by and_intros <;> decide +kernel

theorem meets_FabricEvents_23 :
    let s : State := booted
    (s.booted = true) :=
  by decide +kernel

theorem meets_FabricEvents_24 :
    let r : PeerReq := { aRequest (.write [1]) with lane := 64 }
    let s : State := { withRequest (.write [1]) with peerReqs := [r] }
    let txn := 9
    let data : List Byte := []
    (s.peerReq? txn = some r) ∧ (r.kind ≠ .translate) ∧ (r.lane = postedLane) :=
  by and_intros <;> decide +kernel

theorem meets_MemoryEvents_0 :
    let s : State := booted
    let b : BankId := ⟨15, 31, 1, 3, 3⟩
    (b.stack < 16) ∧ (b.channel < 32) ∧ (b.pc < 2) ∧ (b.group < 4) ∧ (b.bank < 4) ∧ (s.mayRefresh b = true) :=
  by and_intros <;> decide +kernel

theorem meets_MemoryEvents_1 :
    let s : State := { booted with dramRows := [⟨⟨15, 31, 1, 3, 3⟩, 7, 0, 0⟩], clock := 128 }
    let b : BankId := ⟨15, 31, 1, 3, 3⟩
    ((∃ r ∈ s.dramRows, r.bank = b ∧ s.due (r.used + 128) = true)) :=
  by decide +kernel

theorem meets_MemoryEvents_2 :
    let s : State := booted
    let fn := 256
    let pa := 0xBFFFFFFFFF
    let store := true
    True :=
  trivial

theorem meets_MemoryEvents_3 :
    let s : State := { booted with l2 := [{ die := 0, slice := 0, line := 1, way := 0, valid := 0, dirty := 0, want := 2 }] }
    let pa := 0x140
    let l : L2Line := { die := 0, slice := 0, line := 1, way := 0, valid := 0, dirty := 0, want := 2 }
    (s.l2Line? pa = some l) ∧ (l.want.getLsbD (pa / 64 % 4) = true) :=
  by and_intros <;> decide +kernel

theorem meets_MemoryEvents_4 :
    let s : State := booted.putCore { State.reset.core 511 with misses := [aMiss] }
    let core := 511
    let pa := 0xBFFFFFFFFF
    ((∃ m ∈ (s.core core).misses, m.key = .hbm (pa / 64))) :=
  by decide +kernel

theorem meets_MemoryEvents_5 :
    let p : PendingStore := { core := 3, ctx := 0, placed := 0, lane := some 0, id := 1, request := 0, loc := .hbm 0x20000, op := .store [some 1, some 2], uncached := false, txn := none, entry := false, grain := none, whole := false, issued := true, rel := [] }
    let s : State := { booted with pendingStores := [p] }
    let core := 3
    let pa := 0x20001
    (s.pendingStores.find? (fun p => p.core == core && p.here && (locWithin (.hbm pa) p.loc p.op.len).isSome) = some p) :=
  by decide +kernel

theorem meets_MemoryEvents_6 :
    let s : State := (here (.nop ⟨always, 0, .vreg 0, 0, 0, false, 0⟩) fun c => { c with wait := .misses 3 }).putCore { State.reset.core 0 with grantQueue := [0] }
    let core := 0
    let c : Cohort := runner s
    let n := 3
    (s.grantHead core = some (c, n)) ∧ (s.missUsed core + n ≤ 128) :=
  by and_intros <;> decide +kernel

theorem meets_MemoryEvents_7 :
    let s : State := (here (.nop ⟨always, 0, .vreg 0, 0, 0, false, 0⟩) fun c => { c with wait := .misses 0 }).putCore { State.reset.core 0 with grants := [(0, 3)] }
    let uid := 0
    let c : Cohort := runner s
    (s.cohort? uid = some c) ∧ (c.wait = .misses 0) ∧ ((s.core c.core).grantOf uid = true) :=
  by and_intros <;> decide +kernel

theorem meets_MemoryEvents_8 :
    let l : Landing := { id := 3, tag := 2, rows := [5], pred := none, writes := [], unitWord := none, landed := false, error := none }
    let s : State := here (.nop ⟨always, 0, .vreg 0, 0, 0, false, 0⟩) fun c => { c with landings := [l] }
    let uid := 0
    let tag := 2
    let c : Cohort := runner s
    let t : State := ((s.gather c.core fun r => r.ofLanding c l).takeReads c (fun y => y.id == l.id)).1
    let e := ((s.gather c.core fun r => r.ofLanding c l).takeReads c (fun y => y.id == l.id)).2
    let x : Landing := (e.landings.head?).getD l
    (s.cohort? uid = some c) ∧ (c.landings.find? (fun l => l.tag == tag && !l.landed && l.unitWord.isNone) = some l) ∧ ((s.gather c.core fun r => r.ofLanding c l).takeReads c (fun y => y.id == l.id) = (t, e)) ∧ (e.landings.find? (fun y => y.id == l.id) = some x) :=
  by and_intros <;> decide +kernel

theorem meets_MemoryEvents_9 :
    let xs : List XstFlight := [{ launch := 1, team := 0, member := 0, barrier := 0, bytes := [(5, 7)] }]
    let w := 5#64
    let s : State := withTeam (here (.nop ⟨always, 0, .vreg 0, 0, 0, false, 0⟩) fun c => { c with wait := .xst xs w })
    let t : State := (s.acceptFlights xs).1
    let uid := 0
    let c : Cohort := runner s
    (s.cohort? uid = some c) ∧ (c.wait = .xst xs w) ∧ (s.acceptFlights xs = (t, none)) :=
  by and_intros <;> decide +kernel

theorem meets_MemoryEvents_10 :
    let s : State := booted
    let die := 3
    (s.booted = true) ∧ (die < 4) ∧ (s.allIdle = true) :=
  by and_intros <;> decide +kernel

theorem meets_MemoryEvents_11 :
    let s : State := booted.setReg 0 0x20F0 1
    let die := 3
    (die < 4) ∧ (bitOf (s.reg 0 (0x2030 + die * 0x40)) 0 = true) ∧ (bitOf (s.reg 0 (0x2030 + die * 0x40)) 1 = false) :=
  by and_intros <;> decide +kernel

theorem meets_MemoryEvents_12 :
    let s : State := booted.setReg 0 0x20F0 3
    let die := 3
    let reg := 5
    let val : Word64 := 0x80000
    (s.booted = true) ∧ (die < 4) ∧ (reg < 6) ∧ (bitOf (s.reg 0 (0x2030 + die * 0x40)) 1 = true) ∧ (maskGood reg val.toNat = true) :=
  by and_intros <;> decide +kernel

theorem meets_MemoryEvents_13 :
    let s : State := booted
    let die := 3
    let reg := 0
    let val : Word64 := 0
    (s.booted = true) ∧ (die < 4) ∧ (reg < 6) ∧ ((bitOf (s.reg 0 (0x2030 + die * 0x40)) 1 = false ∨ maskGood reg val.toNat = false)) :=
  by and_intros <;> decide +kernel

theorem meets_MemoryEvents_14 :
    let s : State := booted
    let die := 3
    (s.booted = true) ∧ (die < 4) :=
  by and_intros <;> decide +kernel

theorem meets_MemoryEvents_15 :
    let s : State := ((booted.setReg 0 0x23C0 0x100000).setReg 0 0x23C8 0x10000).setReg 0 0x23D0 0x200000
    let win := 7
    (s.booted = true) ∧ (win < 8) ∧ (s.windowOn win = false) ∧ (s.allIdle = true) ∧ (s.windowBad win = false) :=
  by and_intros <;> decide +kernel

theorem meets_MemoryEvents_16 :
    let s : State := booted
    let win := 7
    (s.booted = true) ∧ (win < 8) ∧ (s.windowOn win = false) ∧ ((s.allIdle = false ∨ s.windowBad win = true)) :=
  by and_intros <;> decide +kernel

theorem meets_MemoryEvents_17 :
    let s : State := booted.setReg 0 0x23E0 1
    let win := 7
    (win < 8) ∧ (s.windowOn win = true) ∧ (s.windowActive win = false) :=
  by and_intros <;> decide +kernel

theorem meets_MemoryEvents_18 :
    let s : State := booted.setReg 0 0x23E0 1
    let win := 7
    (s.booted = true) ∧ (win < 8) ∧ (s.windowOn win = true) ∧ (s.allIdle = true) :=
  by and_intros <;> decide +kernel

theorem meets_MemoryEvents_19 :
    let s : State := { booted with flushing := [4] }
    let seq := 4
    (seq ∈ s.flushing) :=
  by decide +kernel

theorem meets_RecordEvents_0 :
    let r : Record := aRecord .bin
    let s : State := { withRecord r with clock := 2048 }
    let recid := 5
    (s.record? recid = some r) ∧ (r.place = .bin) ∧ (r.arrival + 2048 ≤ s.clock) :=
  by and_intros <;> decide +kernel

theorem meets_RecordEvents_1 :
    let r : Record := aRecord .bin
    let s : State := withRecord r
    let recid := 5
    let k := 3
    let one : List (Record × Fibre) := drainLanes [r]
    (s.record? recid = some r) ∧ (s.drainClass r = some k) ∧ 
    (let rs := takeRecords 32 ((s.binMates r).filter (sameKey r))
    ((∀ q ∈ rs, q.bad = false ∧ s.badImage q = none)) ∧ (divideBy s.mayRun 32 (drainLanes rs) = [one])) :=
  by and_intros <;> decide +kernel

theorem meets_RecordEvents_2 :
    let r : Record := aRecord .bin
    let s : State := withRecord r
    let recid := 5
    let die := 3
    (s.record? recid = some r) ∧ (r.place = .bin) ∧ (die < 4) ∧ (s.pkgNum < 1024) ∧ (s.maySend r s.pkgNum die = true) ∧ (s.sendsStopped (fnOf r.ctx) = false) ∧ ((∀ x ∈ s.reclaimed, x.1 ≠ recid)) :=
  by and_intros <;> decide +kernel

theorem meets_RecordEvents_3 :
    let s : State := withCellar booted
    let pkg := 1023
    let txn := 7
    let die := 3
    let image : List Byte := List.replicate 64 0
    (pkg ≠ s.pkgNum) ∧ (die < 4) ∧ (pkg < 1024) ∧ (64 ≤ image.length) ∧ 
    (let r := imageRecord image s.nextUid pkg die s.clock
    (fnOf r.ctx < 257) ∧ (r.kind ≠ .engine) ∧ (imageFrames image = false) ∧ (s.resets.contains (fnOf r.ctx) = false) ∧ (s.cellarCharged (fnOf r.ctx) + r.charge ≤ s.cellarBays (fnOf r.ctx))) :=
  by and_intros <;> decide +kernel

theorem meets_RecordEvents_4 :
    let r : Record := aRecord (.sent 0 1 0)
    let s : State := { withRecord r with clock := 2000 }
    let recid := 5
    let pkg := 0
    let die := 1
    let since := 0
    (s.record? recid = some r) ∧ (r.place = .sent pkg die since) ∧ (s.clock ≤ since + 2000) :=
  by and_intros <;> decide +kernel

theorem meets_RecordEvents_5 :
    let r : Record := aRecord (.sent 0 1 0)
    let s : State := { withRecord r with clock := 2000 }
    let recid := 5
    let pkg := 0
    let die := 1
    let since := 0
    (s.record? recid = some r) ∧ (r.place = .sent pkg die since) ∧ (since + 2000 ≤ s.clock) :=
  by and_intros <;> decide +kernel

theorem meets_RecordEvents_6 :
    let r : Record := aRecord (.pending 0 1)
    let s : State := withRecord r
    let recid := 5
    let die := 1
    (s.record? recid = some r) ∧ (r.place = .pending s.pkgNum die) :=
  by and_intros <;> decide +kernel

theorem meets_RecordEvents_7 :
    let r : Record := aRecord (.pending 1 1)
    let s : State := withRecord r
    let recid := 5
    let pkg := 1
    let die := 1
    (s.record? recid = some r) ∧ (r.place = .pending pkg die) ∧ (pkg ≠ s.pkgNum) :=
  by and_intros <;> decide +kernel

theorem meets_RecordEvents_8 :
    let r : Record := { aRecord .waiting with event := .charge }
    let s : State := withRecord r
    let fn := 0
    (s.exhausted fn = some r) :=
  by decide +kernel

theorem meets_RecordEvents_9 :
    let s : State := { withCellar booted with unplaced := [anUnplaced] }
    let uid := 0
    let u : Unplaced := anUnplaced
    let k := 0
    (s.unplaced? uid = some u) ∧ (s.placeCore u = some k) :=
  by and_intros <;> decide +kernel

theorem meets_RecordEvents_10 :
    let u : Unplaced := anUnplaced
    let s : State := { withCellar booted with unplaced := [u], gatedDies := [2, 3], clock := 4096, cohorts := (List.range 32).map fun n => { probeCohort with uid := 1 + n, slot := n, placed := 1 + n }, cores := (List.range 127).map fun n => { State.reset.core (n + 1) with markedOut := true } }
    let uid := 0
    let k := 128
    (s.unplaced? uid = some u) ∧ (s.placeCore u = none) ∧ (s.farCore u = some k) :=
  by and_intros <;> decide +kernel

theorem meets_RecordEvents_11 :
    let u : Unplaced := { anUnplaced with fromTeam := false }
    let s : State := { withCellar booted with unplaced := [u], gatedDies := [1, 2, 3], clock := 16384, cohorts := (List.range 32).map fun n => { probeCohort with uid := 1 + n, slot := n, placed := 1 + n }, cores := (List.range 127).map fun n => { State.reset.core (n + 1) with markedOut := true } }
    let uid := 0
    let k := 0
    let ps : List Nat := ((s.clearCore u).getD (0, [])).2
    (s.unplaced? uid = some u) ∧ (u.fromTeam = false) ∧ (u.handoff = none) ∧ (u.since + 16384 ≤ s.clock) ∧ (s.holdsCores (fnOf u.cohort.ctx) = true) ∧ (s.placeCore u = none) ∧ (s.clearCore u = some (k, ps)) :=
  by and_intros <;> decide +kernel

theorem meets_RecordEvents_12 :
    let c : Cohort := { probeCohort with wait := .split }
    let s : State := { here (.nop ⟨always, 0, .vreg 0, 0, 0, false, 0⟩) with cohorts := [c], clock := 256 }
    let uid := 0
    (s.cohort? uid = some c) ∧ (c.wait = .split) ∧ (c.readyTime + 256 ≤ s.clock) ∧ (s.canHalt c = true) ∧ (s.peerOpen c = false) ∧ (c.stepDue = none) ∧ ((s.abandonReads c).abortedWrite uid = none) :=
  by and_intros <;> decide +kernel

theorem meets_RecordEvents_13 :
    let c : Cohort := probeCohort
    let s : State := { here (.nop ⟨always, 0, .vreg 0, 0, 0, false, 0⟩) with halts := [(0, 4)] }
    let uid := 0
    let cause := 4
    (s.cohort? uid = some c) ∧ (s.haltWanted c = some cause) ∧ (s.canHalt c = true) ∧ ((∀ xs w, c.wait ≠ .xst xs w)) ∧ ((∀ code, c.wait ≠ .refused code)) ∧ (c.stepDue = none) ∧ ((s.abandonReads c).abortedWrite uid = none) :=
  ⟨by decide +kernel, by decide +kernel, by decide +kernel, (fun _ _ h => nomatch h), (fun _ h => nomatch h), by and_intros <;> decide +kernel⟩

theorem meets_RecordEvents_14 :
    let s : State := { booted with cohorts := [{ probeCohort with issue := some 1 }] }
    let core := 0
    ((∀ e ∈ s.cohorts, e.core = core → e.issue ≠ some 0)) :=
  by decide +kernel

theorem meets_RecordEvents_15 :
    let s : State := { booted with cohorts := [{ probeCohort with issue := some 0 }] }
    let core := 0
    ((∃ e ∈ s.cohorts, e.core = core ∧ e.issue = some 0)) ∧ ((∀ e ∈ s.cohorts, e.core = core → e.issue ≠ some 1)) :=
  by and_intros <;> decide +kernel

theorem meets_RecordEvents_16 :
    let s : State := { booted with cohorts := [{ probeCohort with issue := none }], slotsFreed := [(0, 0, 5)] }
    let core := 0
    ((∀ e ∈ s.cohorts, e.core = core → e.issue = none)) ∧ (s.slotFreed core 1 < s.slotFreed core 0) ∧ ((s.cohorts.filter fun c => c.core == core && c.ready).length = 1) :=
  by and_intros <;> decide +kernel

theorem meets_RecordEvents_17 :
    let c : Cohort := { probeCohort with issue := none }
    let s : State := { booted with cohorts := [c] }
    let core := 0
    let slot := 0
    (s.nextReady core = some c) ∧ (s.nextSlot core = some slot) :=
  by and_intros <;> decide +kernel

theorem meets_RecordEvents_18 :
    let s : State := { withTeam booted with launches := [aLaunch] }
    let launch := 1
    let team := 0
    let members : List Nat := [1]
    let t : Team := (withTeam State.reset).teams.headD ⟨0, 0, 0, 0, 0, 0, 0, [], []⟩
    let l : Launch := aLaunch
    (s.team? (BitVec.ofNat 32 launch) (BitVec.ofNat 32 team) = some t) ∧ (s.movable t = true) ∧ (s.canHost t members = true) ∧ (s.teamLaunch? t = some l) :=
  by and_intros <;> decide +kernel

theorem meets_RecordEvents_19 :
    let r : Record := aRecord (.sent 0 1 0)
    let s : State := { withRecord r with clock := 2001 }
    let recid := 5
    let pkg := 0
    let die := 1
    let since := 0
    (s.record? recid = some r) ∧ (r.place = .sent pkg die since) ∧ (since + 2000 < s.clock) :=
  by and_intros <;> decide +kernel

theorem meets_LaunchEvents_0 :
    let s : State := withQueue
    let fn := 256
    let queue := 63
    (s.booted = true) ∧ (fn < 257) ∧ (queue < 64) :=
  by and_intros <;> decide +kernel

theorem meets_LaunchEvents_1 :
    let s : State := withQueue.setReg 0 0x1800 0
    let fn := 0
    let queue := 0
    let val : Word64 := 0x40001
    (s.booted = true) ∧ (fn < 257) ∧ (queue < 64) ∧ (bitOf val.toNat 0 = true) ∧ (s.queueOn fn queue = false) ∧ ((∀ l ∈ s.launches, l.fn = fn → l.queue = queue → l.complete = true)) :=
  by and_intros <;> decide +kernel

theorem meets_LaunchEvents_2 :
    let s : State := withQueue
    let fn := 0
    let queue := 0
    let val : Word64 := 0
    (s.booted = true) ∧ (fn < 257) ∧ (queue < 64) ∧ (bitOf val.toNat 0 = false) ∧ (s.queueOn fn queue = true) :=
  by and_intros <;> decide +kernel

theorem meets_LaunchEvents_3 :
    let s : State := withQueue
    let fn := 0
    let queue := 0
    let v : QueueView := aView
    (s.view? fn queue = some v) ∧ (s.mayStart v = true) ∧ (s.cursorErr v = 0) ∧ ((descDeps (s.cursorDesc v)).all (s.depMet fn) = true) :=
  by and_intros <;> decide +kernel

theorem meets_LaunchEvents_4 :
    let s : State := poke [(0x50018, 0x1FF000000)] withQueue
    let fn := 0
    let queue := 0
    let v : QueueView := aView
    (s.view? fn queue = some v) ∧ (s.queueOn fn queue = true) ∧ (v.fn = fn) ∧ (v.queue = queue) ∧ (v.waiting = true) ∧ (s.qcb v 18 1 < 2) ∧ ((∀ l ∈ s.launches, l.fn = fn → l.queue = queue → l.complete = true)) ∧ (s.cursorErr v = 0) ∧ ((∃ p ∈ descDeps (s.cursorDesc v), s.depMet fn p = false)) :=
  by and_intros <;> decide +kernel

theorem meets_LaunchEvents_5 :
    let s : State := withQueue.setReg 0 0x4038 0
    let fn := 0
    let queue := 0
    let v : QueueView := aView
    (s.view? fn queue = some v) ∧ (s.mayStart v = true) ∧ (s.cursorErr v ≠ 0) :=
  by and_intros <;> decide +kernel

theorem meets_LaunchEvents_6 :
    let s : State := { withQueue with launches := [aLaunch], gatedDies := [1, 2, 3] }
    let fn := 0
    let queue := 0
    let l : Launch := aLaunch
    let inst := 0
    let cores : List Nat := (s.nextTeam 0 0).elim [] fun p => p.2.2
    (s.nextTeam fn queue = some (l, inst, cores)) :=
  by decide +kernel

theorem meets_LaunchEvents_7 :
    let s : State := { withQueue with launches := [{ aLaunch with next := 1 }] }
    let launch := 1
    let l : Launch := { aLaunch with next := 1 }
    (s.launches.find? (fun l => l.num == BitVec.ofNat 32 launch && !l.complete) = some l) ∧ (s.mayComplete l = true) :=
  by and_intros <;> decide +kernel

theorem meets_LaunchEvents_8 :
    let v : QueueView := { aView with since := some 0 }
    let l : Launch := { aLaunch with foot := 1024, members := 1 }
    let s : State := { withQueue with clock := 16384, launches := [l, { aLaunch with num := 2, prio := 0, queue := 1, next := 1 }], cohorts := [{ probeCohort with launch := 2 }], allocs := (List.range 4).map fun n => { core := 0, launch := 2, team := 0, size := 128, row := n, data := [] }, cores := (List.range 127).map fun n => { State.reset.core (n + 1) with markedOut := true }, gatedDies := [1, 2, 3], queueViews := [v] }
    let fn := 0
    let queue := 0
    let k := 0
    let t0 : Nat := 0
    (s.view? fn queue = some v) ∧ (s.creating fn queue = some l) ∧ (bitOf (s.qcb v 17 1) 3 = true) ∧ (v.since = some t0) ∧ (t0 + 16384 ≤ s.clock) ∧ ((s.chooseInstance l v.bound).isNone = true) ∧ (s.preemptCore fn l.prio = some k) :=
  by and_intros <;> decide +kernel

theorem meets_LaunchEvents_9 :
    let s : State := booted
    (s.booted = true) :=
  by decide +kernel

theorem meets_LaunchEvents_10 :
    let s : State := booted.setReg 0 0x3018 1
    (s.distBusy = true) :=
  by decide +kernel

theorem meets_EngineEvents_0 :
    let s : State := withOp copyOp booted
    let op := 1
    let e := copyOp
    (s.engine? op = some e) ∧ (s.engineRuns e = true) ∧ (e.isColl = false) ∧ (e.done < s.engineTotal e) ∧ (e.coll.checked = false) :=
  by and_intros <;> decide +kernel

theorem meets_EngineEvents_1 :
    let e : EngineOp := { copyOp with done := 64, state := .running }
    let s : State := withOp e booted
    let op := 1
    (s.engine? op = some e) ∧ ((e.state = .running ∨ e.state = .queued)) ∧ (e.ended = none) ∧ (e.done = s.engineTotal e) ∧ (e.isColl = false) ∧ (s.engineAway e = false) :=
  ⟨by decide +kernel, .inl rfl, by and_intros <;> decide +kernel⟩

theorem meets_EngineEvents_2 :
    let e : EngineOp := { copyOp with state := .running }
    let s : State := withOp e booted
    let op := 1
    (s.engine? op = some e) ∧ (e.state = .running) ∧ (e.coll.progress = 0) :=
  by and_intros <;> decide +kernel

theorem meets_EngineEvents_3 :
    let e := { collOp with regs := [0x40000, 0x20000, 0x30000, 64, 64] }
    let s : State := withOp e booted
    let op := 1
    let peer := 1
    let data : List Byte := []
    (s.engine? op = some e) ∧ (e.isColl = true) ∧ (s.engineRuns e = true) ∧ (e.coll.progress = 0) ∧ (e.has peer = false) :=
  by and_intros <;> decide +kernel

theorem meets_EngineEvents_4 :
    let e : EngineOp := { collOp with coll := ⟨0, 0, 5, true, 0, 0, []⟩ }
    let s : State := withOp e booted
    let op := 1
    (s.engine? op = some e) ∧ (e.isColl = true) ∧ (e.state = .running) ∧ (e.coll.progress ≠ 0) ∧ (s.engineHalted e = false) ∧ (e.stops = false) :=
  by and_intros <;> decide +kernel

theorem meets_EngineEvents_5 :
    let e := collOp
    let s : State := withOp e booted
    let op := 1
    (s.engine? op = some e) ∧ (e.isColl = true) ∧ (e.coll.checked = true) :=
  by and_intros <;> decide +kernel

theorem meets_ClockEvents_1 :
    let s : State := { booted.setReg 0 0xF910 (2 ^ 63) with clock := 4000 }
    (s.podOn = true) ∧ (s.podMaster = s.pkgNum) ∧ (s.due (s.podSentAt + 4000) = true) :=
  by and_intros <;> decide +kernel

theorem meets_ClockEvents_2 :
    let s : State := booted.setReg 0 0xF910 (2 ^ 63)
    let count := 3
    let stamp := 9
    (s.podOn = true) :=
  by decide +kernel

theorem meets_ClockEvents_3 :
    let s : State := { booted.setReg 0 0xF910 (2 ^ 63) with podPending := [(3, 9)] }
    let count := 3
    let at_ := 9
    (s.podPending.find? (fun p => p.1 == count && s.due p.2) = some (count, at_)) :=
  by decide +kernel

theorem meets_ClockEvents_4 :
    let s : State := { withTable with clock := 125000 }
    (s.tableOn = true) ∧ (s.curSlot < 15) ∧ (s.drain = none) ∧ (s.due s.nextEdge = true) :=
  by and_intros <;> decide +kernel

theorem meets_ClockEvents_5 :
    let s : State := { withTable.setReg 0 0x9010 0xF0001 with clock := 2000000 }
    (s.tableEn = true) ∧ (s.disabling = false) ∧ (s.drain = none) ∧ (s.tableOn = true) ∧ (s.curSlot = 15) ∧ (s.due s.nextFrame = true) ∧ (s.pendingTable = none) :=
  by and_intros <;> decide +kernel

theorem meets_ClockEvents_6 :
    let s : State := booted
    (s.due (1024 * s.wheelTurns) = true) :=
  by decide +kernel

theorem meets_ClockEvents_7 :
    let s : State := booted
    let die := 3
    let cls := 3
    let pos := 63
    (die < 4) ∧ (cls < 4) ∧ (pos < 64) :=
  by and_intros <;> decide +kernel

theorem meets_ClockEvents_8 :
    let s : State := { booted with requests := [{ id := 0, fn := 0, core := some 0, line := 0, kind := .load, sectors := 1, bytes := 0, lanes := [], uncached := false, page := none, link := none }] }
    let die := 0
    let cls := 0
    let pos := 63
    let n := 0
    let f := 0
    (s.positionOwner die cls pos = some f) ∧ ((s.drain = none ∨ 52 ≤ pos ∨ ∃ d, s.drain = some d ∧ d.edge + 10000 ≤ s.clock)) :=
  by and_intros <;> decide +kernel

theorem meets_ClockEvents_9 :
    let d : Drain := { edge := 0, outgoing := [0], incoming := [], quads := [0], owners := [0] }
    let s : State := { booted with drain := some d }
    let die := 0
    let cls := 0
    let pos := 51
    let n := 0
    (s.drain = some d) ∧ (pos < 52) ∧ (s.clock < d.edge + 10000) :=
  by and_intros <;> decide +kernel

theorem meets_ClockEvents_10 :
    let d : Drain := { edge := 0, outgoing := [0], incoming := [], quads := [0], owners := [0] }
    let s : State := { booted with drain := some d, clock := 9000 }
    (s.drain = some d) ∧ (s.due (d.edge + 9000) = true) :=
  by and_intros <;> decide +kernel

theorem meets_ClockEvents_11 :
    let d : Drain := { edge := 0, outgoing := [0], incoming := [], quads := [0], owners := [0] }
    let s : State := { booted with drain := some d, clock := 10000 }
    (s.drain = some d) ∧ (s.due (d.edge + 10000) = true) :=
  by and_intros <;> decide +kernel

theorem meets_ClockEvents_12 :
    let s : State := { booted with lateQuads := [(0, 0)] }
    (s.drain = none) ∧ (s.lateQuads.any s.quadDone = true) :=
  by and_intros <;> decide +kernel

theorem meets_ClockEvents_13 :
    let s : State := booted.setReg 0 0x9000 0xC000000000
    (s.booted = true) :=
  by decide +kernel

theorem meets_ClockEvents_14 :
    let s : State := { booted with pendingTable := some ⟨[], [], []⟩ }
    (s.booted = true) ∧ (s.tableEn = false) ∧ (s.allIdle = true) ∧ (s.pendingTable ≠ none) :=
  by and_intros <;> decide +kernel

theorem meets_ClockEvents_15 :
    let s : State := booted.setReg 0 0x9010 1
    (s.booted = true) ∧ (s.tableEn = true) ∧ (s.allIdle = true) :=
  by and_intros <;> decide +kernel

theorem meets_HostEvents_0 :
    let s : State := booted
    (s.booted = true) ∧ (s.tableEn = false) ∧ (s.allIdle = true) :=
  by and_intros <;> decide +kernel

theorem meets_HostEvents_1 :
    let s : State := booted.setReg 0 0xE500 2
    (bitOf (s.reg 0 0xE500) 1 = true) :=
  by decide +kernel

theorem meets_HostEvents_2 :
    let s : State := booted
    let fn := 256
    (s.booted = true) ∧ (fn < 257) ∧ (bitOf (s.reg 0 (0xA028 + fn * 0x40)) 1 = false) :=
  by and_intros <;> decide +kernel

theorem meets_HostEvents_3 :
    let s : State := booted.setReg 0 0xA068 2
    let fn := 1
    (fn < 257) ∧ (bitOf (s.reg 0 (0xA028 + fn * 0x40)) 1 = true) :=
  by and_intros <;> decide +kernel

theorem meets_HostEvents_4 :
    let s : State := { booted with outboxes := [(1, 1, 0)] }
    let fn := 1
    let b : Nat × Nat × Nat := (1, 1, 0)
    (s.nextBatch fn = some b) :=
  by decide +kernel

theorem meets_HostEvents_5 :
    let s : State := booted
    let die := 3
    (die < 4) ∧ (s.gatedDies.contains die = false) ∧ (s.handoffOn die = false) :=
  by and_intros <;> decide +kernel

theorem meets_HostEvents_6 :
    let unit : HwUnit := .coreUnit 7 511 0
    let t : UnitTest := { unit, since := 0, atOnce := true }
    let s : State := { booted with tests := [t] }
    let lasting := true
    (s.tests.find? (fun t => t.unit == unit) = some t) ∧ (s.testReady t = true) :=
  by and_intros <;> decide +kernel

theorem meets_HostEvents_7 :
    let s : State := booted
    let fn := 0
    let core := 511
    let k := 511
    (s.booted = true) ∧ (fn < 257) ∧ (core < 512) ∧ (s.coreOfDense fn core = some k) :=
  by and_intros <;> decide +kernel

theorem meets_HostEvents_8 :
    let s : State := booted
    let fn := 256
    let core := 511
    let val : Word64 := 5
    (s.booted = true) ∧ (fn < 257) ∧ (core < 512) :=
  by and_intros <;> decide +kernel

theorem meets_HostEvents_9 :
    let s : State := booted
    let fn := 256
    let core := 511
    (s.booted = true) ∧ (fn < 257) ∧ (core < 512) :=
  by and_intros <;> decide +kernel

theorem meets_HostEvents_10 :
    let s : State := booted
    let fn := 0
    let off := 0x20000
    let n := 8
    let pa := 0x20000
    (fn < 257) ∧ (off + n ≤ bar2Size fn) ∧ (s.bar2Access fn off n = some pa) ∧ (s.badIn (.hbm pa) n = none) :=
  by and_intros <;> decide +kernel

theorem meets_HostEvents_11 :
    let s : State := booted
    let fn := 0
    let off := 0x20000
    let data : List Byte := [1, 2]
    let pa := 0x20000
    (fn < 257) ∧ (off + data.length ≤ bar2Size fn) ∧ (s.bar2Access fn off data.length = some pa) :=
  by and_intros <;> decide +kernel

theorem meets_HostEvents_12 :
    let s : State := booted
    (s.booted = true) :=
  by decide +kernel

theorem meets_HostEvents_13 :
    let s : State := booted.setReg 0 0xF998 1
    (bitOf (s.reg 0 0xF998) 0 = true) :=
  by decide +kernel

theorem meets_HostEvents_14 :
    let s : State := booted
    let fn := 256
    (s.booted = true) ∧ (fn < 257) :=
  by and_intros <;> decide +kernel

theorem meets_HostEvents_15 :
    let s : State := booted.setReg 256 0x1F48 2
    let fn := 256
    (fn < 257) ∧ (bitOf (s.reg fn 0x1F48) 1 = true) :=
  by and_intros <;> decide +kernel

theorem meets_HostEvents_16 :
    let s : State := State.reset
    (s.booted = false) :=
  by decide +kernel

theorem meets_HostEvents_20 :
    let s : State := booted
    let fn := 0
    let off := 0x20004
    let op : AtomicOp := .cas
    let wide : Bool := false
    let x : Word64 := 1
    let y : Word64 := 0
    let pa := 0x20004
    (fn < 257) ∧ (off + 8 ≤ bar2Size fn) ∧ ((op = .add ∨ op = .xch ∨ op = .cas)) ∧ 
    (let n := if wide then 8 else 4
    (off % n = 0) ∧ (s.bar2Access fn off n = some pa) ∧ (s.badIn (.hbm pa) n = none) ∧ (s.viewOf pa = none)) :=
  by and_intros <;> decide +kernel

end Sys2Proof.Tests
end

section
/-! SUPPORT. The form of the memories (O52): no operation of the model leaves a list of cells out of its canonical form
(R5, R12, R468). The lemma `Safe.f` says so of the operation `f` and follows its body: `h.f.g` stands for a state on which
`f` and then `g` was done, and `SafeNext` says it of an operation that may also fault. -/

namespace Sys2Proof

open Sys2Proof.Machine

/-- Every next state that an outcome answers is well kept. -/
def SafeNext (o : Host.Outcome State Fault Refusal) : Prop := ∀ t, o = .next t → Safe t

section
variable {s t : State}

theorem Safe.of_eq (hm : t.mem = s.mem) (hh : t.hostMem = s.hostMem) (h : Safe s) : Safe t := memory_wf_of_eq hm hh h

theorem Safe.ite {c : Prop} [Decidable c] (hs : Safe s) (ht : Safe t) : Safe (if c then s else t) := by
  split
  · exact hs
  · exact ht

theorem Safe.elim {α : Type _} {o : Option α} {f : α → State} (h : Safe s) (hf : ∀ a, Safe (f a)) :
    Safe (o.elim s f) := by
  cases o with
  | none => exact h
  | some a => exact hf a

theorem Safe.foldl {α : Type} {f : State → α → State} {xs : List α} (h : Safe s)
    (hf : ∀ {t a}, Safe t → Safe (f t a)) : Safe (xs.foldl f s) := memory_wf_foldl f (fun _ _ => hf) xs s h

theorem Safe.foldr {α : Type} {f : α → State → State} {xs : List α} (h : Safe s)
    (hf : ∀ {a t}, Safe t → Safe (f a t)) : Safe (xs.foldr f s) := by
  induction xs with
  | nil => exact h
  | cons a xs ih => exact hf ih

theorem SafeNext.next (h : Safe s) : SafeNext (.next s) := by
  rintro _ ⟨⟩
  exact h

theorem SafeNext.fault {r : Fault} : SafeNext (.fault r) := nofun

theorem SafeNext.ite {c : Prop} [Decidable c] {o p : Host.Outcome State Fault Refusal} (ho : SafeNext o)
    (hp : SafeNext p) : SafeNext (if c then o else p) := by
  split
  · exact ho
  · exact hp

/-! ## The operations of Machine/Memory -/

theorem Safe.healSector {sector : Nat} (h : Safe s) : Safe (s.healSector sector) := h

theorem Safe.perform {l : Loc} {bs : List Byte} {uncached : Bool} {core grain : Option Nat} (h : Safe s) :
    Safe (s.perform l bs uncached core grain) := memory_wf_perform _ _ _ _ _ _ h

theorem Safe.viewed {core : Nat} {l : Loc} {ts : List Nat} (h : Safe s) : Safe (s.viewed core l ts) := .ite h h

theorem Safe.l1Use {core pa : Nat} (h : Safe s) : Safe (s.l1Use core pa) := h

theorem Safe.l1Fill {core pa : Nat} (h : Safe s) : Safe (s.l1Fill core pa) := .l1Use (.of_eq rfl rfl (.ite h h))

theorem Safe.l1Refresh {core : Nat} {l : Loc} {ts : List Nat} (h : Safe s) : Safe (s.l1Refresh core l ts) := by
  unfold State.l1Refresh
  split
  · exact h
  · exact h

theorem Safe.readDone {core : Nat} {l : Loc} {n : Nat} (h : Safe s) : Safe (s.readDone core l n) := by
  unfold State.readDone
  dsimp only
  split
  · exact .l1Use (.ite h.viewed h.viewed.l1Refresh)
  · exact h.viewed

theorem Safe.sawLast {core : Nat} {l : Loc} {bs : List Byte} (h : Safe s) :
    Safe (s.sawLast core l bs) := memory_wf_sawLast _ _ _ _ h

theorem Safe.drainStores {p : PendingStore → Bool} (h : Safe s) :
    Safe (s.drainStores p) := memory_wf_drainStores _ _ h

theorem Safe.releaseStep {core scope : Nat} (h : Safe s) :
    Safe (s.releaseStep core scope) := memory_wf_releaseStep _ _ _ h

theorem Safe.drainCore {core : Nat} (h : Safe s) : Safe (s.drainCore core) := memory_wf_drainCore _ _ h

theorem Safe.acquireStep {core scope : Nat} (h : Safe s) :
    Safe (s.acquireStep core scope) := memory_wf_acquireStep _ _ _ h

theorem Safe.performOwn {core : Nat} {l : Loc} {n : Nat} (h : Safe s) :
    Safe (s.performOwn core l n) := memory_wf_performOwn _ _ _ _ h

theorem Safe.storeDrift (h : Safe s) : Safe s.storeDrift := memory_wf_storeDrift _ h

theorem Safe.settleOwed (h : Safe s) : Safe s.settleOwed := .ite h h

theorem Safe.issueWrite {p : PendingStore} (h : Safe s) : Safe (s.issueWrite p) := h

theorem Safe.ask {r : SliceReq} (h : Safe s) : Safe (s.ask r) := memory_wf_ask _ _ h

theorem Safe.askRange {fn pa n : Nat} {kind : ReqKind} {uncached : Bool} {page : Option PageRef} (h : Safe s) :
    Safe (s.askRange fn pa n kind uncached page) := memory_wf_askRange _ _ _ _ _ _ _ h

theorem Safe.giveSector {core : Nat} {base : Loc} (h : Safe s) :
    Safe (s.giveSector core base) := memory_wf_giveSector _ _ _ h

theorem Safe.forget (h : Safe s) : Safe s.forget := memory_wf_forget _ h

/-! ## The operations of Machine/Cellar -/

theorem Safe.putCohort {c : Cohort} (h : Safe s) : Safe (s.putCohort c) := h

theorem Safe.putCore {k : Core} (h : Safe s) : Safe (s.putCore k) := h

theorem Safe.fresh (h : Safe s) : Safe s.fresh.2 := h

theorem Safe.putRecord {r : Record} (h : Safe s) : Safe (s.putRecord r) := h

theorem Safe.dropRecord {uid : Nat} (h : Safe s) : Safe (s.dropRecord uid) := h

theorem Safe.rewrite {r : Record} (h : Safe s) : Safe (s.rewrite r) := h

theorem Safe.release {r : Record} (h : Safe s) : Safe (s.release r) := h

theorem Safe.releaseWhere {p : Record → Bool} {g : Record → Record} (h : Safe s) :
    Safe (s.releaseWhere p g) := .foldl h fun h => .ite h.release h

theorem Safe.wakeCharge {fn : Nat} (h : Safe s) : Safe (s.wakeCharge fn) := h.releaseWhere

theorem Safe.binRefill {die : Nat} (h : Safe s) : Safe (s.binRefill die) := by
  unfold State.binRefill
  split
  · exact h
  · exact h

theorem Safe.spillFrames {c : Cohort} {keep : Fibre → Nat} (h : Safe s) : Safe (s.spillFrames c keep).1 := h

theorem Safe.leaveAttic {id : Nat} (h : Safe s) : Safe (s.leaveAttic id) := h

theorem Safe.takeReads {c : Cohort} {p : Landing → Bool} (h : Safe s) : Safe (s.takeReads c p).1 := h

theorem Safe.fuse {core e : Nat} (h : Safe s) : Safe (s.fuse core e) := by
  unfold State.fuse
  split
  · exact h
  · dsimp only
    split
    · exact h
    · exact h

theorem Safe.fuseAll {core : Nat} (h : Safe s) : Safe (s.fuseAll core) := by
  unfold State.fuseAll
  refine .foldl h fun h => ?_
  split
  · exact .ite h.fuse h
  · exact h

theorem Safe.leaveCore {c : Cohort} (h : Safe s) : Safe (s.leaveCore c) := by
  unfold State.leaveCore
  dsimp only
  split
  · exact .ite h h
  · exact .fuseAll (.putCore (.ite h h))

theorem Safe.writeRecords {c : Cohort} {k : Cause} {ev : Fibre → Event} (h : Safe s) :
    Safe (s.writeRecords c k ev) := .leaveCore (.foldl h.spillFrames fun h' => h')

theorem Safe.newTag {die : Nat} (h : Safe s) : Safe (s.newTag die).2 := h

/-! ## The operations of Machine/Regs -/

theorem Safe.setReg {fn off val : Nat} (h : Safe s) : Safe (s.setReg fn off val) := .ite h h

theorem Safe.regSet {fn off bits : Nat} (h : Safe s) : Safe (s.regSet fn off bits) := h.setReg

theorem Safe.regClear {fn off bits : Nat} (h : Safe s) : Safe (s.regClear fn off bits) := h.setReg

theorem Safe.regField {fn off hi lo val : Nat} (h : Safe s) : Safe (s.regField fn off hi lo val) := h.setReg

theorem Safe.regInc {fn off : Nat} (h : Safe s) : Safe (s.regInc fn off) := memory_wf_regInc _ _ _ h

theorem Safe.partWrite {off val : Nat} (h : Safe s) : Safe (s.partWrite off val) := by
  unfold State.partWrite
  dsimp only
  split
  · exact h.setReg
  · exact h.setReg
  · exact .ite (.setReg h) h

theorem Safe.refuseWrite {fn off : Nat} (h : Safe s) : Safe (s.refuseWrite fn off) := .ite h.regSet (.ite h.regSet h)

theorem Safe.plainWrite {fn off val : Nat} (h : Safe s) : Safe (s.plainWrite fn off val) := by
  unfold State.plainWrite
  split
  · exact h
  · exact .ite h.refuseWrite (.ite h.partWrite (.ite h.setReg (.ite h.regClear h.setReg)))

theorem Safe.signal {fn vec : Nat} (h : Safe s) : Safe (s.signal fn vec) := memory_wf_signal _ _ _ h

theorem Safe.physWrite {fn pa : Nat} {bs : List Byte} (h : Safe s) :
    Safe (s.physWrite fn pa bs) := .perform (.ite h.askRange h)

theorem Safe.ringWrite {fn pa : Nat} {bytes : List Byte} (h : Safe s) :
    Safe (s.ringWrite fn pa bytes) := .ite h.physWrite h

theorem Safe.ringPut {fn q p : Nat} {bytes : List Byte} (h : Safe s) :
    Safe (s.ringPut fn q p bytes) := memory_wf_ringPut _ _ _ _ _ h

theorem Safe.hurryTests {code core : Nat} (h : Safe s) : Safe (s.hurryTests code core) := h

theorem Safe.postError {s0 : State} {code sev verdict die unit row pa fn : Nat} (h : Safe s0) :
    Safe (s0.postError code sev verdict die unit row pa fn) := memory_wf_postError _ _ _ _ _ _ _ _ _ h

theorem Safe.coreError {code sev core row fn : Nat} (h : Safe s) :
    Safe (s.coreError code sev core row fn) := h.postError

theorem Safe.parityError {core : Option Nat} {die : Nat} (h : Safe s) : Safe (s.parityError core die) := by
  unfold State.parityError
  split
  · exact h.coreError
  · exact h.postError

theorem Safe.hbmError {sev sector fn : Nat} (h : Safe s) : Safe (s.hbmError sev sector fn) := h.postError

theorem Safe.listSector {sector : Nat} (h : Safe s) : Safe (s.listSector sector) := memory_wf_listSector _ _ h

theorem Safe.sliceError {l : L2Line} {sev sector fn : Nat} (h : Safe s) :
    Safe (s.sliceError l sev sector fn) := h.postError

theorem Safe.enterError {sector fn : Nat} (h : Safe s) : Safe (s.enterError sector fn) := by
  unfold State.enterError
  split
  · exact h.listSector.sliceError
  · exact h.listSector.hbmError

theorem Safe.physAsk {fn pa n : Nat} (h : Safe s) :
    Safe (s.physAsk fn pa n) := .ite (.elim h.askRange fun _ => h.askRange.enterError) h

theorem Safe.decide {kind cause lanes flags ctx core : Nat} {tag launch : BitVec 32} {resume : Nat} (h : Safe s) :
    Safe (s.decide kind cause lanes flags ctx core tag launch resume) :=
  .ite h.regInc (.ite h.regInc.regInc h.regInc.ringWrite.regField)

/-! ## The operations of Machine/Xlate -/

theorem Safe.walkAsk {die ctx va : Nat} (h : Safe s) : Safe (s.walkAsk die ctx va) := .foldl h fun h => h.askRange

theorem Safe.tlbPut {s0 : State} {t : TlbEntry} (h : Safe s0) : Safe (s0.tlbPut t) := by
  unfold State.tlbPut
  extract_lets same s rest
  have h1 : Safe s := by
    refine .ite ?_ h
    split
    · exact h.parityError
    · exact h.parityError
  clear_value s
  split
  · exact h1
  · exact h1

theorem Safe.walkPut {die ctx va : Nat} {e : Nat × Nat} (h : Safe s) :
    Safe (s.walkPut die ctx va e) := .of_eq rfl rfl (.ite h.parityError h)

theorem Safe.walkDone {die ctx va : Nat} (h : Safe s) :
    Safe (s.walkDone die ctx va) := .foldl h.walkAsk fun h => h.walkPut

theorem Safe.tlbFill {s0 : State} {core : Option Nat} {die ctx va : Nat} (h : Safe s0) :
    Safe (s0.tlbFill core die ctx va) := by
  unfold State.tlbFill
  split
  · split
    · exact h.tlbPut
    · exact h.tlbPut
  · extract_lets s
    have h1 : Safe s := h.walkDone
    split
    · extract_lets put
      have hp (u : State) (o : TlbOwner) (hu : Safe u) : Safe (put u o) := by
        unfold put
        split
        · exact hu.tlbPut
        · exact hu
      split
      · exact hp _ _ (hp _ _ h1)
      · exact hp _ _ h1
    · exact h1

theorem Safe.postFaults (h : Safe s) : Safe s.postFaults := .foldr h fun h => .ite h (.signal (.ringPut h))

theorem Safe.postHint {r : PageRef} (h : Safe s) : Safe (s.postHint r) := .ite h h.ringPut.signal

theorem Safe.countPage {r : PageRef} (h : Safe s) : Safe (s.countPage r) := by
  unfold State.countPage
  dsimp only
  split
  · exact h
  · exact .ite (.postHint h) h

theorem Safe.walkNote {core : Option Nat} {die ctx va : Nat} (h : Safe s) :
    Safe (s.walkNote core die ctx va) := .ite h (.elim h.walkDone fun _ => h.walkDone.enterError)

theorem Safe.countHost {page : Option PageRef} {sectors : Nat} (h : Safe s) :
    Safe (s.countHost page sectors) := .foldl h fun h => .elim h fun _ => h.countPage

theorem Safe.notePaged {core : Option Nat} {die ctx va acc : Nat} (h : Safe s) :
    Safe (s.notePaged core die ctx va acc) := by
  unfold State.notePaged
  refine .ite h ?_
  dsimp only
  split
  · exact .ite (.of_eq rfl rfl h.tlbFill) h.tlbFill
  · exact h.tlbFill

theorem Safe.parkPage {die ctx : Nat} {f : PageFault} (h : Safe s) :
    Safe (s.parkPage die ctx f) := .ite h (.postFaults h)

/-! ## The operations of Machine/L2 -/

theorem Safe.dramServe {r : DramReq} (h : Safe s) : Safe (s.dramServe r) := memory_wf_dramServe _ _ h

theorem Safe.dramAsk {fn pa : Nat} {write : Bool} (h : Safe s) :
    Safe (s.dramAsk fn pa write) := memory_wf_dramAsk _ _ _ _ h

theorem Safe.dramAccess {fn pa : Nat} {write : Bool} (h : Safe s) :
    Safe (s.dramAccess fn pa write) := memory_wf_dramAccess _ _ _ _ h

theorem Safe.dramQuiet {p : DramReq → Bool} (h : Safe s) : Safe (s.dramQuiet p) := memory_wf_dramQuiet _ _ h

theorem Safe.dramDrift (h : Safe s) : Safe s.dramDrift := memory_wf_dramDrift _ h

theorem Safe.l2Put {l : L2Line} (h : Safe s) : Safe (s.l2Put l) := h

theorem Safe.writeBack {fn sector : Nat} (h : Safe s) : Safe (s.writeBack fn sector) := memory_wf_writeBack _ _ _ h

theorem Safe.endFetch {sector : Nat} (h : Safe s) : Safe (s.endFetch sector) := memory_wf_endFetch _ _ h

theorem Safe.l2Evict {fn : Nat} {l : L2Line} (h : Safe s) : Safe (s.l2Evict fn l) := memory_wf_l2Evict _ _ _ h

theorem Safe.l2Flush {p : L2Line → Bool} (h : Safe s) : Safe (s.l2Flush p) := memory_wf_l2Flush _ _ h

theorem Safe.l2Own {fn pa : Nat} (h : Safe s) : Safe (s.l2Own fn pa).1 := by
  unfold State.l2Own
  extract_lets mask s1
  have h1 : Safe s1 := by
    unfold s1
    split
    · exact .ite h h.l2Evict
    · exact h
  split
  · exact h1
  · dsimp only
    split
    · exact h1.l2Evict
    · exact h1

theorem Safe.missed {r : SliceReq} (h : Safe s) : Safe (s.missed r) := .elim h fun _ => h.countPage

theorem Safe.serveLine {r : SliceReq} {l : L2Line} {i : Nat} (h : Safe s) :
    Safe (s.serveLine r l i) := .l2Put (.ite h (.ite h.missed.dramAsk h.missed))

theorem Safe.serveCached {r : SliceReq} {i : Nat} (h : Safe s) : Safe (s.serveCached r i) := by
  have h1 : Safe (s.l2Own r.fn (r.pa i)).1 := h.l2Own
  unfold State.serveCached
  generalize s.l2Own r.fn (r.pa i) = p at h1 ⊢
  obtain ⟨s1, _ | l⟩ := p
  · exact h1
  · exact h1.serveLine

theorem Safe.serveHbm {r : SliceReq} {i : Nat} (h : Safe s) :
    Safe (s.serveHbm r i) :=
  .foldl h.missed fun h => .ite (.foldl h fun h => .dramAccess (.ite h h.dramAccess)) h.dramAccess

theorem Safe.serveUncached {r : SliceReq} {i : Nat} (h : Safe s) : Safe (s.serveUncached r i) := by
  unfold State.serveUncached
  split
  · exact h.serveLine
  · exact h.serveHbm

theorem Safe.checkTags {r : SliceReq} (h : Safe s) : Safe (s.checkTags r) := .ite (.signal (.postError h)) h

theorem Safe.refetch {pa : Nat} (h : Safe s) : Safe (s.refetch pa) := by
  unfold State.refetch
  split
  · exact .ite (.sliceError h) h
  · exact h

theorem Safe.serveTags {r : SliceReq} (h : Safe s) :
    Safe (s.serveTags r) := .foldl h.checkTags fun h => .ite (.ite h.refetch.serveUncached h.refetch.serveCached) h

theorem Safe.serveSlice {r : SliceReq} (h : Safe s) : Safe (s.serveSlice r) := .serveTags (.ite h.drainStores h)

theorem Safe.serveTo {id : Nat} (h : Safe s) : Safe (s.serveTo id) := by
  unfold State.serveTo
  split
  · exact h
  · exact .foldl h fun h => h.serveSlice

theorem Safe.l2Arrive {l : L2Line} {pa : Nat} (h : Safe s) : Safe (s.l2Arrive l pa) := by
  unfold State.l2Arrive
  dsimp only
  split
  · exact .endFetch h
  · exact .ite (.foldl h fun h => .foldl h fun h => h.serveTags)
        (.of_eq rfl rfl (.foldl h fun h => .foldl h fun h => h.serveTags))

theorem Safe.serveWhere {p : SliceReq → Bool} (h : Safe s) : Safe (s.serveWhere p) := .foldl h fun h => h.serveTo

theorem Safe.fillAll (h : Safe s) : Safe s.fillAll := by
  unfold State.fillAll
  refine .foldl h fun h => .foldl h fun h => ?_
  split
  · exact h.l2Arrive
  · exact h

theorem Safe.serveCore {core : Nat} (h : Safe s) : Safe (s.serveCore core) := h.serveWhere

theorem Safe.serveAll {fn : Nat} (h : Safe s) : Safe (s.serveAll fn) := .ite h.serveWhere.fillAll (.ite h.fillAll h)

theorem Safe.flushViews {p : Nat → Bool} (h : Safe s) :
    Safe (s.flushViews p) := .of_eq rfl rfl (.serveAll (.foldl h fun h => h.writeBack))

theorem Safe.writeSectors {fn pa : Nat} {bs : List Byte} {uncached : Bool} (h : Safe s) :
    Safe (s.writeSectors fn pa bs uncached) :=
  .foldl h fun h => .ite h.healSector.perform (.ite h.enterError h.perform)

theorem Safe.agentWrite {fn pa : Nat} {bs : List Byte} {uncached : Bool} {page : Option PageRef} (h : Safe s) :
    Safe (s.agentWrite fn pa bs uncached page) := h.askRange.writeSectors

/-! ## The operations of Machine/Peer -/

theorem Safe.sendFlit {kind dst fn tag lease : Nat} {payload : List Byte} (h : Safe s) :
    Safe (s.sendFlit kind dst fn tag lease payload) := h

theorem Safe.sendReq {r : PeerReq} (h : Safe s) : Safe (s.sendReq r) := h

theorem Safe.dispatchReq {r : PeerReq} (h : Safe s) : Safe (s.dispatchReq r) := .ite (.sendReq h) h

theorem Safe.askAs {uid : Nat} {core : Option Nat} {die ctx : Nat} {a : Ask} (h : Safe s) :
    Safe (s.askAs uid core die ctx a) := .ite h (.ite h (.dispatchReq h))

theorem Safe.askPeer {c : Cohort} {a : Ask} (h : Safe s) : Safe (s.askPeer c a) := h.askAs

theorem Safe.renewLease {uid : Nat} {core : Option Nat} {die ctx va : Nat} {x : Xlate} (h : Safe s) :
    Safe (s.renewLease uid core die ctx va x) := by
  unfold State.renewLease
  split
  · split
    · exact .ite h.askAs h
    · exact h
  · exact h

theorem Safe.spendOnce {uid : Nat} (h : Safe s) : Safe (s.spendOnce uid) := h

theorem Safe.postPeer {uid ctx va : Nat} {p : PendingStore} {bs : List Byte} (h : Safe s) :
    Safe (s.postPeer uid ctx va p bs) := by
  unfold State.postPeer
  split
  · exact .ite h.askAs h.askAs.issueWrite
  · exact h

/-! ## The operations of Machine/Sync -/

theorem Safe.applyShadow {x : Shadow} (h : Safe s) : Safe (s.applyShadow x) := .foldl h fun h => .ite h h

theorem Safe.dropShadows {launch team : BitVec 32} {bar : Nat} (h : Safe s) :
    Safe (s.dropShadows launch team bar) := h

theorem Safe.applyShadows {launch team : BitVec 32} {bar : Nat} (h : Safe s) :
    Safe (s.applyShadows launch team bar) := .dropShadows (.foldl h fun h => h.applyShadow)

theorem Safe.putBar {t : Team} {b : Nat} {x : Barrier} (h : Safe s) : Safe (s.putBar t b x) := h

theorem Safe.releaseBar {launch team : BitVec 32} {bar : Nat} {ok : Bool} (h : Safe s) :
    Safe (s.releaseBar launch team bar ok) := by
  unfold State.releaseBar
  refine .releaseWhere ?_
  split
  · exact h.putBar
  · exact h

theorem Safe.settleBar {launch team : BitVec 32} {bar : Nat} (h : Safe s) : Safe (s.settleBar launch team bar) := by
  unfold State.settleBar
  split
  · exact h
  · exact .ite h.applyShadows.putBar.releaseBar h

theorem Safe.arrive {launch team : BitVec 32} {bar : Nat} {fidx : BitVec 16} (h : Safe s) :
    Safe (s.arrive launch team bar fidx) := by
  unfold State.arrive
  split
  · exact h
  · exact h.putBar.settleBar

theorem Safe.countBytes {launch team : BitVec 32} {bar n void : Nat} (h : Safe s) :
    Safe (s.countBytes launch team bar n void) := by
  unfold State.countBytes
  split
  · exact h
  · exact .ite h.putBar.settleBar h

theorem Safe.semAdd {fn core m : Nat} {n : BitVec 32} (h : Safe s) : Safe (s.semAdd fn core m n) := .releaseWhere h

theorem Safe.parkWatches {n : Nat} (h : Safe s) : Safe (s.parkWatches n) := by
  unfold State.parkWatches
  refine .foldl h fun h => ?_
  split
  · exact .ite h h
  · exact h

theorem Safe.settleWatches (h : Safe s) : Safe s.settleWatches := .releaseWhere h

theorem Safe.readOverflow (h : Safe s) : Safe s.readOverflow := h.releaseWhere

theorem Safe.enginePut {e : EngineOp} {x : Xlate} {bs : List Byte} (h : Safe s) : Safe (s.enginePut e x bs) := by
  unfold State.enginePut
  split
  · exact h.agentWrite
  · exact h.perform
  · exact h
  · exact h

theorem Safe.putEngine {e : EngineOp} (h : Safe s) : Safe (s.putEngine e) := h

theorem Safe.sweepTeams (h : Safe s) : Safe s.sweepTeams := h

theorem Safe.leaveChannel {e : EngineOp} (h : Safe s) : Safe (s.leaveChannel e) := .ite h h

theorem Safe.dropEngine {e : EngineOp} (h : Safe s) :
    Safe (s.dropEngine e) := .wakeCharge (.sweepTeams (.of_eq rfl rfl h.leaveChannel))

theorem Safe.lastCount {e : EngineOp} {code : Nat} (h : Safe s) : Safe (s.lastCount e code) := by
  unfold State.lastCount
  dsimp only
  split
  · exact .ite h h.countBytes
  · exact h.semAdd
  · exact h

theorem Safe.endEngine {e : EngineOp} {code trap : Nat} (h : Safe s) :
    Safe (s.endEngine e code trap) := .dropEngine (.lastCount (.ite h h.enginePut))

theorem Safe.spoil {ps : List (Xlate × Nat)} (h : Safe s) : Safe (s.spoil ps) := by
  unfold State.spoil
  refine .foldl h fun h => ?_
  split
  · exact h
  · exact h.perform
  · exact h
  · exact h

/-! ## The operations of Machine/EngineEnd -/

theorem Safe.writeTarget {fn : Nat} {t : Target} {bs : List Byte} (h : Safe s) : Safe (s.writeTarget fn t bs) := by
  unfold State.writeTarget
  split
  · exact h.agentWrite
  · exact h.perform.countHost
  · exact h
  · exact h

theorem Safe.engineMove {fn : Nat} {m : EngMove} (h : Safe s) : Safe (s.engineMove fn m) := h.writeTarget

theorem Safe.finishChunk {e : EngineOp} (h : Safe s) : Safe (s.finishChunk e).1 := by
  unfold State.finishChunk
  split
  · exact h
  · extract_lets f s1
    have h1 : Safe s1 := .putEngine (.foldl h fun h => h.engineMove)
    exact .ite h1.countBytes h1

theorem Safe.finishChunks {p : EngineOp → Bool} (h : Safe s) :
    Safe (s.finishChunks p) := .foldl h fun h => h.finishChunk

theorem Safe.engineSave {e0 : EngineOp} {ev : Event} {place : Place} {status : Bool} (h : Safe s) :
    Safe (s.engineSave e0 ev place status) := by
  have h1 : Safe ((s.finishChunk e0).1.leaveChannel e0) := h.finishChunk.leaveChannel
  unfold State.engineSave
  dsimp only
  generalize (s.finishChunk e0).1.leaveChannel e0 = s1 at h1 ⊢
  exact h1

theorem Safe.engineBack {op : Nat} (h : Safe s) : Safe (s.engineBack op) := by
  unfold State.engineBack
  split
  · exact h
  · exact h

theorem Safe.enginePark {e : EngineOp} {f : PageFault} {status : Bool} (h : Safe s) :
    Safe (s.enginePark e f status) := .ite h.engineSave.parkPage.engineBack h.engineSave.parkPage

theorem Safe.engineFinish {e : EngineOp} {code trap : Nat} (h : Safe s) :
    Safe (s.engineFinish e code trap) := .of_eq rfl rfl h.serveAll.endEngine

theorem Safe.engineStop {e : EngineOp} {code trap : Nat} (h : Safe s) : Safe (s.engineStop e code trap) := by
  unfold State.engineStop
  split
  · exact .ite h.engineFinish h.enginePark
  · exact h.engineFinish

theorem Safe.engineLose {e : EngineOp} (h : Safe s) : Safe (s.engineLose e) := h.lastCount.dropEngine

theorem Safe.abortEngine {e : EngineOp} (h : Safe s) : Safe (s.abortEngine e) := .ite h (.engineStop (.spoil h))

/-! ## The operations of Machine/Writes -/

theorem Safe.issueAll {w : Writer} {request : Nat} {whole : Nat → Bool} {ws : List Write} (h : Safe s) :
    Safe (s.issueAll w request whole ws) := .foldl h fun h => h

theorem Safe.postStores {w : Writer} {request : Nat} {ws : List Write} (h : Safe s) :
    Safe (s.postStores w request ws) := .foldl h fun h => .postPeer h

theorem Safe.issueLine {w : Writer} {kind : ReqKind} {key : Loc} {ws : List Write} (h : Safe s) :
    Safe (s.issueLine w kind key ws) := by
  unfold State.issueLine
  split
  · exact h.ask.issueAll
  · exact .countHost (.issueAll h)
  · exact .postStores h

theorem Safe.issueLines {w : Writer} {kind : ReqKind} {ws : List Write} (h : Safe s) :
    Safe (s.issueLines w kind ws) := .foldl h fun h => h.issueLine

/-! ## The operations of Machine/MatrixUnit -/

theorem Safe.putPad {t : Target} {bs : List Byte} (h : Safe s) : Safe (s.putPad t bs) := by
  unfold State.putPad
  split
  · exact h
  · exact h

theorem Safe.putRow {core : Nat} {op : MatrixOp} {lane n : Nat} {dst : List Target} {elems : List Nat} (h : Safe s) :
    Safe (s.putRow core op lane n dst elems) := .issueLines (.foldl h fun h => h.putPad)

theorem Safe.markFailed {core : Nat} {op : MatrixOp} {f : Option FailedWord} (h : Safe s) :
    Safe (s.markFailed core op f) := by
  unfold State.markFailed
  split
  · exact h
  · exact .coreError h

theorem Safe.runMma {core : Nat} {op : MatrixOp} {red : Bool} {flag : Nat}
    {res : Nat → List Word32 → List (Word32 × Bool)} (h : Safe s) :
    Safe (s.runMma core op red flag res) := .markFailed h

theorem Safe.matrixRun {core : Nat} {op : MatrixOp} (h : Safe s) : Safe (s.matrixRun core op) := by
  unfold State.matrixRun
  dsimp only
  split
  · exact h.runMma
  · exact h
  · exact h
  · exact h
  · exact h
  · exact .foldl h fun h' => h'.putRow
  · exact .ite (.putCore (.foldl h fun h' => h'.putRow)) (.foldl h fun h' => h'.putRow)
  · exact h
  · exact h
  · exact h

theorem Safe.matrixExec {core : Nat} (h : Safe s) : Safe (s.matrixExec core) := by
  unfold State.matrixExec
  split
  · exact h
  · exact .matrixRun h

theorem Safe.matrixWhile {core n : Nat} {p : MatrixOp → Bool} (h : Safe s) :
    Safe (State.matrixWhile core p n s) := by
  induction n generalizing s with
  | zero => exact h
  | succ n ih => exact .ite (ih h.matrixExec) h

theorem Safe.matrixDrain {c : Cohort} (h : Safe s) : Safe (s.matrixDrain c).1 := .matrixWhile h

theorem Safe.readOutTiles {core : Nat} {tag : BitVec 32} (h : Safe s) :
    Safe (s.readOutTiles core tag).2 := .ite h.matrixWhile h.matrixWhile.putCore

theorem Safe.saveTag {core : Nat} {tag : BitVec 32} (h : Safe s) : Safe (s.saveTag core tag) := by
  have h1 : Safe (s.readOutTiles core tag).2 := h.readOutTiles
  unfold State.saveTag
  generalize s.readOutTiles core tag = p at h1 ⊢
  obtain ⟨ts, s1⟩ := p
  dsimp only
  split
  · exact h1.putRecord
  · split
    · exact h1
    · exact h1

/-! ## The operations of Machine/Exchange -/

theorem Safe.acceptFlight {x : XstFlight} (h : Safe s) : Safe (s.acceptFlight x) := by
  unfold State.acceptFlight
  split
  · exact h
  · exact h

theorem Safe.acceptFlights {xs : List XstFlight} (h : Safe s) : Safe (s.acceptFlights xs).1 := by
  induction xs generalizing s with
  | nil => exact h
  | cons x xs ih =>
    unfold State.acceptFlights
    split
    · exact h
    · split
      · exact h
      · exact ih h.acceptFlight

theorem Safe.acceptOne {c : Cohort} {xs : List XstFlight} {word : Word64} (h : Safe s) :
    Safe (s.acceptOne c xs word) := by
  have h1 : Safe (s.acceptFlights xs).1 := h.acceptFlights
  unfold State.acceptOne
  generalize s.acceptFlights xs = p at h1 ⊢
  obtain ⟨u, _ | t⟩ := p
  · exact h1.putCohort
  · exact h

theorem Safe.acceptCore {core : Nat} (h : Safe s) : Safe (s.acceptCore core) := by
  unfold State.acceptCore
  refine .foldl h fun h => ?_
  split
  · exact .ite h.acceptOne h
  · exact h

theorem Safe.spendGrant {c : Cohort} (h : Safe s) : Safe (s.spendGrant c) := .ite h h

theorem Safe.queueMisses {c : Cohort} {need : Nat} (h : Safe s) : Safe (s.queueMisses c need) := h

theorem Safe.slicesGive {core pa : Nat} (h : Safe s) : Safe (s.slicesGive core pa) := by
  unfold State.slicesGive
  extract_lets s1
  have h1 : Safe s1 := by
    unfold s1
    split
    · exact h.serveTo
    · exact h
  split
  · exact .ite h1.l2Arrive h1
  · exact h1

theorem Safe.fillL1 {core pa : Nat} (h : Safe s) : Safe (s.fillL1 core pa) := .l1Fill (.ite h.coreError h)

theorem Safe.fillReturn {core : Nat} {key : Loc} (h : Safe s) : Safe (s.fillReturn core key) := by
  unfold State.fillReturn
  extract_lets k s1 s2
  have h1 : Safe s1 := by
    unfold s1
    split
    · exact .ite h.slicesGive.fillL1 h.slicesGive
    · exact h
  exact .ite h1.giveSector.putCore h1.giveSector

theorem Safe.oldReturn {id : Nat} (h : Safe s) : Safe (s.oldReturn id) := by
  unfold State.oldReturn
  refine .drainStores ?_
  split
  · exact h.serveTo
  · exact h

theorem Safe.gather {core : Nat} {p : PendingRead → Bool} (h : Safe s) : Safe (s.gather core p) := by
  unfold State.gather
  refine .foldl (.foldl h fun h => h.fillReturn) fun h => ?_
  split
  · exact h.oldReturn
  · exact h

theorem Safe.releaseAt {core scope : Nat} {reads : PendingRead → Bool} (h : Safe s) :
    Safe (s.releaseAt core scope reads) := .ite h.gather.acceptCore.serveCore.releaseStep h.gather

/-! ## The operations of Machine/Images -/

theorem Safe.loseBay {b : BufferBay} {sev fn : Nat} (h : Safe s) :
    Safe (s.loseBay b sev fn) := .postError (.foldl h fun h' => h'.listSector)

theorem Safe.bufferOut {b : BufferBay} (h : Safe s) : Safe (s.bufferOut b) := .ite (.loseBay h) (.agentWrite h)

theorem Safe.putBay {die fn : Nat} {attic : Bool} {id bay : Nat} {bytes : List Byte} (h : Safe s) :
    Safe (s.putBay die fn attic id bay bytes) :=
  .ite h.agentWrite (.of_eq rfl rfl (.ite h (.elim h fun _ => .bufferOut h)))

theorem Safe.putImage {die fn : Nat} {attic : Bool} {id : Nat} {image : List Byte} (h : Safe s) :
    Safe (s.putImage die fn attic id image) := .foldl (.foldl h fun h => h.agentWrite) fun h => h.putBay

theorem Safe.getImage {fn : Nat} {attic : Bool} {id : Nat} (h : Safe s) :
    Safe (s.getImage fn attic id) := .foldl h fun h => h.askRange

theorem Safe.bufferEdge {ways : List Nat} (h : Safe s) : Safe (s.bufferEdge ways) := .foldl h fun h => h.bufferOut

theorem Safe.freeChains (h : Safe s) : Safe s.freeChains := h

theorem Safe.writeImages (h : Safe s) :
    Safe s.writeImages :=
  .of_eq rfl rfl (.foldl (.foldl (.foldl h fun h => .ite h h) fun h => h.putImage) fun h => h.putImage)

theorem Safe.settleImages (h : Safe s) : Safe s.settleImages := .ite (.ite h h) (.writeImages (.ite h h))

/-! ## The operations of Machine/Ops -/

theorem Safe.askLine {c : Cohort} {l : Loc} {va : Nat} (h : Safe s) : Safe (s.askLine c l va) := by
  unfold State.askLine
  split
  · exact .foldl h fun h => h.ask
  · exact h.countHost
  · exact h

theorem Safe.fetchLease {c : Cohort} {va : Nat} {x : Xlate} (h : Safe s) :
    Safe (s.fetchLease c va x) := h.renewLease.spendOnce

theorem Safe.putLine {l : Loc} {x : FetchLine} (h : Safe s) :
    Safe (s.putLine l x) := .of_eq rfl rfl (.ite h.parityError h)

theorem Safe.withPeerReqs {peerReqs : List PeerReq} (h : Safe s) : Safe { s with peerReqs } := h

theorem Safe.fetchKeep {c : Cohort} {va : Nat} (h : Safe s) : Safe (s.fetchKeep c va) := by
  unfold State.fetchKeep
  split
  · exact h
  · dsimp only
    split
    · split
      · exact .fetchLease (.askLine (.withPeerReqs h.notePaged.putLine))
      · exact h
    · exact h

theorem Safe.hold {c : Cohort} {w : Wait} (h : Safe s) : Safe (s.hold c w) := h

theorem Safe.holdPeer {c : Cohort} (h : Safe s) : Safe (s.holdPeer c) := .ite h h.hold

theorem Safe.holdDrain {c : Cohort} (h : Safe s) : Safe (s.holdDrain c) := by
  unfold State.holdDrain
  dsimp only
  split
  · exact h.holdPeer.putCohort
  · exact h.holdPeer

theorem Safe.withRelease {c : Cohort} {scope : Nat} {reads : PendingRead → Bool} {k : State → State} (h : Safe s)
    (hk : ∀ {t}, Safe t → Safe (k t)) : Safe (s.withRelease c scope reads k) := .ite h.holdPeer (hk h.releaseAt)

theorem Safe.payRelease {c : Cohort} {k : State → State} (h : Safe s) (hk : ∀ {t}, Safe t → Safe (k t)) :
    Safe (s.payRelease c k) := by
  unfold State.payRelease
  split
  · exact hk h
  · exact .ite h.holdDrain (hk (.of_eq rfl rfl h.releaseAt))

theorem Safe.awaitPeers {c : Cohort} {k : State → State} (h : Safe s) (hk : ∀ {t}, Safe t → Safe (k t)) :
    Safe (s.awaitPeers c k) := .ite h.holdDrain (hk h)

theorem Safe.countRecords {before core : Nat} {kind cause : Record → Nat} (h : Safe s) :
    Safe (s.countRecords before core kind cause) := .foldl h fun h => h.decide

theorem Safe.intoRecords {c : Cohort} {k : Cause} {ev : Fibre → Event} (h : Safe s) :
    Safe (s.intoRecords c k ev) := h.writeRecords.countRecords

theorem Safe.closeOut {c : Cohort} (h : Safe s) : Safe (s.closeOut c).1 := h.matrixDrain.releaseAt.takeReads.putCohort

theorem Safe.closing {c : Cohort} {k : State → Cohort → State} (h : Safe s) (hk : ∀ {t c}, Safe t → Safe (k t c)) :
    Safe (s.closing c k) := .ite h.matrixDrain.holdPeer (hk h.matrixDrain.closeOut)

theorem Safe.postFatals (h : Safe s) : Safe s.postFatals := .foldl h fun h => .ite h h.ringPut.signal

theorem Safe.reportFatal {fn : Nat} {d : List Byte} (h : Safe s) : Safe (s.reportFatal fn d) := .ite h (.postFatals h)

theorem Safe.sweepTiles (h : Safe s) : Safe s.sweepTiles := h

theorem Safe.finishTags {tags : List (BitVec 32)} (h : Safe s) :
    Safe (s.finishTags tags) := .foldl h fun h => h.matrixWhile

theorem Safe.sweepSplits (h : Safe s) : Safe s.sweepSplits := h

theorem Safe.dropTraces {gone : List Cohort} (h : Safe s) : Safe (s.dropTraces gone) := h

theorem Safe.endLaunch {num : BitVec 32} {status : Nat} (h : Safe s) :
    Safe (s.endLaunch num status) :=
  .wakeCharge
    (.sweepSplits
       (.sweepTiles (.dropTraces (.of_eq rfl rfl (.foldl (.foldl h.finishTags fun h => h.abortEngine) fun h => h)))))

theorem Safe.fatalRecord {r : Record} {code : TrapCode} {va : Nat} (h : Safe s) :
    Safe (s.fatalRecord r code va) := h.endLaunch.reportFatal

theorem Safe.discardBad {r : Record} (h : Safe s) : Safe (s.discardBad r) := by
  unfold State.discardBad
  refine .fatalRecord (.of_eq rfl rfl (.elim h fun _ => ?_))
  split
  · exact h.loseBay.hurryTests
  · exact h.enterError.hurryTests

theorem Safe.engineResume {op : Nat} (h : Safe s) : Safe (s.engineResume op) := by
  unfold State.engineResume
  split
  · exact h.engineBack
  · exact .ite h.getImage.engineBack (.discardBad (.of_eq rfl rfl h.getImage))

theorem Safe.fatal {c : Cohort} {code why addr : Nat} (h : Safe s) :
    Safe (s.fatal c code why addr) := h.endLaunch.reportFatal

theorem Safe.enterTrap {c0 : Cohort} {word : Word64} {t : TrapInfo} {lane : Nat} {at_ : Nat × Nat} (h : Safe s) :
    Safe (s.enterTrap c0 word t lane at_) := by
  unfold State.enterTrap
  split
  · exact .fatal h
  · exact h.intoRecords

theorem Safe.enterFailure {c : Cohort} {word : Word64} {t : TrapInfo} {low : Nat} {at_ : Nat × Nat} (h : Safe s) :
    Safe (s.enterFailure c word t low at_) := .enterTrap (.ite h.coreError h)

theorem Safe.trapTo {c0 : Cohort} {word : Word64} {t : TrapInfo} {low : Nat} {at_ : Nat × Nat} (h : Safe s) :
    Safe (s.trapTo c0 word t low at_) := by
  unfold State.trapTo
  refine h.closing fun h => ?_
  split
  · exact h.enterTrap
  · exact h.enterFailure

theorem Safe.ending {c0 : Cohort} {k : State → Cohort → State} (h : Safe s) (hk : ∀ {t c}, Safe t → Safe (k t c)) :
    Safe (s.ending c0 k) := by
  unfold State.ending
  refine h.closing fun h => ?_
  split
  · exact hk h
  · exact h.enterFailure

theorem Safe.suspendInto {c : Cohort} {k : Cause} {ev : Fibre → Event} (h : Safe s) :
    Safe (s.suspendInto c k ev) := h.ending fun h => h.intoRecords

theorem Safe.suspendHere {c : Cohort} {e : Event} (h : Safe s) : Safe (s.suspendHere c e) := h.suspendInto

theorem Safe.forceOut {c : Cohort} {cause : Nat} (h : Safe s) :
    Safe (s.forceOut c cause) := h.ending fun h => .countRecords (.ite h.writeRecords.saveTag h.writeRecords)

theorem Safe.takeTrap {c : Cohort} {word : Word64} {t : TrapInfo} {lanes : List Nat} (h : Safe s) :
    Safe (s.takeTrap c word t lanes) := h.trapTo

theorem Safe.rewalk {n die ctx : Nat} {f : PageFault} (h : Safe s) :
    Safe (s.rewalk n die ctx f) := .ite (.foldl h fun h => h.release) h

theorem Safe.faultHere {c : Cohort} {word : Word64} {f : PageFault} {lanes : List Nat} (h : Safe s) :
    Safe (s.faultHere c word f lanes) := by
  unfold State.faultHere
  refine .ite h.takeTrap (h.closing fun h => ?_)
  split
  · exact h.enterFailure
  · exact .rewalk (.parkPage (.of_eq rfl rfl h.intoRecords))

theorem Safe.fetchError {c : Cohort} {va : Nat} (h : Safe s) : Safe (s.fetchError c va) := by
  unfold State.fetchError
  split
  · exact .ite h.enterError h
  · exact h

theorem Safe.fetchFailed {c : Cohort} {word : Word64} {f : Fetched} (h : Safe s) : Safe (s.fetchFailed c word f) := by
  unfold State.fetchFailed
  split
  · exact h
  · exact h.walkNote.fetchError.takeTrap
  · exact h.walkNote.faultHere
  · exact h.askPeer.holdPeer

theorem Safe.returnRecord {c : Cohort} {lane : Nat} (h : Safe s) :
    Safe (s.returnRecord c lane) := .decide (.leaveCore h)

theorem Safe.trapReturn {c : Cohort} {word : Word64} {lane : Nat} (h : Safe s) : Safe (s.trapReturn c word lane) := by
  unfold State.trapReturn
  split
  · exact h.faultHere
  · exact h.fetchFailed
  · refine h.closing fun h => ?_
    split
    · exact h.enterFailure
    · exact .ite h.fatal h.returnRecord

theorem Safe.performed {c : Cohort} {word : Word64} (h : Safe s) : Safe (s.performed c word) := h

theorem Safe.finish {c : Cohort} {word : Word64} (h : Safe s) : Safe (s.finish c word) := h.performed

theorem Safe.transfer {c : Cohort} {word : Word64} {target : Nat} (h : Safe s) :
    Safe (s.transfer c word target) := h.performed

theorem Safe.onCohort {i : Instr} {k : Cohort → State} (h : Safe s) (hk : ∀ c, Safe (k c)) :
    SafeNext (onCohort i s k) := by
  unfold Machine.onCohort
  split
  · exact .fault
  · exact .ite (.next (hk _)) (.next h.takeTrap)

theorem Safe.issueUniform {i : Instr} {dst : Nat} {val : Cohort → Nat} (h : Safe s) :
    SafeNext (issueUniform i s dst val) := h.onCohort fun _ => h.finish

theorem Safe.issueVector {i : Instr} {v : VectorOp} {pair : Bool} {dst : Nat} {val : Cohort → Fibre → Nat}
    (h : Safe s) : SafeNext (issueVector i s v pair dst val) := by
  unfold Machine.issueVector
  refine h.onCohort fun _ => ?_
  split
  · exact h.takeTrap
  · exact h.finish

theorem Safe.issuePred {i : Instr} {v : VectorOp} {dst : Nat} {val : Cohort → Fibre → Bool} (h : Safe s) :
    SafeNext (issuePred i s v dst val) := by
  unfold Machine.issuePred
  refine h.onCohort fun _ => ?_
  split
  · exact h.takeTrap
  · exact h.finish

theorem Safe.tileStores {c : Cohort} (h : Safe s) : Safe (s.tileStores c).1 := by
  unfold State.tileStores
  dsimp only
  split
  · exact .matrixWhile h
  · exact h

theorem Safe.drained {uid pc : Nat} (h : Safe s) : Safe (s.drained uid pc) := by
  unfold State.drained
  split
  · exact .ite h h
  · exact h

theorem Safe.atStopWith {passed : Bool} {ts : Cohort → StopTraps} {i : Instr} {s0 : State} {g : Guard}
    {runs : List RegRun} {preds : List Nat} {k : State → Cohort → State} (h : Safe s0)
    (hk : ∀ {t c}, Safe t → Safe (k t c)) : SafeNext (atStopWith passed ts i s0 g runs preds k) := by
  unfold Machine.atStopWith
  refine h.onCohort fun c => ?_
  have h1 : Safe (s0.tileStores (c.atStop passed)).1 := h.tileStores
  generalize s0.tileStores (c.atStop passed) = p at h1 ⊢
  obtain ⟨s, d⟩ := p
  dsimp only
  split
  · exact h1.takeTrap
  · exact h1.takeTrap
  · exact .ite (.drained (hk h1)) (hk h1)

theorem Safe.atStop {passed : Bool} {i : Instr} {g : Guard} {runs : List RegRun} {preds : List Nat}
    {k : State → Cohort → State} (h : Safe s) (hk : ∀ {t c}, Safe t → Safe (k t c)) :
    SafeNext (atStop passed i s g runs preds k) := h.atStopWith fun h => hk h

theorem Safe.atStall {i : Instr} {g : Guard} {runs : List RegRun} {preds : List Nat} {k : State → Cohort → State}
    (h : Safe s) (hk : ∀ {t c}, Safe t → Safe (k t c)) :
    SafeNext (atStall i s g runs preds k) := h.atStop fun h => hk h

theorem Safe.ownTrap {i : Instr} {c : Cohort} {t : TrapInfo} {g : Guard} (h : Safe s) :
    Safe (s.ownTrap i c t g) := h.takeTrap

/-! ## The operations of Machine/Agents -/

theorem Safe.park {c : Cohort} {e : Nat} (h : Safe s) : Safe (s.park c e) := .fuseAll h

theorem Safe.fatalHandler {c : Cohort} (h : Safe s) : Safe (s.fatalHandler c) := h.fatal

theorem Safe.reachHeader {c : Cohort} (h : Safe s) : Safe (s.reachHeader c) := by
  unfold State.reachHeader
  refine .ite h.fatalHandler ?_
  split
  · dsimp only
    split
    · exact .ite h.fetchKeep.park h.fetchKeep.putCohort
    · exact h.fetchKeep.putCohort
  · exact h.takeTrap
  · exact h.fetchFailed

theorem Safe.resumeBlock {c : Cohort} (h : Safe s) : Safe (s.resumeBlock c) := by
  unfold State.resumeBlock
  split
  · exact h.fetchKeep.putCohort
  · exact h.fetchFailed

theorem Safe.headerStep {c : Cohort} (h : Safe s) : Safe (s.headerStep c) := .ite h.reachHeader h.resumeBlock

/-! ## The operations of Machine/Access -/

theorem Safe.walkAccs {c : Cohort} {accs : List Acc} (h : Safe s) :
    Safe (s.walkAccs c accs) := .foldl h fun h => h.walkNote

theorem Safe.failAccess {c : Cohort} {word : Word64} {a : Acc} {lanes : List Nat} (h : Safe s) :
    Safe (s.failAccess c word a lanes) := by
  unfold State.failAccess
  split
  · exact h.takeTrap
  · exact h.faultHere
  · exact h

theorem Safe.noteAccs {c : Cohort} {rd wr : Bool} {accs : List Acc} (h : Safe s) :
    Safe (s.noteAccs c rd wr accs) := .foldl h fun h => h.notePaged.renewLease

theorem Safe.askData {c : Cohort} {accs : List Acc} {kind : Acc → PeerKind} {len : Nat} {t : State} (h : Safe s)
    (ht : s.askData c accs kind len = some t) : Safe t := by
  unfold State.askData at ht
  dsimp only at ht
  split at ht
  · cases ht
  · split at ht
    · cases ht
      exact h.holdPeer
    · cases ht
      exact .holdPeer (.foldl h fun h => h.askPeer)

theorem Safe.usedPeers {c : Cohort} {accs : List Acc} (h : Safe s) : Safe (s.usedPeers c accs) := .ite h h

theorem Safe.withAccs {i : Instr} {c : Cohort} {g : Guard} {accs : List Acc} {rd wr : Bool} {len : Nat}
    {k : State → State} (h : Safe s) (hk : ∀ {t}, Safe t → Safe (k t)) :
    Safe (s.withAccs i c g accs rd wr len k) := by
  unfold State.withAccs
  split
  · exact h.walkAccs.failAccess
  · split
    · exact h.ownTrap
    · refine .ite (.holdPeer (.foldl h fun h => h.askPeer)) ?_
      split
      · exact h.ownTrap
      · exact .ite (h.payRelease fun h => hk h.noteAccs) (.ite (h.awaitPeers fun h => hk h.noteAccs) (hk h.noteAccs))

theorem Safe.enterErrors {c : Cohort} {n : Nat} {accs : List Acc} (h : Safe s) : Safe (s.enterErrors c n accs) := by
  unfold State.enterErrors
  refine .foldl h fun h' => ?_
  split
  · exact .ite h'.coreError h'
  · split
    · exact h'.enterError
    · exact h'

theorem Safe.errorTrap {i : Instr} {c : Cohort} {g : Guard} {n : Nat} {accs : List Acc} {a : Acc} (h : Safe s) :
    Safe (s.errorTrap i c g n accs a) := .ite h.holdPeer h.enterErrors.ownTrap

theorem Safe.withMisses {c : Cohort} {need : Nat} {k : State → State} (h : Safe s) (hk : ∀ {t}, Safe t → Safe (k t)) :
    Safe (s.withMisses c need k) := .ite (hk h.spendGrant) h.queueMisses

theorem Safe.settle {c : Cohort} {wr : Bool} {len : Nat} {accs : List Acc} (h : Safe s) :
    Safe (s.settle c wr len accs) := .foldl h.gather fun h => h.oldReturn

/-! ## The operations of Machine/MemOps -/

theorem Safe.relMark {c : Cohort} {w : MemWord} {accs : List Acc} {k : State → State} (h : Safe s)
    (hk : ∀ {t}, Safe t → Safe (k t)) :
    Safe (s.relMark c w accs k) :=
  .ite (hk h)
    (.ite (.awaitPeers (.of_eq rfl rfl (.ite h.gather.acceptCore h.gather)) fun h => hk h)
       (h.withRelease fun h => hk h))

theorem Safe.acqMark {c : Cohort} {w : MemWord} (h : Safe s) : Safe (s.acqMark c w) := .ite h.gather.acquireStep h

theorem Safe.atMemory {i : Instr} {w : MemWord} {runs : List RegRun} {tag : Option Nat} {k : State → Cohort → State}
    (h : Safe s) (hk : ∀ {t c}, Safe t → Safe (k t c)) :
    SafeNext (atMemory i w s runs tag k) := h.atStop fun h => .ite h.ownTrap (.ite h.finish (hk h))

theorem Safe.readNow {c : Cohort} {a : Acc} {n : Nat} (h : Safe s) : Safe (s.readNow c a n) := by
  unfold State.readNow
  split
  · exact h
  · exact h.readDone
  · exact h

theorem Safe.issueRead {c : Cohort} {w : MemWord} {id n : Nat} {kind : ReadKind} {a : Acc} (h : Safe s) :
    Safe (s.issueRead c w id n kind a) := .ite h (.readNow h)

theorem Safe.askKeys {c : Cohort} {l1 : Bool} {keys : List Loc} {accs : List Acc} (h : Safe s) :
    Safe (s.askKeys c l1 keys accs) := .foldl (.foldl h fun h' => h'.ask) fun h' => h'.countHost

theorem Safe.askLoads {c : Cohort} {l1 : Bool} {n : Nat} {accs : List Acc} (h : Safe s) :
    Safe (s.askLoads c l1 n accs) := .ite h.askKeys h.askKeys.putCore

theorem Safe.returned {i : Instr} {c : Cohort} {w : MemWord} {id : Nat} {err : Option Acc} (h : Safe s) :
    Safe (s.returned i c w id err) :=
  .ite (.finish (.of_eq rfl rfl (.acqMark (.ite h.gather h)))) (.finish (.acqMark (.ite h.gather h)))

theorem Safe.reading {i : Instr} {c : Cohort} {w : MemWord} {n : Nat} {kind : ReadKind} {accs : List Acc} (h : Safe s) :
    Safe (s.reading i c w n kind accs) := by
  unfold State.reading
  refine h.withMisses fun h => ?_
  split
  · next ht => exact h.askData ht
  · dsimp only
    split
    · exact h.settle.errorTrap
    · exact .returned (.usedPeers (.foldl h.settle.enterErrors.askLoads.fresh fun h => h.issueRead))

theorem Safe.execLd {w : MemWord} (h : Safe s) :
    SafeNext (execLd w s) := h.atMemory fun h => h.withAccs fun h' => h'.reading

theorem Safe.padStore {a : Acc} {bs : List Byte} (h : Safe s) : Safe (s.padStore a bs) := by
  unfold State.padStore
  split
  · exact h
  · exact h

theorem Safe.stores {c : Cohort} {accs : List Acc} {bytes : Acc → List Byte} (h : Safe s) :
    Safe (s.stores c accs bytes) := .issueLines (.foldl h fun h => h.padStore)

theorem Safe.execSt {w : MemWord} (h : Safe s) : SafeNext (execSt w s) := by
  unfold Machine.execSt
  refine h.atMemory fun h => h.withAccs fun h' => ?_
  split
  · exact h'.errorTrap
  · exact h'.relMark fun h' => h'.withMisses fun h' => h'.settle.enterErrors.stores.spendOnce.finish

theorem Safe.prefetch {core : Nat} {a : Acc} (h : Safe s) : Safe (s.prefetch core a) := by
  unfold State.prefetch
  split
  · exact .ite h h.slicesGive.fillL1
  · exact h

theorem Safe.execPref {w : MemWord} (h : Safe s) :
    SafeNext (execPref w s) :=
  h.atStopWith fun h => .ite h.finish (.finish (.ite (.foldl h.askKeys fun h => h.prefetch) h.askKeys))

theorem Safe.padRmw {a : Acc} {op : WriteOp} (h : Safe s) : Safe (s.padRmw a op).2 := by
  unfold State.padRmw
  split
  · exact h
  · exact h

theorem Safe.rmws {c : Cohort} {op : Acc → WriteOp} {accs : List Acc}
    {note : State → Acc → ReadKind → Option (List Byte) → State} (h : Safe s)
    (hnote : ∀ {t x1 x2 x3}, Safe t → Safe (note t x1 x2 x3)) : Safe (s.rmws c op accs note) := by
  unfold State.rmws
  refine .foldl h.issueLines fun h' => ?_
  split
  · exact hnote h'.padRmw
  · exact hnote h'
  · split
    · exact hnote h'
    · exact h'
  · exact h'

theorem Safe.rmwNow {c : Cohort} {a : Acc} {op : WriteOp} (h : Safe s) : Safe (s.rmwNow c a op) := by
  unfold State.rmwNow
  split
  · exact h.padRmw
  · exact .foldl h.issueLines fun h => h.oldReturn

theorem Safe.atomics {i : Instr} {c : Cohort} {w : MemWord} {op : AtomicOp} {accs : List Acc} {err : Option Acc}
    (h : Safe s) :
    Safe (s.atomics i c w op accs err) :=
  .ite (.finish (.acqMark (.usedPeers (h.rmws fun h => h)))) (.returned (.usedPeers (h.fresh.rmws fun h' => h')))

theorem Safe.execAtomic {i : Instr} {w : MemWord} {op : AtomicOp} (h : Safe s) : SafeNext (execAtomic i w op s) := by
  unfold Machine.execAtomic
  refine h.atMemory fun h => h.withAccs fun h => h.relMark fun h => h.withMisses fun h => ?_
  split
  · next ht => exact h.askData ht
  · dsimp only
    split
    · exact h.settle.errorTrap
    · exact h.settle.enterErrors.atomics

theorem Safe.execXadd {w : MemWord} (h : Safe s) :
    SafeNext (execXadd w s) :=
  h.atMemory fun h =>
    h.withAccs fun h' => h'.relMark fun h' => h'.withMisses fun h' => .finish (h'.settle.enterErrors.rmws fun h => h)

theorem Safe.execXrd {w : MemWord} (h : Safe s) :
    SafeNext (execXrd w s) := h.atMemory fun h => h.withAccs fun h' => h'.reading

theorem Safe.execXst {w : MemWord} (h : Safe s) :
    SafeNext (execXst w s) :=
  h.atMemory fun h => .ite h.finish (.ite h.ownTrap (h.withAccs fun h' => h'.withMisses fun h' => h'.hold))

theorem Safe.acquireAll {c : Cohort} {scope : Nat} (h : Safe s) : Safe (s.acquireAll c scope) := h.gather.acquireStep

theorem Safe.execFence {w : MemWord} (h : Safe s) :
    SafeNext (execFence w s) := h.atStall fun h => .finish (.ite (.acquireAll (.ite h h)) (.ite h h))

theorem Safe.completeAll {c : Cohort} {k : State → State} (h : Safe s) (hk : ∀ {t}, Safe t → Safe (k t)) :
    Safe (s.completeAll c k) := .ite h.holdDrain (hk (.of_eq rfl rfl h.releaseAt.drainCore))

theorem Safe.execFenceSc {w : MemWord} (h : Safe s) :
    SafeNext (execFenceSc w s) := h.atStall fun h => h.completeAll fun h => h

theorem Safe.withResume {i : Instr} {c0 : Cohort} {g : Guard} {k : State → Cohort → Header → State} (h : Safe s)
    (hk : ∀ {t c hd}, Safe t → Safe (k t c hd)) : Safe (s.withResume i c0 g k) := by
  have h1 : Safe (s.matrixDrain c0).1 := h.matrixDrain
  unfold State.withResume
  generalize s.matrixDrain c0 = p at h1 ⊢
  obtain ⟨s1, c⟩ := p
  dsimp only
  split
  · exact h1.ownTrap
  · refine .ite h1.holdPeer (.ite h1.ownTrap ?_)
    split
    · exact h1.fetchFailed
    · exact h1.ownTrap
    · exact .ite (hk h1) h1.ownTrap

theorem Safe.suspendNext {c : Cohort} {hd : Header} {ev : Fibre → Event} (h : Safe s) :
    Safe (s.suspendNext c hd ev) := h.suspendInto

theorem Safe.execFenceScPod {w : MemWord} (h : Safe s) :
    SafeNext (execFenceScPod w s) := h.atStall fun h => h.withResume fun h => h.completeAll fun h => h.suspendNext

theorem Safe.execFenceFmt {w : MemWord} (h : Safe s) :
    SafeNext (execFenceFmt w s) :=
  h.atStall fun h => h.withResume fun h => h.completeAll fun h => .ite h.acquireAll.finish (.suspendNext h)

/-! ## The operations of Machine/Control -/

theorem Safe.atControl {i : Instr} {g : Guard} {k : State → Cohort → State} {preds : List Nat} (h : Safe s)
    (hk : ∀ {t c}, Safe t → Safe (k t c)) :
    SafeNext (atControl i s g k preds) := .ite (h.atStall fun h => hk h) (h.onCohort fun _ => h.takeTrap)

theorem Safe.toHeader {i : Instr} {c : Cohort} {g : Guard} {target : Nat} {k : Header → State} (h : Safe s)
    (hk : ∀ x0, Safe (k x0)) : Safe (s.toHeader i c g target k) := by
  unfold State.toHeader
  split
  · exact hk _
  · exact h.ownTrap
  · exact h.fetchFailed

theorem Safe.jump {i : Instr} {c : Cohort} {target : Nat} (h : Safe s) :
    Safe (s.jump i c target) := h.toHeader fun _ => h.transfer

theorem Safe.execBra {w : CtlWord} (h : Safe s) : SafeNext (execBra w s) := h.atControl fun h => h.jump

theorem Safe.execBrc {w : CtlWord} (h : Safe s) : SafeNext (execBrc w s) := h.atControl fun h => .ite h.jump h.finish

theorem Safe.splitInto {word : Word64} {c : Cohort} {taken : List Nat} {target slot : Nat} {entry : Option Nat}
    (h : Safe s) : Safe (s.splitInto word c taken target slot entry) := .finish (.performed h)

theorem Safe.split {i : Instr} {c : Cohort} {taken : List Nat} {target : Nat} (h : Safe s) :
    Safe (s.split i c taken target) := by
  unfold State.split
  split
  · exact h.hold
  · refine .ite ?_ ?_
    · refine .splitInto ?_
      split
      · exact h
      · exact h
    · split
      · exact h.hold
      · exact .splitInto h

theorem Safe.execBrv {w : CtlWord} (h : Safe s) :
    SafeNext (execBrv w s) := h.atControl fun h => .ite h.jump (.ite h.finish (h.toHeader fun _ => h.split))

theorem Safe.deliver {c : Cohort} (h : Safe s) : Safe (s.deliver c).1 := .takeReads (.gather (.matrixWhile h))

theorem Safe.callTo {i : Instr} {c : Cohort} {target k : Nat} (h : Safe s) :
    Safe (s.callTo i c target k) :=
  h.toHeader fun _ => .ite h.ownTrap (.ite h.ownTrap (.ite h.transfer h.deliver.fresh.spillFrames.transfer))

theorem Safe.execCall {w : CtlWord} (h : Safe s) : SafeNext (execCall w s) := h.atControl fun h => h.callTo

theorem Safe.execCallr {w : CtlWord} (h : Safe s) :
    SafeNext (execCallr w s) := h.atControl fun h => .ite h.ownTrap h.callTo

theorem Safe.execRet {w : CtlWord} (h : Safe s) : SafeNext (execRet w s) := by
  unfold Machine.execRet
  refine h.atControl fun h => .ite h.ownTrap (.ite h.ownTrap (h.toHeader fun _ => .ite h.transfer ?_))
  split
  · exact .ite h.holdPeer h.enterError.ownTrap
  · exact .transfer (.wakeCharge (.putCohort (.foldl h.deliver fun h => h.getImage.leaveAttic)))

theorem Safe.execJtab {w : CtlWord} (h : Safe s) :
    SafeNext (execJtab w s) := h.atControl fun h => .ite h.jump h.finish

theorem Safe.exitFibre {c : Cohort} {accs : List Acc} {f : Fibre} (h : Safe s) : Safe (s.exitFibre c accs f) := by
  unfold State.exitFibre
  refine .foldl (.of_eq rfl rfl ?_) fun h => h
  split
  · exact h.releaseAt.rmwNow
  · exact h.releaseAt

theorem Safe.removeLanes {i : Instr} {c : Cohort} {gone : List Nat} (h : Safe s) : Safe (s.removeLanes i c gone) := by
  unfold State.removeLanes
  refine .wakeCharge (.sweepTeams (.ite h.leaveCore.sweepTiles.sweepTeams (.finish ?_)))
  split
  · exact h
  · exact h

theorem Safe.execExitW {w : CtlWord} (h : Safe s) : SafeNext (execExitW w s) := by
  unfold Machine.execExitW
  refine h.atStall fun {t c0} h => .ite h.finish ?_
  have h1 : Safe (t.matrixDrain c0).1 := h.matrixDrain
  generalize t.matrixDrain c0 = p at h1 ⊢
  obtain ⟨s1, c⟩ := p
  dsimp only
  split
  · exact h1.ownTrap
  · exact h1.withAccs fun h => h.withRelease fun h => h.withMisses fun h =>
      .removeLanes (.foldl h.enterErrors fun h => h.exitFibre)

theorem Safe.execTrap {w : CtlWord} (h : Safe s) :
    SafeNext (execTrap w s) := h.atStall fun h => .ite h.finish (.ite h.trapReturn h.ownTrap)

theorem Safe.execBrk {w : CtlWord} (h : Safe s) :
    SafeNext (execBrk w s) := h.atStall fun h => .ite h.finish (.ite h.holdPeer h.trapTo)

theorem Safe.execNop {w : CtlWord} (h : Safe s) : SafeNext (execNop w s) := h.atStall fun h => h.finish

theorem Safe.execYield {w : CtlWord} (h : Safe s) :
    SafeNext (execYield w s) := h.atStall fun h => h.withResume fun h => .ite h.finish h.suspendNext

/-! ## The operations of Machine/SyncWords -/

theorem Safe.atSync {i : Instr} {w : SynWord} {runs : List RegRun} {preds : List Nat} {k : State → Cohort → State}
    (h : Safe s) (hk : ∀ {t c}, Safe t → Safe (k t c)) :
    SafeNext (atSync i w s runs preds k) := h.atStall fun h => .ite h.finish (hk h)

theorem Safe.releaseFor {c : Cohort} {scope : Nat} {g : Guard} {k : State → State} (h : Safe s)
    (hk : ∀ {t}, Safe t → Safe (k t)) :
    Safe (s.releaseFor c scope g k) := h.payRelease fun h => h.withRelease fun h => hk h

theorem Safe.atWait {i : Instr} {w : SynWord} {runs : List RegRun} {preds : List Nat}
    {k : State → Cohort → Header → State} (h : Safe s) (hk : ∀ {t c x2}, Safe t → Safe (k t c x2)) :
    SafeNext (atWait i w s runs preds k) := h.atStopWith fun h => h.withResume fun h => .ite h.finish (hk h)

theorem Safe.execBarInit {w : SynWord} (h : Safe s) : SafeNext (execBarInit w s) := by
  unfold Machine.execBarInit
  refine h.atSync fun h => ?_
  dsimp only
  split
  · exact h.ownTrap
  · exact .ite h.ownTrap (.ite h.ownTrap h.putBar.dropShadows.finish)

theorem Safe.execBarArrive {w : SynWord} (h : Safe s) : SafeNext (execBarArrive w s) := by
  unfold Machine.execBarArrive
  refine h.atSync fun h => ?_
  dsimp only
  split
  · exact h.ownTrap
  · exact h.releaseFor fun h => .finish (.foldl h fun h => h.arrive)

theorem Safe.markWaited {c : Cohort} {bar : Nat} {f : Fibre} (h : Safe s) : Safe (s.markWaited c bar f) := by
  unfold State.markWaited
  split
  · exact h.putBar
  · exact h

theorem Safe.markRecords {n pd : Nat} {watch : Record → Option WatchCond} (h : Safe s) :
    Safe (s.markRecords n pd watch) := h

theorem Safe.completeWait {c : Cohort} {bar : Nat} {done : List (Nat × Bool)} {f : Fibre} (h : Safe s) :
    Safe (s.completeWait c bar done f).1 := h.markWaited

/-- A fold over states with a second component. -/
theorem Safe.foldl_fst {α β : Type} {f : State × β → α → State × β} {x : State × β} {xs : List α}
    (h : Safe x.1) (hf : ∀ {y a}, Safe y.1 → Safe (f y a).1) : Safe (xs.foldl f x).1 := by
  induction xs generalizing x with
  | nil => exact h
  | cons a xs ih => exact ih (hf h)

theorem Safe.waitOne {c : Cohort} {bar : Nat} {x : Waits} {f : Fibre} (h : Safe x.1) : Safe (waitOne c bar x f).1 := by
  unfold Machine.waitOne
  obtain ⟨s, done, held⟩ := x
  dsimp only
  generalize hy : (if s.waitDone c bar f then _ else _ : Waits) = y
  have h1 : Safe y.1 := by
    rw [← hy]
    split
    · exact Safe.completeWait (s := s) (done := done) h
    · exact h
  split
  · exact Safe.foldl_fst (f := fun y g => State.completeWait y.1 c bar y.2 g) h1.settleBar fun h => h.completeWait
  · exact h1

theorem Safe.execBarWait {w : SynWord} (h : Safe s) : SafeNext (execBarWait w s) := by
  unfold Machine.execBarWait
  refine h.atWait fun {s1 c hd} h => ?_
  dsimp only
  split
  · exact h.ownTrap
  · have h1 : Safe ((c.active w.guard).foldl (Machine.waitOne c w.bar.toNat) (s1, [], [])).1 :=
      .foldl_fst h fun h => h.waitOne
    generalize (c.active w.guard).foldl (Machine.waitOne c w.bar.toNat) (s1, [], []) = x at h1 ⊢
    exact .ite h1.acquireAll.finish (.markRecords h1.suspendNext)

theorem Safe.execBarInval {w : SynWord} (h : Safe s) : SafeNext (execBarInval w s) := by
  unfold Machine.execBarInval
  refine h.atSync fun h => ?_
  dsimp only
  split
  · exact h.ownTrap
  · exact .ite h.ownTrap (h.releaseFor fun h => h.putBar.dropShadows.releaseBar.finish)

theorem Safe.execSemInc {w : SynWord} (h : Safe s) :
    SafeNext (execSemInc w s) := h.atSync fun h => h.releaseFor fun h => h.semAdd.finish

theorem Safe.execSemWait {w : SynWord} (h : Safe s) :
    SafeNext (execSemWait w s) := h.atWait fun h => .ite h.acquireAll.finish h.suspendNext

theorem Safe.watchRead {c : Cohort} {n : Nat} {accs : List Acc} {k : State → State} (h : Safe s)
    (hk : ∀ {t}, Safe t → Safe (k t)) :
    Safe (s.watchRead c n accs k) :=
  h.withMisses fun h =>
    hk (.foldl (.foldl (.askLoads (.foldl h.settle fun h => h.performOwn)) fun h => h.fillReturn) fun h => h.sawLast)

theorem Safe.suspendWatch {c : Cohort} {hd : Header} {ev : Fibre → Event} {cond : Record → Option WatchCond}
    (h : Safe s) : Safe (s.suspendWatch c hd ev cond) := h.settleWatches.suspendNext.markRecords.parkWatches

theorem Safe.execWaitv {w : SynWord} (h : Safe s) : SafeNext (execWaitv w s) := by
  unfold Machine.execWaitv
  refine h.atWait fun h => h.withAccs fun h' => ?_
  split
  · exact h'.errorTrap
  · exact h'.watchRead fun h' => .ite h'.acquireAll.finish h'.suspendWatch

theorem Safe.spawnRecord {c : Cohort} {entry cnt : Nat} {kept : Bool} {kids : List Fibre} (h : Safe s) :
    Safe (s.spawnRecord c entry cnt kept kids) := h

theorem Safe.spawnNow {c : Cohort} {w : SynWord} {entry : Nat} {kept : Bool} {accs : List Acc} (h : Safe s) :
    Safe (s.spawnNow c w entry kept accs) :=
  .ite h.finish
    (h.releaseFor fun h' =>
       h'.withMisses fun h' => .finish (.spawnRecord (.foldl h'.enterErrors fun h' => .rmwNow h')))

theorem Safe.execSpawn {w : SynWord} (h : Safe s) :
    SafeNext (execSpawn w s) :=
  h.atSync fun h =>
    .ite h.ownTrap
      (.ite h.ownTrap (h.toHeader fun _ => .ite h.ownTrap (h.withAccs fun h' => .ite h'.ownTrap h'.spawnNow)))

theorem Safe.execJoinW {w : SynWord} (h : Safe s) : SafeNext (execJoinW w s) := by
  unfold Machine.execJoinW
  refine h.atWait fun h => h.withAccs fun h' => ?_
  split
  · exact h'.acquireAll.finish
  · exact .ite h'.errorTrap (h'.watchRead fun h => .ite h.acquireAll.finish h.suspendWatch)

theorem Safe.execLwait {w : SynWord} (h : Safe s) : SafeNext (execLwait w s) := by
  unfold Machine.execLwait
  refine h.atStall fun h => ?_
  dsimp only
  split
  · exact .ite (.holdPeer (.takeReads (.gather (.matrixWhile h)))) (.takeTrap (.takeReads (.gather (.matrixWhile h))))
  · exact .finish (.takeReads (.gather (.matrixWhile h)))

/-! ## The operations of Machine/EngineWords -/

theorem Safe.execEngine {i : Instr} {w : SynWord} {op : Nat} {s0 : State} (h : Safe s0) :
    SafeNext (execEngine i w op s0) :=
  h.atSync fun h =>
    .ite h.ownTrap (.ite h.ownTrap (.ite h.ownTrap (.ite h (.ite h.suspendHere (h.payRelease fun h => .finish h)))))

theorem Safe.readSectors {c : Cohort} {n : Nat} {accs : List Acc} (h : Safe s) :
    Safe (s.readSectors c n accs) := .foldl h.askLoads fun h => h.fillReturn

theorem Safe.execEngQ {w : SynWord} {s0 : State} (h : Safe s0) : SafeNext (execEngQ w s0) := by
  unfold Machine.execEngQ
  refine h.atSync fun h => .ite h ?_
  split
  · exact h
  · refine h.withAccs fun h => h.withMisses fun h => ?_
    split
    · next ht => exact h.askData ht
    · split
      · exact h.errorTrap
      · exact .usedPeers (.foldl h.settle.readSectors fun h => h.readNow)

/-! ## The operations of Machine/Events -/

theorem Safe.onSubject {ok : Bool} {t : State} (h : Safe s) (ht : Safe t) :
    SafeNext (onSubject s ok t) := .next (.ite ht h)

theorem Safe.onFound {α : Type _} {x : Option α} {k : α → State} (h : Safe s) (hk : ∀ x0, Safe (k x0)) :
    SafeNext (onFound s x k) := .next (.elim h fun _ => hk _)

theorem Safe.onWrite {ok : Bool} {t : State} (h : Safe s) (ht : Safe t) :
    SafeNext (onWrite ok s t) := .onSubject h (.ite ht h)

/-! ## The operations of Machine/EngineRun -/

theorem Safe.engineBlocked {e : EngineOp} {x : EngRead} (h : Safe s) : Safe (s.engineBlocked e x) := by
  unfold State.engineBlocked
  split
  · exact h
  · refine .engineStop ?_
    split
    · exact h.enterError
    · exact h.walkNote
  · exact .ite h.walkNote.engineStop h.walkNote.enginePark
  · exact .askAs h

theorem Safe.engineNote {e : EngineOp} {va n : Nat} {store : Bool} (h : Safe s) :
    Safe (s.engineNote e va n store) := h.notePaged.renewLease

theorem Safe.engineAsk {e : EngineOp} {va n : Nat} (h : Safe s) : Safe (s.engineAsk e va n) := by
  unfold State.engineAsk
  refine .foldl h fun h => ?_
  split
  · exact h.askRange
  · exact h.countHost
  · exact h

theorem Safe.engineReads {e : EngineOp} {va n : Nat} (h : Safe s) :
    Safe (s.engineReads e va n) := .foldl h fun h => h.engineAsk.engineNote

theorem Safe.collTake {fn group rank : Nat} (h : Safe s) : Safe (s.collTake fn group rank) := h

theorem Safe.collAbortAll {e : EngineOp} {d : List Byte} {seq : Nat} (h : Safe s) :
    Safe (s.collAbortAll e d seq) := .foldl h fun h' => .ite h' h'

theorem Safe.collSend {e : EngineOp} {k : State → EngineOp → State} (h : Safe s)
    (hk : ∀ {t x1}, Safe t → Safe (k t x1)) : Safe (s.collSend e k) := by
  unfold State.collSend
  refine .ite (hk h) ?_
  split
  · exact hk h.engineReads.putEngine
  · exact h.engineBlocked

theorem Safe.collRun {e : EngineOp} {k : State → EngineOp → State} (h : Safe s)
    (hk : ∀ {t x1}, Safe t → Safe (k t x1)) : Safe (s.collRun e k) := by
  unfold State.collRun
  refine .ite (h.collSend fun h => hk h) ?_
  split
  · exact .ite h.engineReads.collTake.collAbortAll.engineStop
        (h.engineReads.collTake.putEngine.collSend fun h => hk h)
  · exact h.engineBlocked

theorem Safe.beginChunk {e : EngineOp} (h : Safe s) : Safe (s.beginChunk e).1 := by
  unfold State.beginChunk
  extract_lets data f s1
  have h1 : Safe s1 := .foldl h fun h =>
    .engineNote (.ite (.elim h fun _ => h.engineReads) (.engineReads (.elim h fun _ => h.engineReads)))
  clear_value s1
  exact .putEngine (.of_eq rfl rfl h1)

theorem Safe.engineChunk {e : EngineOp} (h : Safe s) : Safe (s.engineChunk e) := by
  unfold State.engineChunk
  refine .ite h.finishChunk ?_
  split
  · exact h.engineStop
  · split
    · exact h.engineBlocked
    · exact h.beginChunk.finishChunk

theorem Safe.engineDrift {e0 : EngineOp} (h : Safe s) : Safe (s.engineDrift e0) := by
  unfold State.engineDrift
  refine .ite h (.ite (.ite h h.beginChunk) ?_)
  dsimp only
  split
  · exact .ite h (.engineMove h)
  · exact h

theorem Safe.enginesDrift (h : Safe s) : Safe s.enginesDrift := .foldl h fun h => h.engineDrift

theorem Safe.execEngineChunkDone {op : Nat} (h : Safe s) : SafeNext (execEngineChunkDone op s) := by
  unfold Machine.execEngineChunkDone
  refine h.onFound fun _ => .ite (h.collRun fun h => ?_) h.engineChunk
  split
  · exact .ite h.engineChunk h
  · exact h.engineBlocked

theorem Safe.execEngineOpDone {op : Nat} (h : Safe s) :
    SafeNext (execEngineOpDone op s) := h.onFound fun _ => h.engineStop

theorem Safe.execEngineCheckpoint {op : Nat} (h : Safe s) :
    SafeNext (execEngineCheckpoint op s) := h.onFound fun _ => h.engineSave

theorem Safe.settleEngines (h : Safe s) : Safe s.settleEngines := by
  unfold State.settleEngines
  refine .foldl h fun h => ?_
  split
  · exact .ite h h.engineResume
  · exact h

theorem Safe.collExchange {e : EngineOp} {d : List Byte} {peer : Nat} {data : List Byte} (h : Safe s) :
    Safe (s.collExchange e d peer data) := by
  unfold State.collExchange
  refine .ite ?_ h
  split
  · exact h
  · exact h

theorem Safe.execCollectiveData {op peer : Nat} {data : List Byte} (h : Safe s) :
    SafeNext (execCollectiveData op peer data s) := by
  unfold Machine.execCollectiveData
  refine h.onFound fun _ => h.collRun fun h => ?_
  split
  · exact .ite h (.ite h.abortEngine h.collExchange)
  · exact h.engineBlocked

theorem Safe.execCollectiveStageDone {op : Nat} (h : Safe s) :
    SafeNext (execCollectiveStageDone op s) := h.onFound fun _ => .ite h.engineSave (.ite h.engineSave h)

theorem Safe.execCollectiveAbort {op : Nat} (h : Safe s) :
    SafeNext (execCollectiveAbort op s) := h.onFound fun _ => .ite (.engineStop h) (h.collRun fun h => h.engineStop)

/-! ## The operations of Machine/MemEvents -/

theorem Safe.execDramRefresh {bank : BankId} (h : Safe s) : SafeNext (execDramRefresh bank s) := .onSubject h h

theorem Safe.execRowIdleClose {bank : BankId} (h : Safe s) :
    SafeNext (execRowIdleClose bank s) := h.onFound fun _ => h

theorem Safe.execSliceRequest {fn pa : Nat} {store : Bool} (h : Safe s) :
    SafeNext (execSliceRequest fn pa store s) := h.onFound fun _ => h.serveTo

theorem Safe.execSectorFill {pa : Nat} (h : Safe s) : SafeNext (execSectorFill pa s) := h.onFound fun _ => h.l2Arrive

theorem Safe.execL1Fill {core pa : Nat} (h : Safe s) : SafeNext (execL1Fill core pa s) := .onSubject h h.fillReturn

theorem Safe.execStoreAck {core : Nat} {loc : Loc} (h : Safe s) :
    SafeNext (execStoreAck core loc s) := h.onFound fun _ => h.serveTo.drainStores

theorem Safe.execMissStatusGrant {core : Nat} (h : Safe s) :
    SafeNext (execMissStatusGrant core s) := h.onFound fun _ => h

theorem Safe.execRetryReissue {uid : Nat} (h : Safe s) : SafeNext (execRetryReissue uid s) := h.onFound fun _ => h

theorem Safe.execLanding {uid tag : Nat} (h : Safe s) : SafeNext (execLanding uid tag s) := by
  unfold Machine.execLanding
  refine h.onFound fun p => ?_
  have h1 : Safe ((s.gather p.1.core fun r => r.ofLanding p.1 p.2).takeReads p.1 fun l => l.id == p.2.id).1 :=
    h.gather.takeReads
  generalize (s.gather p.1.core fun r => r.ofLanding p.1 p.2).takeReads p.1 (fun l => l.id == p.2.id) = x at h1 ⊢
  obtain ⟨t, c⟩ := x
  dsimp only
  split
  · exact h1.putCohort
  · exact h1

theorem Safe.raiseRefused {c : Cohort} {code : Nat} (h : Safe s) : Safe (s.raiseRefused c code) := h.takeTrap

theorem Safe.execXstAccept {uid : Nat} (h : Safe s) : SafeNext (execXstAccept uid s) := by
  unfold Machine.execXstAccept
  refine h.onFound fun c => ?_
  split
  · exact h.raiseRefused
  · next xs w _ =>
    extract_lets t
    have h1 : Safe t := h.acceptOne
    clear_value t
    split
    · split
      · exact h1.raiseRefused
      · exact h1
    · exact h1
  · exact h

theorem Safe.execHashOpen {die : Nat} (h : Safe s) :
    SafeNext (execHashOpen die s) := .onWrite h (.ite h.regSet h.regSet)

theorem Safe.execHashReady {die : Nat} (h : Safe s) :
    SafeNext (execHashReady die s) :=
  .onSubject h (.regSet (.of_eq rfl rfl h.drainStores.serveWhere.fillAll.l2Flush.dramQuiet))

theorem Safe.undefRange {lo hi : Nat} (h : Safe s) : Safe (s.undefRange lo hi) := h

theorem Safe.execHashMaskWrite {die reg : Nat} {val : Word64} (h : Safe s) :
    SafeNext (execHashMaskWrite die reg val s) := .onWrite h (.ite h.regSet (.ite h (.of_eq rfl rfl h.setReg)))

theorem Safe.execHashClose {die : Nat} (h : Safe s) : SafeNext (execHashClose die s) := .onWrite h h.regClear

theorem Safe.execFormatWindowEnable {win : Nat} (h : Safe s) :
    SafeNext (execFormatWindowEnable win s) := .onWrite h (.ite h (.ite h.regSet h.l2Flush.regSet))

theorem Safe.execFormatWindowActive {win : Nat} (h : Safe s) :
    SafeNext (execFormatWindowActive win s) := .onSubject h h.regSet

theorem Safe.execFormatWindowDisable {win : Nat} (h : Safe s) :
    SafeNext (execFormatWindowDisable win s) :=
  .onWrite h (.ite h (.ite h.regSet h.drainStores.flushViews.regClear.regClear.undefRange))

theorem Safe.execFormatFlushDone {seq : Nat} (h : Safe s) : SafeNext (execFormatFlushDone seq s) := by
  have h1 : Safe (s.flushViews fun _ => true) := h.flushViews
  exact .onSubject h (.releaseWhere h1)

/-! ## The operations of Machine/MatrixWords -/

theorem Safe.atTile {i : Instr} {w : MmaWord} {s0 : State} {runs : List RegRun} {preds : List Nat} {tag : Option Nat}
    {k : State → Cohort → Nat → State} (h : Safe s0) (hk : ∀ {t c x2}, Safe t → Safe (k t c x2)) :
    SafeNext (atTile i w s0 runs preds tag k) := by
  unfold Machine.atTile
  refine h.atStop fun h => .ite h.ownTrap ?_
  split
  · exact h.ownTrap
  · exact hk h

theorem Safe.queueRoom {core n : Nat} (h : Safe s) : Safe (State.queueRoom core n s) := by
  induction n generalizing s with
  | zero => exact h
  | succ n ih => exact .ite (ih h.matrixExec) h

theorem Safe.accept {c0 : Cohort} {word : Word64} {handle tile : Nat} {lanes : List Nat} {tagOut : Option Nat}
    {mark : Nat → Cohort → Cohort} {kind : MatrixKind} (h : Safe s) :
    Safe (s.accept c0 word handle tile lanes tagOut mark kind) := .finish (.putCore (.fresh (.queueRoom h)))

theorem Safe.withStoreBuffer {c : Cohort} {k : State → Cohort → State} (h : Safe s)
    (hk : ∀ {t c}, Safe t → Safe (k t c)) :
    Safe (s.withStoreBuffer c k) :=
  .ite (.holdPeer (.drainStores (.foldl (.matrixWhile h) fun h => h.serveTo)))
    (hk (.drainStores (.foldl (.matrixWhile h) fun h => h.serveTo)))

theorem Safe.withLoadBuffer {c : Cohort} {k : State → Cohort → State} (h : Safe s)
    (hk : ∀ {t c}, Safe t → Safe (k t c)) : Safe (s.withLoadBuffer c k) := hk (.matrixWhile h)

theorem Safe.execMma {w : MmaWord} {s0 : State} (h : Safe s0) : SafeNext (execMma w s0) := by
  unfold Machine.execMma
  refine h.atTile fun h => ?_
  dsimp only
  split
  · exact h.ownTrap
  · refine .ite h.finish ?_
    split
    · exact h.enterErrors.ownTrap
    · exact h.accept

theorem Safe.evictTag {core : Nat} {tag : BitVec 32} (h : Safe s) : Safe (s.evictTag core tag) := h.saveTag

theorem Safe.giveTile {c : Cohort} {word : Word64} {hd tile : Nat} (h : Safe s) :
    Safe (s.giveTile c word hd tile) := .accept h

theorem Safe.execTileAlloc {w : MmaWord} {s0 : State} (h : Safe s0) : SafeNext (execTileAlloc w s0) := by
  unfold Machine.execTileAlloc
  refine h.atStall fun h => .ite h.ownTrap (.ite h.suspendHere ?_)
  split
  · exact h.giveTile
  · split
    · exact h.forceOut
    · exact .giveTile (.evictTag h)

theorem Safe.execTileFree {w : MmaWord} {s0 : State} (h : Safe s0) :
    SafeNext (execTileFree w s0) := h.atTile fun h => .wakeCharge (.accept h)

theorem Safe.rowWord {i : Instr} {c : Cohort} {w : MmaWord} {tile : Nat} {kind : List Fibre → MatrixKind}
    (h : Safe s) : Safe (s.rowWord i c w tile kind) := .ite h.finish h.accept

theorem Safe.execTileZero {w : MmaWord} {s0 : State} (h : Safe s0) :
    SafeNext (execTileZero w s0) := h.atTile fun h => h.rowWord

theorem Safe.execTileMov {w : MmaWord} {s0 : State} (h : Safe s0) : SafeNext (execTileMov w s0) := by
  unfold Machine.execTileMov
  refine h.atTile fun h => ?_
  split
  · exact h.ownTrap
  · exact h.rowWord

theorem Safe.execTileRd {w : MmaWord} {s0 : State} (h : Safe s0) :
    SafeNext (execTileRd w s0) := h.atTile fun h => h.accept

theorem Safe.execTileWr {w : MmaWord} {s0 : State} (h : Safe s0) :
    SafeNext (execTileWr w s0) := h.atTile fun h => h.rowWord

theorem Safe.bufferReads {c : Cohort} {n : Nat} {accs : List Acc} (h : Safe s) : Safe (s.bufferReads c n accs) := by
  unfold State.bufferReads
  refine .foldl h.askKeys fun h => ?_
  split
  · exact h.slicesGive
  · exact h

theorem Safe.buffered {c : Cohort} {n : Nat} {accs : List Acc} (h : Safe s) :
    Safe (s.buffered c n accs) := .usedPeers (.foldl h fun h => h.readNow)

theorem Safe.execTileLd {w : MmaWord} {s0 : State} (h : Safe s0) : SafeNext (execTileLd w s0) := by
  unfold Machine.execTileLd
  refine h.atTile fun h => ?_
  dsimp only
  split
  · exact h.ownTrap
  · refine h.withAccs fun h => h.withLoadBuffer fun h => ?_
    split
    · next ht => exact h.askData ht
    · split
      · exact h.enterErrors.ownTrap
      · exact h.settle.bufferReads.buffered.rowWord

theorem Safe.execTileSt {w : MmaWord} {s0 : State} (h : Safe s0) : SafeNext (execTileSt w s0) := by
  unfold Machine.execTileSt
  refine h.atTile fun h => ?_
  dsimp only
  split
  · exact h.ownTrap
  · exact h.withAccs fun h' => h'.withStoreBuffer fun h' => .rowWord h'

theorem Safe.execTileDrain {w : MmaWord} {s0 : State} (h : Safe s0) : SafeNext (execTileDrain w s0) := by
  unfold Machine.execTileDrain
  refine h.atTile fun h => ?_
  dsimp only
  split
  · exact h.ownTrap
  · refine h.withAccs fun h => h.withStoreBuffer fun h => ?_
    split
    · next ht => exact h.askData ht
    · split
      · exact h.ownTrap
      · split
        · exact h.enterErrors.ownTrap
        · exact h.settle.bufferReads.payRelease fun h => h.buffered.noteAccs.noteAccs.spendOnce.rowWord

/-! ## The operations of Machine/System -/

theorem Safe.execSrdMbin {w : UrWord} (h : Safe s) :
    SafeNext (execSrdMbin w s) := h.onCohort fun _ => h.regClear.finish

theorem Safe.execSwr {w : UrWord} (h : Safe s) : SafeNext (execSwr w s) := h.onCohort fun _ => h.setReg.regSet.finish

theorem Safe.debugEvent {c : Cohort} {num : Nat} (h : Safe s) : Safe (s.debugEvent c num) := .of_eq rfl rfl h.regInc

theorem Safe.execDbg {w : SynWord} (h : Safe s) :
    SafeNext (execDbg w s) := h.atStall fun h => .ite h.finish h.debugEvent.finish

theorem Safe.startShootdown {ctx v : Nat} (h : Safe s) : Safe (s.startShootdown ctx v) := .of_eq rfl rfl (.regSet h)

theorem Safe.onPrivileged {i : Instr} {k : Cohort → State} (h : Safe s) (hk : ∀ c, Safe (k c)) :
    SafeNext (onPrivileged i s k) := h.onCohort fun _ => .ite (hk _) h.takeTrap

theorem Safe.uniformDone {c : Cohort} {word : Word64} {dst val : Nat} (h : Safe s) :
    Safe (s.uniformDone c word dst val) := h.finish

theorem Safe.execTlbinv {w : UrWord} (h : Safe s) :
    SafeNext (execTlbinv w s) :=
  h.onPrivileged fun _ => .ite h.uniformDone (.ite h.uniformDone (.ite h h.startShootdown.putCohort))

theorem Safe.execIcinv {w : UrWord} (h : Safe s) :
    SafeNext (execIcinv w s) := h.onPrivileged fun _ => .ite h.uniformDone (.uniformDone h)

/-! ## The operations of Machine/Exports -/

theorem Safe.importAsk {pkg fn : Nat} (h : Safe s) : Safe (s.importAsk pkg fn) := h.physAsk

theorem Safe.sendDone {pkg fn txn : Nat} {aborted : Bool} {bs : List Byte} (h : Safe s) :
    Safe (s.sendDone pkg fn txn aborted bs) := h

theorem Safe.answerTranslation {s0 : State} {pkg fn addr txn : Nat} (h : Safe s0) :
    Safe (s0.answerTranslation pkg fn addr txn) := by
  unfold State.answerTranslation
  split
  · exact h.importAsk.sendFlit
  · refine .ite h.importAsk.walkNote.sendDone (.ite (.of_eq rfl rfl h.importAsk.walkNote) ?_)
    split
    · exact h.importAsk.walkNote.sendFlit
    · exact .sendFlit (.parkPage (.of_eq rfl rfl h.importAsk.walkNote))
    · exact .sendFlit (.of_eq rfl rfl h.importAsk.walkNote)

theorem Safe.answerHeld (h : Safe s) : Safe s.answerHeld := .foldl h fun h => h.answerTranslation

theorem Safe.settleMoves {ctx lo hi : Nat} {p : Nat → Bool} (h : Safe s) :
    Safe (s.settleMoves ctx lo hi p) := .ite (.answerHeld h) h

theorem Safe.remapped {ctx lo hi : Nat} (h : Safe s) : Safe (s.remapped ctx lo hi) := h.settleMoves

theorem Safe.heapChanged {ctx : Nat} (h : Safe s) : Safe (s.heapChanged ctx) := h.settleMoves

theorem Safe.settleImports (h : Safe s) : Safe s.settleImports := .ite h.answerHeld h

theorem Safe.endLease {lease : Nat} (h : Safe s) : Safe (s.endLease lease) := .answerHeld h

/-! ## The operations of Machine/Translation -/

theorem Safe.execTableWalk {core ctx va : Nat} {_acc : Access} (h : Safe s) :
    SafeNext (execTableWalk core ctx va _acc s) := .onSubject h h.tlbFill

theorem Safe.execFaultptrTailWrite {fn slot : Nat} {val : Word64} (h : Safe s) :
    SafeNext (execFaultptrTailWrite fn slot val s) := .onWrite h h.regField.postFaults

theorem Safe.repostFaults (h : Safe s) : Safe s.repostFaults := .postFaults (.foldl h fun h => .ite h h)

theorem Safe.dropFaults {ctx lo hi : Nat} (h : Safe s) : Safe (s.dropFaults ctx lo hi) := .repostFaults h

theorem Safe.pageWake {r : Record} (h : Safe s) : Safe (s.pageWake r) := by
  unfold State.pageWake
  split
  · exact h.engineResume
  · exact h.release

theorem Safe.sendReady {ctx lo hi : Nat} (h : Safe s) : Safe (s.sendReady ctx lo hi) := .foldl h fun h => h

theorem Safe.releasePages {ctx lo hi : Nat} (h : Safe s) :
    Safe (s.releasePages ctx lo hi) := .settleMoves (.sendReady (.dropFaults (.foldl h fun h => h.pageWake)))

theorem Safe.trapRecord {r : Record} {t : TrapInfo} (h : Safe s) : Safe (s.trapRecord r t) := by
  unfold State.trapRecord
  split
  · exact h
  · dsimp only
    split
    · exact h.fatal
    · exact h.rewrite.decide

theorem Safe.pageFail {r : Record} (h : Safe s) : Safe (s.pageFail r) := by
  unfold State.pageFail
  split
  · exact h
  · split
    · exact .ite h.engineLose h.engineStop
    · exact h.trapRecord

theorem Safe.noteCollapse {ctx lo hi : Nat} (h : Safe s) : Safe (s.noteCollapse ctx lo hi) := by
  unfold State.noteCollapse
  refine .foldl h fun h => ?_
  split
  · exact .ite h h
  · exact h

theorem Safe.execPagedoneRelease {fn : Nat} {val : Word64} (h : Safe s) :
    SafeNext (execPagedoneRelease fn val s) := by
  unfold Machine.execPagedoneRelease
  refine .onWrite h ?_
  split
  · exact h.noteCollapse.releasePages
  · exact h

theorem Safe.execPagedoneFail {fn : Nat} {val : Word64} (h : Safe s) : SafeNext (execPagedoneFail fn val s) := by
  unfold Machine.execPagedoneFail
  refine .onWrite h ?_
  split
  · exact .settleMoves (.foldl h.dropFaults fun h => h.pageFail)
  · exact h

theorem Safe.execShootdown {fn slot : Nat} {val : Word64} (h : Safe s) :
    SafeNext (execShootdown fn slot val s) := .onWrite h (.ite h.regSet h.startShootdown)

theorem Safe.agentDrain {o : TlbOwner} {epoch : Nat} (h : Safe s) : Safe (s.agentDrain o epoch) := by
  unfold State.agentDrain
  split
  · exact h.matrixWhile.gather.acceptCore.drainStores
  · exact h.finishChunks

theorem Safe.execShootdownAck {ctx : Nat} {agent : TlbOwner} (h : Safe s) :
    SafeNext (execShootdownAck ctx agent s) := h.onFound fun _ => .of_eq rfl rfl h.agentDrain

theorem Safe.shootWake {ctx : Nat} (h : Safe s) : Safe (s.shootWake ctx) := by
  unfold State.shootWake
  refine .foldl h fun h' => ?_
  split
  · exact .ite h'.uniformDone h'
  · exact .ite h' h'
  · exact h'

theorem Safe.execShootdownDone {ctx : Nat} (h : Safe s) :
    SafeNext (execShootdownDone ctx s) := h.onFound fun _ => .remapped (.shootWake (.regClear (.regField h)))

theorem Safe.execShootdownTimeout {ctx : Nat} (h : Safe s) :
    SafeNext (execShootdownTimeout ctx s) := h.onFound fun _ => .foldl (.regSet h) fun h => h.signal

theorem Safe.uncollapse {ctx page : Nat} (h : Safe s) : Safe (s.uncollapse ctx page) := by
  unfold State.uncollapse
  refine .ite h ?_
  dsimp only
  split
  · exact h
  · exact .ite h (.startShootdown (.agentWrite h))

theorem Safe.execMigrationWindow {ctx : Nat} (h : Safe s) :
    SafeNext (execMigrationWindow ctx s) := .onSubject h (.foldl h fun h => h.uncollapse)

theorem Safe.repResult {die code : Nat} (h : Safe s) : Safe (s.repResult die code) := h.regField.regSet

theorem Safe.execReplica {die : Nat} {k : State} (h : Safe s) (hk : Safe k) :
    SafeNext (execReplica die s k) := .onWrite h (.ite h hk)

theorem Safe.execReplicaInsert {die : Nat} (h : Safe s) :
    SafeNext (execReplicaInsert die s) :=
  .execReplica h (.ite h.repResult (.ite h.repResult (.ite h.repResult (.ite h.repResult (.repResult h)))))

theorem Safe.execReplicaRemove {die : Nat} (h : Safe s) :
    SafeNext (execReplicaRemove die s) := .execReplica h (.ite h.repResult (.ite (.repResult h) h.repResult))

theorem Safe.execReplicaRemoveAll {die : Nat} (h : Safe s) :
    SafeNext (execReplicaRemoveAll die s) := .execReplica h (.ite h.repResult (.repResult h))

theorem Safe.execReplicaReservedOp {die : Nat} (h : Safe s) :
    SafeNext (execReplicaReservedOp die s) := .execReplica h h.repResult

theorem Safe.execReplicaCommandDone {die : Nat} (h : Safe s) :
    SafeNext (execReplicaCommandDone die s) := .onSubject h h.regClear

/-! ## The operations of Machine/PeerEvents -/

theorem Safe.execTranslationRequest {pkg fn addr txn : Nat} (h : Safe s) :
    SafeNext (execTranslationRequest pkg fn addr txn s) := .next h.answerTranslation

theorem Safe.peerWake (h : Safe s) : Safe s.peerWake := h

theorem Safe.ackRecalls (h : Safe s) : Safe s.ackRecalls := .foldl h fun h => h

theorem Safe.settleAbort {r : PeerReq} (h : Safe s) : Safe (s.settleAbort r) := by
  unfold State.settleAbort
  split
  · exact h
  · dsimp only
    split
    · exact h
    · exact h

theorem Safe.settleAborts (h : Safe s) : Safe s.settleAborts := .foldl h fun h => h.settleAbort

theorem Safe.answered (h : Safe s) : Safe s.answered := h.settleAborts.peerWake.ackRecalls

theorem Safe.rtcPut {s0 : State} {x : RtcEntry} (h : Safe s0) :
    Safe (s0.rtcPut x) := .of_eq rfl rfl (.ite h.parityError h)

theorem Safe.askAgain {r : PeerReq} (h : Safe s) : Safe (s.askAgain r) := h.askAs

theorem Safe.resendPosted {q : PeerReq} {frame lease : Nat} {once : Bool} (h : Safe s) :
    Safe (s.resendPosted q frame lease once) := .foldl (.ite h (.foldl h fun h => h.dispatchReq)) fun h => h.askAgain

theorem Safe.execLeaseGrant {txn frame : Nat} {writable : Bool} {lease expiry : Nat} (h : Safe s) :
    SafeNext (execLeaseGrant txn frame writable lease expiry s) :=
  h.onFound fun _ => .answered (.ite (.resendPosted (.ite (.rtcPut h) (.ite h h))) (.ite (.rtcPut h) (.ite h h)))

theorem Safe.nackReq {r : PeerReq} (h : Safe s) : Safe (s.nackReq r) := by
  unfold State.nackReq
  dsimp only
  split
  · exact .ite h (.ite h h)
  · exact .ite (.askAgain h) h

theorem Safe.execNack {txn : Nat} (h : Safe s) : SafeNext (execNack txn s) := by
  unfold Machine.execNack
  split
  · exact .next h.nackReq.answered
  · split
    · exact .next h
    · split
      · exact .next h
      · exact h.onFound fun _ => h

theorem Safe.notReady {r : PeerReq} (h : Safe s) : Safe (s.notReady r) := by
  unfold State.notReady
  dsimp only
  split
  · exact h.faultHere
  · split
    · exact h.engineBlocked
    · exact h

theorem Safe.execNotready {txn : Nat} (h : Safe s) :
    SafeNext (execNotready txn s) := h.onFound fun _ => .answered (.of_eq rfl rfl (.ite h (.notReady h)))

theorem Safe.execReady {pkg page : Nat} (h : Safe s) :
    SafeNext (execReady pkg page s) :=
  .next (.answered (.foldl (.foldl h fun h => h.releasePages) fun h => h.askAgain))

theorem Safe.execRecall {pkg lease : Nat} (h : Safe s) :
    SafeNext (execRecall pkg lease s) := .ite (h.onFound fun _ => h) (.ite (.next h) (.next (.ackRecalls h)))

theorem Safe.execRecallAck {pkg lease : Nat} (h : Safe s) :
    SafeNext (execRecallAck pkg lease s) := h.onFound fun _ => h.endLease

theorem Safe.execLeaseExpiry {lease : Nat} (h : Safe s) :
    SafeNext (execLeaseExpiry lease s) := h.onFound fun _ => h.endLease

theorem Safe.servePeer {pkg fn lease addr n txn : Nat} {write : Bool} {k : Nat → Loc → State × Option (List Byte)}
    (h : Safe s) (hk : ∀ f l, Safe (k f l).1) : Safe (s.servePeer pkg fn lease addr n txn write k) := by
  unfold State.servePeer
  split
  · exact h
  · next l _ =>
    refine .ite h ?_
    have h1 := hk (fnOf l.ctx) (s.locOf addr)
    generalize k (fnOf l.ctx) (s.locOf addr) = p at h1 ⊢
    obtain ⟨t, _ | bs⟩ := p
    · exact h1.sendDone
    · exact h1.sendDone

theorem Safe.peerSees {fn : Nat} {l : Loc} {n : Nat} {k : State × Option (List Byte)} (h : Safe s) (hk : Safe k.1) :
    Safe (s.peerSees fn l n k).1 := by
  unfold State.peerSees
  split
  · exact h.enterError
  · exact hk

theorem Safe.peerGet {fn : Nat} {l : Loc} {n : Nat} (h : Safe s) : Safe (s.peerGet fn l n).1 := by
  unfold State.peerGet
  refine .peerSees h ?_
  split
  · exact h.askRange
  · exact h

theorem Safe.peerPut {fn : Nat} {l : Loc} {bs : List Byte} (h : Safe s) : Safe (s.peerPut fn l bs) := by
  unfold State.peerPut
  split
  · exact h.agentWrite
  · exact h.perform

theorem Safe.execPeerRead {pkg fn lease addr bytes txn : Nat} (h : Safe s) :
    SafeNext (execPeerRead pkg fn lease addr bytes txn s) := .next (h.servePeer fun _ _ => h.peerGet)

theorem Safe.execPeerWrite {pkg fn lease addr : Nat} {data : List Byte} {txn : Nat} (h : Safe s) :
    SafeNext (execPeerWrite pkg fn lease addr data txn s) := .next (h.servePeer fun _ _ => h.peerPut)

theorem Safe.execPeerAtomic {pkg fn lease addr : Nat} {op : AtomicOp} {wide : Bool} {operand compare : Word64}
    {txn : Nat} (h : Safe s) : SafeNext (execPeerAtomic pkg fn lease addr op wide operand compare txn s) := by
  refine .next (h.servePeer fun _ _ => ?_)
  split
  · exact h
  · exact .peerSees h h.peerPut

theorem Safe.posted {txn : Nat} (h : Safe s) : Safe (s.posted txn) := h

theorem Safe.execCompletion {txn : Nat} {data : List Byte} {aborted : Bool} (h : Safe s) :
    SafeNext (execCompletion txn data aborted s) :=
  h.onFound fun _ => .answered (.ite h.nackReq (.ite (.ite h h.posted) (.ite h (.ite h h))))

theorem Safe.execPeerRequestTimeout {txn : Nat} (h : Safe s) :
    SafeNext (execPeerRequestTimeout txn s) := h.onFound fun _ => .answered (.ite h (.ite h h))

theorem Safe.execLinkCredit {port flits : Nat} (h : Safe s) : SafeNext (execLinkCredit port flits s) := .onSubject h h

theorem Safe.retireLane {link lane : Nat} (h : Safe s) : Safe (s.retireLane link lane) := h

theorem Safe.execFlitRetry {port : Nat} (h : Safe s) :
    SafeNext (execFlitRetry port s) := .onSubject h (.ite (.retireLane (.postError (.postError h))) (.postError h))

theorem Safe.execFabricPortStateChange {port : Nat} {up : Bool} (h : Safe s) :
    SafeNext (execFabricPortStateChange port up s) := .onSubject h (.signal h)

theorem Safe.execRouteOpen (h : Safe s) : SafeNext (execRouteOpen s) := .onWrite h h.regSet

theorem Safe.execRouteReady (h : Safe s) : SafeNext (execRouteReady s) := .onSubject h h.regSet

theorem Safe.execPodrtWrite {pkg : Nat} {val : Word64} (h : Safe s) :
    SafeNext (execPodrtWrite pkg val s) := .onWrite h (.ite h.setReg h.regSet)

theorem Safe.execRouteClose (h : Safe s) :
    SafeNext (execRouteClose s) := .onWrite h (.answered (.foldl h.regClear fun h => .ite h.askAgain h.dispatchReq))

/-! ## The operations of Machine/Records -/

theorem Safe.putUnplaced {u : Unplaced} (h : Safe s) : Safe (s.putUnplaced u) := h

theorem Safe.execBinAgeExpiry {rec : Nat} (h : Safe s) : SafeNext (execBinAgeExpiry rec s) := h.onFound fun _ => h

theorem Safe.takeTiles {tag : BitVec 32} (h : Safe s) : Safe (s.takeTiles tag).2 := h

theorem Safe.formCohort {order : Nat × Nat × Nat} {rs : List Record} {part : Bool} {cause : Nat} (h : Safe s) :
    Safe (s.formCohort order rs part cause) := by
  unfold State.formCohort
  split
  · exact h
  · next r _ =>
    extract_lets own s1
    have h1 : Safe s1 := .foldl h fun h => h.dropRecord
    clear_value s1
    split
    next tag conv s2 he2 =>
    have h2 : Safe s2 := by
      rw [← show _ = s2 from congrArg Prod.snd he2]
      split
      · exact h1
      · exact h1.newTag
    split
    next uid s3 he3 =>
    have h3 : Safe s3 := by
      rw [← show _ = s3 from congrArg Prod.snd he3]
      exact h2.fresh
    split
    next tiles s4 he4 =>
    have h4 : Safe s4 := by
      rw [← show _ = s4 from congrArg Prod.snd he4]
      split
      · exact h3
      · split
        · exact h3.takeTiles
        · exact h3
    split
    · exact h
    · exact h4

theorem Safe.execCobblerDrain {rec : Nat} (h : Safe s) : SafeNext (execCobblerDrain rec s) := by
  unfold Machine.execCobblerDrain
  refine h.onFound fun _ => ?_
  dsimp only
  split
  · exact .discardBad (.foldl h fun h => h.getImage)
  · split
    · exact .formCohort (.foldl h fun h => h.getImage)
    · exact .foldl (.foldl h fun h => h.getImage) fun h => h.formCohort

theorem Safe.execRecordSend {rec pkg die : Nat} (h : Safe s) :
    SafeNext (execRecordSend rec pkg die s) := h.onFound fun _ => .ite h (.sendFlit (.getImage h))

theorem Safe.execRecordData {pkg txn die : Nat} {image : List Byte} (h : Safe s) :
    SafeNext (execRecordData pkg txn die image s) := .ite (h.onFound fun _ => h) (.onSubject h (.ite h h))

theorem Safe.passOn {r : Record} {pkg die : Nat} (h : Safe s) :
    Safe (s.passOn r pkg die) := .ite h.decide.putRecord h.decide.dropRecord.sendFlit.wakeCharge

theorem Safe.passCohort {u : Unplaced} {die : Nat} (h : Safe s) : Safe (s.passCohort u die) := h.decide.putUnplaced

theorem Safe.reclaim {r : Record} (h : Safe s) : Safe (s.reclaim r) := h

theorem Safe.refuseLate {pkg rec : Nat} (h : Safe s) : Safe (s.refuseLate pkg rec) := .ite h h

theorem Safe.execAck {rec : Nat} (h : Safe s) : SafeNext (execAck rec s) := by
  unfold Machine.execAck
  split
  · exact .next (.ite h.passOn h.reclaim.refuseLate)
  · split
    · exact .next (.ite h.passCohort h)
    · exact h.onFound fun _ => .refuseLate h

theorem Safe.execHandoffTimeout {rec : Nat} (h : Safe s) : SafeNext (execHandoffTimeout rec s) := by
  unfold Machine.execHandoffTimeout
  split
  · exact .onSubject h h
  · split
    · exact .onSubject h h
    · exact .next h

theorem Safe.mapTag {pkg die : Nat} {tag : BitVec 32} (h : Safe s) : Safe (s.mapTag pkg die tag).2 := by
  unfold State.mapTag
  dsimp only
  split
  · exact h
  · exact h

theorem Safe.execCommit {rec : Nat} (h : Safe s) : SafeNext (execCommit rec s) := by
  unfold Machine.execCommit
  split
  · exact .ite (.next h) (.next h.mapTag.putRecord)
  · split
    · exact .next h
    · exact .next h

theorem Safe.execRefuse {rec : Nat} (h : Safe s) : SafeNext (execRefuse rec s) := by
  unfold Machine.execRefuse
  split
  · exact .onSubject h (.wakeCharge h)
  · exact .next h

theorem Safe.execCellarExhaustion {fn : Nat} (h : Safe s) :
    SafeNext (execCellarExhaustion fn s) := h.onFound fun _ => h.fatalRecord

/-! ## The operations of Machine/Distributor -/

theorem Safe.makeTileRoom {core n fuel : Nat} (h : Safe s) : Safe (State.makeTileRoom core n fuel s) := by
  induction fuel generalizing s with
  | zero => exact h
  | succ fuel ih =>
    unfold State.makeTileRoom
    refine .ite h ?_
    split
    · exact ih h.evictTag
    · exact h

theorem Safe.writeTiles {core : Nat} {tag : BitVec 32} {ts : List (Nat × List (List Word32))} (h : Safe s) :
    Safe (s.writeTiles core tag ts) := by
  induction ts generalizing s with
  | nil => exact h
  | cons t ts ih =>
    unfold State.writeTiles
    refine ih ?_
    split
    · exact h.matrixWhile.putCore
    · exact h

theorem Safe.rehome {core : Nat} {tag : BitVec 32} (h : Safe s) : Safe (s.rehome core tag) := .ite h h

theorem Safe.bringTiles {u : Unplaced} {core : Nat} (h : Safe s) : Safe (s.bringTiles u core).1 := by
  unfold State.bringTiles
  refine .rehome (.writeTiles (.makeTileRoom ?_))
  split
  · exact h
  · split
    · exact h.readOutTiles
    · split
      · exact h
      · exact h.takeTiles

theorem Safe.place {u : Unplaced} {core : Nat} (h : Safe s) : Safe (s.place u core) := by
  unfold State.place
  dsimp only
  split
  · exact .ite (.decide (.acquireStep (.of_eq rfl rfl h.bringTiles)))
        (.decide (.decide (.acquireStep (.of_eq rfl rfl h.bringTiles))))
  · exact .decide (.acquireStep (.of_eq rfl rfl h.bringTiles))

theorem Safe.execPlacement {uid : Nat} (h : Safe s) : SafeNext (execPlacement uid s) := by
  unfold Machine.execPlacement
  refine h.onFound fun _ => ?_
  split
  · exact h.place
  · exact h
  · exact h

theorem Safe.unsplit {c : Cohort} (h : Safe s) : Safe (s.unsplit c) := .ite h h

theorem Safe.haltInto {c : Cohort} {cause : Nat} (h : Safe s) :
    Safe (s.haltInto c cause) := .ite h.forceOut (.ite h.unsplit.takeTrap h.unsplit.forceOut)

theorem Safe.stepTrap {c : Cohort} {word : Word64} (h : Safe s) : Safe (s.stepTrap c word) := h.trapTo

theorem Safe.settleXst {c : Cohort} (h : Safe s) : Safe (s.settleXst c) := by
  unfold State.settleXst
  split
  · exact h.acceptOne
  · exact h

theorem Safe.abandonReads {c : Cohort} (h : Safe s) : Safe (s.abandonReads c) := .ite h h

theorem Safe.haltNow {c : Cohort} {cause : Nat} (h : Safe s) : Safe (s.haltNow c cause) := by
  unfold State.haltNow
  dsimp only
  split
  · exact h.settleXst.abandonReads
  · split
    · exact h.settleXst.abandonReads.raiseRefused
    · exact h.settleXst.abandonReads.stepTrap
    · exact h.settleXst.abandonReads.takeTrap
    · exact h.settleXst.abandonReads.haltInto

theorem Safe.execHaltRequest {uid cause : Nat} (h : Safe s) :
    SafeNext (execHaltRequest uid cause s) := h.onFound fun _ => h.haltNow

theorem Safe.execSplitWaitTimeout {uid : Nat} (h : Safe s) :
    SafeNext (execSplitWaitTimeout uid s) := h.onFound fun _ => h.haltNow

theorem Safe.execPlacementWaitTimeout {uid : Nat} (h : Safe s) :
    SafeNext (execPlacementWaitTimeout uid s) := h.onFound fun _ => h

theorem Safe.settleSlots (h : Safe s) : Safe s.settleSlots := .ite h h

theorem Safe.execIssueSlotTake {core slot : Nat} (h : Safe s) :
    SafeNext (execIssueSlotTake core slot s) := h.onFound fun _ => h

/-! ## The operations of Machine/Queues -/

theorem Safe.putView {v : QueueView} (h : Safe s) : Safe (s.putView v) := h

theorem Safe.setQcb {v : QueueView} {off n val : Nat} (h : Safe s) : Safe (s.setQcb v off n val) := h.physWrite

theorem Safe.setState {v : QueueView} {st err : Nat} (h : Safe s) : Safe (s.setState v st err) := h.physWrite

theorem Safe.latchDesc {v : QueueView} (h : Safe s) : Safe (s.latchDesc v) := by
  unfold State.latchDesc
  refine .ite ?_ h
  split
  · exact h.physAsk.putView
  · exact h

theorem Safe.readHead {fn queue : Nat} (h : Safe s) : Safe (s.readHead fn queue) := by
  unfold State.readHead
  split
  · exact .ite h.physAsk.putView.latchDesc h
  · exact h

theorem Safe.execQbell {fn queue : Nat} (h : Safe s) : SafeNext (execQbell fn queue s) := .onWrite h h.readHead

theorem Safe.startAfresh {v : QueueView} (h : Safe s) : Safe (s.startAfresh v) := h.setQcb.setState.physWrite

theorem Safe.resumeQueue {v : QueueView} (h : Safe s) : Safe (s.resumeQueue v) := by
  unfold State.resumeQueue
  refine .ite h.setState ?_
  split
  · exact h.setState
  · exact h.setState

theorem Safe.execQueueEnable {fn queue : Nat} {val : Word64} (h : Safe s) :
    SafeNext (execQueueEnable fn queue val s) :=
  .onWrite h
    (.ite h
       (.ite (.of_eq rfl rfl h.plainWrite)
          (.ite (.resumeQueue (.latchDesc (.physAsk (.of_eq rfl rfl h.plainWrite))))
             (.startAfresh (.latchDesc (.physAsk (.of_eq rfl rfl h.plainWrite)))))))

theorem Safe.execQueueDisable {fn queue : Nat} {val : Word64} (h : Safe s) :
    SafeNext (execQueueDisable fn queue val s) := .onWrite h h.plainWrite

theorem Safe.execLaunchStart {fn queue : Nat} (h : Safe s) : SafeNext (execLaunchStart fn queue s) := by
  unfold Machine.execLaunchStart
  refine h.onFound fun _ => ?_
  split
  · exact .ite h.setState (.setState (.setQcb (.setQcb (.of_eq rfl rfl h.physAsk))))
  · exact h.setState

theorem Safe.setSplit {core code : Nat} (h : Safe s) : Safe (s.setSplit core code) := .ite h h

theorem Safe.moveMember {t : Team} {l : Launch} {p : Nat × Nat} (h : Safe s) :
    Safe (State.moveMember t l s p) := .ite h (.of_eq rfl rfl h.setSplit)

theorem Safe.divideUnplaced {u : Unplaced} (h : Safe s) : Safe (s.divideUnplaced u) := by
  unfold State.divideUnplaced
  dsimp only
  split
  · exact h
  · exact .foldl h fun h => h

theorem Safe.divideWaiting (h : Safe s) : Safe s.divideWaiting := .foldl h fun h => h.divideUnplaced

theorem Safe.execTeamMove {launch team : Nat} {members : List Nat} (h : Safe s) :
    SafeNext (execTeamMove launch team members s) :=
  h.onFound fun _ => .decide (.divideWaiting (.foldl h fun h => h.moveMember))

theorem Safe.addCohorts {l : Launch} {die : Nat} {bound : Option Nat} (h : Safe s) :
    Safe (s.addCohorts l die bound) := .foldl h fun h' => h'

theorem Safe.addAllocs {l : Launch} {members : List Nat} (h : Safe s) :
    Safe (s.addAllocs l members) := .foldl h fun h => .of_eq rfl rfl h.setSplit

theorem Safe.passCursor {l : Launch} (h : Safe s) : Safe (s.passCursor l) := by
  unfold State.passCursor
  split
  · exact .ite (.latchDesc (.setQcb h)) h
  · exact h

theorem Safe.execTeamCreate {fn queue : Nat} (h : Safe s) : SafeNext (execTeamCreate fn queue s) := by
  unfold Machine.execTeamCreate
  refine h.onFound fun _ => .ite ?_ ?_
  · refine .passCursor (.addCohorts (.addAllocs (.of_eq rfl rfl ?_)))
    split
    · exact .setQcb h
    · exact h
  · refine .addCohorts (.addAllocs (.of_eq rfl rfl ?_))
    split
    · exact .setQcb h
    · exact h

theorem Safe.advanceDone {fn queue n : Nat} (h : Safe s) : Safe (State.advanceDone fn queue n s) := by
  induction n generalizing s with
  | zero => exact h
  | succ n ih =>
    unfold State.advanceDone
    split
    · exact h
    · exact .ite (ih (.setQcb h)) h

theorem Safe.idleQueue {fn queue : Nat} (h : Safe s) : Safe (s.idleQueue fn queue) := by
  unfold State.idleQueue
  split
  · exact .ite h h.setState
  · exact h

theorem Safe.arbiterDone {fn queue : Nat} (h : Safe s) : Safe (s.arbiterDone fn queue) := by
  unfold State.arbiterDone
  split
  · exact h
  · exact .of_eq rfl rfl (.foldl h fun h => h.ringWrite)

theorem Safe.completeLaunch {l : Launch} (h : Safe s) : Safe (s.completeLaunch l) := by
  unfold State.completeLaunch
  extract_lets s0 s1 s2 s3 s4
  have h1 : Safe s1 := .ite h.drainStores h.drainStores.physWrite
  clear_value s1
  have h3 : Safe s3 := .advanceDone (.ite h1 (.passCursor h1))
  have h4 : Safe s4 := h3.idleQueue.arbiterDone
  exact .ite h4.signal h4

theorem Safe.execLaunchComplete {launch : Nat} (h : Safe s) :
    SafeNext (execLaunchComplete launch s) := h.onFound fun _ => h.completeLaunch

theorem Safe.execPriorityPreemption {fn queue : Nat} (h : Safe s) :
    SafeNext (execPriorityPreemption fn queue s) := h.onFound fun _ => .decide h

theorem Safe.noteWaits (h : Safe s) : Safe s.noteWaits := by
  unfold State.noteWaits
  refine .foldl h fun h => ?_
  split
  · exact .ite h h
  · exact .ite h h

theorem Safe.askImage {base len : Nat} (h : Safe s) : Safe (s.askImage base len) := .ite h.askRange h

theorem Safe.execDistLoad (h : Safe s) : SafeNext (execDistLoad s) := .onWrite h h.regSet

theorem Safe.withFirmware {f : Firmware} (h : Safe s) : Safe { s with firmware := f } := h

theorem Safe.execDistLoadDone (h : Safe s) : SafeNext (execDistLoadDone s) := by
  unfold Machine.execDistLoadDone
  refine .onSubject h ?_
  extract_lets len
  split
  next res version back _ =>
  exact .ite h.askImage.regField.regClear (.withFirmware h.askImage.regField.regClear.regField)

theorem Safe.execMatrixUnitExecute {core : Nat} (h : Safe s) :
    SafeNext (execMatrixUnitExecute core s) := .onSubject h h.matrixExec

/-! ## The operations of Machine/Ticks -/

theorem Safe.wakeFences (h : Safe s) : Safe s.wakeFences := by
  unfold State.wakeFences
  refine .foldl h fun h' => ?_
  split
  · exact .ite h'.acquireStep.finish h'
  · exact h'

theorem Safe.wakePodFences (h : Safe s) : Safe s.wakePodFences := h.releaseWhere

theorem Safe.readOutbox {fn : Nat} (h : Safe s) : Safe (s.readOutbox fn) := .ite h h

theorem Safe.readOutboxes (h : Safe s) : Safe s.readOutboxes := .foldl h fun h => h.readOutbox

theorem Safe.execPackageHeartbeat (h : Safe s) :
    SafeNext (execPackageHeartbeat s) :=
  .next (.readOverflow (.readOutboxes (.foldl (.wakePodFences (.wakeFences h)) fun h => h.readHead)))

theorem Safe.execPodTickSend (h : Safe s) : SafeNext (execPodTickSend s) := .onSubject h (.foldl h fun h' => h')

theorem Safe.execPodTick {count stamp : Nat} (h : Safe s) : SafeNext (execPodTick count stamp s) := .onSubject h h

theorem Safe.execPodTickAdopt {count : Nat} (h : Safe s) : SafeNext (execPodTickAdopt count s) := h.onFound fun _ => h

theorem Safe.execWheelTurn (h : Safe s) :
    SafeNext (execWheelTurn s) := .onSubject h (.foldl h fun h => .ite h h.engineSave)

theorem Safe.serveQueued {die n fn k : Nat} (h : Safe s) : Safe (State.serveQueued die n fn k s) := by
  induction k generalizing s with
  | zero => exact h
  | succ k ih =>
    unfold State.serveQueued
    split
    · exact ih h.serveTo
    · exact h

theorem Safe.serveChannel {die n fn : Nat} (h : Safe s) : Safe (s.serveChannel die n fn) := by
  unfold State.serveChannel
  refine .foldl h fun h => ?_
  split
  · exact h.dramServe
  · exact h

theorem Safe.servePosition {die cls n fn : Nat} (h : Safe s) : Safe (s.servePosition die cls n fn) := by
  unfold State.servePosition
  split
  · exact h.serveQueued
  · exact h.serveChannel
  · exact h
  · exact h
  · exact h

theorem Safe.spendDonation {fn : Nat} (h : Safe s) : Safe (s.spendDonation fn) := by
  unfold State.spendDonation
  split
  · exact h
  · exact h

theorem Safe.positionAt {die cls pos n : Nat} (h : Safe s) : Safe (s.positionAt die cls pos n) := by
  unfold State.positionAt
  split
  · exact .foldl h fun h => h.servePosition
  · split
    · exact h
    · refine .ite h.servePosition ?_
      split
      · exact h.spendDonation.servePosition
      · exact h

theorem Safe.execWheelPosition {die cls pos : Nat} (h : Safe s) :
    SafeNext (execWheelPosition die cls pos s) := .onSubject h (.foldl h fun h => h.positionAt)

/-! ## The operations of Machine/Slots -/

theorem Safe.rejectTable {err : Nat} (h : Safe s) : Safe (s.rejectTable err) := h.regField.regSet

theorem Safe.execSlotTableLoad (h : Safe s) : SafeNext (execSlotTableLoad s) := by
  unfold Machine.execSlotTableLoad
  refine .onWrite h ?_
  split
  · exact .of_eq rfl rfl h.physAsk.physAsk.regSet
  · exact h.rejectTable

theorem Safe.execSlotTableEnable (h : Safe s) :
    SafeNext (execSlotTableEnable s) := .onWrite h (.ite h.rejectTable (.ite h.rejectTable (.of_eq rfl rfl h.regSet)))

theorem Safe.execSlotTableDisable (h : Safe s) :
    SafeNext (execSlotTableDisable s) := .onWrite h (.ite h.rejectTable (.of_eq rfl rfl h.regClear))

theorem Safe.countEdge {fn core : Nat} (h : Safe s) : Safe (s.countEdge fn core) := h.decide

theorem Safe.withDrain {unplaced : List Unplaced} {queueViews : List QueueView} {drain : Option Drain} (h : Safe s) :
    Safe { s with unplaced, queueViews, drain } := h

theorem Safe.switchTo {table : Option SlotTable} {slot : Nat} (h : Safe s) : Safe (s.switchTo table slot) := by
  unfold State.switchTo
  extract_lets src s1 a b quads ways owners s2 s3
  have h1 : Safe s1 := .of_eq rfl rfl h.regField
  clear_value s1
  have h2 : Safe s2 := .foldl h1 fun h => .ite h (.foldl h fun h => h.countEdge)
  have h3 : Safe s3 := h2.bufferEdge.l2Flush
  exact .ite h1 (.withDrain h3.setReg)

theorem Safe.execSlotEdge (h : Safe s) : SafeNext (execSlotEdge s) := .onSubject h (.switchTo h)

theorem Safe.execFrameBoundary (h : Safe s) : SafeNext (execFrameBoundary s) := by
  unfold Machine.execFrameBoundary
  refine .onSubject h (.ite (.switchTo (.of_eq rfl rfl (.ite (.setReg h) (.setReg h)))) ?_)
  split
  · exact .switchTo (.of_eq rfl rfl (.regClear (.ite (.setReg h) (.setReg h))))
  · exact .switchTo (.ite (.setReg h) (.setReg h))

theorem Safe.saveTiles {core : Nat} (h : Safe s) : Safe (s.saveTiles core) := .foldl h fun h => h.saveTag

theorem Safe.writeSave {b : SaveBlock} {core : Nat} (h : Safe s) : Safe (s.writeSave b core) := h.agentWrite.serveAll

theorem Safe.withoutCore {allocs : List Alloc} {shadows : List Shadow} {l1 : List L1Sector}
    {l1Trees : List (Nat × Nat × BitVec 32)} {l1Bad : List (Nat × Nat)} {tlbs : List TlbEntry}
    {fetchLines : List FetchLine} (h : Safe s) :
    Safe { s with allocs, shadows, l1, l1Trees, l1Bad, tlbs, fetchLines } := h

theorem Safe.withSaves {saves : List SaveBlock} (h : Safe s) : Safe { s with saves } := h

theorem Safe.saveCore {fn core : Nat} (h : Safe s) : Safe (s.saveCore fn core) := by
  unfold State.saveCore
  extract_lets s1 mine block k s2
  have h1 : Safe s1 := h.saveTiles
  clear_value s1
  have h2 : Safe s2 := .ite (.withSaves h1.writeSave) h1
  exact .putCore (.withoutCore h2)

theorem Safe.withSaved {saves : List SaveBlock} {allocs : List Alloc} {shadows : List Shadow} (h : Safe s) :
    Safe { s with saves, allocs, shadows } := h

theorem Safe.restoreCore {fn core : Nat} (h : Safe s) : Safe (s.restoreCore fn core) := by
  unfold State.restoreCore
  split
  · exact h
  · exact .putCore (.withSaved h.askRange)

theorem Safe.handQuad {p : Nat × Nat} (h : Safe s) :
    Safe (s.handQuad p) := .foldl h fun h => .ite (.ite h h.saveCore) (.restoreCore (.ite h h.saveCore))

theorem Safe.returnEngines {fns : List Nat} (h : Safe s) : Safe (s.returnEngines fns) := by
  unfold State.returnEngines
  refine .foldl h fun h => ?_
  split
  · exact .ite h h.engineResume
  · exact h

theorem Safe.execEngineOverrun (h : Safe s) :
    SafeNext (execEngineOverrun s) := h.onFound fun _ => .foldl h fun h => h.engineStop

theorem Safe.handQuads {ps : List (Nat × Nat)} (h : Safe s) :
    Safe (s.handQuads ps) := .returnEngines (.foldl h fun h => h.handQuad)

theorem Safe.endDrain {d : Drain} (h : Safe s) :
    Safe (s.endDrain d) := .foldl (.of_eq rfl rfl h.handQuads.returnEngines.dramQuiet) fun h => h.setReg.signal

theorem Safe.execDrainWindowEnd (h : Safe s) : SafeNext (execDrainWindowEnd s) := by
  unfold Machine.execDrainWindowEnd
  split
  · exact .next (.endDrain h)
  · exact .onSubject h (.handQuads h)

/-! ## The operations of Machine/Partition -/

theorem Safe.execPartitionRebuild (h : Safe s) : SafeNext (execPartitionRebuild s) := .onWrite h (.ite h.regSet h)

theorem Safe.freshQuad {die q : Nat} (h : Safe s) : Safe (s.freshQuad die q) := h

theorem Safe.rebuildQuad {die q : Nat} (h : Safe s) : Safe (s.rebuildQuad die q) := by
  unfold State.rebuildQuad
  refine .ite ?_ h
  split
  · exact h.setReg.freshQuad
  · exact h.regClear

theorem Safe.execPartitionRebuildDone (h : Safe s) :
    SafeNext (execPartitionRebuildDone s) := .onSubject h (.regClear (.foldl h fun h => h.rebuildQuad))

theorem Safe.messageDone {fn slot status : Nat} (h : Safe s) : Safe (s.messageDone fn slot status) := by
  unfold State.messageDone
  dsimp only
  split
  · exact .ite (.of_eq rfl rfl h.ringWrite.ringWrite) h.ringWrite.ringWrite
  · exact h.ringWrite.ringWrite

theorem Safe.enqueue {fn slot filter : Nat} {e m : List Byte} {v : QueueView} {i : Nat} (h : Safe s) :
    Safe (s.enqueue fn slot filter e m v i) := .messageDone (.ringWrite (.of_eq rfl rfl h.ringWrite.ringWrite.setQcb))

theorem Safe.serveMessage {fn : Nat} (h : Safe s) : Safe (s.serveMessage fn) := by
  unfold State.serveMessage
  refine .ite h ?_
  dsimp only
  split
  · exact h.messageDone
  · refine .ite h.messageDone (.ite h.messageDone ?_)
    split
    · exact h.messageDone
    · exact h.messageDone
    · exact h.enqueue

theorem Safe.execArbiterMessage {fn : Nat} (h : Safe s) :
    SafeNext (execArbiterMessage fn s) := h.onFound fun _ => h.serveMessage

theorem Safe.serveRead {n : Nat} (h : Safe s) : Safe (State.serveRead n s) := by
  induction n generalizing s with
  | zero => exact h
  | succ n ih =>
    unfold State.serveRead
    split
    · exact ih h.serveMessage
    · exact h

theorem Safe.resetMessages {fn : Nat} (h : Safe s) :
    Safe (s.resetMessages fn) := .serveRead (.of_eq rfl rfl (.foldl h fun h => h.ringWrite))

theorem Safe.abortRanks {e : EngineOp} (h : Safe s) : Safe (s.abortRanks e) := by
  unfold State.abortRanks
  split
  · exact .ite h (.foldl h fun h => h)
  · exact h

theorem Safe.discardCohorts {fn : Nat} (h : Safe s) :
    Safe (s.discardCohorts fn) := .sweepSplits (.dropTraces (.of_eq rfl rfl h.finishTags))

theorem Safe.settleIssued {fn : Nat} (h : Safe s) :
    Safe (s.settleIssued fn) := .of_eq rfl rfl h.drainStores.serveWhere

theorem Safe.reclaimSent {fn : Nat} (h : Safe s) : Safe (s.reclaimSent fn) := by
  unfold State.reclaimSent
  refine .foldl h fun h => ?_
  split
  · exact .ite h h
  · exact h

theorem Safe.answerPeers {fn : Nat} (h : Safe s) :
    Safe (s.answerPeers fn) := .answerHeld (.foldl h fun h => h.sendReady)

theorem Safe.fence {fn : Nat} (h : Safe s) :
    Safe (s.fence fn) :=
  .resetMessages
    (.answerPeers
       (.reclaimSent
          (.settleIssued
             (.discardCohorts (.foldl (.foldl h fun h => h.abortEngine) fun h => h.abortRanks.abortEngine)))))

theorem Safe.execTenantReset {fn : Nat} (h : Safe s) :
    SafeNext (execTenantReset fn s) := .onWrite h (.ite h h.regSet.fence)

/-- A test of a range takes its cells out of the list and adds none. -/
theorem Safe.zeroRange {s0 : State} {r : Range} (h : Safe s0) : Safe (s0.zeroRange r) := by
  unfold State.zeroRange
  extract_lets s
  have h1 : Safe s := .foldl h fun h => h.dramServe
  obtain ⟨hm, hh⟩ := (memory_wf_iff s).1 h1
  exact (memory_wf_iff _).2 ⟨cellsFilter_wf _ _ hm, hh⟩

theorem Safe.discardRecords {fn : Nat} (h : Safe s) :
    Safe (s.discardRecords fn) :=
  .foldl (.freeChains (.sweepTiles (.of_eq rfl rfl (.foldl h fun h => h.endLaunch)))) fun h => h.completeLaunch

theorem Safe.dropTranslations {fn : Nat} (h : Safe s) : Safe (s.dropTranslations fn) := .foldl h fun h => h.shootWake

theorem Safe.execTenantResetDone {fn : Nat} (h : Safe s) :
    SafeNext (execTenantResetDone fn s) :=
  .onSubject h
    (.regSet (.regClear (.of_eq rfl rfl (.foldl h.discardRecords.l2Flush.dropTranslations fun h => h.zeroRange))))

theorem Safe.returnDie {die : Nat} (h : Safe s) : Safe (s.returnDie die) := by
  unfold State.returnDie
  refine .foldl h fun h => ?_
  split
  · exact .ite h h.engineResume
  · exact h

theorem Safe.execDiePowerGating {die : Nat} (h : Safe s) :
    SafeNext (execDiePowerGating die s) := .ite (.next (.returnDie h)) (.onSubject h h)

/-! ## The operations of Machine/HostEvents -/

theorem Safe.execMbinWrite {fn core : Nat} {val : Word64} (h : Safe s) :
    SafeNext (execMbinWrite fn core val s) := .onWrite h h.setReg.regSet

theorem Safe.execMboutRead {fn core : Nat} (h : Safe s) :
    SafeNext (execMboutRead fn core s) := .onSubject h (.ite (.regClear h) h)

theorem Safe.debugHalt {uid : Nat} (h : Safe s) : Safe (s.debugHalt uid) := by
  unfold State.debugHalt
  split
  · exact h
  · exact .ite h.haltNow h

theorem Safe.execDbgctlHalt {fn core : Nat} (h : Safe s) : SafeNext (execDbgctlHalt fn core s) := by
  unfold Machine.execDbgctlHalt
  refine .onWrite h ?_
  split
  · exact h
  · exact .foldl h fun h => h.debugHalt

theorem Safe.hostAnswer {fn off : Nat} {d : HostReply} (h : Safe s) : Safe (s.hostAnswer fn off d) := h

theorem Safe.hostRefused {fn off : Nat} (h : Safe s) : Safe (s.hostRefused fn off) := h.regInc.hostAnswer

theorem Safe.hostReads? {fn off n : Nat} {k : Nat → List Byte → State → State} (h : Safe s)
    (hk : ∀ {x0 x1 t}, Safe t → Safe (k x0 x1 t)) : Safe (s.hostReads? fn off n k) := by
  unfold State.hostReads?
  split
  · exact h.hostRefused
  · split
    · exact h.enterError.hostAnswer
    · exact hk h

theorem Safe.execHostRead {fn off bytes : Nat} (h : Safe s) :
    SafeNext (execHostRead fn off bytes s) := .onSubject h (h.hostReads? fun h => h.askRange)

theorem Safe.hostAtomic {fn off : Nat} {op : AtomicOp} {wide : Bool} {operand compare : Word64} (h : Safe s) :
    Safe (s.hostAtomic fn off op wide operand compare) := .ite h.hostRefused (h.hostReads? fun h => h.agentWrite)

theorem Safe.hostStore {fn off : Nat} {data : List Byte} (h : Safe s) : Safe (s.hostStore fn off data) := by
  unfold State.hostStore
  split
  · exact h.regInc
  · exact h.agentWrite

theorem Safe.execHostWrite {fn off : Nat} {store : HostStore} (h : Safe s) :
    SafeNext (execHostWrite fn off store s) := by
  unfold Machine.execHostWrite
  split
  · exact .onSubject h h.hostStore
  · exact .onSubject h h.hostAtomic
  · exact .next h.perform

theorem Safe.postVerdict {u : HwUnit} {verdict : Nat} (h : Safe s) : Safe (s.postVerdict u verdict) := by
  unfold State.postVerdict
  dsimp only
  split
  · exact .postError h
  · exact .postError h
  · exact .postError h
  · exact .postError h

theorem Safe.retire {u : HwUnit} (h : Safe s) : Safe (s.retire u) := by
  unfold State.retire
  split
  · exact .regSet h
  · exact h
  · exact h
  · exact h

theorem Safe.execSelfTest {unit : HwUnit} {lasting : Bool} (h : Safe s) :
    SafeNext (execSelfTest unit lasting s) := h.onFound fun _ => .ite (.retire (.postVerdict h)) (.postVerdict h)

theorem Safe.execFirmwareStage (h : Safe s) : SafeNext (execFirmwareStage s) := .onWrite h h.regSet

theorem Safe.execFirmwareStageDone (h : Safe s) :
    SafeNext (execFirmwareStageDone s) :=
  .onSubject h (.ite h.askImage.regField.regClear (.of_eq rfl rfl h.askImage.regField.regClear))

theorem Safe.execAttestRequest {fn : Nat} (h : Safe s) : SafeNext (execAttestRequest fn s) := .onWrite h h.regSet

theorem Safe.execAttestDone {fn : Nat} (h : Safe s) :
    SafeNext (execAttestDone fn s) := .onSubject h h.ringWrite.regClear.regSet

/-- A package reset lists no cell of HBM and keeps the host's memory as it is. -/
theorem Safe.packageReset (h : Safe s) : Safe s.packageReset :=
  (memory_wf_iff _).2 ⟨rfl, ((memory_wf_iff s).1 h).2⟩

theorem Safe.execPackageBoot (h : Safe s) : SafeNext (execPackageBoot s) := by
  unfold Machine.execPackageBoot
  dsimp only
  split
  · exact .next (.of_eq rfl rfl (.regField (.ite h.packageReset h)))
  · exact .next (.regSet (.regField (.regField (.of_eq rfl rfl (.ite h.packageReset h)))))

theorem Safe.execThermalThrottle (h : Safe s) : SafeNext (execThermalThrottle s) := .next h

theorem Safe.powerOff (h : Safe s) : Safe { s with powered := false } := h

theorem Safe.execThermalShutdown (h : Safe s) : SafeNext (execThermalShutdown s) :=
  .next (.powerOff (.foldl h fun h => h.fence))

/-! ## The operations of Machine/After -/

theorem Safe.splitWake {c : Cohort} (h : Safe s) : Safe (s.splitWake c) := .ite h h

theorem Safe.settleSplits (h : Safe s) : Safe s.settleSplits := .ite (.foldl h fun h => h.splitWake) h

theorem Safe.settleHalts (h : Safe s) : Safe s.settleHalts := h

theorem Safe.after (h : Safe s) : Safe s.after := by
  unfold State.after
  extract_lets s1 s2
  have h1 : Safe s1 := .noteWaits (.settleSlots (.settleEngines (.settleImports (.settleHalts (.settleSplits
    (.foldl h.settleWatches fun h => h.binRefill))))))
  have h2 : Safe s2 := h1.storeDrift.settleOwed.dramDrift.enginesDrift.settleImages.forget
  clear_value s2
  exact .of_eq rfl rfl h2

theorem Safe.stateError {c : Cohort} {word : Word64} (h : Safe s) : Safe (s.stateError c word) := h.coreError.takeTrap

theorem Safe.boundary {c : Cohort} {t : State} (h : Safe s) (ht : s.boundary c = some t) : Safe t := by
  unfold State.boundary at ht
  split at ht
  · cases ht
    exact h.stepTrap
  · cases ht
    exact h.takeTrap
  · cases ht
    exact h.haltNow
  · cases ht

theorem Safe.breakAt {c : Cohort} {n : Nat} (h : Safe s) : Safe (s.breakAt c n) := h.takeTrap

/-! ## The operations of Machine/Apertures -/

theorem Safe.did {o : Host.Outcome State Fault Refusal} (h : Safe s) (ho : SafeNext o) : Safe (s.did o) := by
  cases o with
  | next t => exact ho t rfl
  | fault | refused => exact h

theorem Safe.clears {fn off val : Nat} (h : Safe s) : Safe (s.clears fn off val) := h.regClear

theorem Safe.writeFwctl {off val : Nat} (h : Safe s) : Safe (s.writeFwctl off val) := by
  unfold State.writeFwctl
  refine .ite h.regSet ?_
  split
  · exact h.regSet
  · exact h.plainWrite
  · exact .ite h.regSet (.did h.plainWrite h.plainWrite.execFormatWindowEnable)
  · exact .ite (.did h h.execFormatWindowDisable) (.regSet (.did h h.execFormatWindowDisable))

theorem Safe.writeStctl {val : Nat} (h : Safe s) :
    Safe (s.writeStctl val) :=
  .ite h.rejectTable
    (.ite (.ite (.did h.clears h.clears.execSlotTableLoad) h.clears)
       (.ite
          (.did (.ite (.did h.clears h.clears.execSlotTableLoad) h.clears)
             (.execSlotTableEnable (.ite (.did h.clears h.clears.execSlotTableLoad) h.clears)))
          (.did (.ite (.did h.clears h.clears.execSlotTableLoad) h.clears)
             (.execSlotTableDisable (.ite (.did h.clears h.clears.execSlotTableLoad) h.clears)))))

theorem Safe.writeHash {off : Nat} {val : Word64} (h : Safe s) :
    Safe (s.writeHash off val) :=
  .ite (.did h h.execHashMaskWrite)
    (.ite h (.ite h.clears (.ite (.did h.clears h.clears.execHashOpen) (.did h.clears h.clears.execHashClose))))

theorem Safe.writeRepctl {off val : Nat} (h : Safe s) : Safe (s.writeRepctl off val) := by
  unfold State.writeRepctl
  refine .ite h (.did h ?_)
  split
  · exact h.execReplicaInsert
  · exact h.execReplicaRemove
  · exact h.execReplicaRemoveAll
  · exact h.execReplicaReservedOp

theorem Safe.writeQbase {fn queue : Nat} {val : Word64} (h : Safe s) :
    Safe (s.writeQbase fn queue val) :=
  .ite h.plainWrite (.ite (.did h h.execQueueEnable) (.did h h.execQueueDisable))

theorem Safe.goes {fn off val bit : Nat} {k : State → Host.Outcome State Fault Refusal} (h : Safe s)
    (hk : ∀ {t}, Safe t → SafeNext (k t)) :
    Safe (s.goes fn off val bit k) := .ite (.did h.clears (hk h.clears)) h.clears

theorem Safe.writePf {off : Nat} {val : Word64} (h : Safe s) :
    Safe (s.writePf off val) :=
  .ite h.writeHash
    (.ite h.writeFwctl
       (.ite (h.goes fun h => h.execDistLoad)
          (.ite h.writeRepctl
             (.ite h.writeStctl
                (.ite (h.goes fun h => h.execTenantReset)
                   (.ite (h.goes fun h => h.execPartitionRebuild)
                      (.ite
                         (.ite h.clears
                            (.ite (.did h.clears h.clears.execRouteOpen) (.did h.clears h.clears.execRouteClose)))
                         (.ite (h.goes fun h => h.execFirmwareStage)
                            (.ite (.did h h.execPodrtWrite) h.plainWrite)))))))))

theorem Safe.writeReg {fn off : Nat} {val : Word64} (h : Safe s) :
    Safe (s.writeReg fn off val) :=
  .ite h
    (.ite (.did h h.execFaultptrTailWrite)
       (.ite (.did h h.execShootdown)
          (.ite h.plainWrite.heapChanged
             (.ite (.did h (.ite h.execPagedoneFail h.execPagedoneRelease))
                (.ite (.ite (.did h h.execQbell) h.writeQbase)
                   (.ite h.plainWrite.postFatals
                      (.ite (h.goes fun h => h.execAttestRequest)
                         (.ite (h.goes fun h => h.execDbgctlHalt)
                            (.ite (.did h h.execMbinWrite) (.ite h.plainWrite (.ite h.writePf h)))))))))))

theorem Safe.execRegisterWrite {fn off : Nat} {val : Word64} (h : Safe s) :
    SafeNext (execRegisterWrite fn off val s) := .onWrite h h.writeReg

/-! ## The operations of Machine/CrossLane -/

theorem Safe.execVote {w : VrWord} (h : Safe s) : SafeNext (execVote w s) := .ite h.issueVector h.issuePred

theorem Safe.issuePush {i : Instr} {v : VectorOp} {entry : Cohort → List Word32} (h : Safe s) :
    SafeNext (issuePush i s v entry) := by
  unfold Machine.issuePush
  refine h.onCohort fun _ => ?_
  split
  · exact h.takeTrap
  · exact .ite h.ownTrap h.finish

theorem Safe.execQput {w : UrWord} (h : Safe s) :
    SafeNext (execQput w s) := h.onCohort fun _ => .ite h.ownTrap h.finish

theorem Safe.execQget {w : VrWord} (h : Safe s) : SafeNext (execQget w s) := by
  unfold Machine.execQget
  refine h.onCohort fun _ => ?_
  dsimp only
  split
  · exact h.takeTrap
  · split
    · exact h.ownTrap
    · exact h.finish

theorem Safe.issuePop {i : Instr} {res : Cohort → List Word32 → List (Nat × Nat)} (h : Safe s) :
    SafeNext (issuePop i s res) := by
  unfold Machine.issuePop
  refine h.onCohort fun _ => ?_
  split
  · exact h.ownTrap
  · exact h.finish

/-! ## The operations of Machine/Dispatch -/

/-- Every word and every event (R263 and the events of the agents): one arm for each constructor. -/
theorem Safe.exec {i : Instr} (h : Safe s) : SafeNext (exec i s) := by
  unfold Machine.exec
  cases i with
  | uadd | uaddImm | usub | umul | umulImm | umulh | umad | udiv | urem | umin | umax | uand | uandImm | uor
  | uorImm | uxor | uxorImm | uandn | ushl | ushr | urot | ucmp | ucmpImm | usel | umov | umovImm | uext | upop
  | uclz | ubfx | ulea | ucat | srd => exact h.issueUniform
  | bra => exact h.execBra
  | brc => exact h.execBrc
  | brv => exact h.execBrv
  | call => exact h.execCall
  | callr => exact h.execCallr
  | ret => exact h.execRet
  | jtab => exact h.execJtab
  | exitW => exact h.execExitW
  | trap => exact h.execTrap
  | brk => exact h.execBrk
  | nop => exact h.execNop
  | yield => exact h.execYield
  | qput => exact h.execQput
  | qget => exact h.execQget
  | qret | vredQ => exact h.issuePush
  | qrcvB64 | qrcvB32 => exact h.issuePop
  | vadd | vaddImm | vsub | vmul | vmulImm | vmulh | vmad | vmin | vmax | vabs | vand | vandImm | vor | vorImm
  | vxor | vxorImm | vandn | vshl | vshr | vrot | vsel | vselImm | vmov | vmovImm | vext | vpop | vclz | vbfx
  | vbfi | vdot4 | fadd | faddImm | fsub | fmul | fmulImm | ffma | fmin | fminImm | fmax | fmaxImm | fabs | fneg
  | fcsgn | fclass | frcp | frsq | fsqrt | fexp2 | flog2 | fsin | fcos | ftanh | fexp | cvt | cvtp | bpack | bunpk
  | bscl | cvtx | shfl | vred | vscan | vbcast | srdv => exact h.issueVector
  | vcmp | vcmpImm | fcmp => exact h.issuePred
  | vote => exact h.execVote
  | ld => exact h.execLd
  | st => exact h.execSt
  | pref => exact h.execPref
  | aadd | amin | amax | aand | aor | axor | axch | acas => exact h.execAtomic
  | xadd => exact h.execXadd
  | xrd => exact h.execXrd
  | xst => exact h.execXst
  | fence => exact h.execFence
  | fenceSc => exact h.execFenceSc
  | fenceScPod => exact h.execFenceScPod
  | fenceFmt => exact h.execFenceFmt
  | mma => exact h.execMma
  | tileAlloc => exact h.execTileAlloc
  | tileFree => exact h.execTileFree
  | tileZero => exact h.execTileZero
  | tileLd => exact h.execTileLd
  | tileSt => exact h.execTileSt
  | tileDrain => exact h.execTileDrain
  | tileRd => exact h.execTileRd
  | tileWr => exact h.execTileWr
  | tileMov => exact h.execTileMov
  | barInit => exact h.execBarInit
  | barArrive => exact h.execBarArrive
  | barWait => exact h.execBarWait
  | barInval => exact h.execBarInval
  | semInc => exact h.execSemInc
  | semWait => exact h.execSemWait
  | waitv => exact h.execWaitv
  | spawn => exact h.execSpawn
  | joinW => exact h.execJoinW
  | lwait => exact h.execLwait
  | copy | copy2d | gath | scat | coll => exact h.execEngine
  | engQ => exact h.execEngQ
  | srdMbin => exact h.execSrdMbin
  | swr => exact h.execSwr
  | dbg => exact h.execDbg
  | tlbinv => exact h.execTlbinv
  | icinv => exact h.execIcinv
  | tableWalk => exact h.execTableWalk
  | faultptrTailWrite => exact h.execFaultptrTailWrite
  | pagedoneRelease => exact h.execPagedoneRelease
  | pagedoneFail => exact h.execPagedoneFail
  | shootdown => exact h.execShootdown
  | shootdownAck => exact h.execShootdownAck
  | shootdownDone => exact h.execShootdownDone
  | shootdownTimeout => exact h.execShootdownTimeout
  | migrationWindow => exact h.execMigrationWindow
  | replicaInsert => exact h.execReplicaInsert
  | replicaRemove => exact h.execReplicaRemove
  | replicaRemoveAll => exact h.execReplicaRemoveAll
  | replicaReservedOp => exact h.execReplicaReservedOp
  | replicaCommandDone => exact h.execReplicaCommandDone
  | translationRequest => exact h.execTranslationRequest
  | leaseGrant => exact h.execLeaseGrant
  | nack => exact h.execNack
  | notready => exact h.execNotready
  | ready => exact h.execReady
  | leaseRecall => exact h.execRecall
  | recallAck => exact h.execRecallAck
  | leaseExpiry => exact h.execLeaseExpiry
  | peerRead => exact h.execPeerRead
  | peerWrite => exact h.execPeerWrite
  | peerAtomic => exact h.execPeerAtomic
  | completion => exact h.execCompletion
  | peerRequestTimeout => exact h.execPeerRequestTimeout
  | linkCredit => exact h.execLinkCredit
  | flitRetry => exact h.execFlitRetry
  | sliceRequest => exact h.execSliceRequest
  | sectorFill => exact h.execSectorFill
  | l1Fill => exact h.execL1Fill
  | storeAck => exact h.execStoreAck
  | missStatusGrant => exact h.execMissStatusGrant
  | retryReissue => exact h.execRetryReissue
  | landing => exact h.execLanding
  | xstAccept => exact h.execXstAccept
  | dramRefresh => exact h.execDramRefresh
  | rowIdleClose => exact h.execRowIdleClose
  | hashOpen => exact h.execHashOpen
  | hashReady => exact h.execHashReady
  | hashMaskWrite => exact h.execHashMaskWrite
  | hashClose => exact h.execHashClose
  | formatWindowEnable => exact h.execFormatWindowEnable
  | formatWindowActive => exact h.execFormatWindowActive
  | formatWindowDisable => exact h.execFormatWindowDisable
  | formatFlushDone => exact h.execFormatFlushDone
  | registerWrite => exact h.execRegisterWrite
  | binAgeExpiry => exact h.execBinAgeExpiry
  | cobblerDrain => exact h.execCobblerDrain
  | recordSend => exact h.execRecordSend
  | recordData => exact h.execRecordData
  | ack => exact h.execAck
  | handoffTimeout => exact h.execHandoffTimeout
  | commit => exact h.execCommit
  | refuse => exact h.execRefuse
  | cellarExhaustion => exact h.execCellarExhaustion
  | placement => exact h.execPlacement
  | placementWaitTimeout => exact h.execPlacementWaitTimeout
  | splitWaitTimeout => exact h.execSplitWaitTimeout
  | priorityPreemption => exact h.execPriorityPreemption
  | haltRequest => exact h.execHaltRequest
  | issueSlotTake => exact h.execIssueSlotTake
  | teamMove => exact h.execTeamMove
  | qbell => exact h.execQbell
  | queueEnable => exact h.execQueueEnable
  | queueDisable => exact h.execQueueDisable
  | launchStart => exact h.execLaunchStart
  | teamCreate => exact h.execTeamCreate
  | launchComplete => exact h.execLaunchComplete
  | distLoad => exact h.execDistLoad
  | distLoadDone => exact h.execDistLoadDone
  | matrixUnitExecute => exact h.execMatrixUnitExecute
  | engineChunkDone => exact h.execEngineChunkDone
  | engineOpDone => exact h.execEngineOpDone
  | engineCheckpoint => exact h.execEngineCheckpoint
  | collectiveData => exact h.execCollectiveData
  | collectiveStageDone => exact h.execCollectiveStageDone
  | collectiveAbort => exact h.execCollectiveAbort
  | packageHeartbeat => exact h.execPackageHeartbeat
  | podTickSend => exact h.execPodTickSend
  | podTick => exact h.execPodTick
  | podTickAdopt => exact h.execPodTickAdopt
  | slotEdge => exact h.execSlotEdge
  | frameBoundary => exact h.execFrameBoundary
  | wheelTurn => exact h.execWheelTurn
  | wheelPosition => exact h.execWheelPosition
  | engineOverrun => exact h.execEngineOverrun
  | drainWindowEnd => exact h.execDrainWindowEnd
  | slotTableLoad => exact h.execSlotTableLoad
  | slotTableEnable => exact h.execSlotTableEnable
  | slotTableDisable => exact h.execSlotTableDisable
  | partitionRebuild => exact h.execPartitionRebuild
  | tenantReset => exact h.execTenantReset
  | tenantResetDone => exact h.execTenantResetDone
  | arbiterMessage => exact h.execArbiterMessage
  | selfTest => exact h.execSelfTest
  | dbgctlHalt => exact h.execDbgctlHalt
  | mbinWrite => exact h.execMbinWrite
  | mboutRead => exact h.execMboutRead
  | hostRead => exact h.execHostRead
  | hostWrite => exact h.execHostWrite
  | routeOpen => exact h.execRouteOpen
  | routeReady => exact h.execRouteReady
  | podrtWrite => exact h.execPodrtWrite
  | routeClose => exact h.execRouteClose
  | firmwareStage => exact h.execFirmwareStage
  | attestRequest => exact h.execAttestRequest
  | attestDone => exact h.execAttestDone
  | packageBoot => exact h.execPackageBoot
  | thermalThrottle => exact h.execThermalThrottle
  | thermalShutdown => exact h.execThermalShutdown
  | diePowerGating => exact h.execDiePowerGating
  | fabricPortStateChange => exact h.execFabricPortStateChange
  | firmwareStageDone => exact h.execFirmwareStageDone
  | partitionRebuildDone => exact h.execPartitionRebuildDone

/-! ## The operations of Machine/Step -/

theorem SafeNext.settled {o : Host.Outcome State Fault Refusal} (ho : SafeNext o) : SafeNext (settled o) := by
  cases o with
  | next t => exact .next (ho t rfl).after
  | fault | refused => nofun

theorem Safe.wordStep {c : Cohort} (h : Safe s) : SafeNext (wordStep c s) := by
  unfold Machine.wordStep
  split
  · exact .next h.breakAt
  · split
    · split
      · exact .ite (.next h.fetchKeep.stateError) (.exec (.of_eq rfl rfl h.fetchKeep))
      · exact .next h.fetchKeep.takeTrap
    · exact .next h.fetchFailed

theorem Safe.agentStep (h : Safe s) : SafeNext (agentStep s) := h.exec

theorem Safe.turnStep (h : Safe s) : SafeNext (turnStep s) := by
  unfold Machine.turnStep
  refine .ite h.agentStep ?_
  split
  · split
    · next ht => exact .next (h.boundary ht)
    · exact .ite (.next h.headerStep) h.wordStep
  · exact h.agentStep

theorem Safe.step (h : Safe s) : SafeNext (step s) := by
  unfold Machine.step
  refine .ite .fault ?_
  split
  · exact .settled (Safe.exec h)
  · exact .settled (Safe.turnStep h)
  · exact .settled h.turnStep

/-- Settles O52: every operation that a step is made of keeps the lists of cells in form (R5, R12, R468). -/
theorem memoryForm : Obligations.MemoryForm := by
  unfold Obligations.MemoryForm
  exact fun s t hs ht => hs.step t ht

end

end Sys2Proof
end

section
/-! SUPPORT. The registers at reset (O51) and an accepted write of a counter of DRAM's traffic (O50). -/

namespace Sys2Proof.Machine

open Sys2Proof

/-! ## The register maps, range by range (R7) -/

theorem regSpec_of_fnRegSpec {fn off : Nat} {r : RegSpec} (ho : off % 8 = 0) (h : fnRegSpec fn off = some r) :
    regSpec fn off = some r := by
  simp [regSpec, ho, h]

theorem fnRegSpec_eq_none {fn off : Nat} (hl : 0x2000 ≤ off) (hh : off < 0x10000) : fnRegSpec fn off = none := by
  simp only [fnRegSpec, Bool.and_eq_true, Bool.or_eq_true, decide_eq_true_eq, beq_iff_eq]
  repeat rw [if_neg (by omega)]

theorem regSpec_eq_pfRegSpec {off : Nat} (ho : off % 8 = 0) (hl : 0x2000 ≤ off) (hh : off < 0x10000) :
    regSpec 0 off = pfRegSpec off := by
  simp [regSpec, ho, fnRegSpec_eq_none hl hh]

theorem fnRegSpec_context {fn off : Nat} (hl : 0x1000 ≤ off) (hh : off < 0x1400) :
    fnRegSpec fn off = ctxRegSpec (off % 0x80) := by
  simp [fnRegSpec, hl, hh]

theorem pfRegSpec_hashch {off : Nat} (hl : 0x2000 ≤ off) (hh : off < 0x2100) (ho : off % 0x40 < 0x28) :
    pfRegSpec off = some { reset := 0x100 <<< (off % 0x40 / 8), rw := maskBits 35 8 } := by
  simp only [pfRegSpec, Bool.and_eq_true, Bool.or_eq_true, decide_eq_true_eq, beq_iff_eq]
  rw [if_neg (by omega), if_pos ⟨hl, hh⟩, if_pos ho]

theorem pfRegSpec_hashpc {off : Nat} (hl : 0x2000 ≤ off) (hh : off < 0x2100) (ho : off % 0x40 = 0x28) :
    pfRegSpec off = some { reset := 0x80000, rw := maskBits 35 8 } := by
  simp only [pfRegSpec, Bool.and_eq_true, Bool.or_eq_true, decide_eq_true_eq, beq_iff_eq]
  rw [if_neg (by omega), if_pos ⟨hl, hh⟩, if_neg (by omega), if_pos ho]

theorem pfRegSpec_partition {off : Nat} (hl : 0xA000 ≤ off) (hh : off < 0xE040) :
    pfRegSpec off = partRegSpec (off % 0x40) := by
  simp only [pfRegSpec, Bool.and_eq_true, Bool.or_eq_true, decide_eq_true_eq, beq_iff_eq]
  repeat rw [if_neg (by omega)]
  rw [if_pos ⟨hl, hh⟩]

theorem pfRegSpec_quadMap {off : Nat} (hl : 0xE100 ≤ off) (hh : off < 0xE500) :
    pfRegSpec off = some { reset := 0x80 + off % 0x100 / 8 } := by
  simp only [pfRegSpec, Bool.and_eq_true, Bool.or_eq_true, decide_eq_true_eq, beq_iff_eq]
  repeat rw [if_neg (by omega)]
  rw [if_pos ⟨hl, hh⟩]

/-! ## The registers at reset -/

theorem reset_reg {fn off : Nat} {r : RegSpec} (h : regSpec fn off = some r) :
    State.reset.reg fn off = r.reset % 2 ^ 64 := by
  simp [State.reg, State.regRaw, State.reset, h]

theorem reset_reg_pf {off : Nat} {r : RegSpec} (ho : off % 8 = 0) (hl : 0x2000 ≤ off) (hh : off < 0x10000)
    (h : pfRegSpec off = some r) : State.reset.reg 0 off = r.reset % 2 ^ 64 :=
  reset_reg ((regSpec_eq_pfRegSpec ho hl hh).trans h)

/-- HASHCH0 to HASHCH4 select one address bit each (R76). -/
theorem reset_reg_hashch (die j : Nat) (hd : die < 4) (hj : j < 5) :
    State.reset.reg 0 (0x2000 + die * 0x40 + j * 8) = 2 ^ (8 + j) := by
  have hindex : (0x2000 + die * 0x40 + j * 8) % 0x40 / 8 = j := by omega
  rw [reset_reg_pf (by omega) (by omega) (by omega) (pfRegSpec_hashch (by omega) (by omega) (by omega)), hindex,
    Nat.shiftLeft_eq, Nat.pow_add]
  exact Nat.mod_eq_of_lt (by rw [← Nat.pow_add 2 8 j]; exact Nat.pow_lt_pow_right (by decide) (by omega))

theorem reset_reg_hashpc (die : Nat) (hd : die < 4) : State.reset.reg 0 (0x2028 + die * 0x40) = 2 ^ 19 :=
  reset_reg_pf (by omega) (by omega) (by omega) (pfRegSpec_hashpc (by omega) (by omega) (by omega))

theorem reset_reg_partition {fn o : Nat} {r : RegSpec} (hf : fn < 257) (ho : o < 0x40) (h8 : o % 8 = 0)
    (h : partRegSpec o = some r) : State.reset.reg 0 (0xA000 + o + fn * 0x40) = r.reset % 2 ^ 64 := by
  have hoff : (0xA000 + o + fn * 0x40) % 0x40 = o := by omega
  refine reset_reg_pf (by omega) (by omega) (by omega) ?_
  rw [pfRegSpec_partition (by omega) (by omega), hoff, h]

theorem reset_reg_quadMap (die q : Nat) (hd : die < 4) (hq : q < 32) :
    State.reset.reg 0 (0xE100 + die * 0x100 + q * 8) = 0x80 + q := by
  rw [reset_reg_pf (by omega) (by omega) (by omega) (pfRegSpec_quadMap (by omega) (by omega))]
  dsimp only
  omega

/-- MIGCTL of every context slot (R44). -/
theorem reset_reg_migctl (fn slot : Nat) (hs : slot < 8) :
    State.reset.reg fn (0x1038 + slot * 0x80) = 2 ^ 32 + 1000 * 2 ^ 16 + 64 := by
  have hoff : (0x1038 + slot * 0x80) % 0x80 = 0x38 := by omega
  have hspec : fnRegSpec fn (0x1038 + slot * 0x80) = ctxRegSpec 0x38 := by
    rw [fnRegSpec_context (by omega) (by omega), hoff]
  exact reset_reg (regSpec_of_fnRegSpec (by omega) hspec)

/-! ## A counter written in the cycle in which it goes up (R481) -/

/-- A package after its boot, in whose present cycle the first counter of DRAM's traffic has gone up (R480). -/
def countedNow : State :=
  ({ State.reset with regs := [{ fn := 0, off := 0xF9F0, val := 1#64 }] }).dramCount 0xC0000

/-- The counter holds the increment besides the 0 that was written. -/
theorem write_countedNow :
    exec (.registerWrite 0 0xC0000 0#64) countedNow = .next (countedNow.setReg 0 0xC0000 1) := rfl

end Sys2Proof.Machine

namespace Sys2Proof

open Sys2Proof.Machine

/-- Settles O51: no register is stored at reset, so each reads the reset value that its map gives. -/
theorem resetState : Obligations.ResetState := by
  unfold Obligations.ResetState
  refine ⟨memory_wf_reset, rfl, rfl, rfl, rfl, rfl, reset_reg_quadMap, reset_reg_hashch, reset_reg_hashpc,
    fun fn hf => ⟨?fncfg, ?fnbud⟩, fun fn slot _ => reset_reg_migctl fn slot, ?lease, ?power, rfl⟩
  case fncfg => exact reset_reg_partition (o := 0x10) hf (by decide) (by decide) rfl
  case fnbud => exact reset_reg_partition (o := 0x18) hf (by decide) (by decide) rfl
  case lease => exact reset_reg (r := { reset := 250, rw := maskBits 15 0 }) rfl
  case power => exact reset_reg (r := { reset := 3000, rw := maskBits 11 0 }) rfl

/-- Refutes O50: an accepted write of a DRAM counter, which `plainRegister` admits, leaves more than the merged value
when the counter goes up in the same cycle (R481). -/
theorem not_registerRules : ¬ Obligations.RegisterRules := by
  unfold Obligations.RegisterRules
  rintro ⟨-, -, -, -, -, accepted, -⟩
  have hwrite := accepted countedNow 0 0xC0000 0#64 { rw := maskAll } (by decide) (by decide) (by decide) (by decide)
    (by decide)
  have hstate := Host.Outcome.next.inj (write_countedNow.symm.trans hwrite)
  have hreg := congrArg (State.reg · 0 0xC0000) hstate
  simp only [setReg_reg] at hreg
  exact absurd hreg (by decide)

end Sys2Proof
end

section
/-! SUPPORT. What the events of translation and of the fabric share (O53, O54): an event that finds its subject, bits and
fields of registers, and what an interrupt or a fold leaves. -/

namespace Sys2Proof.Machine

open Sys2Proof

/-! ## Events that find their subject -/

theorem onSubject_pos {s t : State} {ok : Bool} (h : ok = true) : onSubject s ok t = .next t := by
  rw [h, onSubject_true]

theorem onWrite_pos {s t : State} {ok : Bool} (h : ok = true) (hb : s.booted = true) : onWrite ok s t = .next t :=
  (onWrite_next_iff ..).2 (by simp [h, hb])

theorem onFound_of_eq_some {α : Type} {s : State} {x : Option α} {a : α} {k : α → State} (h : x = some a) :
    onFound s x k = .next (k a) := by
  rw [h, onFound_some]

@[simp] theorem isFn_iff (fn : Nat) : isFn fn = true ↔ fn < 257 := decide_eq_true_iff
@[simp] theorem isSlot_iff (slot : Nat) : isSlot slot = true ↔ slot < 8 := decide_eq_true_iff
@[simp] theorem isCtx_iff (ctx : Nat) : isCtx ctx = true ↔ ctx < 2056 := decide_eq_true_iff
@[simp] theorem isDie_iff (die : Nat) : isDie die = true ↔ die < 4 := decide_eq_true_iff

/-! ## The registers of a context and of a die (R23, R48) -/

theorem ctxOff_eq {slot : Nat} (o : Nat) (h : slot < 8) : ctxOff slot o = 0x1000 + slot * 0x80 + o := by
  unfold ctxOff slotOf
  omega

theorem ctxOff_slot {fn slot : Nat} (o : Nat) (h : slot < 8) : ctxOff (8 * fn + slot) o = 0x1000 + slot * 0x80 + o := by
  unfold ctxOff slotOf
  omega

theorem repframe_offset (die : Nat) : 0x3108 + die * 0x20 = repOff die 8 := by
  unfold repOff
  omega

theorem repctl_offset (die : Nat) : 0x3110 + die * 0x20 = repOff die 0x10 := by
  unfold repOff
  omega

theorem slice_or (x y hi lo : Nat) : slice (x ||| y) hi lo = slice x hi lo ||| slice y hi lo := by
  simp only [slice, Nat.shiftRight_or_distrib, Nat.or_mod_two_pow]

theorem slice_mod_two_pow {hi lo n : Nat} (x : Nat) (hh : hi < n) (hl : lo ≤ hi) : slice (x % 2 ^ n) hi lo = slice x hi lo := by
  apply Nat.eq_of_testBit_eq
  intro i
  simp only [slice, Nat.testBit_mod_two_pow, Nat.testBit_shiftRight]
  by_cases h : i < hi - lo + 1
  · simp [h, show lo + i < n by omega]
  · simp [h]

/-- Bits set outside a field leave it. -/
theorem regSet_field (s : State) (fn off : Nat) {bits hi lo : Nat} (hb : slice bits hi lo = 0) (hh : hi < 64) (hl : lo ≤ hi) :
    (s.regSet fn off bits).field fn off hi lo = s.field fn off hi lo := by
  rw [State.field, State.regSet, setReg_reg, slice_mod_two_pow _ hh hl, slice_or, hb, Nat.or_zero, State.field]

theorem regSet_bit_true (s : State) (fn off : Nat) {bits i : Nat} (hi : i < 64) (hb : bits.testBit i = true) :
    bitOf ((s.regSet fn off bits).reg fn off) i = true := by
  rw [regSet_bit _ _ _ _ _ hi, hb, Bool.or_true]

theorem regClear_bit_false (s : State) (fn off : Nat) {bits i : Nat} (hi : i < 64) (hb : bits.testBit i = true) :
    bitOf ((s.regClear fn off bits).reg fn off) i = false := by
  rw [regClear_bit _ _ _ _ _ hi, hb, Bool.not_true, Bool.and_false]

/-! ## Interrupts and folds -/

@[simp] theorem signal_shootdowns (s : State) (fn vec : Nat) : (s.signal fn vec).shootdowns = s.shootdowns := by
  unfold State.signal
  split
  · exact State.setReg_shootdowns ..
  · rfl

@[simp] theorem signal_tlbs (s : State) (fn vec : Nat) : (s.signal fn vec).tlbs = s.tlbs := by
  unfold State.signal
  split
  · exact State.setReg_tlbs ..
  · rfl

/-- What each operation of a fold keeps, the fold keeps. -/
theorem foldl_keeps {α β : Type} (p : State → β) {f : State → α → State} (hf : ∀ s a, p (f s a) = p s) (xs : List α) (s : State) :
    p (xs.foldl f s) = p s := by
  induction xs generalizing s with
  | nil => rfl
  | cons x xs ih => exact (ih (f s x)).trans (hf s x)

end Sys2Proof.Machine
end

section
/-! SUPPORT. The events of translation within the package (O53). -/

namespace Sys2Proof.Machine

open Sys2Proof

/-! ## Walks, fault rings and page releases -/

variable {s : State}

theorem exec_tableWalk {core ctx va : Nat} {acc : Access} (hcore : core < 512) (hctx : ctx < 2056)
    (hpaged : s.isPaged ctx va = true) (htable : bitOf (s.ctxReg ctx 0) 0 = true) :
    exec (.tableWalk core ctx va acc) s = .next (s.tlbFill (some core) (dieOf core) ctx va) :=
  onSubject_pos (by simp [hcore, hctx, hpaged, htable, Config.coreCount])

theorem exec_faultptrTailWrite {fn slot : Nat} {val : Word64} (hb : s.booted = true) (hf : fn < 257) (hs : slot < 8) :
    exec (.faultptrTailWrite fn slot val) s =
      .next (s.regField fn (0x1030 + slot * 0x80) 15 0 (val.toNat % 65536)).postFaults := by
  have hoff : 0x1030 + slot * 0x80 = ctxOff slot 0x30 := by
    rw [ctxOff_eq _ hs]
    omega
  rw [hoff]
  exact onWrite_pos (by simp [hf, hs]) hb

theorem exec_pagedoneRelease {fn : Nat} {val : Word64} {ctx lo hi : Nat} (hb : s.booted = true) (hf : fn < 257)
    (hok : bitOf val.toNat 63 = false) (hp : pageDone fn val.toNat = some (ctx, lo, hi)) :
    exec (.pagedoneRelease fn val) s = .next ((s.noteCollapse ctx lo hi).releasePages ctx lo hi) := by
  have hexec := onWrite_pos (ok := isFn fn && !bitOf val.toNat 63)
    (t := (s.noteCollapse ctx lo hi).releasePages ctx lo hi) (by simp [hf, hok]) hb
  change execPagedoneRelease fn val s = _
  rwa [execPagedoneRelease, hp]

theorem exec_pagedoneFail {fn : Nat} {val : Word64} {ctx lo hi : Nat} (hb : s.booted = true) (hf : fn < 257)
    (hfail : bitOf val.toNat 63 = true) (hp : pageDone fn val.toNat = some (ctx, lo, hi)) :
    exec (.pagedoneFail fn val) s =
      .next (((s.records.filter fun r => r.onPage ctx lo hi).foldl State.pageFail (s.dropFaults ctx lo hi)).settleMoves ctx lo hi
        fun _ => true) := by
  change execPagedoneFail fn val s = _
  rw [execPagedoneFail, hp]
  exact onWrite_pos (by simp [hf, hfail]) hb

/-! ## Counter windows (R44) -/

/-- No page of the context has to lose its W: each was written in the window. -/
theorem exec_migrationWindow {ctx : Nat} (hctx : ctx < 2056) (hdue : s.due (s.nextWindow ctx) = true)
    (hquiet : ∀ p ∈ s.collapsed, p.1 = ctx → p ∈ s.rdupWrites) :
    ∃ t, exec (.migrationWindow ctx) s = .next t ∧ (∀ a ∈ t.accessCounts, a.ctx ≠ ctx) ∧ (∀ h ∈ t.hinted, h.2.1 ≠ ctx) ∧
      t.regs = s.regs ∧ t.clock = max s.clock (s.nextWindow ctx) := by
  have hnone : (s.collapsed.filter fun p => p.1 == ctx && !s.rdupWrites.contains p) = [] := by
    simpa [List.filter_eq_nil_iff] using hquiet
  change ∃ t, execMigrationWindow ctx s = .next t ∧ _
  unfold execMigrationWindow
  dsimp only
  rw [hnone, onSubject_pos (by simp [hctx, hdue])]
  refine ⟨_, rfl, ?counts, ?hints, rfl, rfl⟩
  case counts => simp
  case hints => simp

/-! ## Shootdowns (R32 to R36) -/

theorem exec_shootdown_start {fn slot : Nat} {val : Word64} (hb : s.booted = true) (hf : fn < 257) (hs : slot < 8)
    (hfree : s.shootBusy (8 * fn + slot) = false) (hgood : shootBad val.toNat = false) :
    exec (.shootdown fn slot val) s = .next (s.startShootdown (8 * fn + slot) val.toNat) := by
  change execShootdown fn slot val s = _
  unfold execShootdown
  dsimp only
  rw [if_neg (by simp [hfree, hgood])]
  exact onWrite_pos (by simp [hf, hs]) hb

theorem exec_shootdown_reject {fn slot : Nat} {val : Word64} (hb : s.booted = true) (hf : fn < 257) (hs : slot < 8)
    (hrej : s.shootBusy (8 * fn + slot) = true ∨ shootBad val.toNat = true) :
    exec (.shootdown fn slot val) s = .next (s.regSet fn (0x1058 + slot * 0x80) 4) := by
  have hoff : 0x1058 + slot * 0x80 = ctxOff (8 * fn + slot) 0x58 := by
    rw [ctxOff_slot _ hs]
    omega
  change execShootdown fn slot val s = _
  unfold execShootdown
  dsimp only
  rw [if_pos (by simpa using hrej), hoff]
  exact onWrite_pos (by simp [hf, hs]) hb

theorem startShootdown_tlbs (ctx v : Nat) : (s.startShootdown ctx v).tlbs =
    s.tlbs.filter fun t => !(t.ctx == ctx && t.page < (shootRange v).2 && (shootRange v).1 < t.page + t.size) :=
  State.setReg_tlbs ..

theorem startShootdown_walkCache (ctx v : Nat) : (s.startShootdown ctx v).walkCache =
    s.walkCache.filter fun w => !(w.ctx == ctx && w.lo < (shootRange v).2 && (shootRange v).1 < w.lo + w.size) :=
  State.setReg_walkCache ..

theorem startShootdown_busy (ctx v : Nat) : bitOf ((s.startShootdown ctx v).ctxReg ctx 0x48) 16 = true :=
  regSet_bit_true _ _ _ (by decide) (by decide)

theorem startShootdown_drops (s : State) (ctx v : Nat) :
    (∀ x ∈ (s.startShootdown ctx v).tlbs, x.ctx = ctx → x.page < (shootRange v).2 → x.page + x.size ≤ (shootRange v).1) ∧
    (∀ x ∈ (s.startShootdown ctx v).walkCache, x.ctx = ctx → x.lo < (shootRange v).2 → x.lo + x.size ≤ (shootRange v).1) ∧
    bitOf ((s.startShootdown ctx v).ctxReg ctx 0x48) 16 = true := by
  refine ⟨fun x hx hctx hhi => ?tlbs, fun x hx hctx hhi => ?walks, startShootdown_busy ctx v⟩
  case tlbs =>
    rw [startShootdown_tlbs, List.mem_filter] at hx
    simpa [hctx, hhi] using hx.2
  case walks =>
    rw [startShootdown_walkCache, List.mem_filter] at hx
    simpa [hctx, hhi] using hx.2

theorem exec_shootdownAck {ctx : Nat} {agent : TlbOwner} {d : Shootdown}
    (hd : s.shootdowns.find? (fun d => d.ctx == ctx) = some d) (hw : agent ∈ d.waiting)
    (hidle : s.agentBusy agent d.epoch = false) :
    ∃ t, exec (.shootdownAck ctx agent) s = .next t ∧ t.pendingStores = (s.agentDrain agent d.epoch).pendingStores ∧
      t.tlbs = (s.agentDrain agent d.epoch).tlbs ∧ ∀ x ∈ t.shootdowns, x.ctx = ctx → agent ∉ x.waiting := by
  refine ⟨_, onFound_of_eq_some (Option.filter_eq_some_iff.2 ⟨hd, by simp [hw, hidle]⟩), rfl, rfl, ?_⟩
  rintro _ hx
  obtain ⟨x, -, rfl⟩ := List.mem_map.1 hx
  by_cases hctx : x.ctx = ctx <;> simp [hctx]

theorem exec_shootdownDone {ctx : Nat} {d : Shootdown}
    (hd : s.shootdowns.find? (fun d => d.ctx == ctx && d.waiting == []) = some d) :
    let s1 : State := { s with shootdowns := s.shootdowns.filter fun x => x.ctx != ctx }
    exec (.shootdownDone ctx) s = .next ((((s1.regField (fnOf ctx) (ctxOff ctx 0x48) 15 0
      ((s1.field (fnOf ctx) (ctxOff ctx 0x48) 15 0 + 1) % 65536)).regClear (fnOf ctx) (ctxOff ctx 0x48) (2 ^ 16)).shootWake ctx).remapped
      ctx d.lo d.hi) :=
  onFound_of_eq_some hd

theorem exec_shootdownTimeout {ctx : Nat} {d : Shootdown}
    (hd : s.shootdowns.find? (fun d => d.ctx == ctx && !d.late && s.due (d.since + 50000)) = some d) :
    ∃ t, exec (.shootdownTimeout ctx) s = .next t ∧ (∀ x ∈ t.shootdowns, x.ctx = ctx → x.late = true) ∧ t.tlbs = s.tlbs := by
  refine ⟨_, onFound_of_eq_some hd, ?late, ?tlbs⟩
  case late =>
    rw [foldl_keeps State.shootdowns fun t _ => signal_shootdowns t 0 67, State.regSet, State.setReg_shootdowns]
    intro _ hx
    obtain ⟨x, -, rfl⟩ := List.mem_map.1 hx
    by_cases hctx : x.ctx = ctx <;> simp [hctx]
  case tlbs => exact (foldl_keeps State.tlbs (fun t _ => signal_tlbs t 0 67) _ _).trans (State.setReg_tlbs ..)

/-! ## Replicas (R46, R48) -/

@[simp] theorem repResult_replicas (s : State) (die code : Nat) : (s.repResult die code).replicas = s.replicas := by
  simp [State.repResult, State.regSet, State.regField]

theorem repResult_code (s : State) (die : Nat) {code : Nat} (h : code < 16) :
    (s.repResult die code).field 0 (repOff die 0x10) 15 12 = code := by
  rw [State.repResult, regSet_field _ _ _ (by decide) (by decide) (by decide), regField_field _ _ _ _ _ _ (by decide) (by decide)]
  exact Nat.mod_eq_of_lt h

theorem repResult_busy (s : State) (die code : Nat) : bitOf ((s.repResult die code).reg 0 (repOff die 0x10)) 8 = true :=
  regSet_bit_true _ _ _ (by decide) (by decide)

theorem execReplica_busy {die : Nat} {k : State} (hbusy : bitOf (s.reg 0 (repOff die 0x10)) 8 = true) :
    execReplica die s k = .next s := by
  rw [execReplica, if_pos hbusy]
  exact (onWrite_next_iff ..).2 (by simp)

theorem execReplica_free {die : Nat} {k : State} (hb : s.booted = true) (hd : die < 4)
    (hfree : bitOf (s.reg 0 (repOff die 0x10)) 8 = false) : execReplica die s k = .next k := by
  rw [execReplica, if_neg (by simp [hfree])]
  exact onWrite_pos (by simp [hd]) hb

/-- Every command of REPCTL is one of `execReplica`. -/
theorem exec_replica_busy {i : Instr} {die : Nat}
    (hi : i ∈ [Instr.replicaInsert die, .replicaRemove die, .replicaRemoveAll die, .replicaReservedOp die])
    (hbusy : bitOf (s.reg 0 (repOff die 0x10)) 8 = true) : exec i s = .next s := by
  simp only [List.mem_cons, List.not_mem_nil, or_false] at hi
  rcases hi with rfl | rfl | rfl | rfl
  all_goals exact execReplica_busy hbusy

theorem repBad_eq_false {die : Nat} (h : s.field 0 (repOff die 0) 62 61 ≠ 3) : s.repBad die = false :=
  beq_eq_false_iff_ne.2 h

variable {die size ctx page : Nat}

theorem exec_replicaInsert (hb : s.booted = true) (hd : die < 4) (hfree : bitOf (s.reg 0 (repOff die 0x10)) 8 = false)
    (hkey : s.repKey die = (size, ctx, page)) (hsize : s.field 0 (repOff die 0) 62 61 ≠ 3) (haligned : page % size = 0)
    (hroom : s.replicas.countP (fun r => r.die == die && fnOf r.ctx == fnOf ctx) < s.quota 4096 (fnOf ctx))
    (hnew : ∀ r ∈ s.replicas, r.die = die → r.ctx = ctx → ¬ (r.page < page + size ∧ page < r.page + r.size))
    (hframe : s.repFrameBad die (fnOf ctx) size = false) :
    exec (.replicaInsert die) s = .next
      ({ s with replicas := { die, ctx, page, size, frame := s.reg 0 (repOff die 8) } :: s.replicas }.repResult die 0) := by
  change execReplicaInsert die s = _
  have hdup : ¬ (s.replicas.any fun r => r.die == die && r.ctx == ctx && r.page < page + size && page < r.page + r.size) = true := by
    simpa [and_assoc] using hnew
  rw [execReplicaInsert, hkey]
  dsimp only
  rw [execReplica_free hb hd hfree, if_neg (by simp [repBad_eq_false hsize, haligned]), if_neg (by simp [hroom]),
    if_neg hdup, if_neg (by simp [hframe])]

theorem exec_replicaRemove (hb : s.booted = true) (hd : die < 4) (hfree : bitOf (s.reg 0 (repOff die 0x10)) 8 = false)
    (hkey : s.repKey die = (size, ctx, page)) (hsize : s.field 0 (repOff die 0) 62 61 ≠ 3)
    (hfound : ∃ r ∈ s.replicas, r.die = die ∧ r.ctx = ctx ∧ r.page = page) :
    exec (.replicaRemove die) s = .next
      ({ s with replicas := s.replicas.filter fun r => !(r.die == die && r.ctx == ctx && r.page == page) }.repResult die 0) := by
  change execReplicaRemove die s = _
  rw [execReplicaRemove, hkey]
  dsimp only
  rw [execReplica_free hb hd hfree, if_neg (by simp [repBad_eq_false hsize]), if_pos (by simpa [and_assoc] using hfound)]

theorem exec_replicaRemoveAll (hb : s.booted = true) (hd : die < 4) (hfree : bitOf (s.reg 0 (repOff die 0x10)) 8 = false)
    (hkey : s.repKey die = (size, ctx, page)) (hsize : s.field 0 (repOff die 0) 62 61 ≠ 3) :
    exec (.replicaRemoveAll die) s = .next
      ({ s with replicas := s.replicas.filter fun r => !(r.die == die && r.ctx == ctx) }.repResult die 0) := by
  change execReplicaRemoveAll die s = _
  rw [execReplicaRemoveAll, hkey]
  dsimp only
  rw [execReplica_free hb hd hfree, if_neg (by simp [repBad_eq_false hsize])]

theorem exec_replicaCommandDone (hd : die < 4) (hbusy : bitOf (s.reg 0 (repOff die 0x10)) 8 = true) :
    exec (.replicaCommandDone die) s = .next (s.regClear 0 (repOff die 0x10) 0x100) :=
  onSubject_pos (by simp [hd, hbusy])

end Sys2Proof.Machine

namespace Sys2Proof

open Sys2Proof.Machine

/-- Settles O53: each event does the one thing that its rule says; a replica command answers through `State.repResult`. -/
theorem translationEvents : Obligations.TranslationEvents := by
  unfold Obligations.TranslationEvents
  simp only [repctl_offset, repframe_offset]
  refine ⟨fun _ _ _ _ _ => exec_tableWalk, fun _ _ _ _ => exec_faultptrTailWrite, fun _ _ _ _ _ _ => exec_pagedoneRelease,
    fun _ _ _ _ _ _ => exec_pagedoneFail, fun _ _ => exec_migrationWindow, fun _ _ _ _ => exec_shootdown_start,
    fun _ _ _ _ => exec_shootdown_reject, fun _ _ _ _ => exec_shootdownAck, fun _ _ _ => exec_shootdownDone,
    fun _ _ _ => exec_shootdownTimeout, fun _ _ _ hi _ _ => exec_replica_busy hi, ?insert, ?remove, ?removeAll, ?reserved, ?done,
    startShootdown_drops⟩
  case insert =>
    intro s die size ctx page hb hd hfree hkey hsize haligned hroom hnew hframe
    exact ⟨_, exec_replicaInsert hb hd hfree hkey hsize haligned hroom hnew hframe, repResult_replicas .., repResult_code _ _ (by decide),
      repResult_busy ..⟩
  case remove =>
    intro s die size ctx page hb hd hfree hkey hsize hfound
    exact ⟨_, exec_replicaRemove hb hd hfree hkey hsize hfound, repResult_replicas .., repResult_code _ _ (by decide), repResult_busy ..⟩
  case removeAll =>
    intro s die size ctx page hb hd hfree hkey hsize
    refine ⟨_, exec_replicaRemoveAll hb hd hfree hkey hsize, ?_, repResult_code _ _ (by decide), repResult_busy ..⟩
    rintro r hr ⟨hdie, hctx⟩
    rw [repResult_replicas, List.mem_filter] at hr
    simp [hdie, hctx] at hr
  case reserved =>
    intro s die hb hd hfree
    exact ⟨_, execReplica_free hb hd hfree, repResult_replicas .., repResult_code _ _ (by decide), repResult_busy ..⟩
  case done =>
    intro s die hd hbusy
    exact ⟨_, exec_replicaCommandDone hd hbusy, State.setReg_replicas .., regClear_bit_false _ _ _ (by decide) (by decide)⟩

end Sys2Proof
end

section
/-! SUPPORT. The events of leases, peers, links and routes (O54). -/

namespace Sys2Proof.Machine

open Sys2Proof

@[simp] theorem isPort_iff (port : Nat) : isPort port = true ↔ port < 20 := decide_eq_true_iff

/-! ## What the operations of the fabric keep -/

theorem reg_of_regs {s t : State} (h : t.regs = s.regs) (fn off : Nat) : t.reg fn off = s.reg fn off := by
  unfold State.reg State.regRaw
  rw [h]

@[simp] theorem dispatchReq_regs (s : State) (r : PeerReq) : (s.dispatchReq r).regs = s.regs := by
  unfold State.dispatchReq
  dsimp only
  split <;> rfl

@[simp] theorem askAs_regs (s : State) (uid : Nat) (core : Option Nat) (die ctx : Nat) (a : Ask) :
    (s.askAs uid core die ctx a).regs = s.regs := by
  unfold State.askAs
  dsimp only
  split
  · rfl
  · split
    · rfl
    · exact dispatchReq_regs ..

@[simp] theorem askAgain_regs (s : State) (r : PeerReq) : (s.askAgain r).regs = s.regs := askAs_regs ..

@[simp] theorem settleAbort_regs (s : State) (r : PeerReq) : (s.settleAbort r).regs = s.regs := by
  unfold State.settleAbort
  split
  · rfl
  · dsimp only
    split <;> rfl

@[simp] theorem settleAborts_regs (s : State) : s.settleAborts.regs = s.regs := foldl_keeps State.regs settleAbort_regs ..

@[simp] theorem ackRecalls_regs (s : State) : s.ackRecalls.regs = s.regs := foldl_keeps State.regs (by intros; rfl) ..
@[simp] theorem ackRecalls_rtc (s : State) : s.ackRecalls.rtc = s.rtc := foldl_keeps State.rtc (by intros; rfl) ..

@[simp] theorem answered_regs (s : State) : s.answered.regs = s.regs := (ackRecalls_regs _).trans (settleAborts_regs s)

@[simp] theorem signal_portsDown (s : State) (fn vec : Nat) : (s.signal fn vec).portsDown = s.portsDown := by
  unfold State.signal
  split
  · exact State.setReg_portsDown ..
  · rfl

variable {s : State}

/-! ## Translation for peers (R49 to R51) -/

theorem exec_translationRequest_unknown {pkg fn addr txn : Nat} (h : s.importEntry pkg fn = none) :
    exec (.translationRequest pkg fn addr txn) s = .next ((s.importAsk pkg fn).sendFlit 9 pkg 0 txn 0 []) := by
  change Host.Outcome.next (s.answerTranslation pkg fn addr txn) = _
  rw [State.answerTranslation, h]

theorem exec_translationRequest_granted {u : State} {pkg fn addr txn ctx : Nat} {w : Bool} {pa : Nat} {wr : Bool}
    (hentry : s.importEntry pkg fn = some (ctx, w)) (hu : (s.importAsk pkg fn).walkNote none 0 ctx (faultPage addr) = u)
    (hreset : u.resets.contains (fnOf ctx) = false) (hrecall : u.recalling ctx (faultPage addr) = false)
    (hmove : (ctx, faultPage addr) ∉ u.moving) (hframe : u.exportXlate ctx addr = .frame pa wr) :
    ∃ t l, exec (.translationRequest pkg fn addr txn) s = .next t ∧ t.leases = l :: u.leases ∧ l.pkg = pkg ∧ l.fn = fn ∧
      l.ctx = ctx ∧ l.frame = pa ∧ l.writable = (wr && w) ∧ l.recalled = false ∧ u.podTick < l.expiry := by
  change ∃ t l, Host.Outcome.next (s.answerTranslation pkg fn addr txn) = _ ∧ _
  rw [State.answerTranslation, hentry]
  dsimp only
  rw [hu, if_neg (Bool.eq_false_iff.1 hreset), if_neg (by simp [hrecall, hmove]), hframe]
  exact ⟨_, _, rfl, rfl, rfl, rfl, rfl, rfl, rfl, rfl, Nat.lt_add_of_pos_right (by omega)⟩

variable {txn : Nat} {r : PeerReq}

theorem translation_found (hr : s.peerReq? txn = some r) (hk : r.kind = .translate) :
    (s.peerReq? txn).filter (fun r => r.kind == .translate) = some r :=
  Option.filter_eq_some_iff.2 ⟨hr, beq_iff_eq.2 hk⟩

theorem exec_leaseGrant {frame : Nat} {wr : Bool} {lease expiry : Nat} (hr : s.peerReq? txn = some r)
    (hk : r.kind = .translate) (hl : r.lane < postedLane) :
    let x : RtcEntry := { die := r.die, ctx := r.ctx, pkg := r.pkg, page := faultPage r.page, frame, writable := wr, lease, expiry
                          granted := s.podTick }
    let s0 := (s.dropReq txn).noteLease r.pkg lease r.fn expiry
    exec (.leaseGrant txn frame wr lease expiry) s = .next ((if s.podTick + 1 < expiry then s0.rtcPut x
      else { s0 with oneTime := s0.oneTime ++ [(r.uid, x)] }).answered) := by
  intro x s0
  have hlane : ¬ (r.lane == resendLane) = true := by
    rw [beq_iff_eq]
    exact Nat.ne_of_lt (Nat.lt_succ_of_lt hl)
  refine (onFound_of_eq_some (translation_found hr hk)).trans ?_
  dsimp only
  rw [if_neg hlane, if_pos hl]
  by_cases honce : s.podTick + 1 < expiry
  · rw [if_pos (by simpa using honce), if_pos honce]
  · rw [if_neg (by simpa using honce), if_neg honce]

theorem exec_nack (hr : s.peerReq? txn = some r) : exec (.nack txn) s = .next (s.nackReq r).answered := by
  change execNack txn s = _
  rw [execNack, hr]

theorem exec_notready {c : Cohort} (hr : s.peerReq? txn = some r) (hk : r.kind = .translate) (hl : r.lane < postedLane)
    (hc : (s.dropReq txn).cohort? r.uid = some c) :
    let s1 := s.dropReq txn
    let s2 := s1.faultHere { c with wait := .none } (s1.wordAt c) ⟨4, r.va, 0, s1.leafLevel r.ctx r.va, r.acc⟩ [r.lane]
    exec (.notready txn) s = .next { s2 with faults := s2.faults.map fun (e : FaultEntry) =>
      if e.die == r.die && e.ctx == r.ctx && e.page == faultPage r.va && e.code == 4 then
        { e with peer := some (r.pkg, faultPage r.page) } else e }.answered := by
  intro s1 s2
  have hwait : s1.notReady r = s2 := by
    rw [State.notReady, hc]
  refine (onFound_of_eq_some (translation_found hr hk)).trans ?_
  dsimp only
  rw [if_neg (Nat.not_le_of_lt hl), hwait]

theorem exec_ready {pkg page : Nat} :
    let waits : List FaultEntry := s.faults.filter fun e => e.peer == some (pkg, faultPage page)
    let t : State := waits.foldl (fun (t : State) e => t.releasePages e.ctx e.page (e.page + 2 ^ 16)) s
    exec (.ready pkg page) s = .next (((t.peerReqs.filter fun r => r.strayed r.ctx pkg (faultPage page)).foldl State.askAgain
      t).answered) := rfl

/-! ## Recalls (R52, R53) -/

/-- A message without a payload is one flit. -/
theorem messageFlits_nil (kind dst src fn tag lease : Nat) : messageFlits kind dst src fn tag lease [] =
    [{ kind, dst, src, fn, tag, lease, payload := [], follow := 0, left := false }] := rfl

theorem exec_leaseRecall_own {lease : Nat} {l : Lease} (hl : s.leases.find? (fun l => l.id == lease) = some l) :
    ∃ t, exec (.leaseRecall s.pkgNum lease) s = .next t ∧ (∀ x ∈ t.leases, x.id = lease → x.recalled = true) ∧
      (l.ctx, l.page) ∈ t.moving ∧
      t.fabricOut = s.fabricOut ++ [{ kind := 10, dst := l.pkg, src := s.pkgNum, fn := fnOf l.ctx, tag := 0, lease, payload := [], follow := 0, left := false }] := by
  change ∃ t, execRecall s.pkgNum lease s = .next t ∧ _
  rw [execRecall, if_pos (beq_self_eq_true _)]
  refine ⟨_, onFound_of_eq_some hl, ?recalled, ?moving, congrArg (s.fabricOut ++ ·) (messageFlits_nil ..)⟩
  case recalled =>
    intro _ hx
    obtain ⟨x, -, rfl⟩ := List.mem_map.1 hx
    by_cases hid : x.id = lease <;> simp [hid]
  case moving =>
    change _ ∈ if s.moving.contains (l.ctx, l.page) then _ else _
    split
    next h => simpa using h
    next => exact List.mem_cons_self

theorem exec_leaseRecall_other {pkg lease : Nat} (hpkg : pkg ≠ s.pkgNum) :
    ∃ t, exec (.leaseRecall pkg lease) s = .next t ∧ ∀ x ∈ t.rtc, ¬ (x.pkg = pkg ∧ x.lease = lease) := by
  have hdropped : ∀ x ∈ s.rtc.filter fun x => !(x.pkg == pkg && x.lease == lease), ¬ (x.pkg = pkg ∧ x.lease = lease) := by
    rintro x hx ⟨rfl, rfl⟩
    simp at hx
  change ∃ t, execRecall pkg lease s = .next t ∧ _
  rw [execRecall, if_neg (by simpa using hpkg)]
  dsimp only
  split
  next => exact ⟨_, rfl, hdropped⟩
  next => exact ⟨_, rfl, by rwa [ackRecalls_rtc]⟩

theorem exec_recallAck {pkg lease : Nat} {l : Lease}
    (hl : s.leases.find? (fun l => l.id == lease && l.pkg == pkg && l.recalled) = some l) :
    exec (.recallAck pkg lease) s = .next (s.endLease lease) := onFound_of_eq_some hl

theorem exec_leaseExpiry {lease : Nat} {l : Lease}
    (hl : s.leases.find? (fun l => l.id == lease && decide (l.expiry + 1 ≤ s.podTick)) = some l) :
    exec (.leaseExpiry lease) s = .next (s.endLease lease) := onFound_of_eq_some hl

/-! ## Requests of peers (R51, R471, R444) -/

section
variable {pkg fn lease addr n : Nat} {l : Lease}

theorem servePeer_unleased {write : Bool} {k : Nat → Loc → State × Option (List Byte)}
    (h : s.leaseFor pkg fn lease addr n write = none) :
    s.servePeer pkg fn lease addr n txn write k = s.sendFlit 9 pkg 0 txn lease [] := by
  rw [State.servePeer, h]

/-- A request under a lease of a function that is not under reset: what is done, and its answer. -/
theorem servePeer_leased {write : Bool} {k : Nat → Loc → State × Option (List Byte)}
    (h : s.leaseFor pkg fn lease addr n write = some l) (hreset : s.resets.contains (fnOf l.ctx) = false) :
    s.servePeer pkg fn lease addr n txn write k =
      (k (fnOf l.ctx) (s.locOf addr)).1.sendDone pkg (fnOf l.ctx) txn (k (fnOf l.ctx) (s.locOf addr)).2.isNone
        ((k (fnOf l.ctx) (s.locOf addr)).2.getD []) := by
  rw [State.servePeer, h]
  dsimp only
  rw [if_neg (Bool.eq_false_iff.1 hreset)]
  generalize k (fnOf l.ctx) (s.locOf addr) = p
  obtain ⟨t, _ | bs⟩ := p
  · rfl
  · rfl

theorem peerSees_good {fn n : Nat} {loc : Loc} {k : State × Option (List Byte)} (h : s.badIn loc n = none) :
    s.peerSees fn loc n k = k := by
  rw [State.peerSees, h]

theorem peerSees_bad {fn n b : Nat} {loc : Loc} {k : State × Option (List Byte)} (h : s.badIn loc n = some b) :
    s.peerSees fn loc n k = (s.enterError b fn, none) := by
  rw [State.peerSees, h]

theorem exec_peerRead_unleased (h : s.leaseFor pkg fn lease addr n false = none) :
    exec (.peerRead pkg fn lease addr n txn) s = .next (s.sendFlit 9 pkg 0 txn lease []) :=
  congrArg Host.Outcome.next (servePeer_unleased h)

theorem exec_peerRead_good (h : s.leaseFor pkg fn lease addr n false = some l) (hreset : s.resets.contains (fnOf l.ctx) = false)
    (hgood : s.badIn (s.locOf addr) n = none) :
    exec (.peerRead pkg fn lease addr n txn) s =
      .next ((s.peerGet (fnOf l.ctx) (s.locOf addr) n).1.sendDone pkg (fnOf l.ctx) txn false (s.performedRead (s.locOf addr) n)) := by
  have hread : (s.peerGet (fnOf l.ctx) (s.locOf addr) n).2 = some (s.performedRead (s.locOf addr) n) := by
    unfold State.peerGet
    rw [peerSees_good hgood]
  refine congrArg Host.Outcome.next ((servePeer_leased h hreset).trans ?_)
  rw [hread]
  rfl

theorem exec_peerRead_bad {b : Nat} (h : s.leaseFor pkg fn lease addr n false = some l)
    (hreset : s.resets.contains (fnOf l.ctx) = false) (hbad : s.badIn (s.locOf addr) n = some b) :
    exec (.peerRead pkg fn lease addr n txn) s = .next ((s.enterError b (fnOf l.ctx)).sendDone pkg (fnOf l.ctx) txn true []) := by
  refine congrArg Host.Outcome.next ((servePeer_leased h hreset).trans ?_)
  unfold State.peerGet
  rw [peerSees_bad hbad]
  rfl

theorem exec_peerWrite {data : List Byte} (h : s.leaseFor pkg fn lease addr data.length true = some l)
    (hreset : s.resets.contains (fnOf l.ctx) = false) :
    exec (.peerWrite pkg fn lease addr data txn) s =
      .next ((s.peerPut (fnOf l.ctx) (s.locOf addr) data).sendDone pkg (fnOf l.ctx) txn false []) :=
  congrArg Host.Outcome.next (servePeer_leased h hreset)

theorem exec_peerAtomic {op : AtomicOp} {wide : Bool} {x y : Word64}
    (h : s.leaseFor pkg fn lease addr (if wide then 8 else 4) true = some l) (hreset : s.resets.contains (fnOf l.ctx) = false)
    (hgood : s.badIn (s.locOf addr) (if wide then 8 else 4) = none) (hview : s.onView (s.locOf addr) = false) :
    let old := s.performedRead (s.locOf addr) (if wide then 8 else 4)
    exec (.peerAtomic pkg fn lease addr op wide x y txn) s =
      .next ((s.peerPut (fnOf l.ctx) (s.locOf addr) ((WriteOp.atomic op wide x y).apply old)).sendDone pkg (fnOf l.ctx)
        txn false old) := by
  refine congrArg Host.Outcome.next ((servePeer_leased h hreset).trans ?_)
  rw [if_neg (by simp [hview]), peerSees_good hgood]
  rfl

end

/-! ## Answers to requests (R444, R471, R472) -/

theorem access_found (hr : s.peerReq? txn = some r) (hk : r.kind ≠ .translate) :
    (s.peerReq? txn).filter (fun r => r.kind != .translate || false) = some r :=
  Option.filter_eq_some_iff.2 ⟨hr, by simpa using hk⟩

theorem exec_completion {data : List Byte} (hr : s.peerReq? txn = some r) (hk : r.kind ≠ .translate)
    (hasker : s.askerLives r.uid = true) (hl : r.lane ≠ postedLane) :
    exec (.completion txn data false) s = .next { s with peerReqs := s.peerReqs.map fun (q : PeerReq) =>
      if q.txn = txn then { q with reply := some data } else q }.answered := by
  refine (onFound_of_eq_some (access_found hr hk)).trans ?_
  rw [if_neg (by simpa using hk), if_neg (by simpa using hl), if_neg (by simp [hasker]), if_neg Bool.false_ne_true]
  simp only [beq_iff_eq]

theorem exec_completion_posted {data : List Byte} (hr : s.peerReq? txn = some r) (hk : r.kind ≠ .translate)
    (hl : r.lane = postedLane) :
    exec (.completion txn data false) s = .next ({ s.dropReq txn with
      pendingStores := s.pendingStores.filter fun p => p.txn != some txn }).answered := by
  refine (onFound_of_eq_some (access_found hr hk)).trans ?_
  rw [if_neg (by simpa using hk), if_pos (by simpa using hl), if_neg Bool.false_ne_true]
  rfl

theorem exec_peerRequestTimeout (hr : s.peerReq? txn = some r) (hsent : r.sent = true) (hl : r.lane ≤ postedLane) :
    exec (.peerRequestTimeout txn) s = .next { s with peerReqs := s.peerReqs.map fun (q : PeerReq) =>
      if q.txn = txn then { q with aborted := true } else q }.answered := by
  have hrenew : ¬ (r.lane == renewLane) = true := by
    rw [beq_iff_eq]
    exact Nat.ne_of_lt (Nat.lt_succ_of_le (Nat.le_succ_of_le hl))
  have hresend : ¬ (r.lane == resendLane) = true := by
    rw [beq_iff_eq]
    exact Nat.ne_of_lt (Nat.lt_succ_of_le hl)
  refine (onFound_of_eq_some (Option.filter_eq_some_iff.2 ⟨hr, hsent⟩)).trans ?_
  rw [if_neg hrenew, if_neg hresend, State.abortWhere]
  simp only [beq_iff_eq]

/-! ## Links (R462, R465, R470, R471) -/

/-- What the events of links speak of besides credits: the retries of each port, and the lanes that are out of use. -/
def State.links (s : State) : List (Nat × Nat) × List (Nat × Nat) := (s.retries, s.retiredLanes)

@[simp] theorem setReg_links (s : State) (fn off val : Nat) : (s.setReg fn off val).links = s.links :=
  Prod.ext (State.setReg_retries ..) (State.setReg_retiredLanes ..)

@[simp] theorem signal_links (s : State) (fn vec : Nat) : (s.signal fn vec).links = s.links := by
  unfold State.signal
  split
  · exact setReg_links ..
  · rfl

@[simp] theorem ask_links (s : State) (r : SliceReq) : (s.ask r).links = s.links := by
  unfold State.ask
  dsimp only
  split <;> rfl

@[simp] theorem askRange_links (s : State) (fn pa n : Nat) (kind : ReqKind) (u : Bool) (page : Option PageRef) :
    (s.askRange fn pa n kind u page).links = s.links := foldl_keeps State.links ask_links ..

@[simp] theorem dramWrite_links (s : State) (pa : Nat) (bs : List Byte) : (s.dramWrite pa bs).links = s.links := by
  induction bs generalizing s pa with
  | nil => rfl
  | cons b bs ih => exact ih (s.dramSet pa b) (pa + 1)

@[simp] theorem packWrite_links (s : State) (pa : Nat) (bs : List Byte) : (s.packWrite pa bs).links = s.links :=
  dramWrite_links ..

@[simp] theorem encodeSector_links (s : State) (w : Window) (sector : Nat) (bs : List Byte) :
    (s.encodeSector w sector bs).links = s.links := by
  unfold State.encodeSector
  dsimp only
  split
  · exact (packWrite_links ..).trans (packWrite_links ..)
  · split
    · exact packWrite_links ..
    · exact packWrite_links ..

@[simp] theorem viewWriteUncached_links (s : State) (w : Window) (pa : Nat) (bs : List Byte) :
    (s.viewWriteUncached w pa bs).links = s.links := by
  unfold State.viewWriteUncached
  dsimp only
  split
  · rfl
  · exact encodeSector_links ..

@[simp] theorem perform_links (s : State) (l : Loc) (bs : List Byte) (u : Bool) (core grain : Option Nat) :
    (s.perform l bs u core grain).links = s.links := by
  unfold State.perform
  split
  · split
    · rfl
    · dsimp only
      split
      · split
        · exact viewWriteUncached_links ..
        · rfl
      · exact dramWrite_links ..
  · rfl
  · rfl

@[simp] theorem physWrite_links (s : State) (fn pa : Nat) (bs : List Byte) : (s.physWrite fn pa bs).links = s.links := by
  rw [State.physWrite, perform_links]
  split
  · exact askRange_links ..
  · rfl

@[simp] theorem ringPut_links (s : State) (fn q p : Nat) (bs : List Byte) : (s.ringPut fn q p bs).links = s.links := by
  rw [State.ringPut, State.regField, setReg_links, State.ringWrite]
  split
  · exact physWrite_links ..
  · rfl

@[simp] theorem schedule_links (s : State) (u : HwUnit) : (s.schedule u).links = s.links := by
  unfold State.schedule
  split <;> rfl

theorem postError_links (s : State) (code sev verdict die unit row pa fn : Nat) :
    (s.postError code sev verdict die unit row pa fn).links = s.links := by
  have hschedule : (if verdict == 0 then (errorUnit code die unit row).elim s s.schedule else s).links = s.links := by
    split
    · cases errorUnit code die unit row with
      | none => rfl
      | some u => exact schedule_links s u
    · rfl
  unfold State.postError
  dsimp only
  generalize (if verdict == 0 then (errorUnit code die unit row).elim s s.schedule else s) = t at hschedule ⊢
  split
  · exact (setReg_links ..).trans hschedule
  · exact (signal_links ..).trans ((ringPut_links ..).trans hschedule)

theorem retriesOf_of_links {t : State} {port n : Nat} {rest lanes : List (Nat × Nat)}
    (h : t.links = ((port, n) :: rest, lanes)) : t.retriesOf port = n := by
  change (t.links.1.find? fun p => p.1 == port).elim 0 Prod.snd = n
  simp [h]

theorem retiredLanes_of_links {t : State} {retries lanes : List (Nat × Nat)} (h : t.links = (retries, lanes)) :
    t.retiredLanes = lanes := congrArg Prod.snd h

theorem retireLane_links (s : State) (link lane : Nat) :
    (s.retireLane link lane).links = (s.links.1, s.links.2 ++ [(link, lane)]) := rfl

theorem exec_linkCredit {port flits : Nat} (hp : port < 20) : ∃ t, exec (.linkCredit port flits) s = .next t ∧
    t.ports.head? = some (port, ((s.ports.find? fun p => p.1 == port).elim 0 Prod.snd) + flits) ∧ t.retriesOf port = 0 ∧
      t.mem = s.mem := by
  refine ⟨_, onSubject_pos ((isPort_iff port).2 hp), rfl, ?_, rfl⟩
  have hnone : (s.retries.filter fun p => p.1 != port).find? (fun p => p.1 == port) = none := by
    simp
  rw [State.retriesOf, hnone]
  rfl

/-- One retry more of the flit at a port, before its error is posted. -/
def State.retried (s : State) (port : Nat) : State :=
  { s with freeCtr := s.freeCtr + 1, retries := (port, (s.retriesOf port + 1) % 16) :: s.retries.filter fun p => p.1 != port }

theorem retried_links (s : State) (port : Nat) : (s.retried port).links =
    ((port, (s.retriesOf port + 1) % 16) :: s.retries.filter fun p => p.1 != port, s.retiredLanes) := rfl

theorem exec_flitRetry_eq {port : Nat} (hp : port < 20) :
    let lane := s.free % 4
    let t := (s.retried port).postError 8 0 0 0 port lane 0 0xFFFF
    exec (.flitRetry port) s =
      .next (if s.retriesOf port + 1 == 16 then (t.postError 8 0 2 0 port lane 0 0xFFFF).retireLane port lane else t) :=
  onSubject_pos ((isPort_iff port).2 hp)

theorem exec_flitRetry {port : Nat} (hp : port < 20) : ∃ t lane, exec (.flitRetry port) s = .next t ∧ lane < 4 ∧
    t.retriesOf port = (s.retriesOf port + 1) % 16 ∧
    (s.retriesOf port + 1 ≠ 16 → t.retiredLanes = s.retiredLanes) ∧
    (s.retriesOf port + 1 = 16 → t.retiredLanes = s.retiredLanes ++ [(port, lane)]) := by
  have hlane : s.free % 4 < 4 := Nat.mod_lt _ (by decide)
  have hposted := (postError_links (s.retried port) 8 0 0 0 port (s.free % 4) 0 0xFFFF).trans (retried_links s port)
  refine ⟨_, s.free % 4, exec_flitRetry_eq hp, hlane, ?_⟩
  by_cases hlast : s.retriesOf port + 1 = 16
  · rw [if_pos (by simpa using hlast)]
    have hretired := retireLane_links (((s.retried port).postError 8 0 0 0 port (s.free % 4) 0 0xFFFF).postError 8 0 2 0 port
      (s.free % 4) 0 0xFFFF) port (s.free % 4)
    rw [postError_links, hposted] at hretired
    exact ⟨retriesOf_of_links hretired, fun h => absurd hlast h, fun _ => retiredLanes_of_links hretired⟩
  · rw [if_neg (by simpa using hlast)]
    exact ⟨retriesOf_of_links hposted, fun _ => retiredLanes_of_links hposted, fun h => absurd h hlast⟩

theorem exec_fabricPortStateChange {port : Nat} {up : Bool} (hp : port < 20) :
    ∃ t, exec (.fabricPortStateChange port up) s = .next t ∧ (port ∈ t.portsDown ↔ up = false) := by
  refine ⟨_, onSubject_pos ((isPort_iff port).2 hp), ?_⟩
  rw [signal_portsDown]
  cases up with
  | false => simp
  | true => simp

/-! ## The route table (R472) -/

theorem exec_routeOpen (hb : s.booted = true) : exec .routeOpen s = .next (s.regSet 0 0xF900 1) := onWrite_pos rfl hb

theorem exec_routeReady (hopen : s.routeOpenNow = true) (hquiet : s.fabricQuiet = true) :
    exec .routeReady s = .next (s.regSet 0 0xF900 2) := onSubject_pos (by rw [hopen, hquiet, Bool.and_self])

theorem exec_podrtWrite {pkg : Nat} {val : Word64} (hb : s.booted = true) (hpkg : pkg < 1024)
    (hready : bitOf (s.reg 0 0xF900) 1 = true) :
    exec (.podrtWrite pkg val) s = .next (s.setReg 0 (0x60000 + pkg * 8) (val.toNat % 2 ^ 20)) := by
  change execPodrtWrite pkg val s = _
  rw [execPodrtWrite, if_pos hready]
  exact onWrite_pos (decide_eq_true hpkg) hb

/-- The requests that had waited leave RTCTL as the close has set it. -/
theorem exec_routeClose (hb : s.booted = true) :
    ∃ t, exec .routeClose s = .next t ∧ bitOf (t.reg 0 0xF900) 0 = false ∧ bitOf (t.reg 0 0xF900) 1 = false := by
  refine ⟨_, onWrite_pos rfl hb, ?_⟩
  have hregs : ∀ (t : State) (r : PeerReq),
      (if r.lane == postedLane && r.lease == 0 then t.askAgain r else t.dispatchReq r).regs = t.regs := by
    intro t r
    split
    · exact askAgain_regs ..
    · exact dispatchReq_regs ..
  rw [reg_of_regs ((answered_regs _).trans (foldl_keeps State.regs hregs _ _))]
  exact ⟨regClear_bit_false _ _ _ (by decide) (by decide), regClear_bit_false _ _ _ (by decide) (by decide)⟩

end Sys2Proof.Machine

namespace Sys2Proof

open Sys2Proof.Machine

/-- Settles O54: each event answers a state that its own lemma names. -/
theorem fabricEvents : Obligations.FabricEvents := by
  unfold Obligations.FabricEvents
  refine ⟨fun _ _ _ _ _ => exec_translationRequest_unknown, fun _ _ _ _ _ _ _ _ _ h => exec_translationRequest_granted h rfl,
    fun _ _ _ _ _ _ _ => exec_leaseGrant, fun _ _ _ => exec_nack, fun _ _ _ _ => exec_notready, fun _ _ _ => exec_ready,
    fun _ _ _ => exec_leaseRecall_own, fun _ _ _ => exec_leaseRecall_other, fun _ _ _ _ => exec_recallAck,
    fun _ _ _ => exec_leaseExpiry, fun _ _ _ _ _ _ _ => exec_peerRead_unleased, fun _ _ _ _ _ _ _ _ => exec_peerRead_good,
    fun _ _ _ _ _ _ _ _ _ => exec_peerRead_bad, fun _ _ _ _ _ _ _ _ => exec_peerWrite,
    fun _ _ _ _ _ _ _ _ _ _ _ => exec_peerAtomic, fun _ _ _ _ => exec_completion, fun _ _ _ => exec_peerRequestTimeout,
    fun _ _ _ => exec_linkCredit, fun _ _ => exec_flitRetry, fun _ _ _ => exec_fabricPortStateChange, ?opened, ?ready, ?route,
    fun _ => exec_routeClose, fun _ _ _ _ => exec_completion_posted⟩
  case opened =>
    intro s hb
    exact ⟨_, exec_routeOpen hb, regSet_bit_true _ _ _ (by decide) (by decide)⟩
  case ready =>
    intro s hopen hquiet
    exact ⟨_, exec_routeReady hopen hquiet, regSet_bit_true _ _ _ (by decide) (by decide)⟩
  case route =>
    intro s pkg val hb hpkg hready
    refine ⟨_, exec_podrtWrite hb hpkg hready, (setReg_reg ..).trans (Nat.mod_eq_of_lt ?_)⟩
    exact Nat.lt_trans (Nat.mod_lt val.toNat (Nat.two_pow_pos 20)) (by decide)

end Sys2Proof
end

section
/-! SUPPORT. What a store does to memory and to the reads of its core (O32): the last writer of a location, the frame of
a write's issue, the bytes of a performed write, and the places from which a read takes its bytes. -/

namespace Sys2Proof.Machine

open Sys2Proof

/-! ## The last writer of a location (R63) -/

theorem mem_lastWriters_iff (accs : List Acc) (a : Acc) :
    a ∈ lastWriters accs ↔ ∃ before after, accs = before ++ a :: after ∧ ∀ b ∈ after, b.x ≠ a.x := by
  induction accs with
  | nil => simp [lastWriters]
  | cons c rest ih =>
    have htail : (∃ before after, c :: rest = before ++ a :: after ∧ ∀ b ∈ after, b.x ≠ a.x) ↔
        (a = c ∧ ∀ b ∈ rest, b.x ≠ c.x) ∨ a ∈ lastWriters rest := by
      rw [ih]
      constructor
      · rintro ⟨before, after, heq, hlast⟩
        rcases List.cons_eq_append_iff.1 heq with ⟨-, hc⟩ | ⟨before', -, hrest⟩
        · obtain ⟨rfl, rfl⟩ := List.cons.inj hc
          exact .inl ⟨rfl, hlast⟩
        · exact .inr ⟨before', after, hrest, hlast⟩
      · rintro (⟨rfl, hlast⟩ | ⟨before, after, rfl, hlast⟩)
        · exact ⟨[], rest, rfl, hlast⟩
        · exact ⟨c :: before, after, rfl, hlast⟩
    rw [htail, lastWriters]
    split
    next hlater =>
      obtain ⟨b, hb, hx⟩ := List.any_eq_true.1 hlater
      exact ⟨.inr, Or.rec (fun h => absurd (beq_iff_eq.1 hx) (h.2 b hb)) id⟩
    next hlater =>
      have hlast : ∀ b ∈ rest, b.x ≠ c.x := by simpa using hlater
      rw [List.mem_cons]
      exact or_congr_left (iff_self_and.2 fun _ => hlast)

/-! ## Locations -/

@[simp] theorem locPlus_zero (l : Loc) : locPlus l 0 = l := by cases l <;> rfl

@[simp] theorem locPlus_locPlus (l : Loc) (i j : Nat) : locPlus (locPlus l i) j = locPlus l (i + j) := by
  cases l <;> exact congrArg _ (Nat.add_assoc ..)

theorem locWithin_hbm (a b n : Nat) : locWithin (.hbm a) (.hbm b) n = if b ≤ a ∧ a < b + n then some (a - b) else none := by
  simp only [locWithin, Bool.and_eq_true, decide_eq_true_eq]

/-! ## The issue of a write (R122) -/

theorem PendingStore.at_eq_none {p : PendingStore} {l : Loc} (h : locWithin l p.loc p.op.len = none) : p.at l = none := by
  unfold PendingStore.at
  split
  next bs hop =>
    rw [hop] at h
    rw [show locWithin l p.loc bs.length = none from h, Option.bind_none]
  next => rfl

theorem PendingStore.at_hbm {p : PendingStore} {pa i : Nat} {bs : List Byte} (hloc : p.loc = .hbm pa)
    (hop : p.op = .store (bs.map some)) (hi : i < bs.length) : p.at (.hbm (pa + i)) = some bs[i] := by
  have hin : locWithin (.hbm (pa + i)) (.hbm pa) bs.length = some i := by
    rw [locWithin_hbm, if_pos (by omega), Nat.add_sub_cancel_left]
  simp [PendingStore.at, hop, hloc, hin, hi]

theorem newest_issueWrite (s : State) (p : PendingStore) (q : PendingStore → Bool) (l : Loc) :
    (s.issueWrite p).newest q l = if q p then (p.at l).or (s.newest q l) else s.newest q l := by
  simp only [State.newest, State.issueWrite, List.foldl_append, List.foldl_cons, List.foldl_nil]

/-- What the issue of a write leaves of a sector of an L1: a store writes through its own core's (R60). -/
def PendingStore.through (p : PendingStore) (x : L1Sector) : L1Sector :=
  match p.op with
  | .store bs => l1Through p.core p.loc bs x
  | _ => x

theorem issueWrite_l1 (s : State) (p : PendingStore) : (s.issueWrite p).l1 = s.l1.map p.through := by
  unfold State.issueWrite PendingStore.through
  cases p.op with
  | store bs => rfl
  | atomic op wide x y => exact (List.map_id _).symm
  | cell sz x => exact (List.map_id _).symm

/-- Writing through changes nothing of a sector but its bytes, one for one. -/
theorem through_eq (p : PendingStore) (x : L1Sector) :
    ∃ bytes, p.through x = { x with bytes } ∧ bytes.length = x.bytes.length := by
  unfold PendingStore.through
  split
  next bs _ =>
    unfold l1Through
    split
    · split
      · exact ⟨_, rfl, by simp⟩
      · exact ⟨x.bytes, rfl, rfl⟩
    · exact ⟨x.bytes, rfl, rfl⟩
  next => exact ⟨x.bytes, rfl, rfl⟩

@[simp] theorem through_core (p : PendingStore) (x : L1Sector) : (p.through x).core = x.core := by
  obtain ⟨_, h, -⟩ := through_eq p x
  rw [h]

@[simp] theorem through_sector (p : PendingStore) (x : L1Sector) : (p.through x).sector = x.sector := by
  obtain ⟨_, h, -⟩ := through_eq p x
  rw [h]

@[simp] theorem through_times (p : PendingStore) (x : L1Sector) : (p.through x).times = x.times := by
  obtain ⟨_, h, -⟩ := through_eq p x
  rw [h]

@[simp] theorem through_bytes_length (p : PendingStore) (x : L1Sector) : (p.through x).bytes.length = x.bytes.length := by
  obtain ⟨_, h, hlen⟩ := through_eq p x
  rw [h, ← hlen]

/-- A byte of a sector outside the stored ones, or of another core, stays. -/
theorem through_byte_frame {p : PendingStore} {x : L1Sector} {pa : Nat} (hx : x.sector = pa / 64 * 64)
    (h : x.core ≠ p.core ∨ locWithin (.hbm pa) p.loc p.op.len = none) :
    (p.through x).bytes[pa % 64]? = x.bytes[pa % 64]? := by
  unfold PendingStore.through
  split
  next bs hop =>
    unfold l1Through
    split
    next =>
      split
      next hit =>
        obtain ⟨hcore, -⟩ := Bool.and_eq_true_iff.1 hit
        have hout : locWithin (.hbm (x.sector + pa % 64)) p.loc bs.length = none := by
          rw [show x.sector + pa % 64 = pa by omega]
          simpa [hop, WriteOp.len] using h.resolve_left (not_not_intro (beq_iff_eq.1 hcore))
        cases hb : x.bytes[pa % 64]? with
        | none => simp [List.getElem?_zipIdx, hb]
        | some b => simp [List.getElem?_zipIdx, hb, hout]
      next => rfl
    next => rfl
  next => rfl

theorem issueWrite_l1Hit (s : State) (p : PendingStore) (k : Nat) (l : Loc) :
    (s.issueWrite p).l1Hit k l = (s.l1Hit k l).map p.through := by
  cases l with
  | hbm pa =>
    unfold State.l1Hit State.l1Sector?
    dsimp only
    rw [issueWrite_l1, List.find?_map]
    have hkeys : ((fun x : L1Sector => x.core == k && x.sector == pa / 64 * 64) ∘ p.through) =
        fun x => x.core == k && x.sector == pa / 64 * 64 := by
      funext x
      simp
    rw [hkeys, show (s.issueWrite p).l1Bad = s.l1Bad from rfl]
    split
    · rfl
    · rfl
  | host b => rfl
  | peer q f => rfl

theorem issueWrite_l1Gives (s : State) (p : PendingStore) (k : Nat) (l : Loc) :
    (s.issueWrite p).l1Gives k l = (s.l1Gives k l).map p.through := by
  unfold State.l1Gives
  rw [issueWrite_l1Hit, Option.filter_map]
  rfl

theorem issueWrite_readTimes (s : State) (p : PendingStore) (k : Nat) (l : Loc) (n : Nat) :
    (s.issueWrite p).readTimes k l n = s.readTimes k l n := by
  have hruns : ∀ n i len, (s.issueWrite p).runLengths l i len n = s.runLengths l i len n := by
    intro n
    induction n with
    | zero => intros; rfl
    | succ n ih =>
      intro i len
      rw [State.runLengths, State.runLengths, ih, ih]
      rfl
  have htimes : ∀ lens i, (s.issueWrite p).runTimes k l i lens = s.runTimes k l i lens := by
    intro lens
    induction lens with
    | nil => intros; rfl
    | cons n lens ih =>
      intro i
      rw [State.runTimes, State.runTimes, ih]
      rfl
  unfold State.readTimes
  rw [show (s.issueWrite p).performs = s.performs from rfl]
  split
  · rfl
  · rfl
  · rw [hruns, htimes]

/-! ## What a core reads once a write has issued (R122, R123) -/

theorem coreRead_of_gives_none {s : State} {core : Nat} {l : Loc} (h : s.l1Gives core l = none) (who : Agent) (n : Nat) :
    s.coreRead core who l n = s.bytesAt core who l (s.readTimes core l n) := by
  unfold State.coreRead
  rw [h]

theorem coreRead_of_gives_some {s : State} {core pa : Nat} {x : L1Sector} (h : s.l1Gives core (.hbm pa) = some x) (who : Agent)
    (n : Nat) : s.coreRead core who (.hbm pa) n =
      s.agentBytes core who (.hbm pa) ((x.bytes.drop (pa % 64)).take n) ((x.times.drop (pa % 64)).take n) := by
  unfold State.coreRead
  rw [h]

/-- A sector that serves a core's read is one of its L1, in the line of the address. -/
theorem l1Gives_eq_some {s : State} {core : Nat} {l : Loc} {x : L1Sector} (h : s.l1Gives core l = some x) :
    ∃ pa, l = .hbm pa ∧ x ∈ s.l1 ∧ x.core = core ∧ x.sector = pa / 64 * 64 := by
  have hhit : s.l1Hit core l = some x := (Option.filter_eq_some_iff.1 h).1
  cases l with
  | hbm pa =>
    unfold State.l1Hit State.l1Sector? at hhit
    dsimp only at hhit
    split at hhit
    next => cases hhit
    next =>
      have hkey := List.find?_some hhit
      simp only [Bool.and_eq_true, beq_iff_eq] at hkey
      exact ⟨pa, rfl, List.mem_of_find?_eq_some hhit, hkey.1, hkey.2⟩
  | host b => cases hhit
  | peer q f => cases hhit

section
variable {s : State} {p : PendingStore} {k : Nat} {l : Loc}

/-- The writer's own agent sees its write at once (R123). -/
theorem pendingByte_issueWrite_own {pa i : Nat} {bs : List Byte} (hloc : p.loc = .hbm pa) (hop : p.op = .store (bs.map some))
    (hi : i < bs.length) : (s.issueWrite p).pendingByte p.core (p.placed, p.lane) (.hbm (pa + i)) = some bs[i] := by
  rw [State.pendingByte, newest_issueWrite, if_pos (by simp [PendingStore.shows]), PendingStore.at_hbm hloc hop hi, Option.some_or]

theorem pendingByte_issueWrite_frame (h : k ≠ p.core ∨ locWithin l p.loc p.op.len = none) (who : Agent) :
    (s.issueWrite p).pendingByte k who l = s.pendingByte k who l := by
  rw [State.pendingByte, newest_issueWrite]
  split
  next hshows =>
    have hcore : k = p.core := by
      simp only [PendingStore.shows, Bool.and_eq_true, beq_iff_eq] at hshows
      exact hshows.1.symm
    rw [PendingStore.at_eq_none (h.resolve_left (not_not_intro hcore)), Option.none_or]
    rfl
  next => rfl

theorem hides_issueWrite_frame (h : k ≠ p.core ∨ locWithin l p.loc p.op.len = none) (who : Agent) :
    (s.issueWrite p).hides k who l = s.hides k who l := by
  have hnew : (p.core == k && !p.shows k who && (p.at l).isSome) = false := by
    rcases h with hcore | hout
    · simp [hcore.symm]
    · simp [PendingStore.at_eq_none hout]
  simp only [State.hides, State.issueWrite, List.any_append, List.any_cons, List.any_nil, hnew, Bool.or_false]

/-- Bytes that are all pending read as they were stored, from an L1 and from the coherence lists alike. -/
theorem map_getD_pending {α : Type} {f : α × Nat → Byte} {xs : List α} {bs : List Byte} (hlen : xs.length = bs.length)
    (h : ∀ x i (hi : i < bs.length), f (x, i) = bs[i]) : xs.zipIdx.map f = bs := by
  apply List.ext_getElem (by simp [hlen])
  intro i hi hi'
  simpa using h _ i hi'

end

/-! ## Where a read takes its bytes in the order of performed writes (R123) -/

theorem runLengths_sum (s : State) (l : Loc) (i len n : Nat) : (s.runLengths l i len n).sum = len + n := by
  induction n generalizing i len with
  | zero => simp [State.runLengths]
  | succ n ih =>
    rw [State.runLengths]
    split
    · rw [ih]
      omega
    · rw [List.sum_cons, ih]
      omega

theorem runTimes_length (s : State) (core : Nat) (l : Loc) (i : Nat) (lens : List Nat) :
    (s.runTimes core l i lens).length = lens.sum := by
  induction lens generalizing i with
  | nil => rfl
  | cons n lens ih => simp [State.runTimes, ih]

theorem readTimes_length (s : State) (core : Nat) (l : Loc) (n : Nat) : (s.readTimes core l n).length = n := by
  unfold State.readTimes
  split
  · simp
  · simp
  · rw [runTimes_length, runLengths_sum, Nat.add_comm]

/-- No view lies beyond the last performed write, where no entry of the order does. -/
theorem viewSeq_le_performSeq {s : State} (hperforms : ∀ p ∈ s.performs, p.seq ≤ s.performSeq)
    (hseen : ∀ x ∈ s.seen, x.seq ≤ s.performSeq) (hfloors : ∀ x ∈ s.viewFloors, x.2 ≤ s.performSeq) (core : Nat) (l : Loc) :
    s.viewSeq core l ≤ s.performSeq := by
  have hfloor : ((s.viewFloors.find? fun f => f.1 == core).map Prod.snd).getD 0 ≤ s.performSeq := by
    cases hf : s.viewFloors.find? fun f => f.1 == core with
    | none => exact Nat.zero_le _
    | some f => exact hfloors f (List.mem_of_find?_eq_some hf)
  have hown : s.performs.foldl (fun m p => if p.core == some core && (p.at l).isSome then max m p.seq else m)
      (((s.viewFloors.find? fun f => f.1 == core).map Prod.snd).getD 0) ≤ s.performSeq := by
    refine List.foldlRecOn (motive := (· ≤ s.performSeq)) _ _ hfloor fun m hm p hp => ?_
    split
    · exact Nat.max_le.2 ⟨hm, hperforms p hp⟩
    · exact hm
  refine List.foldlRecOn (motive := (· ≤ s.performSeq)) _ _ hown fun m hm x hx => ?_
  split
  · exact Nat.max_le.2 ⟨hm, hseen x hx⟩
  · exact hm

theorem le_foldl_max {f : Nat → Nat} {xs : List Nat} {i : Nat} (hi : i ∈ xs) (a : Nat) :
    f i ≤ xs.foldl (fun m j => max m (f j)) a := by
  induction xs generalizing a with
  | nil => cases hi
  | cons x xs ih =>
    rcases List.mem_cons.1 hi with rfl | hi
    · exact List.foldlRecOn (motive := (f i ≤ ·)) xs _ (Nat.le_max_right a (f i)) fun m hm j _ => Nat.le_trans hm (Nat.le_max_left m (f j))
    · exact ih hi _

section
variable {s : State} {core : Nat}

/-- The entry of a run lies between the view of each of its bytes and the last performed write. -/
theorem runTime_mem_Icc (hview : ∀ l, s.viewSeq core l ≤ s.performSeq) (l : Loc) {j len : Nat} (hj : j < len) :
    s.viewSeq core (locPlus l j) ≤ s.runTime core l len ∧ s.runTime core l len ≤ s.performSeq := by
  unfold State.runTime
  dsimp only
  have hlow : s.viewSeq core (locPlus l j) ≤ (List.range len).foldl (fun m i => max m (s.viewSeq core (locPlus l i))) 0 :=
    le_foldl_max (f := fun i => s.viewSeq core (locPlus l i)) (List.mem_range.2 hj) 0
  have hhigh : (List.range len).foldl (fun m i => max m (s.viewSeq core (locPlus l i))) 0 ≤ s.performSeq :=
    List.foldlRecOn (motive := (· ≤ s.performSeq)) _ _ (Nat.zero_le _) fun _ hm i _ => Nat.max_le.2 ⟨hm, hview _⟩
  generalize (List.range len).foldl (fun m i => max m (s.viewSeq core (locPlus l i))) 0 = floor at hlow hhigh ⊢
  split
  · have hmod := Nat.mod_lt (s.choice (4 * (locKey l * 512 + core))) (show 0 < s.performSeq + 1 - floor by omega)
    omega
  · exact ⟨hview _, Nat.le_refl _⟩

theorem runTimes_getElem? (hview : ∀ l, s.viewSeq core l ≤ s.performSeq) (l : Loc) (lens : List Nat) (i j : Nat) (hj : j < lens.sum) :
    ∃ t, (s.runTimes core l i lens)[j]? = some t ∧ s.viewSeq core (locPlus l (i + j)) ≤ t ∧ t ≤ s.performSeq := by
  induction lens generalizing i j with
  | nil => simp at hj
  | cons n lens ih =>
    rw [List.sum_cons] at hj
    rw [State.runTimes]
    by_cases hfirst : j < n
    · have htime := runTime_mem_Icc hview (locPlus l i) hfirst
      rw [locPlus_locPlus] at htime
      exact ⟨_, by rw [List.getElem?_append_left (by simpa using hfirst), List.getElem?_replicate_of_lt hfirst], htime⟩
    · have hrest := ih (i + n) (j - n) (by omega)
      rw [show i + n + (j - n) = i + j by omega] at hrest
      rwa [List.getElem?_append_right (by simpa using hfirst), List.length_replicate]

theorem readTimes_getElem? (hview : ∀ l, s.viewSeq core l ≤ s.performSeq) (l : Loc) {i n : Nat} (hi : i < n) :
    ∃ t, (s.readTimes core l n)[i]? = some t ∧ s.viewSeq core (locPlus l i) ≤ t ∧ t ≤ s.performSeq := by
  unfold State.readTimes
  split
  next => exact ⟨_, List.getElem?_replicate_of_lt hi, hview _, Nat.le_refl _⟩
  next => exact absurd hi (Nat.not_lt_zero _)
  next m _ =>
    have htime := runTimes_getElem? hview l (s.runLengths l 0 1 m) 0 i (by rw [runLengths_sum]; omega)
    rwa [Nat.zero_add] at htime

end

/-! ## The reads of a core (R123) -/

theorem coreRead_getElem? {s : State} {core : Nat} {l : Loc} (who : Agent) {i n : Nat} (hi : i < n) (hmiss : s.l1Hit core l = none)
    (hview : ∀ l, s.viewSeq core l ≤ s.performSeq) :
    ∃ t, s.viewSeq core (locPlus l i) ≤ t ∧ t ≤ s.performSeq ∧
      (s.coreRead core who l n)[i]? = some ((s.pendingByte core who (locPlus l i)).getD (s.byteAt (locPlus l i) t)) := by
  obtain ⟨t, ht, hlow, hhigh⟩ := readTimes_getElem? hview l hi
  have hgives : s.l1Gives core l = none := by
    rw [State.l1Gives, hmiss]
    rfl
  refine ⟨t, hlow, hhigh, ?_⟩
  rw [coreRead_of_gives_none hgives, State.bytesAt, List.getElem?_map, List.getElem?_zipIdx, ht]
  simp

/-- An agent reads its own newest store, from its L1 and from the coherence lists alike. -/
theorem coreRead_issueWrite_own {s : State} {p : PendingStore} {pa : Nat} {bs : List Byte} (hloc : p.loc = .hbm pa)
    (hop : p.op = .store (bs.map some)) (hline : pa % 64 + bs.length ≤ 64) (hl1 : ∀ x ∈ s.l1, x.bytes.length = 64) :
    (s.issueWrite p).coreRead p.core (p.placed, p.lane) (.hbm pa) bs.length = bs := by
  cases hgives : s.l1Gives p.core (.hbm pa) with
  | none =>
    rw [coreRead_of_gives_none (by rw [issueWrite_l1Gives, hgives, Option.map_none])]
    refine map_getD_pending (readTimes_length ..) fun t i hi => ?_
    simp only [locPlus]
    rw [pendingByte_issueWrite_own hloc hop hi, Option.getD_some]
  | some x =>
    obtain ⟨_, -, hx, -, -⟩ := l1Gives_eq_some hgives
    rw [coreRead_of_gives_some (by rw [issueWrite_l1Gives, hgives, Option.map_some])]
    refine map_getD_pending ?_ fun b i hi => ?_
    · rw [List.length_take, List.length_drop, through_bytes_length, hl1 x hx]
      omega
    · simp only [State.agentByte, locPlus]
      rw [pendingByte_issueWrite_own hloc hop hi, Option.getD_some]

/-- A byte outside the stored ones, or of another core, reads as before. -/
theorem coreRead_issueWrite_frame {s : State} {p : PendingStore} {k : Nat} {l : Loc} (who : Agent)
    (h : k ≠ p.core ∨ locWithin l p.loc p.op.len = none) :
    (s.issueWrite p).coreRead k who l 1 = s.coreRead k who l 1 := by
  cases hgives : s.l1Gives k l with
  | none =>
    rw [coreRead_of_gives_none hgives, coreRead_of_gives_none (by rw [issueWrite_l1Gives, hgives, Option.map_none]),
      issueWrite_readTimes]
    obtain ⟨t, ht⟩ := List.length_eq_one_iff.1 (readTimes_length s k l 1)
    simp only [State.bytesAt, ht, List.zipIdx_singleton, List.map_cons, List.map_nil, locPlus_zero, pendingByte_issueWrite_frame h]
    rfl
  | some x =>
    obtain ⟨pa, rfl, -, hcore, hsector⟩ := l1Gives_eq_some hgives
    have hbyte : ((p.through x).bytes.drop (pa % 64)).take 1 = (x.bytes.drop (pa % 64)).take 1 := by
      rw [List.take_one, List.take_one, List.head?_drop, List.head?_drop, through_byte_frame hsector (hcore ▸ h)]
    rw [coreRead_of_gives_some hgives, coreRead_of_gives_some (by rw [issueWrite_l1Gives, hgives, Option.map_some]), hbyte,
      through_times]
    rw [List.take_one]
    cases (x.bytes.drop (pa % 64)).head? with
    | none => rfl
    | some b =>
      simp only [State.agentBytes, Option.toList_some, List.zipIdx_singleton, List.map_cons, List.map_nil, locPlus_zero,
        State.agentByte, pendingByte_issueWrite_frame h, hides_issueWrite_frame h]
      rfl

/-! ## The bytes of a performed write (R5, R122) -/

theorem dramWrite_hostMem (s : State) (a : Nat) (bs : List Byte) : (s.dramWrite a bs).hostMem = s.hostMem := by
  induction bs generalizing s a with
  | nil => rfl
  | cons b bs ih => exact ih (s.dramSet a b) (a + 1)

theorem cellsGet_dramWrite {s : State} (h : Memory.wf s = true) (a : Nat) (bs : List Byte) (x : Nat) :
    cellsGet (s.dramWrite a bs).mem x = if a ≤ x ∧ x < a + bs.length then bs.getD (x - a) 0 else cellsGet s.mem x := by
  induction bs generalizing s a with
  | nil => rw [if_neg (by simp), State.dramWrite]
  | cons b bs ih =>
    rw [State.dramWrite, ih (memory_wf_dramSet s a b h), State.dramSet, cellsGet_set _ _ _ _ ((memory_wf_iff s).1 h).1,
      List.length_cons]
    by_cases hx : x = a
    · subst hx
      rw [if_neg (by omega), if_pos rfl, if_pos (by omega), Nat.sub_self, List.getD_cons_zero]
    · rw [if_neg hx]
      by_cases hin : a + 1 ≤ x ∧ x < a + 1 + bs.length
      · rw [if_pos hin, if_pos (by omega), show x - a = (x - (a + 1)) + 1 by omega, List.getD_cons_succ]
      · rw [if_neg hin, if_neg (by omega)]

/-- A write of HBM outside every view, where no error stands, is one of DRAM bytes. -/
theorem perform_hbm {s : State} {pa : Nat} (hgood : s.sectorBad pa = false) (hview : s.viewOf pa = none) (bs : List Byte)
    (uncached : Bool) (core grain : Option Nat) : s.perform (.hbm pa) bs uncached core grain =
      (s.logged core (.hbm pa) (s.performedRead (.hbm pa) bs.length) grain).dramWrite pa bs := by
  unfold State.perform
  simp only [hgood, hview, Bool.false_and, Bool.false_eq_true, if_false]

end Sys2Proof.Machine

namespace Sys2Proof

open Sys2Proof.Machine

/-- Settles O32: the last writer by induction over the accesses; a read of the core byte by byte, from its L1 or from the coherence
lists; a performed write by induction over its bytes. -/
theorem storeEffects : Obligations.StoreEffects := by
  unfold Obligations.StoreEffects
  refine ⟨mem_lastWriters_iff, fun _ _ _ _ => coreRead_issueWrite_own,
    fun s p k who m => ⟨rfl, rfl, rfl, rfl, fun h _ => coreRead_issueWrite_frame who h⟩, ?performed, ?read⟩
  case performed =>
    intro s pa bs core grain x hwf hgood hview
    rw [perform_hbm hgood hview]
    exact ⟨cellsGet_dramWrite (s := s.logged _ _ _ _) hwf pa bs x, dramWrite_hostMem ..⟩
  case read =>
    intro s core i n who l hi hmiss hperforms hseen hfloors
    exact coreRead_getElem? who hi hmiss (viewSeq_le_performSeq hperforms hseen hfloors core)

end Sys2Proof
end

section
/-! SUPPORT. The events of the memory system (O55). `State.aside` is what lies beside it: the lemma `f_aside` says that the
operation `f` of the slices, the DRAM, the L1s or the error rings leaves the cores, the cohorts and the records alone. -/

namespace Sys2Proof.Machine

open Sys2Proof

/-- The package but for the bytes of memory, what its caches, controllers and pending accesses hold, the counters and
rings behind its registers, and the next identifier: what a request served, a write performed or an error posted can
change. -/
def State.aside (s : State) : State :=
  { s with
    regs := [], mem := [], hostMem := [], undef := [], pendingStores := [], reads := [], performs := [], performSeq := 0
    seen := [], l1 := [], l1Trees := [], l1Bad := [], views := [], l2 := [], requests := [], errorTable := []
    badSectors := [], badTags := [], dramRows := [], dramQueue := [], dramTicks := (0, []), accessCounts := [], hinted := []
    tests := [], irqs := [], nextUid := 0 }

theorem cores_of_aside {s t : State} (h : t.aside = s.aside) : t.cores = s.cores :=
  (congrArg State.cores h :)

/-! ## Registers, requests and performed writes -/

@[simp] theorem setReg_aside (s : State) (fn off val : Nat) : (s.setReg fn off val).aside = s.aside := by
  unfold State.setReg
  dsimp only
  split
  · rfl
  · rfl

@[simp] theorem signal_aside (s : State) (fn vec : Nat) : (s.signal fn vec).aside = s.aside := by
  unfold State.signal
  split
  · exact setReg_aside ..
  · rfl

@[simp] theorem ask_aside (s : State) (r : SliceReq) : (s.ask r).aside = s.aside := by
  unfold State.ask
  dsimp only
  split
  · rfl
  · rfl

@[simp] theorem askRange_aside (s : State) (fn pa n : Nat) (kind : ReqKind) (u : Bool) (page : Option PageRef) :
    (s.askRange fn pa n kind u page).aside = s.aside := foldl_keeps State.aside ask_aside ..

@[simp] theorem dramWrite_aside (s : State) (pa : Nat) (bs : List Byte) : (s.dramWrite pa bs).aside = s.aside := by
  induction bs generalizing s pa with
  | nil => rfl
  | cons b bs ih => exact ih (s.dramSet pa b) (pa + 1)

@[simp] theorem logged_aside (s : State) (core : Option Nat) (l : Loc) (old : List Byte) (grain : Option Nat) :
    (s.logged core l old grain).aside = s.aside := rfl

@[simp] theorem packWrite_aside (s : State) (pa : Nat) (bs : List Byte) : (s.packWrite pa bs).aside = s.aside :=
  dramWrite_aside ..

@[simp] theorem encodeSector_aside (s : State) (w : Window) (sector : Nat) (bs : List Byte) :
    (s.encodeSector w sector bs).aside = s.aside := by
  simp [State.encodeSector, apply_ite State.aside]

@[simp] theorem viewWrite_aside (s : State) (w : Window) (pa : Nat) (bs : List Byte) : (s.viewWrite w pa bs).aside = s.aside := rfl

@[simp] theorem viewWriteUncached_aside (s : State) (w : Window) (pa : Nat) (bs : List Byte) :
    (s.viewWriteUncached w pa bs).aside = s.aside := by
  simp [State.viewWriteUncached, apply_ite State.aside]

@[simp] theorem hostWriteBytes_aside (s : State) (b : Nat) (bs : List Byte) : (s.hostWriteBytes b bs).aside = s.aside := rfl

@[simp] theorem perform_aside (s : State) (l : Loc) (bs : List Byte) (u : Bool) (core grain : Option Nat) :
    (s.perform l bs u core grain).aside = s.aside := by
  unfold State.perform
  split
  next pa =>
    cases s.viewOf pa with
    | none => simp [apply_ite State.aside]
    | some w => simp [apply_ite State.aside]
  next => simp
  next => rfl

/-! ## Rings and errors (R40, R462, R466) -/

@[simp] theorem physWrite_aside (s : State) (fn pa : Nat) (bs : List Byte) : (s.physWrite fn pa bs).aside = s.aside := by
  simp [State.physWrite, apply_ite State.aside]

@[simp] theorem ringPut_aside (s : State) (fn q p : Nat) (bs : List Byte) : (s.ringPut fn q p bs).aside = s.aside := by
  simp [State.ringPut, State.regField, State.ringWrite, apply_ite State.aside]

@[simp] theorem schedule_aside (s : State) (u : HwUnit) : (s.schedule u).aside = s.aside := by
  unfold State.schedule
  split
  · rfl
  · rfl

@[simp] theorem postError_aside (s : State) (code sev verdict die unit row pa fn : Nat) :
    (s.postError code sev verdict die unit row pa fn).aside = s.aside := by
  have htest : ((errorUnit code die unit row).elim s s.schedule).aside = s.aside := by
    cases errorUnit code die unit row with
    | none => rfl
    | some u => exact schedule_aside s u
  simp [State.postError, State.regInc, apply_ite State.aside, htest]

@[simp] theorem listSector_aside (s : State) (sector : Nat) : (s.listSector sector).aside = s.aside := by
  unfold State.listSector
  dsimp only
  split
  · rfl
  · split
    · exact postError_aside s ..
    · rfl

@[simp] theorem loseSector_aside (s : State) (l : L2Line) (sector : Nat) : (s.loseSector l sector).aside = s.aside :=
  (postError_aside ..).trans (listSector_aside ..)

/-! ## Pending writes and reads (R122 to R126) -/

@[simp] theorem viewed_aside (s : State) (core : Nat) (l : Loc) (ts : List Nat) : (s.viewed core l ts).aside = s.aside := by
  unfold State.viewed
  dsimp only
  split
  · rfl
  · rfl

@[simp] theorem sawLast_aside (s : State) (core : Nat) (l : Loc) (bs : List Byte) : (s.sawLast core l bs).aside = s.aside :=
  viewed_aside ..

@[simp] theorem performWrite_aside (s : State) (p : PendingStore) : (s.performWrite p).aside = s.aside := by
  have hdone (t : State) : (t.perform p.loc (p.op.apply (t.performedRead p.loc p.op.len)) p.uncached (some p.core) p.grain).aside =
      t.aside := perform_aside ..
  unfold State.performWrite
  dsimp only
  split
  next =>
    split
    · exact hdone _
    · exact hdone _
  next =>
    split
    · exact (sawLast_aside ..).trans (hdone _)
    · exact (sawLast_aside ..).trans (hdone _)

@[simp] theorem readFrom_aside (s : State) (data : List Byte × List Nat) (r : PendingRead) : (s.readFrom data r).aside = s.aside :=
  viewed_aside ..

@[simp] theorem readsBefore_aside (s : State) (core : Nat) (who : Agent) (mark : Nat) : (s.readsBefore core who mark).aside = s.aside :=
  foldl_keeps State.aside (fun _ _ => readFrom_aside ..) ..

@[simp] theorem leavePending_aside (s : State) (w : PendingStore) : (s.leavePending w).aside = s.aside :=
  (performWrite_aside ..).trans (foldl_keeps State.aside (fun _ _ => readsBefore_aside ..) ..)

@[simp] theorem drainStores_aside (s : State) (p : PendingStore → Bool) : (s.drainStores p).aside = s.aside :=
  foldl_keeps State.aside leavePending_aside ..

@[simp] theorem readCell_aside (s : State) (r : PendingRead) : (s.readCell r).aside = s.aside :=
  (sawLast_aside ..).trans (drainStores_aside s _)

@[simp] theorem giveSector_aside (s : State) (core : Nat) (base : Loc) : (s.giveSector core base).aside = s.aside :=
  (foldl_keeps State.aside readCell_aside ..).trans (foldl_keeps State.aside (fun _ _ => readFrom_aside ..) ..)

/-! ## The DRAM (R79) -/

@[simp] theorem dramCount_aside (s : State) (off : Nat) : (s.dramCount off).aside = s.aside := setReg_aside s ..

@[simp] theorem dramServe_aside (s : State) (r : DramReq) : (s.dramServe r).aside = s.aside := by
  change (if s.rowHit r then _ else _ : State).aside = _
  simp only [apply_ite State.aside, dramCount_aside, ite_self]
  rfl

@[simp] theorem dramTake_aside (b : BankId) (n : Nat) (s : State) : (State.dramTake b n s).aside = s.aside := by
  induction n generalizing s with
  | zero => rfl
  | succ n ih =>
    unfold State.dramTake
    split
    · exact (ih _).trans (dramServe_aside ..)
    · rfl

@[simp] theorem dramUntil_aside (pa : Nat) (b : BankId) (n : Nat) (s : State) : (State.dramUntil pa b n s).aside = s.aside := by
  induction n generalizing s with
  | zero => rfl
  | succ n ih =>
    unfold State.dramUntil
    split
    · split
      · exact dramServe_aside ..
      · exact (ih _).trans (dramServe_aside ..)
    · rfl

@[simp] theorem dramAsk_aside (s : State) (fn pa : Nat) (w : Bool) : (s.dramAsk fn pa w).aside = s.aside := by
  unfold State.dramAsk
  dsimp only
  split
  · exact dramTake_aside _ 1 s
  · rfl

@[simp] theorem dramAccess_aside (s : State) (fn pa : Nat) (w : Bool) : (s.dramAccess fn pa w).aside = s.aside := by
  simp [State.dramAccess, apply_ite State.aside]

@[simp] theorem dramQuiet_aside (s : State) (p : DramReq → Bool) : (s.dramQuiet p).aside = s.aside :=
  foldl_keeps State.aside (fun _ _ => by simp [apply_ite State.aside]) ..

/-! ## The slices (R69 to R71, R107, R108) -/

@[simp] theorem askSources_aside (s : State) (fn : Nat) (w : Window) (sector : Nat) : (s.askSources fn w sector).aside = s.aside :=
  foldl_keeps State.aside (fun _ _ => askRange_aside ..) ..

@[simp] theorem writeBack_aside (s : State) (fn sector : Nat) : (s.writeBack fn sector).aside = s.aside := by
  unfold State.writeBack
  split
  · exact dramAccess_aside ..
  · split
    · rfl
    · dsimp only
      split
      · exact (askSources_aside ..).trans (encodeSector_aside ..)
      · rfl

@[simp] theorem endFetch_aside (s : State) (sector : Nat) : (s.endFetch sector).aside = s.aside := by
  unfold State.endFetch
  split
  · exact dramQuiet_aside ..
  · exact foldl_keeps State.aside (fun _ _ => by simp [apply_ite State.aside]) ..

@[simp] theorem l2Put_aside (s : State) (l : L2Line) : (s.l2Put l).aside = s.aside := rfl

@[simp] theorem l2Evict_aside (s : State) (fn : Nat) (l : L2Line) : (s.l2Evict fn l).aside = s.aside :=
  foldl_keeps State.aside (fun _ _ => by simp [apply_ite State.aside]) (List.range 4) (s.l2Drop l)

@[simp] theorem l2Own_aside (s : State) (fn pa : Nat) : (s.l2Own fn pa).1.aside = s.aside := by
  have hown (o : Option L2Line) :
      (match o with | some l => if bitOf (s.wayMask fn) l.way then s else s.l2Evict fn l | none => s).aside = s.aside := by
    cases o with
    | none => rfl
    | some l => simp [apply_ite State.aside]
  unfold State.l2Own
  dsimp only
  split
  · exact hown _
  · dsimp only
    split
    · exact (l2Evict_aside ..).trans (hown _)
    · exact hown _

@[simp] theorem countPage_aside (s : State) (r : PageRef) : (s.countPage r).aside = s.aside := by
  unfold State.countPage
  dsimp only
  split
  · rfl
  · split
    · unfold State.postHint
      dsimp only
      split
      · rfl
      · exact (signal_aside ..).trans (ringPut_aside ..)
    · rfl

@[simp] theorem missed_aside (s : State) (r : SliceReq) : (s.missed r).aside = s.aside := by
  unfold State.missed
  cases r.page with
  | none => rfl
  | some page => exact countPage_aside ..

@[simp] theorem serveLine_aside (s : State) (r : SliceReq) (l : L2Line) (i : Nat) : (s.serveLine r l i).aside = s.aside := by
  simp [State.serveLine, apply_ite State.aside]

@[simp] theorem serveCached_aside (s : State) (r : SliceReq) (i : Nat) : (s.serveCached r i).aside = s.aside := by
  have hown := l2Own_aside s r.fn (r.pa i)
  unfold State.serveCached
  split
  next heq => rwa [heq] at hown
  next heq =>
    rw [heq] at hown
    exact (serveLine_aside ..).trans hown

@[simp] theorem serveHbm_aside (s : State) (r : SliceReq) (i : Nat) : (s.serveHbm r i).aside = s.aside := by
  refine (foldl_keeps State.aside (fun t pa => ?_) ..).trans (missed_aside s r)
  split
  · exact foldl_keeps State.aside (fun _ _ => by simp [apply_ite State.aside]) ..
  · exact dramAccess_aside ..

@[simp] theorem serveUncached_aside (s : State) (r : SliceReq) (i : Nat) : (s.serveUncached r i).aside = s.aside := by
  unfold State.serveUncached
  split
  · exact serveLine_aside ..
  · exact serveHbm_aside ..

@[simp] theorem checkTags_aside (s : State) (r : SliceReq) : (s.checkTags r).aside = s.aside := by
  unfold State.checkTags
  dsimp only
  split
  · exact (signal_aside ..).trans (postError_aside ..)
  · rfl

@[simp] theorem refetch_aside (s : State) (pa : Nat) : (s.refetch pa).aside = s.aside := by
  unfold State.refetch
  split
  · split
    · exact postError_aside ..
    · rfl
  · rfl

@[simp] theorem serveTags_aside (s : State) (r : SliceReq) : (s.serveTags r).aside = s.aside :=
  (foldl_keeps State.aside (fun _ _ => by simp [apply_ite State.aside]) ..).trans (checkTags_aside s r)

@[simp] theorem serveSlice_aside (s : State) (r : SliceReq) : (s.serveSlice r).aside = s.aside := by
  simp [State.serveSlice, apply_ite State.aside]

@[simp] theorem serveTo_aside (s : State) (id : Nat) : (s.serveTo id).aside = s.aside := by
  unfold State.serveTo
  split
  · rfl
  · exact foldl_keeps State.aside serveSlice_aside ..

@[simp] theorem l2Arrive_aside (s : State) (l : L2Line) (pa : Nat) : (s.l2Arrive l pa).aside = s.aside := by
  have hsources (xs : List Nat) (t : State) :
      (xs.foldl (fun u x => (rangeReqs 0 (x / 64 * 64) 64 .load true none).foldl State.serveTags u) t).aside = t.aside :=
    foldl_keeps State.aside (fun _ _ => foldl_keeps State.aside serveTags_aside ..) ..
  unfold State.l2Arrive
  dsimp only
  split
  · exact endFetch_aside ..
  · split
    · exact hsources ..
    · exact hsources ..

/-! ## Fills (R60, R64) -/

@[simp] theorem slicesGive_aside (s : State) (core pa : Nat) : (s.slicesGive core pa).aside = s.aside := by
  have hserved (o : Option SliceReq) : (match o with | some r => s.serveTo r.id | none => s).aside = s.aside := by
    cases o with
    | none => rfl
    | some r => exact serveTo_aside ..
  unfold State.slicesGive
  dsimp only
  split
  · split
    · exact (l2Arrive_aside ..).trans (hserved _)
    · exact hserved _
  · exact hserved _

@[simp] theorem l1Fill_aside (s : State) (core pa : Nat) : (s.l1Fill core pa).aside = s.aside := by
  have hdrop : (if s.l1Bad.contains (core, pa / 256) then s.l1DropLine core (pa / 256) else s).aside = s.aside := by
    split
    · rfl
    · rfl
  exact hdrop

@[simp] theorem fillL1_aside (s : State) (core pa : Nat) : (s.fillL1 core pa).aside = s.aside := by
  simp [State.fillL1, State.coreError, apply_ite State.aside]

/-! ## Cores and cohorts of a state -/

@[simp] theorem core_id (s : State) (n : Nat) : (s.core n).id = n := by
  unfold State.core
  cases h : s.cores.find? fun k => k.id == n with
  | none => rfl
  | some k => exact beq_iff_eq.1 (List.find?_some (p := fun k : Core => k.id == n) h)

theorem core_of_cores {s t : State} (h : t.cores = s.cores) (n : Nat) : t.core n = s.core n := by
  unfold State.core
  rw [h]

@[simp] theorem putCore_core (s : State) {k : Core} {n : Nat} (h : k.id = n) : (s.putCore k).core n = k := by
  simp [State.core, State.putCore, h]

/-- A fill that has come to its core's L1, before the reads that wait for it and its entry follow. -/
def State.filled (s : State) (core : Nat) (key : Loc) : State :=
  match key with
  | .hbm n =>
    if (s.core core).misses.any fun m => m.key == key && m.fills then (s.slicesGive core (64 * n)).fillL1 core (64 * n)
    else s.slicesGive core (64 * n)
  | _ => s

theorem filled_aside (s : State) (core : Nat) (key : Loc) : (s.filled core key).aside = s.aside := by
  cases key with
  | hbm n => simp [State.filled, apply_ite State.aside]
  | host b => rfl
  | peer q f => rfl

theorem fillReturn_eq (s : State) (core : Nat) (key : Loc) :
    let u := (s.filled core key).giveSector core (keyBase key)
    s.fillReturn core key = if (s.core core).misses.any fun m => m.key == key then
      u.putCore { u.core core with misses := (u.core core).misses.filter fun m => m.key != key } else u := by
  cases key with
  | hbm n => rfl
  | host b => rfl
  | peer q f => rfl

/-- Once its fill has returned, no load of the core waits for a sector: its entry has gone, or it had none, and a fill makes none. -/
theorem fillReturn_misses (s : State) (core : Nat) (key : Loc) : ∀ m ∈ ((s.fillReturn core key).core core).misses, m.key ≠ key := by
  rw [fillReturn_eq]
  split
  next =>
    rw [putCore_core]
    · intro m hm
      simpa using (List.mem_filter.1 hm).2
    · exact core_id ..
  next hnone =>
    rw [core_of_cores (cores_of_aside ((giveSector_aside ..).trans (filled_aside s core key)))]
    simpa using hnone

/-! ## The DRAM, the slices and the fills (R60, R64, R69, R79) -/

section
variable {s : State}

theorem closeRow_dramRows (s : State) (b : BankId) : ∀ r ∈ (s.closeRow b).dramRows, r.bank ≠ b := by
  intro r hr
  simpa using (List.mem_filter.1 hr).2

theorem exec_dramRefresh {b : BankId} (hstack : b.stack < 16) (hchannel : b.channel < 32) (hpc : b.pc < 2) (hgroup : b.group < 4)
    (hbank : b.bank < 4) (hmay : s.mayRefresh b = true) : exec (.dramRefresh b) s = .next (s.closeRow b) :=
  onSubject_pos (by simp [hstack, hchannel, hpc, hgroup, hbank, hmay])

theorem exec_rowIdleClose {b : BankId} (hidle : ∃ r ∈ s.dramRows, r.bank = b ∧ s.due (r.used + 128) = true) :
    ∃ r : OpenRow, exec (.rowIdleClose b) s = .next ((s.atCycle (r.used + 128)).closeRow b) := by
  cases hfind : s.dramRows.find? fun r : OpenRow => r.bank == b && s.due (r.used + 128) with
  | some r => exact ⟨r, onFound_of_eq_some hfind⟩
  | none =>
    obtain ⟨r, hr, hbank, hdue⟩ := hidle
    exact absurd (List.find?_eq_none.1 hfind r hr) (by simp [hbank, hdue])

theorem sectorNo_eq (pa : Nat) : sectorNo pa = pa / 64 % 4 := by
  unfold sectorNo
  omega

theorem exec_sliceRequest {fn pa : Nat} {store : Bool} : exec (.sliceRequest fn pa store) s =
    .next (match s.requests.find? (fun r => r.fn == fn && r.line == pa / 256 && r.sectors.getLsbD (pa / 64 % 4) && r.writes == store) with
      | some r => s.serveTo r.id
      | none => s) := by
  change execSliceRequest fn pa store s = _
  unfold execSliceRequest
  rw [sectorNo_eq]
  split
  next h => rw [h, onFound_some]
  next h => rw [h, onFound_none]

theorem exec_sectorFill {pa : Nat} {l : L2Line} (hl : s.l2Line? pa = some l) (hwant : l.want.getLsbD (pa / 64 % 4) = true) :
    exec (.sectorFill pa) s = .next (s.l2Arrive l pa) :=
  onFound_of_eq_some (Option.filter_eq_some_iff.2 ⟨hl, by rwa [sectorNo_eq]⟩)

theorem exec_l1Fill {core pa : Nat} (hwaits : ∃ m ∈ (s.core core).misses, m.key = .hbm (pa / 64)) :
    exec (.l1Fill core pa) s = .next (s.fillReturn core (.hbm (pa / 64))) :=
  onSubject_pos (by simpa using hwaits)

theorem exec_storeAck {core pa : Nat} {p : PendingStore}
    (hp : s.pendingStores.find? (fun p => p.core == core && p.here && (locWithin (.hbm pa) p.loc p.op.len).isSome) = some p) :
    exec (.storeAck core (.hbm pa)) s = .next ((s.serveTo p.request).drainStores fun q => q.id == p.id) :=
  onFound_of_eq_some hp

/-! ## Entries, landings and exchange stores (R64, R65, R237, R366) -/

theorem exec_missStatusGrant {core n : Nat} {c : Cohort} (hhead : s.grantHead core = some (c, n)) (hfree : s.missUsed core + n ≤ 128) :
    exec (.missStatusGrant core) s = .next ((s.putCore { s.core core with
      grantQueue := (s.core core).grantQueue.drop 1, grants := (s.core core).grants ++ [(c.uid, n)] }).putCohort
        { c with wait := if bitOf (s.reg (fnOf c.ctx) (0x1500 + slotOf c.ctx * 8)) 0 then .misses 0 else .none }) :=
  onFound_of_eq_some (a := (c, n)) (Option.filter_eq_some_iff.2 ⟨hhead, decide_eq_true hfree⟩)

theorem exec_retryReissue {uid : Nat} {c : Cohort} (hc : s.cohort? uid = some c) (hwait : c.wait = .misses 0)
    (hgrant : (s.core c.core).grantOf uid = true) :
    exec (.retryReissue uid) s = .next (s.putCohort { c with wait := .none, readyTime := s.clock + 2 }) :=
  onFound_of_eq_some (Option.filter_eq_some_iff.2 ⟨hc, by simp [hwait, hgrant]⟩)

theorem exec_landing {t : State} {uid tag : Nat} {c e : Cohort} {l x : Landing} (hc : s.cohort? uid = some c)
    (hl : c.landings.find? (fun l => l.tag == tag && !l.landed && l.unitWord.isNone) = some l)
    (hreads : (s.gather c.core fun r => r.ofLanding c l).takeReads c (fun y => y.id == l.id) = (t, e))
    (hx : e.landings.find? (fun y => y.id == l.id) = some x) :
    exec (.landing uid tag) s = .next (t.putCohort { e.land x with landings := (e.land x).landings.map fun y =>
      if y.id = x.id then { y with landed := true } else y }) := by
  refine (onFound_of_eq_some (a := (c, l)) (by rw [hc, Option.bind_some, hl, Option.map_some])).trans ?_
  dsimp only
  rw [hreads]
  dsimp only
  rw [hx]
  simp only [beq_iff_eq]

/-- A cohort is found as it was put. -/
theorem cohort?_putCohort {s : State} {c d : Cohort} {uid : Nat} (h : c.uid = uid) (hd : (s.putCohort c).cohort? uid = some d) : d = c := by
  obtain ⟨e, -, he⟩ := List.mem_map.1 (List.mem_of_find?_eq_some hd)
  have huid : d.uid = uid := beq_iff_eq.1 (List.find?_some (p := fun c : Cohort => c.uid == uid) hd)
  rw [h] at he
  split at he
  next => exact he.symm
  next hne =>
    subst he
    exact absurd (beq_iff_eq.2 huid) hne

theorem tickU_uid (c : Cohort) : c.tickU.uid = c.uid :=
  List.foldlRecOn (motive := fun d : Cohort => d.uid = c.uid) _ _ rfl fun _ hd _ _ => hd

theorem cycles_tickU_uid (n : Nat) (c : Cohort) : (cycles Cohort.tickU n c).uid = c.uid := by
  induction n generalizing c with
  | zero => rfl
  | succ n ih => exact (ih c.tickU).trans (tickU_uid c)

@[simp] theorem drainU_uid (c : Cohort) : c.drainU.uid = c.uid := cycles_tickU_uid ..

theorem exec_xstAccept {t : State} {uid : Nat} {c : Cohort} {xs : List XstFlight} {w : Word64} (hc : s.cohort? uid = some c)
    (hwait : c.wait = .xst xs w) (haccept : s.acceptFlights xs = (t, none)) :
    exec (.xstAccept uid) s = .next (t.putCohort { c.advance.drainU with
      wait := .none, skip := false, stepping := false, stepDue := if c.stepping then some w else none, readyTime := t.clock }) := by
  have huid : c.uid = uid := beq_iff_eq.1 (List.find?_some (p := fun c : Cohort => c.uid == uid) hc)
  refine (onFound_of_eq_some hc).trans ?_
  rw [hwait]
  dsimp only
  rw [State.acceptOne, haccept]
  dsimp only
  split
  next d hd =>
    rw [cohort?_putCohort (by simpa using huid) hd]
  next => rfl

/-! ## Hash masks (R76 to R78) -/

section
variable {die : Nat}

theorem exec_hashOpen (hb : s.booted = true) (hd : die < 4) (hidle : s.allIdle = true) :
    exec (.hashOpen die) s = .next (s.regSet 0 (hashCtl die) 1) := by
  refine (onWrite_pos ((isDie_iff die).2 hd) hb).trans ?_
  rw [if_pos hidle]

/-- As READY is set, no L1 holds a line of the die. -/
theorem exec_hashReady (hd : die < 4) (hopen : s.hashOpen die = true) (hready : s.hashReady die = false) :
    ∃ u : State, exec (.hashReady die) s =
      .next ({ u with l1 := u.l1.filter fun x => homeDie x.sector != die }.regSet 0 (hashCtl die) 2) :=
  ⟨_, onSubject_pos (by simp [hd, hopen, hready])⟩

theorem exec_hashMaskWrite_reject {reg : Nat} {val : Word64} (hb : s.booted = true) (hd : die < 4) (hr : reg < 6)
    (hrej : s.hashReady die = false ∨ maskGood reg val.toNat = false) :
    exec (.hashMaskWrite die reg val) s = .next (s.regSet 0 (hashCtl die) 4) := by
  refine (onWrite_pos (by simp [hd, hr]) hb).trans ?_
  rw [if_pos (by simpa using hrej)]

theorem exec_hashMaskWrite_accept {reg : Nat} {val : Word64} (hb : s.booted = true) (hd : die < 4) (hr : reg < 6)
    (hready : s.hashReady die = true) (hgood : maskGood reg val.toNat = true) :
    ∃ t, exec (.hashMaskWrite die reg val) s = .next t ∧
      t.reg 0 (0x2000 + die * 0x40 + 8 * reg) = val.toNat &&& ((2 ^ 28 - 1) * 2 ^ 8) := by
  have hlt : val.toNat &&& maskBits 35 8 < 2 ^ 64 := Nat.lt_of_le_of_lt Nat.and_le_left val.isLt
  refine ⟨_, onWrite_pos (by simp [hd, hr]) hb, ?_⟩
  rw [if_neg (by simp [hready, hgood])]
  split
  next hsame => exact (beq_iff_eq.1 hsame).symm
  next => exact (setReg_reg ..).trans (Nat.mod_eq_of_lt hlt)

theorem exec_hashClose (hb : s.booted = true) (hd : die < 4) :
    exec (.hashClose die) s = .next (s.regClear 0 (hashCtl die) 3) := onWrite_pos ((isDie_iff die).2 hd) hb

end

/-! ## Format windows (R106, R111) -/

section
variable {win : Nat}

theorem fwstat_offset (win : Nat) : 0x2230 + win * 0x40 = winOff win + 0x30 := by
  unfold winOff
  omega

theorem windowOn_of_regSet (s : State) (win : Nat) : (s.regSet 0 (winOff win + 0x20) 1).windowOn win = true :=
  regSet_bit_true _ _ _ (by decide) (by decide)

/-- A bit that reads 0 reads 0 where the register is taken to reset to 0. -/
theorem setReg_regRaw_bit {fn off val i : Nat} (h : bitOf ((s.setReg fn off val).reg fn off) i = false) :
    bitOf ((s.setReg fn off val).regRaw fn off 0#64).toNat i = false := by
  rw [setReg_reg] at h
  unfold State.regRaw
  rw [setReg_regs]
  by_cases hreset : (val % 2 ^ 64 == (regSpec fn off).elim 0 RegSpec.reset) = true
  · rw [if_pos hreset, find_filter_eq]
    simp [bitOf]
  · rw [if_neg hreset]
    simpa using h

theorem exec_formatWindowEnable (hb : s.booted = true) (hw : win < 8) (hoff : s.windowOn win = false) (hidle : s.allIdle = true)
    (hgood : s.windowBad win = false) : exec (.formatWindowEnable win) s =
      .next ((s.l2Flush fun l => (s.window win).covers (l.line * 256)).regSet 0 (winOff win + 0x20) 1) := by
  refine (onWrite_pos (decide_eq_true hw) hb).trans ?_
  rw [if_neg (by simp [hoff]), if_neg (by simp [hidle, hgood])]

theorem exec_formatWindowEnable_reject (hb : s.booted = true) (hw : win < 8) (hoff : s.windowOn win = false)
    (hrej : s.allIdle = false ∨ s.windowBad win = true) :
    exec (.formatWindowEnable win) s = .next (s.regSet 0 (winOff win + 0x30) 2) := by
  refine (onWrite_pos (decide_eq_true hw) hb).trans ?_
  rw [if_neg (by simp [hoff]), if_pos (by simpa using hrej)]

theorem exec_formatWindowActive (hw : win < 8) (hon : s.windowOn win = true) (hactive : s.windowActive win = false) :
    exec (.formatWindowActive win) s = .next (s.regSet 0 (winOff win + 0x30) 1) :=
  onSubject_pos (by simp [hw, hon, hactive])

theorem exec_formatWindowDisable (hb : s.booted = true) (hw : win < 8) (hon : s.windowOn win = true) (hidle : s.allIdle = true) :
    let s1 := (s.drainStores fun _ => true).flushViews fun v => v == win
    exec (.formatWindowDisable win) s = .next (((s1.regClear 0 (winOff win + 0x20) 1).regClear 0 (winOff win + 0x30) 1).undefRange
      (s.window win).view ((s.window win).view + (s.window win).size - 1)) := by
  refine (onWrite_pos (decide_eq_true hw) hb).trans ?_
  rw [if_neg (by simp [hon]), if_neg (by simp [hidle])]

/-- EN and ACTIVE cleared: the window is off, and not in force. -/
theorem window_cleared (s : State) (win lo hi : Nat) :
    let t := ((s.regClear 0 (winOff win + 0x20) 1).regClear 0 (winOff win + 0x30) 1).undefRange lo hi
    t.windowOn win = false ∧ t.windowActive win = false := by
  have hen : bitOf (((s.regClear 0 (winOff win + 0x20) 1).regClear 0 (winOff win + 0x30) 1).reg 0 (winOff win + 0x20)) 0 = false := by
    rw [regClear_ne _ _ _ _ _ _ (.inr (by omega))]
    exact regClear_bit_false _ _ _ (by decide) (by decide)
  exact ⟨hen, setReg_regRaw_bit (regClear_bit_false _ _ _ (by decide) (by decide))⟩

end

/-! ## Flushes for fences (R111, R154) -/

@[simp] theorem releaseWhere_flushing (s : State) (p : Record → Bool) (g : Record → Record) :
    (s.releaseWhere p g).flushing = s.flushing :=
  foldl_keeps State.flushing (fun t r => by split <;> rfl) ..

/-- A record that a release put waits for nothing; any other one stands as it was, and was not to be released. -/
theorem mem_records_release (p : Record → Bool) (xs : List Record) (t : State) {r : Record}
    (hr : r ∈ (xs.foldl (fun t r => if (r.place == .waiting || r.place == .faultOverflow) && p r then t.release r else t) t).records) :
    r.event = .none ∨ r ∈ t.records ∧ (r ∈ xs → ((r.place == .waiting || r.place == .faultOverflow) && p r) = false) := by
  induction xs generalizing t with
  | nil => exact .inr ⟨hr, nofun⟩
  | cons x xs ih =>
    rw [List.foldl_cons] at hr
    rcases ih _ hr with hnone | ⟨hmem, hrest⟩
    · exact .inl hnone
    · split at hmem
      next hx =>
        obtain ⟨q, hq, hput⟩ := List.mem_map.1 hmem
        split at hput
        next => exact .inl (hput ▸ rfl)
        next huid =>
          subst hput
          refine .inr ⟨hq, fun hin => ?_⟩
          rcases List.mem_cons.1 hin with rfl | hin
          · exact absurd (beq_self_eq_true _) huid
          · exact hrest hin
      next hx =>
        refine .inr ⟨hmem, fun hin => ?_⟩
        rcases List.mem_cons.1 hin with rfl | hin
        · exact Bool.eq_false_iff.2 hx
        · exact hrest hin

/-- No waiting record that was to be released still waits for an event. -/
theorem releaseWhere_event {p : Record → Bool} {r : Record} (hr : r ∈ (s.releaseWhere p id).records) (hplace : r.place = .waiting)
    (hp : p r = true) : r.event = .none := by
  rcases mem_records_release p s.records s hr with hnone | ⟨hmem, hkept⟩
  · exact hnone
  · exact absurd (hkept hmem) (by simp [hplace, hp])

theorem exec_formatFlushDone {seq : Nat} (hseq : seq ∈ s.flushing) : ∃ t, exec (.formatFlushDone seq) s = .next t ∧
    seq ∉ t.flushing ∧ ∀ r ∈ t.records, r.place = .waiting → r.event ≠ .flush (BitVec.ofNat 32 seq) := by
  refine ⟨_, onSubject_pos (by simpa using hseq), ?_, fun r hr hplace hevent => ?_⟩
  · rw [releaseWhere_flushing]
    simp
  · cases hevent.symm.trans (releaseWhere_event hr hplace (beq_iff_eq.2 hevent))

end

end Sys2Proof.Machine

namespace Sys2Proof

open Sys2Proof.Machine

/-- Settles O55: each event answers a state that its own lemma names. -/
theorem memoryEvents : Obligations.MemoryEvents := by
  unfold Obligations.MemoryEvents
  simp only [fwstat_offset]
  refine ⟨?refresh, ?idle, fun _ _ _ _ => exec_sliceRequest, fun _ _ _ => exec_sectorFill, fun _ _ _ => exec_l1Fill,
    fun _ _ _ _ => exec_storeAck, ?grant, fun _ _ _ => exec_retryReissue, fun _ _ _ _ _ _ _ _ => exec_landing,
    fun _ _ _ _ _ _ => exec_xstAccept, ?opened, ?ready, fun _ _ _ _ => exec_hashMaskWrite_accept,
    fun _ _ _ _ => exec_hashMaskWrite_reject, ?closed, ?enabled, fun _ _ => exec_formatWindowEnable_reject, ?active, ?disabled,
    fun _ _ => exec_formatFlushDone, fillReturn_misses⟩
  case refresh =>
    intro s b hstack hchannel hpc hgroup hbank hmay
    exact ⟨_, exec_dramRefresh hstack hchannel hpc hgroup hbank hmay, closeRow_dramRows _ _, rfl⟩
  case idle =>
    intro s b hidle
    obtain ⟨r, hexec⟩ := exec_rowIdleClose hidle
    exact ⟨_, hexec, closeRow_dramRows _ _, rfl⟩
  case grant =>
    intro s core c n hhead hfree
    refine ⟨_, _, exec_missStatusGrant hhead hfree, rfl, ?_⟩
    simp
  case opened =>
    intro s die hb hd hidle
    exact ⟨_, exec_hashOpen hb hd hidle, regSet_bit_true _ _ _ (by decide) (by decide)⟩
  case ready =>
    intro s die hd hopen hready
    obtain ⟨u, hexec⟩ := exec_hashReady hd hopen hready
    refine ⟨_, hexec, regSet_bit_true _ _ _ (by decide) (by decide), fun x hx => ?_⟩
    rw [State.regSet, State.setReg_l1] at hx
    simpa using (List.mem_filter.1 hx).2
  case closed =>
    intro s die hb hd
    exact ⟨_, exec_hashClose hb hd, regClear_bit_false _ _ _ (by decide) (by decide), regClear_bit_false _ _ _ (by decide) (by decide)⟩
  case enabled =>
    intro s win hb hw hoff hidle hgood
    exact ⟨_, exec_formatWindowEnable hb hw hoff hidle hgood, windowOn_of_regSet ..⟩
  case active =>
    intro s win hw hon hactive
    exact ⟨_, exec_formatWindowActive hw hon hactive, regSet_bit_true _ _ _ (by decide) (by decide)⟩
  case disabled =>
    intro s win hb hw hon hidle
    exact ⟨_, exec_formatWindowDisable hb hw hon hidle, window_cleared ..⟩

end Sys2Proof
end

section
/-! SUPPORT. What the steps of a fence leave (O38): the pending writes of this package, and the floor of a core's views. -/

namespace Sys2Proof.Machine

open Sys2Proof

/-! ## Fence steps (R61, R126) -/

/-- A write that has performed is no longer pending. -/
theorem mem_foldl_leavePending_iff (xs : List PendingStore) (s : State) (p : PendingStore) :
    p ∈ (xs.foldl State.leavePending s).pendingStores ↔ p ∈ s.pendingStores ∧ ∀ w ∈ xs, p.id ≠ w.id := by
  induction xs generalizing s with
  | nil => simp
  | cons w ws ih =>
    rw [List.foldl_cons, ih]
    simp [State.leavePending, and_assoc]

/-- A pending write of this package that a test picks is one of those that perform. -/
theorem mem_dueStores {s : State} {f : PendingStore → Bool} {p : PendingStore} (hp : p ∈ s.pendingStores) (hhere : p.here = true)
    (hf : f p = true) : p ∈ s.dueStores f := by
  unfold State.dueStores
  generalize s.pendingStores = ws at hp ⊢
  induction ws with
  | nil => cases hp
  | cons w ws ih =>
    rw [List.foldr_cons]
    rcases List.mem_cons.1 hp with rfl | hp
    · simp [hhere, hf]
    · split
      · exact List.mem_cons_of_mem _ (ih hp)
      · exact ih hp

theorem not_picked_of_mem_drainStores {s : State} {f : PendingStore → Bool} {p : PendingStore}
    (hp : p ∈ (s.drainStores f).pendingStores) : ¬ (p.here = true ∧ f p = true) := by
  rintro ⟨hhere, hf⟩
  obtain ⟨hpending, hgone⟩ := (mem_foldl_leavePending_iff _ _ _).1 hp
  exact hgone p (mem_dueStores hpending hhere hf) rfl

theorem le_foldl_ite_max {α : Type} (xs : List α) (c : α → Bool) (g : α → Nat) (a : Nat) :
    a ≤ xs.foldl (fun m x => if c x then max m (g x) else m) a := by
  refine List.foldlRecOn (motive := (a ≤ ·)) xs _ (Nat.le_refl a) fun m hm x _ => ?_
  split
  · exact Nat.le_trans hm (Nat.le_max_left ..)
  · exact hm

/-- No view of a core lies before its floor (R121). -/
theorem viewFloor_le_viewSeq (s : State) (core : Nat) (l : Loc) :
    ((s.viewFloors.find? fun f => f.1 == core).map Prod.snd).getD 0 ≤ s.viewSeq core l :=
  Nat.le_trans (le_foldl_ite_max s.performs _ Performed.seq _) (le_foldl_ite_max s.seen _ _ _)

end Sys2Proof.Machine

namespace Sys2Proof

open Sys2Proof.Machine

/-- Settles O38: what is drained of the pending writes is gone from them, and the new floor of the core's views is the last performed
write. -/
theorem fenceSteps : Obligations.FenceSteps := by
  unfold Obligations.FenceSteps
  refine ⟨?lines, ?drained, ?view⟩
  case lines =>
    intro s core scope hscope x hx
    rw [State.acquireStep, if_pos hscope] at hx
    simpa using (List.mem_filter.1 hx).2
  case drained =>
    rintro s core scope p hp ⟨hcore, hloc, hhere⟩
    exact not_picked_of_mem_drainStores hp ⟨hhere, by simp [hcore, hloc]⟩
  case view =>
    intro s core scope l hscope
    have hfloor := viewFloor_le_viewSeq (s.acquireStep core scope) core l
    rw [State.acquireStep, if_pos hscope] at hfloor ⊢
    simpa using hfloor

end Sys2Proof
end

section
/-! SUPPORT. What the stops of engine operations and the handover of quads keep (O59): `State.standing` through the operations of the
engines and the writes of the matrix unit, and the quads out of service through the end of a launch and the save of a core. -/

namespace Sys2Proof.Machine

open Sys2Proof

/-- What an engine operation that leaves its channel keeps: the cohorts, the count of wheel turns, the operations' identifiers and the
quads out of service. -/
def State.standing (s : State) : List Cohort × Nat × List Nat × List (Nat × Nat) :=
  (s.cohorts, s.wheelTurns, s.engines.map EngineOp.id, s.lateQuads)

theorem standing_of_aside {s t : State} (h : t.aside = s.aside) : t.standing = s.standing :=
  (congrArg State.standing h :)

theorem lateQuads_of_standing {s t : State} (h : t.standing = s.standing) : t.lateQuads = s.lateQuads :=
  (congrArg (fun x => x.2.2.2) h :)

theorem lateQuads_of_aside {s t : State} (h : t.aside = s.aside) : t.lateQuads = s.lateQuads :=
  lateQuads_of_standing (standing_of_aside h)

/-- What both branches keep, a choice between them keeps. -/
theorem ite_keeps {β : Type} {p : State → β} {c : Prop} [Decidable c] {t u : State} {x : β} (ht : p t = x) (hu : p u = x) :
    p (if c then t else u) = x := by
  split
  · exact ht
  · exact hu

/-! ## Requests and writes of agents that sit on no core -/

theorem enterError_aside (s : State) (sector fn : Nat) : (s.enterError sector fn).aside = s.aside := by
  unfold State.enterError
  split
  · exact (postError_aside ..).trans (listSector_aside ..)
  · exact (postError_aside ..).trans (listSector_aside ..)

theorem hurryTests_aside (s : State) (code core : Nat) : (s.hurryTests code core).aside = s.aside := rfl

theorem writeSectors_aside (s : State) (fn pa : Nat) (bs : List Byte) (u : Bool) : (s.writeSectors fn pa bs u).aside = s.aside := by
  refine foldl_keeps State.aside (fun t p => ?_) ..
  split
  · exact perform_aside (t.healSector p.1) ..
  · split
    · exact enterError_aside ..
    · exact perform_aside ..

theorem agentWrite_aside (s : State) (fn pa : Nat) (bs : List Byte) (u : Bool) (page : Option PageRef) :
    (s.agentWrite fn pa bs u page).aside = s.aside := (writeSectors_aside ..).trans (askRange_aside ..)

theorem serveWhere_aside (s : State) (p : SliceReq → Bool) : (s.serveWhere p).aside = s.aside :=
  foldl_keeps State.aside (fun _ _ => serveTo_aside ..) ..

theorem fillAll_aside (s : State) : s.fillAll.aside = s.aside := by
  refine foldl_keeps State.aside (fun t l => foldl_keeps State.aside (fun u i => ?_) ..) ..
  split
  · exact l2Arrive_aside ..
  · rfl

theorem serveAll_aside (s : State) (fn : Nat) : (s.serveAll fn).aside = s.aside :=
  ite_keeps ((fillAll_aside _).trans (serveWhere_aside ..)) (ite_keeps (fillAll_aside s) rfl)

theorem countHost_aside (s : State) (page : Option PageRef) (n : Nat) : (s.countHost page n).aside = s.aside := by
  refine foldl_keeps State.aside (fun t _ => ?_) ..
  cases page with
  | none => rfl
  | some r => exact countPage_aside t r

/-! ## Counts, records and operations (R374, R383 to R387) -/

theorem releaseWhere_standing (s : State) (p : Record → Bool) (g : Record → Record) : (s.releaseWhere p g).standing = s.standing := by
  refine foldl_keeps State.standing (fun t r => ?_) ..
  split
  · rfl
  · rfl

theorem releaseBar_standing (s : State) (launch team : BitVec 32) (bar : Nat) (ok : Bool) :
    (s.releaseBar launch team bar ok).standing = s.standing := by
  unfold State.releaseBar
  dsimp only
  split
  · exact releaseWhere_standing ..
  · exact releaseWhere_standing ..

theorem applyShadows_standing (s : State) (launch team : BitVec 32) (bar : Nat) :
    (s.applyShadows launch team bar).standing = s.standing := by
  refine foldl_keeps State.standing (fun t x => foldl_keeps State.standing (fun u i => ?_) ..) ..
  split
  · rfl
  · rfl

theorem settleBar_standing (s : State) (launch team : BitVec 32) (bar : Nat) : (s.settleBar launch team bar).standing = s.standing := by
  unfold State.settleBar
  split
  · rfl
  · exact ite_keeps ((releaseBar_standing ..).trans (applyShadows_standing ..)) rfl

theorem countBytes_standing (s : State) (launch team : BitVec 32) (bar n void : Nat) :
    (s.countBytes launch team bar n void).standing = s.standing := by
  unfold State.countBytes
  split
  · rfl
  · exact ite_keeps (settleBar_standing ..) rfl

theorem writeTarget_standing (s : State) (fn : Nat) (t : Target) (bs : List Byte) : (s.writeTarget fn t bs).standing = s.standing := by
  unfold State.writeTarget
  split
  · exact standing_of_aside (agentWrite_aside ..)
  · exact standing_of_aside ((countHost_aside ..).trans (perform_aside ..))
  · rfl
  · rfl

/-- An operation put in its place leaves the identifiers as they are. -/
theorem putEngine_standing (s : State) (e : EngineOp) : (s.putEngine e).standing = s.standing := by
  have hid (d : EngineOp) : (if d.id = e.id then e else d).id = d.id := by
    split
    next h => exact h.symm
    next => rfl
  simp [State.standing, State.putEngine, hid]

theorem finishChunk_standing (s : State) (e : EngineOp) : (s.finishChunk e).1.standing = s.standing := by
  unfold State.finishChunk
  split
  · rfl
  · have hmoved (f : EngineOp) : ((e.moves.foldl (fun t m => t.engineMove e.fn m) s).putEngine f).standing = s.standing :=
      (putEngine_standing ..).trans (foldl_keeps State.standing (fun _ _ => writeTarget_standing ..) ..)
    exact ite_keeps ((countBytes_standing ..).trans (hmoved _)) (hmoved _)

theorem leaveChannel_standing (s : State) (e : EngineOp) : (s.leaveChannel e).standing = s.standing := ite_keeps rfl rfl

theorem engineSave_standing (s : State) (e0 : EngineOp) (ev : Event) (place : Place) (status : Bool) :
    (s.engineSave e0 ev place status).standing = s.standing :=
  (putEngine_standing { (s.finishChunk e0).1.leaveChannel e0 with nextUid := _ } _).trans
    ((leaveChannel_standing ..).trans (finishChunk_standing ..))

theorem engineBack_standing (s : State) (op : Nat) : (s.engineBack op).standing = s.standing := by
  unfold State.engineBack
  split
  · exact putEngine_standing s _
  · rfl

theorem postFaults_standing (s : State) : s.postFaults.standing = s.standing := by
  unfold State.postFaults
  induction s.faults with
  | nil => rfl
  | cons e es ih =>
    rw [List.foldr_cons]
    split
    · exact ih
    · exact (standing_of_aside ((signal_aside ..).trans (ringPut_aside ..))).trans ih

theorem parkPage_standing (s : State) (die ctx : Nat) (f : PageFault) : (s.parkPage die ctx f).standing = s.standing :=
  ite_keeps rfl (postFaults_standing _)

theorem enginePark_standing (s : State) (e : EngineOp) (f : PageFault) (status : Bool) :
    (s.enginePark e f status).standing = s.standing :=
  ite_keeps ((engineBack_standing ..).trans ((parkPage_standing ..).trans (engineSave_standing ..)))
    ((parkPage_standing ..).trans (engineSave_standing ..))

theorem semAdd_standing (s : State) (fn core m : Nat) (n : BitVec 32) : (s.semAdd fn core m n).standing = s.standing :=
  releaseWhere_standing ..

theorem lastCount_standing (s : State) (e : EngineOp) (code : Nat) : (s.lastCount e code).standing = s.standing := by
  unfold State.lastCount
  dsimp only
  split
  · exact ite_keeps rfl (countBytes_standing ..)
  · exact semAdd_standing ..
  · rfl

theorem enginePut_standing (s : State) (e : EngineOp) (x : Xlate) (bs : List Byte) : (s.enginePut e x bs).standing = s.standing := by
  unfold State.enginePut
  split
  · exact standing_of_aside (agentWrite_aside ..)
  · exact standing_of_aside (perform_aside ..)
  · rfl
  · rfl

theorem spoil_standing (s : State) (ps : List (Xlate × Nat)) : (s.spoil ps).standing = s.standing := by
  refine foldl_keeps State.standing (fun t p => ?_) ..
  split
  · rfl
  · exact standing_of_aside (perform_aside ..)
  · rfl
  · rfl

/-! ## Writes of the matrix unit (R335, R347) -/

theorem askAs_standing (s : State) (uid : Nat) (core : Option Nat) (die ctx : Nat) (a : Ask) :
    (s.askAs uid core die ctx a).standing = s.standing := by
  have hsent (t : State) (r : PeerReq) : (t.dispatchReq r).standing = t.standing := ite_keeps rfl rfl
  exact ite_keeps rfl (ite_keeps rfl (hsent ..))

theorem postPeer_standing (s : State) (uid ctx va : Nat) (p : PendingStore) (bs : List Byte) :
    (s.postPeer uid ctx va p bs).standing = s.standing := by
  unfold State.postPeer
  split
  · exact ite_keeps (askAs_standing ..) (askAs_standing ..)
  · rfl

theorem issueAll_standing (s : State) (w : Writer) (request : Nat) (whole : Nat → Bool) (ws : List Write) :
    (s.issueAll w request whole ws).standing = s.standing := by
  refine foldl_keeps State.standing (fun t x => ?_) ..
  rfl

theorem issueLine_standing (s : State) (w : Writer) (kind : ReqKind) (key : Loc) (ws : List Write) :
    (s.issueLine w kind key ws).standing = s.standing := by
  unfold State.issueLine
  split
  · exact (issueAll_standing ..).trans (standing_of_aside (ask_aside ..))
  · exact (standing_of_aside (countHost_aside ..)).trans (issueAll_standing ..)
  · refine (foldl_keeps State.standing (fun t x => ?_) ..).trans (b := State.standing { s with nextUid := s.nextUid + 1 }) rfl
    exact postPeer_standing { t with nextUid := t.nextUid + 1 } ..

theorem putRow_standing (s : State) (core : Nat) (op : MatrixOp) (lane n : Nat) (dst : List Target) (elems : List Nat) :
    (s.putRow core op lane n dst elems).standing = s.standing := by
  have hpad (t : State) (d : Target) (bs : List Byte) : (t.putPad d bs).standing = t.standing := by
    cases d with
    | pad k launch team off => rfl
    | mem l va uncached page => rfl
  exact (foldl_keeps State.standing (fun _ _ => issueLine_standing ..) ..).trans (foldl_keeps State.standing (fun _ _ => hpad ..) ..)

theorem markFailed_lateQuads (s : State) (core : Nat) (op : MatrixOp) (f : Option FailedWord) :
    (s.markFailed core op f).lateQuads = s.lateQuads := by
  unfold State.markFailed
  split
  · rfl
  · exact (lateQuads_of_aside (postError_aside ..)).trans rfl

theorem matrixRun_lateQuads (s : State) (core : Nat) (op : MatrixOp) : (s.matrixRun core op).lateQuads = s.lateQuads := by
  have hrows (n : Nat) (xs : List Nat) (d : Nat → List Target) (g : Nat → List Nat) :
      (xs.foldl (fun u i => u.putRow core op i n (d i) (g i)) s).lateQuads = s.lateQuads :=
    foldl_keeps State.lateQuads (fun _ _ => lateQuads_of_standing (putRow_standing ..)) ..
  unfold State.matrixRun
  dsimp only
  cases op.kind with
  | mma => exact markFailed_lateQuads ..
  | store dst => exact hrows ..
  | drain => exact ite_keeps (hrows ..) (hrows ..)
  | alloc => rfl
  | free => rfl
  | zero => rfl
  | load rows => rfl
  | rd g dst => rfl
  | wr g vals => rfl
  | mov source => rfl

theorem matrixWhile_lateQuads (core : Nat) (p : MatrixOp → Bool) (n : Nat) (s : State) :
    (State.matrixWhile core p n s).lateQuads = s.lateQuads := by
  have hexec (t : State) : (t.matrixExec core).lateQuads = t.lateQuads := by
    unfold State.matrixExec
    split
    · rfl
    · exact matrixRun_lateQuads ..
  induction n generalizing s with
  | zero => rfl
  | succ n ih => exact ite_keeps ((ih _).trans (hexec s)) rfl

/-! ## The quads out of service (R438) -/

theorem dropEngine_lateQuads (s : State) (e : EngineOp) : (s.dropEngine e).lateQuads = s.lateQuads := by
  have hleft : (s.leaveChannel e).lateQuads = s.lateQuads := lateQuads_of_standing (leaveChannel_standing ..)
  exact (lateQuads_of_standing (releaseWhere_standing ..)).trans hleft

theorem endEngine_lateQuads (s : State) (e : EngineOp) (code trap : Nat) : (s.endEngine e code trap).lateQuads = s.lateQuads :=
  (dropEngine_lateQuads ..).trans ((lateQuads_of_standing (lastCount_standing ..)).trans
    (ite_keeps rfl (lateQuads_of_standing (enginePut_standing ..))))

theorem engineFinish_lateQuads (s : State) (e : EngineOp) (code trap : Nat) : (s.engineFinish e code trap).lateQuads = s.lateQuads :=
  (endEngine_lateQuads ..).trans (lateQuads_of_aside (serveAll_aside ..))

theorem engineStop_lateQuads (s : State) (e : EngineOp) (code trap : Nat) : (s.engineStop e code trap).lateQuads = s.lateQuads := by
  unfold State.engineStop
  split
  · exact ite_keeps (engineFinish_lateQuads ..) (lateQuads_of_standing (enginePark_standing ..))
  · exact engineFinish_lateQuads ..

theorem abortEngine_lateQuads (s : State) (e : EngineOp) : (s.abortEngine e).lateQuads = s.lateQuads :=
  ite_keeps rfl ((engineStop_lateQuads ..).trans (lateQuads_of_standing (spoil_standing ..)))

theorem endLaunch_lateQuads (s : State) (num : BitVec 32) (status : Nat) : (s.endLaunch num status).lateQuads = s.lateQuads := by
  unfold State.endLaunch
  extract_lets fn s0 s1 gone late attic s2 s3
  have hfinished : s0.lateQuads = s.lateQuads := foldl_keeps State.lateQuads (fun _ _ => matrixWhile_lateQuads ..) ..
  have haborted : s1.lateQuads = s0.lateQuads := foldl_keeps State.lateQuads abortEngine_lateQuads ..
  have hleft : s2.lateQuads = s1.lateQuads := foldl_keeps State.lateQuads (f := State.leaveAttic) (fun _ _ => rfl) ..
  clear_value s0 s1 s2
  exact (lateQuads_of_standing (releaseWhere_standing ..)).trans (hleft.trans (haborted.trans hfinished))

theorem postFatals_lateQuads (s : State) : s.postFatals.lateQuads = s.lateQuads := by
  have hput (t : State) (p : Nat × List Byte) :
      (if t.ringFull p.1 0x1E40 0x1E48 then { t with fatalPending := t.fatalPending ++ [p] }
        else (t.ringPut p.1 0x1E40 0x1E48 p.2).signal p.1 1).lateQuads = t.lateQuads := by
    split
    · rfl
    · exact lateQuads_of_aside ((signal_aside ..).trans (ringPut_aside ..))
  exact foldl_keeps State.lateQuads hput ..

theorem reportFatal_lateQuads (s : State) (fn : Nat) (d : List Byte) : (s.reportFatal fn d).lateQuads = s.lateQuads :=
  ite_keeps rfl (postFatals_lateQuads _)

theorem loseBay_aside (s : State) (b : BufferBay) (sev fn : Nat) : (s.loseBay b sev fn).aside = s.aside :=
  (postError_aside ..).trans (foldl_keeps State.aside (fun _ _ => listSector_aside ..) ..)

theorem fatalRecord_lateQuads (s : State) (r : Record) (code : TrapCode) (va : Nat) :
    (s.fatalRecord r code va).lateQuads = s.lateQuads := (reportFatal_lateQuads ..).trans (endLaunch_lateQuads ..)

theorem discardBad_lateQuads (s : State) (r : Record) : (s.discardBad r).lateQuads = s.lateQuads := by
  unfold State.discardBad
  extract_lets s1
  have hposted : s1.aside = s.aside := by
    unfold s1
    cases s.badImage r with
    | none => rfl
    | some b =>
      rw [Option.elim_some]
      split
      · exact (hurryTests_aside ..).trans (loseBay_aside ..)
      · exact (hurryTests_aside ..).trans (enterError_aside ..)
  have hlate := lateQuads_of_aside hposted
  clear_value s1
  exact (fatalRecord_lateQuads ..).trans hlate

theorem engineResume_lateQuads (s : State) (op : Nat) : (s.engineResume op).lateQuads = s.lateQuads := by
  unfold State.engineResume
  split
  · exact lateQuads_of_standing (engineBack_standing ..)
  next r _ =>
    have hread : (s.getImage (fnOf r.ctx) false r.uid).lateQuads = s.lateQuads :=
      foldl_keeps State.lateQuads (fun _ _ => lateQuads_of_aside (askRange_aside ..)) ..
    exact ite_keeps ((lateQuads_of_standing (engineBack_standing ..)).trans hread) ((discardBad_lateQuads ..).trans hread)

theorem returnEngines_lateQuads (s : State) (fns : List Nat) : (s.returnEngines fns).lateQuads = s.lateQuads := by
  refine foldl_keeps State.lateQuads (fun t r => ?_) ..
  split
  · exact ite_keeps rfl (engineResume_lateQuads ..)
  · rfl

theorem saveTag_lateQuads (s : State) (core : Nat) (tag : BitVec 32) : (s.saveTag core tag).lateQuads = s.lateQuads := by
  have hread : (s.readOutTiles core tag).2.lateQuads = s.lateQuads :=
    ite_keeps (matrixWhile_lateQuads ..) (matrixWhile_lateQuads ..)
  unfold State.saveTag
  dsimp only
  split
  · exact hread
  · split
    · exact hread
    · exact hread

theorem writeSave_lateQuads (s : State) (b : SaveBlock) (core : Nat) : (s.writeSave b core).lateQuads = s.lateQuads :=
  lateQuads_of_aside ((serveAll_aside ..).trans (agentWrite_aside ..))

theorem withSaves_lateQuads (s : State) (saves : List SaveBlock) : { s with saves }.lateQuads = s.lateQuads := rfl

theorem withSaved_lateQuads (s : State) (saves : List SaveBlock) (allocs : List Alloc) (shadows : List Shadow) (k : Core) :
    ({ s with saves, allocs, shadows }.putCore k).lateQuads = s.lateQuads := rfl

theorem saveCore_lateQuads (s : State) (fn core : Nat) : (s.saveCore fn core).lateQuads = s.lateQuads := by
  unfold State.saveCore
  extract_lets s1 mine block k s2
  have htiles : s1.lateQuads = s.lateQuads := foldl_keeps State.lateQuads (fun _ _ => saveTag_lateQuads ..) ..
  clear_value s1
  have hsaved : s2.lateQuads = s1.lateQuads := ite_keeps ((withSaves_lateQuads ..).trans (writeSave_lateQuads ..)) rfl
  clear_value s2
  exact hsaved.trans htiles

theorem restoreCore_lateQuads (s : State) (fn core : Nat) : (s.restoreCore fn core).lateQuads = s.lateQuads := by
  unfold State.restoreCore
  split
  · rfl
  · exact (withSaved_lateQuads ..).trans (lateQuads_of_aside (askRange_aside ..))

theorem handQuad_lateQuads (s : State) (p : Nat × Nat) : (s.handQuad p).lateQuads = s.lateQuads := by
  refine foldl_keeps State.lateQuads (fun t i => ?_) ..
  have hsaved (core : Nat) : (if p.2 == 0xFFFF then t else t.saveCore p.2 core).lateQuads = t.lateQuads :=
    ite_keeps rfl (saveCore_lateQuads ..)
  exact ite_keeps (hsaved _) ((restoreCore_lateQuads ..).trans (hsaved _))

theorem handQuads_lateQuads (s : State) (ps : List (Nat × Nat)) : (s.handQuads ps).lateQuads = s.lateQuads :=
  (returnEngines_lateQuads ..).trans (foldl_keeps State.lateQuads handQuad_lateQuads ..)

/-! ## The end of a drain window (R437, R438) -/

/-- What stands of a drain: the drain itself, the open rows, and the quads out of service. -/
def State.drainView (s : State) : Option Drain × List OpenRow × List (Nat × Nat) := (s.drain, s.dramRows, s.lateQuads)

theorem setReg_drainView (s : State) (fn off val : Nat) : (s.setReg fn off val).drainView = s.drainView := by
  simp [State.drainView]

theorem signal_drainView (s : State) (fn vec : Nat) : (s.signal fn vec).drainView = s.drainView :=
  ite_keeps (setReg_drainView s ..) rfl

theorem endDrain_drainView (s : State) (d : Drain) :
    (s.endDrain d).drainView = (none, [], s.lateQuads ++ (d.quads.zip d.owners).filter fun p => !s.quadDone p) := by
  unfold State.endDrain
  rw [List.partition_eq_filter_filter]
  dsimp only
  rw [foldl_keeps State.drainView fun t _ => (signal_drainView ..).trans (setReg_drainView t ..)]
  dsimp only [State.drainView]
  rw [lateQuads_of_aside (dramQuiet_aside ..), returnEngines_lateQuads, handQuads_lateQuads]
  rfl

end Sys2Proof.Machine
end

section
/-! SUPPORT. The events of the ticks, the wheel and the slot table (O59). -/

namespace Sys2Proof.Machine

open Sys2Proof

variable {s : State}

/-! ## Ticks (R132, R447, R475) -/

theorem exec_packageHeartbeat :
    let s1 := ({ s with clock := (s.clock / 256 + 1) * 256 }.wakeFences).wakePodFences
    exec .packageHeartbeat s =
      .next ((s1.queueViews.foldl (fun t v => t.readHead v.fn v.queue) s1).readOutboxes.readOverflow) := rfl

theorem exec_podTickSend (hon : s.podOn = true) (hmaster : s.podMaster = s.pkgNum) (hdue : s.due (s.podSentAt + 4000) = true) :
    ∃ t, exec .podTickSend s = .next t ∧ t.podSent = max s.podSent s.podTick + 1 ∧
      t.podSentAt = max s.clock (s.podSentAt + 4000) := by
  refine ⟨_, onSubject_pos (by simp [hon, hmaster, State.podNext, hdue]), ?sent, ?sentAt⟩
  case sent =>
    refine (foldl_keeps State.podSent ?_ _ _).trans rfl
    exact fun _ _ => rfl
  case sentAt =>
    refine (foldl_keeps State.podSentAt ?_ _ _).trans rfl
    exact fun _ _ => rfl

theorem exec_podTick {count stamp : Nat} (hon : s.podOn = true) : exec (.podTick count stamp) s =
    .next { s with podPending := s.podPending ++ [(count, stamp + s.field 0 0xF910 31 16)] } := onSubject_pos hon

theorem exec_podTickAdopt {count cycle : Nat} (h : s.podPending.find? (fun p => p.1 == count && s.due p.2) = some (count, cycle)) :
    exec (.podTickAdopt count) s =
      .next { s.atCycle cycle with podTick := count, podPending := s.podPending.erase (count, cycle) } := onFound_of_eq_some h

/-! ## Slot edges and frames (R421, R430) -/

theorem exec_slotEdge (hon : s.tableOn = true) (hslot : s.curSlot < 15) (hdrain : s.drain = none) (hdue : s.due s.nextEdge = true) :
    exec .slotEdge s = .next ((s.atCycle s.nextEdge).switchTo s.table (s.curSlot + 1)) :=
  onSubject_pos (by simp [hon, hslot, hdrain, hdue])

theorem exec_frameBoundary (hen : s.tableEn = true) (hkept : s.disabling = false) (hdrain : s.drain = none) (hon : s.tableOn = true)
    (hslot : s.curSlot = 15) (hdue : s.due s.nextFrame = true) (hpending : s.pendingTable = none) :
    let s2 := ((s.atCycle s.nextFrame).refill).setReg 0 0x9018 (s.frame + 1)
    exec .frameBoundary s = .next (s2.switchTo s2.table 0) := by
  refine (onSubject_pos (by simp [hen, hdrain, hslot, hdue])).trans ?_
  simp only [hkept, hpending, hon, if_true, Bool.false_eq_true, if_false]

/-! ## The fine wheel (R427, R428, R433) -/

/-- The operations that must stop leave their channels, or are marked to; the count of turns goes up. -/
theorem exec_wheelTurn (hdue : s.due (1024 * s.wheelTurns) = true) : ∃ t, exec .wheelTurn s = .next t ∧
    t.standing = (s.cohorts, s.wheelTurns + 1, s.engines.map EngineOp.id, s.lateQuads) := by
  refine ⟨_, onSubject_pos hdue, (foldl_keeps State.standing (fun t e => ?_) ..).trans rfl⟩
  split
  · exact putEngine_standing ..
  · exact engineSave_standing ..

theorem exec_wheelPosition {die cls pos : Nat} (hdie : die < 4) (hcls : cls < 4) (hpos : pos < 64) : exec (.wheelPosition die cls pos) s =
    .next ((s.resourcesAt die cls).foldl (fun t n => t.positionAt die cls pos n) s) :=
  onSubject_pos (by simp [hdie, hcls, hpos])

/-- A position in a drain window serves the outgoing functions. -/
theorem positionAt_of_drain {d : Drain} {die cls pos n : Nat} (hdrain : s.drain = some d) (hpos : pos < 52)
    (hclock : s.clock < d.edge + 10000) : s.positionAt die cls pos n = d.outgoing.foldl (fun t f => t.servePosition die cls n f) s := by
  unfold State.positionAt
  rw [hdrain, Option.filter_some_pos (by simp [hpos, hclock])]

/-- A position outside a drain window serves its owner, or the donee of one with nothing queued. -/
theorem positionAt_outside_drain {die cls pos n f : Nat} (howner : s.positionOwner die cls pos = some f)
    (hout : s.drain = none ∨ 52 ≤ pos ∨ ∃ d, s.drain = some d ∧ d.edge + 10000 ≤ s.clock) :
    (s.queuedAt die cls n f = true → s.positionAt die cls pos n = s.servePosition die cls n f) ∧
    (s.queuedAt die cls n f = false → ∀ g, s.donee die cls n f = some g →
      s.positionAt die cls pos n = (s.spendDonation g).servePosition die cls n g) ∧
    (s.queuedAt die cls n f = false → s.donee die cls n f = none → s.positionAt die cls pos n = s) := by
  have hwindow : (s.drain.filter fun d => pos < 52 && s.clock < d.edge + 10000) = none := by
    refine Option.filter_eq_none_iff.2 fun d hd => ?_
    rcases hout with hnone | hpos | ⟨e, he, hclock⟩
    · cases hnone.symm.trans hd
    · simp [Nat.not_lt.2 hpos]
    · cases he.symm.trans hd
      simp [Nat.not_lt.2 hclock]
  unfold State.positionAt
  rw [hwindow, howner]
  refine ⟨fun hqueued => ?_, fun hempty g hg => ?_, fun hempty hnone => ?_⟩
  · simp [hqueued]
  · simp [hempty, hg]
  · simp [hempty, hnone]

/-! ## The slot table (R424) -/

theorem exec_slotTableEnable (hb : s.booted = true) (hoff : s.tableEn = false) (hidle : s.allIdle = true)
    (hpending : s.pendingTable ≠ none) : exec .slotTableEnable s = .next { s.regSet 0 0x9010 1 with
      t0 := if s.disabling then s.t0 else (s.clock / 1024 + 1) * 1024, disabling := false } := by
  refine (onWrite_pos (by simp [hoff]) hb).trans ?_
  rw [if_neg (by simp [hidle]), if_neg (by simpa using hpending)]

theorem exec_slotTableDisable (hb : s.booted = true) (hon : s.tableEn = true) (hidle : s.allIdle = true) :
    exec .slotTableDisable s = .next { s.regClear 0 0x9010 1 with disabling := true } := by
  refine (onWrite_pos hon hb).trans ?_
  rw [if_neg (by simp [hidle])]

/-! ## The drain (R437, R438) -/

theorem exec_engineOverrun {d : Drain} (hdrain : s.drain = some d) (hdue : s.due (d.edge + 9000) = true) : exec .engineOverrun s =
    .next ((s.engines.filter fun e => d.outgoing.contains e.fn && e.state == .running).foldl
      (fun t e => t.engineStop e 1 0) (s.atCycle (d.edge + 9000))) :=
  onFound_of_eq_some (Option.filter_eq_some_iff.2 ⟨hdrain, hdue⟩)

theorem exec_drainWindowEnd {d : Drain} (hdrain : s.drain = some d) (hdue : s.due (d.edge + 10000) = true) :
    exec .drainWindowEnd s = .next ((s.atCycle (d.edge + 10000)).endDrain d) := by
  change execDrainWindowEnd s = _
  rw [execDrainWindowEnd, hdrain, Option.filter_some_pos (p := fun d : Drain => s.due (d.edge + 10000)) hdue]

theorem exec_drainWindowEnd_late (hdrain : s.drain = none) (hlate : s.lateQuads.any s.quadDone = true) : exec .drainWindowEnd s =
    .next ({ s with lateQuads := s.lateQuads.filter fun p => !s.quadDone p }.handQuads (s.lateQuads.filter s.quadDone)) := by
  change execDrainWindowEnd s = _
  rw [execDrainWindowEnd, hdrain]
  exact onSubject_pos hlate

end Sys2Proof.Machine

namespace Sys2Proof

open Sys2Proof.Machine

/-- Settles O59: each event answers a state that its own lemma names; the operations that a wheel turn stops and the cores that a drain
hands over are followed through `State.standing` and `State.lateQuads`. -/
theorem clockEvents : Obligations.ClockEvents := by
  unfold Obligations.ClockEvents
  refine ⟨fun _ => exec_packageHeartbeat, fun _ => exec_podTickSend, fun _ _ _ => exec_podTick, ?adopt, fun _ => exec_slotEdge,
    fun _ => exec_frameBoundary, ?turn, fun _ _ _ _ => exec_wheelPosition, fun _ _ _ _ _ _ => positionAt_outside_drain,
    fun _ _ _ _ _ _ => positionAt_of_drain, fun _ _ => exec_engineOverrun, ?drained, ?late, ?load, ?enabled, ?disabled⟩
  case adopt =>
    intro s count cycle h
    exact ⟨_, exec_podTickAdopt h, rfl, rfl⟩
  case turn =>
    intro s hdue
    obtain ⟨t, hexec, hstanding⟩ := exec_wheelTurn hdue
    exact ⟨t, hexec, congrArg (·.2.1) hstanding, congrArg (·.1) hstanding, congrArg (·.2.2.1) hstanding⟩
  case drained =>
    intro s d hdrain hdue
    have hview := endDrain_drainView (s.atCycle (d.edge + 10000)) d
    exact ⟨_, exec_drainWindowEnd hdrain hdue, congrArg (·.1) hview, congrArg (·.2.1) hview, congrArg (·.2.2) hview⟩
  case late =>
    intro s hdrain hlate
    exact ⟨_, exec_drainWindowEnd_late hdrain hlate, handQuads_lateQuads ..⟩
  case load =>
    intro s hb
    refine (onWrite_pos rfl hb).trans ?_
    cases s.loadErr with
    | zero => rfl
    | succ e => rfl
  case enabled =>
    intro s hb hoff hidle hpending
    exact ⟨_, exec_slotTableEnable hb hoff hidle hpending, regSet_bit_true s _ _ (by decide) (by decide)⟩
  case disabled =>
    intro s hb hon hidle
    exact ⟨_, exec_slotTableDisable hb hon hidle, regClear_bit_false s _ _ (by decide) (by decide), rfl⟩

end Sys2Proof
end

section
/-! SUPPORT. The events of records, placements, halts and team moves (O56). `State.teamView` is what stays as a team's allocations
go to its new members. -/

namespace Sys2Proof.Machine

open Sys2Proof

variable {s : State}

/-! ## Drains of bins (R166, R179, R180) -/

theorem exec_binAgeExpiry {rec : Nat} {r : Record} (hr : s.record? rec = some r) (hbin : r.place = .bin)
    (hdue : r.arrival + 2048 ≤ s.clock) : exec (.binAgeExpiry rec) s = .next s :=
  onFound_of_eq_some (Option.filter_eq_some_iff.2 ⟨hr, by simp [hbin, hdue]⟩)

/-- A drain with no bad image, whose fibres one core can take together, forms one cohort of the records it takes. -/
theorem exec_cobblerDrain_whole {rec k : Nat} {r : Record} {rs : List Record} {one : List (Record × Fibre)}
    (hr : s.record? rec = some r) (hk : s.drainClass r = some k) (hrs : takeRecords 32 ((s.binMates r).filter (sameKey r)) = rs)
    (hgood : ∀ q ∈ rs, q.bad = false ∧ s.badImage q = none) (hone : divideBy s.mayRun 32 (drainLanes rs) = [one]) :
    exec (.cobblerDrain rec) s =
      .next ((rs.foldl (fun t q => t.getImage (fnOf q.ctx) false q.uid) s).formCohort (s.drainOrder r k) rs false k) := by
  have hnoBad : rs.find? (fun q => q.bad || (s.badImage q).isSome) = none :=
    List.find?_eq_none.2 fun q hq => by simp [hgood q hq]
  refine (onFound_of_eq_some (a := (r, k)) (by rw [hr, Option.bind_some, hk, Option.map_some])).trans ?_
  dsimp only
  rw [hrs, hnoBad, hone]

/-! ## Handoffs (R181 to R183) -/

theorem exec_recordSend_within {rec die : Nat} {r : Record} (hr : s.record? rec = some r) (hbin : r.place = .bin) (hdie : die < 4)
    (hpkg : s.pkgNum < 1024) (hmay : s.maySend r s.pkgNum die = true) (hgo : s.sendsStopped (fnOf r.ctx) = false)
    (hkept : ∀ x ∈ s.reclaimed, x.1 ≠ rec) :
    exec (.recordSend rec s.pkgNum die) s = .next (s.putRecord { r with place := .sent s.pkgNum die s.clock }) := by
  refine (onFound_of_eq_some (Option.filter_eq_some_iff.2 ⟨hr, ?_⟩)).trans ?_
  · simpa [hbin, hdie, hpkg, hmay, hgo] using hkept
  · rw [if_pos (beq_self_eq_true _)]

theorem exec_recordData_accept {pkg txn die : Nat} {image : List Byte} {r : Record} (hpkg : pkg ≠ s.pkgNum) (hdie : die < 4)
    (hpod : pkg < 1024) (hlen : 64 ≤ image.length) (hr : imageRecord image s.nextUid pkg die s.clock = r) (hfn : fnOf r.ctx < 257)
    (hkind : r.kind ≠ .engine) (hframes : imageFrames image = false) (hreset : s.resets.contains (fnOf r.ctx) = false)
    (hroom : s.cellarCharged (fnOf r.ctx) + r.charge ≤ s.cellarBays (fnOf r.ctx)) :
    exec (.recordData pkg txn die image) s =
      .next ({ s with nextUid := s.nextUid + 1, records := s.records ++ [r] }.sendFlit 13 pkg (fnOf r.ctx) txn 0 []) := by
  change execRecordData pkg txn die image s = _
  unfold execRecordData
  rw [if_neg (by simpa using hpkg), hr]
  dsimp only
  refine (onSubject_pos (by simp [hdie, hpod, hlen])).trans ?_
  rw [if_neg (by simpa [hfn, hkind, hframes, Nat.not_lt.2 hroom] using hreset)]

/-- The answer to a record sent: in time it is passed on, and after the timeout it stays here (R182; log 30). -/
theorem exec_ack_of_sent {rec pkg die since : Nat} {r : Record} (hr : s.record? rec = some r) (hsent : r.place = .sent pkg die since) :
    exec (.ack rec) s =
      .next (if s.clock ≤ since + 2000 then s.passOn r pkg die else (s.reclaim r).refuseLate pkg rec) := by
  change execAck rec s = _
  rw [execAck, hr, Option.map_some, hsent]

theorem exec_handoffTimeout_of_sent {rec pkg die since : Nat} {r : Record} (hr : s.record? rec = some r)
    (hsent : r.place = .sent pkg die since) (hdue : since + 2000 ≤ s.clock) :
    exec (.handoffTimeout rec) s = .next { s.reclaim r with reclaimed := s.reclaimed ++ [(rec, pkg, die)] } := by
  change execHandoffTimeout rec s = _
  rw [execHandoffTimeout, hr, Option.map_some, hsent]
  exact onSubject_pos (decide_eq_true hdue)

theorem exec_commit_within {rec die : Nat} {r : Record} (hr : s.record? rec = some r) (hpending : r.place = .pending s.pkgNum die) :
    exec (.commit rec) s = .next (s.putRecord { r with place := s.binPlace (fnOf r.ctx) r.die, arrival := s.clock }) := by
  change execCommit rec s = _
  rw [execCommit, hr, Option.map_some, hpending]
  exact if_pos (beq_self_eq_true _)

theorem exec_refuse_from {rec pkg die : Nat} {r : Record} (hr : s.record? rec = some r) (hpending : r.place = .pending pkg die)
    (hpkg : pkg ≠ s.pkgNum) : exec (.refuse rec) s = .next ((s.dropRecord rec).wakeCharge (fnOf r.ctx)) := by
  change execRefuse rec s = _
  rw [execRefuse, hr, Option.map_some, hpending]
  exact onSubject_pos (bne_iff_ne.2 hpkg)

/-! ## Placements (R211, R404 to R407) -/

section
variable {uid k : Nat} {u : Unplaced}

theorem exec_placement_here (hu : s.unplaced? uid = some u) (hcore : s.placeCore u = some k) :
    exec (.placement uid) s = .next (s.place u k) := by
  refine (onFound_of_eq_some hu).trans ?_
  rw [hcore]

theorem exec_placement_far (hu : s.unplaced? uid = some u) (hcore : s.placeCore u = none) (hfar : s.farCore u = some k) :
    exec (.placement uid) s = .next (s.putUnplaced { u with handoff := some (.sent s.pkgNum (dieOf k) s.clock) }) := by
  refine (onFound_of_eq_some hu).trans ?_
  rw [hcore, hfar]

/-- A cohort that has waited too long while a core can be cleared: the core's placements are to halt, and it is bound to that core. -/
def State.clearFor (s : State) (uid core : Nat) (ps : List Nat) : State :=
  { s with
    halts := s.halts ++ ps.map fun p => (p, 4)
    unplaced := s.unplaced.map fun (v : Unplaced) =>
      if v.cohort.uid == uid then { v with overdue := true, bound := some core, since := s.clock, cause := 4 } else v }

theorem clearFor_bound {ps : List Nat} :
    ∀ v ∈ (s.clearFor uid k ps).unplaced, v.cohort.uid = uid → v.bound = some k ∧ v.overdue = true := by
  intro v hv huid
  obtain ⟨w, -, rfl⟩ := List.mem_map.1 hv
  by_cases hw : w.cohort.uid = uid
  · simp [hw]
  · simp [hw] at huid

theorem exec_placementWaitTimeout {ps : List Nat} (hu : s.unplaced? uid = some u) (hteam : u.fromTeam = false)
    (hhandoff : u.handoff = none) (hlate : u.since + 16384 ≤ s.clock) (hholds : s.holdsCores (fnOf u.cohort.ctx) = true)
    (hcore : s.placeCore u = none) (hclear : s.clearCore u = some (k, ps)) :
    exec (.placementWaitTimeout uid) s = .next (s.clearFor uid k ps) := by
  refine (onFound_of_eq_some (Option.filter_eq_some_iff.2 ⟨hu, ?_⟩)).trans ?_
  · simp [State.placeLate, hteam, hhandoff, hlate, hholds, hcore]
  · rw [hclear]
    rfl

end

/-! ## Halts (R205, R211, R236) -/

theorem settleXst_of_ne {c : Cohort} (hwait : ∀ xs w, c.wait ≠ .xst xs w) : s.settleXst c = s := by
  unfold State.settleXst
  split
  next xs w h => exact absurd h (hwait xs w)
  next => rfl

@[simp] theorem abandonReads_cohort? (s : State) (c : Cohort) (uid : Nat) : (s.abandonReads c).cohort? uid = s.cohort? uid := by
  unfold State.abandonReads
  split
  · rfl
  · rfl

theorem uid_of_cohort? {uid : Nat} {c : Cohort} (h : s.cohort? uid = some c) : c.uid = uid :=
  beq_iff_eq.1 (List.find?_some (p := fun c : Cohort => c.uid == uid) h)

/-- A cohort that owes no trap and waits for no exchange store halts into its records. -/
theorem haltNow_of_untrapped {uid : Nat} {c : Cohort} (cause : Nat) (hc : s.cohort? uid = some c) (hxst : ∀ xs w, c.wait ≠ .xst xs w)
    (hrefused : ∀ code, c.wait ≠ .refused code) (hstep : c.stepDue = none) (habort : (s.abandonReads c).abortedWrite uid = none) :
    s.haltNow c cause = (s.abandonReads c).haltInto { c with wait := .none } cause := by
  obtain rfl := uid_of_cohort? hc
  simp only [State.haltNow, settleXst_of_ne hxst, abandonReads_cohort?, hc, hstep, habort]

/-- A split wait halts its cohort as a part. -/
theorem haltInto_splitWait (s : State) (c : Cohort) : s.haltInto c 2 = s.forceOut c 2 := rfl

theorem exec_splitWaitTimeout {uid : Nat} {c : Cohort} (hc : s.cohort? uid = some c) (hwait : c.wait = .split)
    (hdue : c.readyTime + 256 ≤ s.clock) (hcan : s.canHalt c = true) (hpeer : s.peerOpen c = false) (hstep : c.stepDue = none)
    (habort : (s.abandonReads c).abortedWrite uid = none) :
    exec (.splitWaitTimeout uid) s = .next ((s.abandonReads c).forceOut { c with wait := .none } 2) := by
  refine (onFound_of_eq_some (Option.filter_eq_some_iff.2 ⟨hc, by simp [hwait, hdue, hcan, hpeer]⟩)).trans ?_
  rw [haltNow_of_untrapped 2 hc (by simp [hwait]) (by simp [hwait]) hstep habort, haltInto_splitWait]

theorem exec_haltRequest {uid cause : Nat} {c : Cohort} (hc : s.cohort? uid = some c) (hwanted : s.haltWanted c = some cause)
    (hcan : s.canHalt c = true) (hxst : ∀ xs w, c.wait ≠ .xst xs w) (hrefused : ∀ code, c.wait ≠ .refused code)
    (hstep : c.stepDue = none) (habort : (s.abandonReads c).abortedWrite uid = none) :
    exec (.haltRequest uid cause) s = .next ((s.abandonReads c).haltInto { c with wait := .none } cause) := by
  refine (onFound_of_eq_some (Option.filter_eq_some_iff.2 ⟨hc, by simp [State.haltDue, hwanted, hcan]⟩)).trans ?_
  rw [haltNow_of_untrapped cause hc hxst hrefused hstep habort]

/-! ## Issue slots (R409) -/

/-- Whether no cohort of a core holds one of its issue slots. -/
def State.slotFree (s : State) (core n : Nat) : Bool := !s.cohorts.any fun c => c.core == core && c.issue == some n

/-- Whether slot 1 of a core was free first, for a cohort that alone is ready there (log 53). -/
def State.takesSlot1 (s : State) (core : Nat) : Bool :=
  (s.cohorts.filter fun c => c.core == core && c.ready).length == 1 && s.slotFreed core 1 < s.slotFreed core 0

theorem nextSlot_eq (s : State) (core : Nat) : s.nextSlot core =
    if s.slotFree core 0 && s.slotFree core 1 then some (if s.takesSlot1 core then 1 else 0) else [0, 1].find? (s.slotFree core) := rfl

theorem slotFree_iff {core n : Nat} : s.slotFree core n = true ↔ ∀ e ∈ s.cohorts, e.core = core → e.issue ≠ some n := by
  simp [State.slotFree]

theorem slotFree_eq_false_iff {core n : Nat} : s.slotFree core n = false ↔ ∃ e ∈ s.cohorts, e.core = core ∧ e.issue = some n := by
  simp [State.slotFree]

theorem takesSlot1_iff {core : Nat} : s.takesSlot1 core = true ↔
    s.slotFreed core 1 < s.slotFreed core 0 ∧ (s.cohorts.filter fun c => c.core == core && c.ready).length = 1 := by
  simp [State.takesSlot1, and_comm]

theorem nextSlot_of_free0 {core : Nat} (h0 : s.slotFree core 0 = true) : s.nextSlot core = some 0 ∨ s.takesSlot1 core = true := by
  cases hfirst : s.takesSlot1 core with
  | true => exact .inr rfl
  | false => exact .inl (by simp [nextSlot_eq, h0, hfirst])

theorem nextSlot_of_held0 {core : Nat} (h0 : s.slotFree core 0 = false) (h1 : s.slotFree core 1 = true) : s.nextSlot core = some 1 := by
  simp [nextSlot_eq, h0, h1]

theorem nextSlot_of_takesSlot1 {core : Nat} (h0 : s.slotFree core 0 = true) (h1 : s.slotFree core 1 = true)
    (hfirst : s.takesSlot1 core = true) : s.nextSlot core = some 1 := by
  simp [nextSlot_eq, h0, h1, hfirst]

theorem exec_issueSlotTake {core slot : Nat} {c : Cohort} (hc : s.nextReady core = some c) (hslot : s.nextSlot core = some slot) :
    exec (.issueSlotTake core slot) s = .next (s.putCohort { c with issue := some slot, slotSince := s.clock }) :=
  onFound_of_eq_some (Option.filter_eq_some_iff.2 ⟨hc, beq_iff_eq.2 hslot⟩)

/-! ## Team moves (R189) -/

/-- The teams, and the bytes of the allocations in the order of the list. -/
def State.teamView (s : State) : List Team × List (List Host.Cell) := (s.teams, s.allocs.map Alloc.data)

theorem teamView_of_aside {s t : State} (h : t.aside = s.aside) : t.teamView = s.teamView :=
  (congrArg State.teamView h :)

theorem setSplit_teamView (s : State) (core code : Nat) : (s.setSplit core code).teamView = s.teamView := ite_keeps rfl rfl

/-- An allocation that goes to another core, and to another row there, keeps its bytes. -/
theorem moveMember_teamView (t : Team) (l : Launch) (s : State) (p : Nat × Nat) : (State.moveMember t l s p).teamView = s.teamView := by
  unfold State.moveMember
  split
  · rfl
  · rw [← setSplit_teamView s p.1 ((s.splitFor p.1 l.foot l.split).getD 0)]
    simp [State.teamView, Function.comp_def, apply_ite Alloc.data]

theorem divideUnplaced_teamView (s : State) (u : Unplaced) : (s.divideUnplaced u).teamView = s.teamView := by
  unfold State.divideUnplaced
  dsimp only
  split
  · rfl
  · refine (foldl_keeps State.teamView ?_ _ _).trans rfl
    exact fun _ _ => rfl

theorem divideWaiting_teamView (s : State) : s.divideWaiting.teamView = s.teamView :=
  foldl_keeps State.teamView divideUnplaced_teamView ..

theorem ringWrite_aside (s : State) (fn pa : Nat) (bs : List Byte) : (s.ringWrite fn pa bs).aside = s.aside :=
  ite_keeps (physWrite_aside ..) rfl

/-- A decision counted and traced changes registers and the trace ring alone. -/
theorem decide_aside (s : State) (kind cause lanes flags ctx core : Nat) (tag launch : BitVec 32) (resume : Nat) :
    (s.decide kind cause lanes flags ctx core tag launch resume).aside = s.aside :=
  ite_keeps (setReg_aside ..) (ite_keeps ((setReg_aside ..).trans (setReg_aside ..))
    ((setReg_aside ..).trans ((ringWrite_aside ..).trans (setReg_aside ..))))

theorem exec_teamMove {launch team : Nat} {members : List Nat} {t : Team} {l : Launch}
    (ht : s.team? (BitVec.ofNat 32 launch) (BitVec.ofNat 32 team) = some t) (hmovable : s.movable t = true)
    (hhost : s.canHost t members = true) (hl : s.teamLaunch? t = some l) :
    ∃ u, exec (.teamMove launch team members) s = .next u ∧ u.teamView = (s.putTeam { t with members }).teamView := by
  refine ⟨_, onFound_of_eq_some (a := (t, l)) ?_, ?_⟩
  · rw [ht, Option.filter_some_pos (by simp [hmovable, hhost]), Option.bind_some, hl, Option.map_some]
  · exact (teamView_of_aside (decide_aside ..)).trans
      ((divideWaiting_teamView ..).trans (foldl_keeps State.teamView (moveMember_teamView t l) ..))

end Sys2Proof.Machine

namespace Sys2Proof

open Sys2Proof.Machine

/-- Settles O56: each event answers a state that its own lemma names; a team's move is followed through `State.teamView`. -/
theorem recordEvents : Obligations.RecordEvents := by
  unfold Obligations.RecordEvents
  refine ⟨fun _ _ _ => exec_binAgeExpiry, fun _ _ _ _ _ hr hk => exec_cobblerDrain_whole hr hk rfl,
    fun _ _ _ _ => exec_recordSend_within, fun _ _ _ _ _ hpkg hdie hpod hlen => exec_recordData_accept hpkg hdie hpod hlen rfl,
    ?ackInTime, fun _ _ _ _ _ _ => exec_handoffTimeout_of_sent, fun _ _ _ _ => exec_commit_within,
    fun _ _ _ _ _ => exec_refuse_from, fun _ _ _ => onFound_of_eq_some, fun _ _ _ _ => exec_placement_here,
    fun _ _ _ _ => exec_placement_far, ?overdue, fun _ _ _ => exec_splitWaitTimeout, fun _ _ _ _ => exec_haltRequest,
    ?slot0, ?held0, ?slot1, fun _ _ _ _ => exec_issueSlotTake, ?moved, ?ackLate⟩
  case ackInTime =>
    intro s rec r pkg die since hr hsent htime
    rw [exec_ack_of_sent hr hsent, if_pos htime]
  case overdue =>
    intro s uid u k ps hu hteam hhandoff hlate hholds hcore hclear
    exact ⟨_, exec_placementWaitTimeout hu hteam hhandoff hlate hholds hcore hclear, rfl, clearFor_bound⟩
  case slot0 =>
    intro s core hfree
    exact (nextSlot_of_free0 (slotFree_iff.2 hfree)).imp_right takesSlot1_iff.1
  case held0 =>
    intro s core hheld hfree
    exact nextSlot_of_held0 (slotFree_eq_false_iff.2 hheld) (slotFree_iff.2 hfree)
  case slot1 =>
    intro s core hnone hfirst hlone
    have hfree (n : Nat) : s.slotFree core n = true := slotFree_iff.2 fun e he hcore => by simp [hnone e he hcore]
    exact nextSlot_of_takesSlot1 (hfree 0) (hfree 1) (takesSlot1_iff.2 ⟨hfirst, hlone⟩)
  case moved =>
    intro s launch team members t l ht hmovable hhost hl
    obtain ⟨u, hexec, hview⟩ := exec_teamMove ht hmovable hhost hl
    exact ⟨u, hexec, congrArg Prod.fst hview, congrArg Prod.snd hview⟩
  case ackLate =>
    intro s rec r pkg die since hr hsent hlate
    rw [exec_ack_of_sent hr hsent, if_neg (Nat.not_le.2 hlate)]

end Sys2Proof
end

section
/-! SUPPORT. The predicates of a fibre (R186, R268): what `Fibre.pred` reads after `Fibre.setPred` (O17), one rule for
the same predicate and one for another. -/

namespace Sys2Proof.Machine

open Sys2Proof

@[simp] theorem pred_zero (f : Fibre) : f.pred 0 = true := rfl

@[simp] theorem setPred_zero (f : Fibre) (b : Bool) : f.setPred 0 b = f := rfl

theorem pred_eq_getLsbD {n : Nat} (f : Fibre) (h0 : n ≠ 0) : f.pred n = f.preds.getLsbD n := by
  simp [Fibre.pred, h0]

theorem setPred_preds {n : Nat} (f : Fibre) (b : Bool) (h0 : n ≠ 0) :
    (f.setPred n b).preds = if b then f.preds ||| (1#8 <<< n) else f.preds &&& ~~~(1#8 <<< n) := by
  rw [Fibre.setPred, if_neg (by simpa using h0)]

/-- The mask of `Fibre.setPred` holds bit `n` alone. -/
theorem getLsbD_bitMask {n m : Nat} (hm : m < 8) : (1#8 <<< n).getLsbD m = decide (m = n) := by
  rw [← BitVec.twoPow_eq, BitVec.getLsbD_twoPow, Bool.eq_iff_iff]
  simp only [Bool.and_eq_true, decide_eq_true_eq]
  omega

/-- The bits of the predicate register after a write: bit `n` is the new value, and the others stand. -/
theorem setPred_preds_getLsbD {n m : Nat} (f : Fibre) (b : Bool) (h0 : n ≠ 0) (hm : m < 8) :
    (f.setPred n b).preds.getLsbD m = if m = n then b else f.preds.getLsbD m := by
  rw [setPred_preds f b h0]
  cases b with
  | true =>
    rw [if_pos rfl, BitVec.getLsbD_or, getLsbD_bitMask hm]
    by_cases hmn : m = n <;> simp [hmn]
  | false =>
    rw [if_neg Bool.false_ne_true, BitVec.getLsbD_and, BitVec.getLsbD_not, getLsbD_bitMask hm]
    by_cases hmn : m = n <;> simp [hm, hmn]

theorem pred_setPred_same {n : Nat} (f : Fibre) (b : Bool) (h0 : n ≠ 0) (hn : n < 8) : (f.setPred n b).pred n = b := by
  rw [pred_eq_getLsbD _ h0, setPred_preds_getLsbD f b h0 hn, if_pos rfl]

theorem pred_setPred_other {n m : Nat} (f : Fibre) (b : Bool) (h0 : n ≠ 0) (hm : m < 8) (hmn : m ≠ n) :
    (f.setPred n b).pred m = f.pred m := by
  by_cases hm0 : m = 0
  · rw [hm0, pred_zero, pred_zero]
  · rw [pred_eq_getLsbD _ hm0, pred_eq_getLsbD _ hm0, setPred_preds_getLsbD f b h0 hm, if_neg hmn]

end Sys2Proof.Machine

namespace Sys2Proof

open Sys2Proof.Machine

/-- Settles O17: a write is followed bit by bit through the predicate register. -/
theorem predicateZero : Obligations.PredicateZero := by
  unfold Obligations.PredicateZero
  intro f n b
  refine ⟨pred_zero f, setPred_zero f b, fun hn h0 => ⟨pred_setPred_same f b h0 hn, ?_⟩⟩
  exact fun m hm hmn => pred_setPred_other f b h0 hm hmn

end Sys2Proof
end

section
/-! SUPPORT. The results in flight (R229 to R231; O16): what a cycle of the uniform side leaves when one more result is
in flight, and how long the only result in flight on the vector side is not there. -/

namespace Sys2Proof.Machine

open Sys2Proof

/-! ## The uniform side -/

/-- A result of the uniform side lands in its register. -/
def Cohort.landU (c : Cohort) (r : InFlightU) : Cohort := c.setSreg r.reg r.val

/-- A result in flight, one cycle later. -/
def InFlightU.aged (r : InFlightU) : InFlightU := { r with left := r.left - 1 }

theorem foldl_landU_withFlightU (rs : List InFlightU) (c : Cohort) (fl : List InFlightU) :
    rs.foldl Cohort.landU { c with flightU := fl } = { rs.foldl Cohort.landU c with flightU := fl } := by
  induction rs generalizing c with
  | nil => rfl
  | cons r rs ih => exact ih (c.landU r)

/-- The end of a cycle: what has no cycle left lands, in the order of issue, and the rest stays in flight. -/
theorem tickU_eq (c : Cohort) :
    c.tickU = { ((c.flightU.map InFlightU.aged).filter (·.left == 0)).foldl Cohort.landU c with
      flightU := (c.flightU.map InFlightU.aged).filter (·.left != 0) } := foldl_landU_withFlightU ..

/-- A result issued last, with a cycle more to go, changes nothing but what is in flight. -/
theorem tickU_append_waits (c : Cohort) {r : InFlightU} (hr : 2 ≤ r.left) :
    { c with flightU := c.flightU ++ [r] }.tickU = { c.tickU with flightU := c.tickU.flightU ++ [r.aged] } := by
  have hleft : r.left - 1 ≠ 0 := by omega
  simp [tickU_eq, foldl_landU_withFlightU, InFlightU.aged, hleft]

/-- A result issued last, in its last cycle, lands after every other. -/
theorem tickU_append_lands (c : Cohort) {r : InFlightU} (hr : r.left = 1) :
    { c with flightU := c.flightU ++ [r] }.tickU = c.tickU.landU r := by
  simp [tickU_eq, foldl_landU_withFlightU, InFlightU.aged, hr, Cohort.landU, Cohort.setSreg]

@[simp] theorem setSreg_sregs_length (c : Cohort) (n : Nat) (x : Word64) : (c.setSreg n x).sregs.length = c.sregs.length :=
  List.length_set

theorem sreg_setSreg_same {c : Cohort} {n : Nat} (x : Word64) (hn : n < c.sregs.length) : (c.setSreg n x).sreg n = x.toNat := by
  simp [Cohort.sreg, Cohort.setSreg, hn]

theorem sreg_setSreg_other {n m : Nat} (c : Cohort) (x : Word64) (h : m ≠ n) : (c.setSreg n x).sreg m = c.sreg m := by
  simp [Cohort.sreg, Cohort.setSreg, List.getD_eq_getElem?_getD, List.getElem?_set_ne h.symm]

theorem tickU_sregs_length (c : Cohort) : c.tickU.sregs.length = c.sregs.length :=
  List.foldlRecOn (motive := fun d : Cohort => d.sregs.length = c.sregs.length) _ _ rfl fun _ hd _ _ =>
    (setSreg_sregs_length ..).trans hd

@[simp] theorem tickU_fibres (c : Cohort) : c.tickU.fibres = c.fibres :=
  List.foldlRecOn (motive := fun d : Cohort => d.fibres = c.fibres) _ _ rfl fun _ hd _ _ => hd

@[simp] theorem tickU_flightV (c : Cohort) : c.tickU.flightV = c.flightV :=
  List.foldlRecOn (motive := fun d : Cohort => d.flightV = c.flightV) _ _ rfl fun _ hd _ _ => hd

/-! ## The vector side -/

/-- A result in flight, one cycle later. -/
def InFlightV.aged (r : InFlightV) : InFlightV := { r with left := r.left - 1 }

/-- Writes of registers and predicates read nothing of a cohort but its fibres. -/
theorem foldl_write_fibres_congr {c d : Cohort} (ws : List RegWrite) (h : c.fibres = d.fibres) :
    (ws.foldl Cohort.write c).fibres = (ws.foldl Cohort.write d).fibres := by
  refine List.foldl_rel (r := fun c d : Cohort => c.fibres = d.fibres) h fun w _ c d h => ?_
  cases w <;> simp [Cohort.write, Cohort.mapLane, h]

theorem writeBack_fibres (c : Cohort) (r : InFlightV) : (c.writeBack r).fibres = (r.writes.foldl Cohort.write c).fibres := by
  unfold Cohort.writeBack
  cases r.latch <;> rfl

theorem tickV_waits {c : Cohort} {r : InFlightV} (h : c.flightV = [r]) (hr : 2 ≤ r.left) :
    c.tickV = { c with flightV := [r.aged] } := by
  have hleft : r.left - 1 ≠ 0 := by omega
  simp [Cohort.tickV, h, hleft, InFlightV.aged]

theorem tickV_lands_fibres {c : Cohort} {r : InFlightV} (h : c.flightV = [r]) (hr : r.left = 1) :
    c.tickV.fibres = (r.writes.foldl Cohort.write c).fibres := by
  simp only [Cohort.tickV, h, hr, List.map_cons, List.map_nil, Nat.sub_self, beq_self_eq_true, List.filter_cons_of_pos,
    List.filter_nil, List.foldl_cons, List.foldl_nil, writeBack_fibres]
  exact foldl_write_fibres_congr _ rfl

/-- The only result in flight is not there while it has a cycle left. -/
theorem cycles_tickV_waits {n : Nat} {c : Cohort} {r : InFlightV} (h : c.flightV = [r]) (hn : n < r.left) :
    (cycles Cohort.tickV n c).fibres = c.fibres := by
  induction n generalizing c r with
  | zero => rfl
  | succ n ih =>
    have hwait : c.tickV = { c with flightV := [r.aged] } := tickV_waits h (by omega)
    rw [cycles, hwait]
    exact ih rfl (Nat.lt_sub_of_add_lt hn)

/-- The only result in flight is there once its last cycle ends. -/
theorem cycles_tickV_lands {n : Nat} {c : Cohort} {r : InFlightV} (h : c.flightV = [r]) (hn : r.left = n + 1) :
    (cycles Cohort.tickV (n + 1) c).fibres = (r.writes.foldl Cohort.write c).fibres := by
  induction n generalizing c r with
  | zero => exact tickV_lands_fibres h hn
  | succ n ih =>
    have hwait : c.tickV = { c with flightV := [r.aged] } := tickV_waits h (by omega)
    rw [cycles, hwait]
    exact (ih (r := r.aged) rfl (by simp [InFlightV.aged, hn])).trans (foldl_write_fibres_congr _ rfl)

/-- A vector word issued with nothing else in flight: its own issue cycle is the first of its result's. -/
theorem issueVec_alone {c : Cohort} (v : VectorOp) (ws : List RegWrite) (l : Option Latch) (hc : c.flightV = [])
    (hw : v.wbs = false) :
    ∃ e : Cohort, c.issueVec v ws l = e.tickV.tickU ∧ e.fibres = c.fibres ∧ e.flightV = [⟨v.latency, ws, l⟩] :=
  ⟨_, rfl, rfl, by simp [Cohort.killed, hc, hw]⟩

/-- With a cycle more to go after its own, the word leaves the registers as they are. -/
theorem issueVec_waits {c : Cohort} {v : VectorOp} (ws : List RegWrite) (l : Option Latch) (hc : c.flightV = []) (hw : v.wbs = false)
    (hl : 2 ≤ v.latency) :
    (c.issueVec v ws l).fibres = c.fibres ∧ (c.issueVec v ws l).flightV = [⟨v.latency - 1, ws, l⟩] := by
  obtain ⟨e, hissue, hfibres, hflight⟩ := issueVec_alone v ws l hc hw
  rw [hissue, tickU_fibres, tickU_flightV, tickV_waits hflight hl]
  exact ⟨hfibres, rfl⟩

/-- With latency 1 the word's writes land at the end of its own cycle. -/
theorem issueVec_lands {c : Cohort} {v : VectorOp} (ws : List RegWrite) (l : Option Latch) (hc : c.flightV = []) (hw : v.wbs = false)
    (hl : v.latency = 1) : (c.issueVec v ws l).fibres = (ws.foldl Cohort.write c).fibres := by
  obtain ⟨e, hissue, hfibres, hflight⟩ := issueVec_alone v ws l hc hw
  rw [hissue, tickU_fibres, tickV_lands_fibres hflight hl]
  exact foldl_write_fibres_congr ws hfibres

end Sys2Proof.Machine

namespace Sys2Proof

open Sys2Proof.Machine

/-- Settles O16: a uniform result passes its two cycles behind whatever else is in flight; a vector result alone in flight
counts its cycles down. -/
theorem resultLatency : Obligations.ResultLatency := by
  unfold Obligations.ResultLatency
  refine ⟨fun c dst n x hdst => ?uniform, fun c v ws l n hc hw hl => ⟨?before, ?landed⟩⟩
  case uniform =>
    have hissued : Claims.uniformWrite c dst x = { c.tickU with flightU := c.tickU.flightU ++ [⟨1, dst, x⟩] } :=
      tickU_append_waits c (Nat.le_refl 2)
    have hlanded : (Claims.uniformWrite c dst x).tickU = c.tickU.tickU.setSreg dst x := by
      rw [hissued, tickU_append_lands _ rfl]
      rfl
    rw [hlanded, hissued]
    exact ⟨rfl, sreg_setSreg_same x (by rwa [tickU_sregs_length, tickU_sregs_length]), sreg_setSreg_other _ x⟩
  case before =>
    intro hn
    obtain ⟨hfibres, hflight⟩ := issueVec_waits ws l hc hw (by omega)
    exact (cycles_tickV_waits hflight hn).trans hfibres
  case landed =>
    cases hm : v.latency - 1 with
    | zero => exact issueVec_lands ws l hc hw (by omega)
    | succ m =>
      obtain ⟨hfibres, hflight⟩ := issueVec_waits ws l hc hw (by omega)
      exact (cycles_tickV_lands hflight hm).trans (foldl_write_fibres_congr ws hfibres)

end Sys2Proof
end

section
/-! SUPPORT. A full or an empty queue (R227; O26): what each word that pushes or pops an entry leaves then. -/

namespace Sys2Proof.Machine

open Sys2Proof

variable {s : State} {c : Cohort} {i : Instr}

/-- A push onto a full vector-to-uniform queue, where no trap of R266 comes first. -/
theorem issuePush_full {v : VectorOp} (entry : Cohort → List Word32) (hc : s.current = some c) (hw : i.wf = true)
    (hv : c.vectorTrap v = none) (hfull : 16 ≤ c.vq.length) :
    issuePush i s v entry = .next (s.ownTrap i c { code := .qover } v.guard) := by
  unfold issuePush
  rw [onCohort_wf _ hc hw, hv]
  exact congrArg _ (if_pos hfull)

theorem issuePop_empty (res : Cohort → List Word32 → List (Nat × Nat)) (hc : s.current = some c) (hw : i.wf = true)
    (hempty : c.vq = []) : issuePop i s res = .next (s.ownTrap i c { code := .qempty } Guard.always) := by
  unfold issuePop
  rw [onCohort_wf _ hc hw, hempty]

theorem execQput_full {w : UrWord} (hc : s.current = some c) (hw : (Instr.qput w).wf = true) (hfull : 16 ≤ c.uq.length) :
    execQput w s = .next (s.ownTrap (.qput w) c { code := .qover } Guard.always) := by
  unfold execQput
  rw [onCohort_wf _ hc hw]
  exact congrArg _ (if_pos hfull)

theorem execQget_empty {w : VrWord} (hc : s.current = some c) (hw : (Instr.qget w).wf = true)
    (hv : c.vectorTrap (vrOp w [] w.ty.pair 4) = none) (hempty : c.uq = []) :
    execQget w s = .next (s.ownTrap (.qget w) c { code := .qempty } w.guard) := by
  unfold execQget
  rw [onCohort_wf _ hc hw]
  dsimp only
  rw [hv, hempty]
  rfl

end Sys2Proof.Machine

namespace Sys2Proof

open Sys2Proof.Machine

/-- Settles O26: each word answers as its kind of push or pop does at a full or an empty queue. -/
theorem queueTraps : Obligations.QueueTraps := by
  unfold Obligations.QueueTraps
  refine ⟨?qput, ?qrcvB64, ?qrcvB32, ?qget, ?qret, ?vredQ⟩
  case qput => exact fun _ _ _ => execQput_full
  case qrcvB64 => exact fun _ _ _ => issuePop_empty _
  case qrcvB32 => exact fun _ _ _ => issuePop_empty _
  case qget => exact fun _ _ _ => execQget_empty
  case qret => exact fun _ _ _ => issuePush_full _
  case vredQ => exact fun _ _ _ => issuePush_full _

end Sys2Proof
end

section
/-! SUPPORT. The layouts of the eight formats (R245, R252 to R262): what an encoder puts together its parser takes apart again, and the
other way round. -/

namespace Sys2Proof

/-! ## Fields of a word -/

section
variable {m n k start len i j : Nat}

/-- `y` put below `x`, in `k` bits: an append whose width is a number and no sum. -/
def below (k : Nat) (y : BitVec n) (x : BitVec m) (h : m + n = k := by rfl) : BitVec k := (x ++ y).cast h

@[simp] theorem extract_below_low {x : BitVec m} {y : BitVec n} {h : m + n = k} (hs : start + len ≤ n) :
    (below k y x h).extractLsb' start len = y.extractLsb' start len := by
  subst h
  exact BitVec.extractLsb'_append_eq_of_add_le hs

@[simp] theorem extract_below_high {x : BitVec m} {y : BitVec n} {h : m + n = k} (hs : n ≤ start) :
    (below k y x h).extractLsb' start len = x.extractLsb' (start - n) len := by
  subst h
  exact BitVec.extractLsb'_append_eq_of_le hs

@[simp] theorem below_extract {x : BitVec len} {h : m + n = k} (hs : j = i + n) :
    below k (x.extractLsb' i n) (x.extractLsb' j m) h = x.extractLsb' i k := by
  subst h
  exact BitVec.extractLsb'_append_extractLsb'_eq_extractLsb' hs

end

/-! ## Sources, types, flags and guards -/

theorem Src.bits_eq (x : Src) :
    x.bits = below 10 (match x with | .vreg n | .latch n | .ureg n | .imm n => n)
      (match x with | .vreg _ => 0#2 | .latch _ => 1#2 | .ureg _ => 2#2 | .imm _ => 3#2) := by
  cases x <;> rfl

@[simp] theorem Src.ofBits_bits (x : Src) : Src.ofBits x.bits = x := by cases x <;> simp [Src.ofBits, Src.bits_eq]

@[simp] theorem Src.bits_ofBits (b : BitVec 10) : (Src.ofBits b).bits = b := by
  have hb : below 10 (b.extractLsb' 0 8) (b.extractLsb' 8 2) = b := by simp
  unfold Src.ofBits
  generalize b.extractLsb' 8 2 = kind at hb
  have hkind : kind = 0#2 ∨ kind = 1#2 ∨ kind = 2#2 ∨ kind = 3#2 := by decide +revert
  obtain rfl | rfl | rfl | rfl := hkind <;> exact hb

@[simp] theorem Ty.ofCode_code (t : Ty) : Ty.ofCode t.code = some t := by cases t <;> rfl

theorem Ty.code_of_ofCode {b : BitVec 5} {t : Ty} (h : Ty.ofCode b = some t) : t.code = b := by
  have hall : ∀ c : BitVec 5, ∀ u ∈ Ty.ofCode c, u.code = c := by decide
  exact hall b t h

@[simp] theorem ofBool_flag (x : Word64) (i : Nat) : BitVec.ofBool (flag x i) = x.extractLsb' i 1 := by
  unfold flag
  generalize x.extractLsb' i 1 = b
  decide +revert

theorem extract_of_flag_false {x : Word64} {i : Nat} (h : flag x i = false) : x.extractLsb' i 1 = 0#1 := by
  rw [← ofBool_flag, h]
  rfl

@[simp] theorem ofBool_eq_one (b : Bool) : (BitVec.ofBool b == 1#1) = b := by cases b <;> rfl

theorem Guard.bits_eq (g : Guard) : g.bits = below 4 g.psel (BitVec.ofBool g.neg) := rfl

@[simp] theorem bits_parseGuard (x : Word64) : (parseGuard x).bits = x.extractLsb' 52 4 := by
  simp [Guard.bits_eq, parseGuard]

/-! ## Each encoder as its fields, from bit 63 down -/

theorem encodeUr_eq (op : BitVec 8) (w : UrWord) : encodeUr op w =
    (op |> below 13 0#5 |> below 21 w.dst |> below 31 w.a.bits |> below 41 w.b.bits |> below 51 w.c.bits |> below 56 w.ty.code |>
      below 59 w.rm |> below 64 w.mod) := rfl

theorem encodeUi_eq (op : BitVec 8) (w : UiWord) : encodeUi op w =
    (op |> below 13 0#5 |> below 21 w.dst |> below 31 w.a.bits |> below 36 w.ty.code |> below 39 w.rm |> below 64 w.imm) := rfl

theorem encodeVr_eq (op : BitVec 8) (w : VrWord) : encodeVr op w =
    (op |> below 12 w.guard.bits |> below 13 (BitVec.ofBool w.wbs) |> below 21 w.dst |> below 31 w.a.bits |> below 41 w.b.bits |>
      below 51 w.c.bits |> below 56 w.ty.code |> below 59 w.rm |> below 64 w.mod) := rfl

theorem encodeVi_eq (op : BitVec 8) (w : ViWord) : encodeVi op w =
    (op |> below 12 w.guard.bits |> below 13 (BitVec.ofBool w.wbs) |> below 21 w.dst |> below 31 w.a.bits |> below 36 w.ty.code |>
      below 39 w.rm |> below 64 w.imm) := rfl

theorem encodeMem_eq (op : BitVec 8) (w : MemWord) : encodeMem op w =
    (op |> below 12 w.guard.bits |> below 13 (BitVec.ofBool w.wbs) |> below 21 w.data |> below 29 w.base |> below 39 w.off.bits |>
      below 51 w.disp |> below 55 w.ltag |> below 58 w.sz |> below 60 w.ord |> below 63 w.scope |>
      below 64 (BitVec.ofBool w.ua)) := rfl

theorem encodeMma_eq (op : BitVec 8) (w : MmaWord) : encodeMma op w =
    (op |> below 12 w.guard.bits |> below 13 0#1 |> below 16 w.th |> below 24 w.vx |> below 32 w.ub |> below 37 w.ta |>
      below 42 w.tb |> below 45 w.rm |> below 46 (BitVec.ofBool w.red) |> below 47 (BitVec.ofBool w.sat) |> below 51 w.ltag |>
      below 59 w.uc |> below 64 w.mod) := rfl

theorem encodeCtl_eq (op : BitVec 8) (w : CtlWord) : encodeCtl op w =
    (op |> below 12 w.guard.bits |> below 13 0#1 |> below 21 w.ua |> below 31 w.sb.bits |> below 36 w.ty |> below 39 w.cc |>
      below 40 (BitVec.ofBool w.hint) |> below 64 w.off) := rfl

theorem encodeSyn_eq (op : BitVec 8) (w : SynWord) : encodeSyn op w =
    (op |> below 12 w.guard.bits |> below 13 0#1 |> below 21 w.ua |> below 29 w.ub |> below 37 w.vx |> below 40 w.pd |>
      below 44 w.bar |> below 50 w.sem |> below 53 w.scope |> below 56 w.co |> below 60 w.cnt |> below 64 w.mod) := rfl

/-! ## What an encoder puts together, its parser takes apart -/

section
variable (op : BitVec 8)

theorem parseUr_encodeUr (w : UrWord) : parseUr (encodeUr op w) = some w := by simp [encodeUr_eq, parseUr]

theorem parseUi_encodeUi (w : UiWord) : parseUi (encodeUi op w) = some w := by simp [encodeUi_eq, parseUi]

theorem parseVr_encodeVr (w : VrWord) : parseVr (encodeVr op w) = some w := by
  simp [encodeVr_eq, parseVr, parseGuard, Guard.bits_eq, flag]

theorem parseVi_encodeVi (w : ViWord) : parseVi (encodeVi op w) = some w := by
  simp [encodeVi_eq, parseVi, parseGuard, Guard.bits_eq, flag]

theorem parseMem_encodeMem (w : MemWord) : parseMem (encodeMem op w) = some w := by
  simp [encodeMem_eq, parseMem, parseGuard, Guard.bits_eq, flag]

theorem parseMma_encodeMma (w : MmaWord) : parseMma (encodeMma op w) = some w := by
  simp [encodeMma_eq, parseMma, parseGuard, Guard.bits_eq, flag]

theorem parseCtl_encodeCtl (w : CtlWord) : parseCtl (encodeCtl op w) = some w := by
  simp [encodeCtl_eq, parseCtl, parseGuard, Guard.bits_eq, flag]

theorem parseSyn_encodeSyn (w : SynWord) : parseSyn (encodeSyn op w) = some w := by
  simp [encodeSyn_eq, parseSyn, parseGuard, Guard.bits_eq, flag]

end

/-! ## What a parser takes apart, its encoder puts together under the word's own OP -/

section
variable {x : Word64}

theorem encodeUr_of_parseUr {w : UrWord} (h : parseUr x = some w) : encodeUr (x.extractLsb' 56 8) w = x := by
  simp only [parseUr, Option.ite_none_right_eq_some, Option.map_eq_some_iff, beq_iff_eq] at h
  obtain ⟨hzero, t, ht, rfl⟩ := h
  simp [encodeUr_eq, ← hzero, Ty.code_of_ofCode ht]

theorem encodeUi_of_parseUi {w : UiWord} (h : parseUi x = some w) : encodeUi (x.extractLsb' 56 8) w = x := by
  simp only [parseUi, Option.ite_none_right_eq_some, Option.map_eq_some_iff, beq_iff_eq] at h
  obtain ⟨hzero, t, ht, rfl⟩ := h
  simp [encodeUi_eq, ← hzero, Ty.code_of_ofCode ht]

theorem encodeVr_of_parseVr {w : VrWord} (h : parseVr x = some w) : encodeVr (x.extractLsb' 56 8) w = x := by
  obtain ⟨t, ht, rfl⟩ := Option.map_eq_some_iff.1 h
  simp [encodeVr_eq, Ty.code_of_ofCode ht]

theorem encodeVi_of_parseVi {w : ViWord} (h : parseVi x = some w) : encodeVi (x.extractLsb' 56 8) w = x := by
  obtain ⟨t, ht, rfl⟩ := Option.map_eq_some_iff.1 h
  simp [encodeVi_eq, Ty.code_of_ofCode ht]

theorem encodeMem_of_parseMem {w : MemWord} (h : parseMem x = some w) : encodeMem (x.extractLsb' 56 8) w = x := by
  obtain rfl := Option.some.inj h
  simp [encodeMem_eq]

theorem encodeMma_of_parseMma {w : MmaWord} (h : parseMma x = some w) : encodeMma (x.extractLsb' 56 8) w = x := by
  simp only [parseMma, Option.ite_none_left_eq_some, Bool.not_eq_true, Option.some.injEq] at h
  obtain ⟨hzero, rfl⟩ := h
  simp [encodeMma_eq, ← extract_of_flag_false hzero]

theorem encodeCtl_of_parseCtl {w : CtlWord} (h : parseCtl x = some w) : encodeCtl (x.extractLsb' 56 8) w = x := by
  simp only [parseCtl, Option.ite_none_left_eq_some, Bool.not_eq_true, Option.some.injEq] at h
  obtain ⟨hzero, rfl⟩ := h
  simp [encodeCtl_eq, ← extract_of_flag_false hzero]

theorem encodeSyn_of_parseSyn {w : SynWord} (h : parseSyn x = some w) : encodeSyn (x.extractLsb' 56 8) w = x := by
  simp only [parseSyn, Option.ite_none_left_eq_some, Bool.not_eq_true, Option.some.injEq] at h
  obtain ⟨hzero, rfl⟩ := h
  simp [encodeSyn_eq, ← extract_of_flag_false hzero]

end

end Sys2Proof
end

section
/-! SUPPORT. The opcode map of R263 read both ways (O1 to O4): a word that decodes is the word of its instruction, and a well-formed
instruction decodes from its word. -/

namespace Sys2Proof

open Sys2Proof.Laws.OpcodeField

/-! ## Formats -/

/-- A format whose encoder puts OP in bits 63:56, and whose parser and encoder undo each other. -/
structure Faithful {F : Type} (parse : Word64 → Option F) (enc : BitVec 8 → F → Word64) : Prop where
  high : ∀ op f, (enc op f).extractLsb' 56 8 = op
  parses : ∀ op f, parse (enc op f) = some f
  rebuilds : ∀ {x f}, parse x = some f → enc (x.extractLsb' 56 8) f = x

theorem faithful_formats : Faithful parseUr encodeUr ∧ Faithful parseUi encodeUi ∧ Faithful parseVr encodeVr ∧
    Faithful parseVi encodeVi ∧ Faithful parseMem encodeMem ∧ Faithful parseMma encodeMma ∧ Faithful parseCtl encodeCtl ∧
    Faithful parseSyn encodeSyn :=
  ⟨⟨encodeUr_high, parseUr_encodeUr, encodeUr_of_parseUr⟩, ⟨encodeUi_high, parseUi_encodeUi, encodeUi_of_parseUi⟩,
    ⟨encodeVr_high, parseVr_encodeVr, encodeVr_of_parseVr⟩, ⟨encodeVi_high, parseVi_encodeVi, encodeVi_of_parseVi⟩,
    ⟨encodeMem_high, parseMem_encodeMem, encodeMem_of_parseMem⟩, ⟨encodeMma_high, parseMma_encodeMma, encodeMma_of_parseMma⟩,
    ⟨encodeCtl_high, parseCtl_encodeCtl, encodeCtl_of_parseCtl⟩, ⟨encodeSyn_high, parseSyn_encodeSyn, encodeSyn_of_parseSyn⟩⟩

/-- The OPs that R263 gives to instruction words. -/
def assignedOp (n : Nat) : Bool :=
  n < 0x6E || (0x70 ≤ n && n < 0x75) || (0x80 ≤ n && n < 0x91) || (0xA0 ≤ n && n < 0xAA) || (0xC0 ≤ n && n < 0xCF) ||
    (0xE0 ≤ n && n < 0xE6)

section
variable {F : Type} {parse : Word64 → Option F} {enc : BitVec 8 → F → Word64} {mk : F → Instr} {x : Word64} {i : Instr}

/-- A row of the opcode map, from the word to the instruction. -/
theorem Faithful.of_row (hf : Faithful parse enc) {n : Nat} (hop : (x.extractLsb' 56 8).toNat = n) (h : (parse x).map mk = some i)
    (hn : assignedOp n = true) (hmk : ∀ f, encode (mk f) = some (enc (BitVec.ofNat 8 n) f)) :
    encode i = some x ∧ assignedOp (x.extractLsb' 56 8).toNat = true := by
  obtain ⟨f, hx, rfl⟩ := Option.map_eq_some_iff.1 h
  refine ⟨?_, hop ▸ hn⟩
  rw [hmk, ← hop, BitVec.ofNat_toNat, BitVec.setWidth_eq, hf.rebuilds hx]

/-- A row of the opcode map, from the instruction to the word. -/
theorem Faithful.to_row (hf : Faithful parse enc) {op : BitVec 8} {f : F} (h : some (enc op f) = some x)
    (hrow : ∀ y, y.extractLsb' 56 8 = op → rawDecode y = (parse y).map mk) (hmk : mk f = i) : rawDecode x = some i := by
  obtain rfl := Option.some.inj h
  rw [hrow _ (hf.high op f), hf.parses, Option.map_some, hmk]

end

/-! ## The opcode map -/

/-- What a word that decodes is, whatever R265 makes of its fields: the word of its instruction, under an OP that is assigned. -/
theorem encode_of_rawDecode {x : Word64} {i : Instr} (h : rawDecode x = some i) :
    encode i = some x ∧ assignedOp (x.extractLsb' 56 8).toNat = true := by
  obtain ⟨ur, ui, vr, vi, mem, mma, ctl, syn⟩ := faithful_formats
  unfold rawDecode at h
  split at h
  rotate_right
  · nomatch h
  all_goals try exact Faithful.of_row (by assumption) ‹_› h rfl fun _ => rfl
  -- an OP that two words share
  all_goals exact Faithful.of_row (by assumption) ‹_› h rfl fun _ => by split <;> rfl

/-- The word of a well-formed instruction decodes to it. R265 is used only where two words share an OP: there a field tells them
apart. -/
theorem rawDecode_of_encode {x : Word64} {i : Instr} (hw : i.wf = true) (h : encode i = some x) : rawDecode x = some i := by
  obtain ⟨ur, ui, vr, vi, mem, mma, ctl, syn⟩ := faithful_formats
  cases i
  -- an event is no word
  all_goals try exact absurd h.symm (Option.some_ne_none x)
  all_goals refine Faithful.to_row (by assumption) h (fun y hy => by unfold rawDecode; rewrite [hy]; exact rfl) ?_
  all_goals try rfl
  all_goals simp only [Instr.wf, redWf, fenceWf, engineWf, srdName, Bool.and_eq_true, Bool.or_eq_true, beq_iff_eq, decide_eq_true_eq] at hw
  case qrcvB64 | vred | fenceScPod | copy2d | srdMbin => exact if_pos (by simp [hw])
  case vredQ | fenceSc | copy => exact if_neg (by simp [hw])
  case qrcvB32 =>
    obtain ⟨⟨⟨⟨⟨⟨(ty | ty) | ty, -⟩, -⟩, -⟩, -⟩, -⟩, -⟩ := hw <;> exact if_neg (by simp [ty])
  case srd =>
    obtain ⟨-, -, hname⟩ := hw
    exact if_neg fun hmbin => absurd hname (by simp [eq_of_beq hmbin])

end Sys2Proof

namespace Sys2Proof
open Sys2Proof.Machine

/-- Settles O1: a well-formed instruction decodes from its word, and R265 keeps it. -/
theorem decodeOfEncode : Obligations.DecodeOfEncode := by
  unfold Obligations.DecodeOfEncode
  intro i w hwf h
  simp [decode, rawDecode_of_encode hwf h, hwf]

/-- Settles O2: OP, format and fields of a word that decodes are all the instruction's. -/
theorem encodeOfDecode : Obligations.EncodeOfDecode := by
  unfold Obligations.EncodeOfDecode
  intro w i h
  obtain ⟨hraw, -⟩ := Option.filter_eq_some_iff.1 h
  exact (encode_of_rawDecode hraw).1

/-- Settles O3: each instruction is well formed and its encoding computes to the word, so that O1 decodes it. -/
theorem workedWords : Obligations.WorkedWords := by
  unfold Obligations.WorkedWords
  refine ⟨?_, ?_, ?_, ?_, ?_, ?_, ?_, ?_, ?_⟩ <;> exact decodeOfEncode _ _ rfl rfl

/-- Settles O4: a word that decodes stands under an OP that R263 gives to an instruction. -/
theorem unassignedOpcodes : Obligations.UnassignedOpcodes := by
  unfold Obligations.UnassignedOpcodes
  intro w op hop hrange
  have hraw : rawDecode w = none := Option.eq_none_iff_forall_ne_some.2 fun i h => by
    obtain ⟨-, hassigned⟩ := encode_of_rawDecode h
    simp only [assignedOp, ← hop, Bool.or_eq_true, Bool.and_eq_true, decide_eq_true_eq] at hassigned
    omega
  exact ⟨hraw, by simp [decode, hraw]⟩

end Sys2Proof
end

section
/-! SUPPORT. A step whose turn is a cohort's: what its boundary leaves, or what its word does (O5, O6). -/

namespace Sys2Proof.Machine

open Sys2Proof

section
variable {s : State} {c : Cohort} {w : Word64}

/-- With nothing of the agenda due and the turn the cohorts', a step is the turn of the cohort that is picked. -/
theorem step_of_pick (hpow : s.powered = true) (hag : s.agenda = []) (hturn : s.turn % 8 ≠ 7) (hpick : s.pick = some c) :
    step s = settled ((s.boundary c).elim (if c.atHeader then .next (s.headerStep c) else wordStep c s) .next) := by
  have hagent : s.agentTurn = false := beq_eq_false_iff_ne.2 hturn
  simp only [step, turnStep, hpow, hag, hagent, hpick]
  cases s.boundary c <;> rfl

theorem step_of_boundary {t : State} (hpow : s.powered = true) (hag : s.agenda = []) (hturn : s.turn % 8 ≠ 7)
    (hpick : s.pick = some c) (hb : s.boundary c = some t) : step s = .next t.after := by
  rw [step_of_pick hpow hag hturn hpick, hb]
  rfl

theorem step_of_word (hpow : s.powered = true) (hag : s.agenda = []) (hturn : s.turn % 8 ≠ 7) (hpick : s.pick = some c)
    (hb : s.boundary c = none) (hh : c.atHeader = false) : step s = settled (wordStep c s) := by
  rw [step_of_pick hpow hag hturn hpick, hb]
  simp [hh]

theorem boundary_of_stepDue (h : c.stepDue = some w) : s.boundary c = some (s.stepTrap c w) := by
  simp [State.boundary, h]

theorem boundary_of_haltDue {k : Nat} (hstep : c.stepDue = none) (habort : s.abortedWrite c.uid = none)
    (h : s.haltDue c = some k) : s.boundary c = some (s.haltNow c k) := by
  simp [State.boundary, hstep, habort, h]

theorem wordStep_of_breakpoint {n : Nat} (hbp : s.breakpoint c = some n) (hf : s.fetch c c.pc = .ok w) :
    wordStep c s = .next (s.takeTrap c w { code := .break_, detail := n } []) := by
  simp [wordStep, hbp, State.breakAt, hf]

/-- A word that is fetched with no breakpoint at it: what it decodes to says what it does. -/
theorem wordStep_of_fetch (hbp : s.breakpoint c = none) (hf : s.fetch c c.pc = .ok w) :
    wordStep c s = (rawDecode w).elim (.next ((s.fetchKeep c c.pc).takeTrap c w { code := .illegal } [])) fun i =>
      if c.badFor i then .next ((s.fetchKeep c c.pc).stateError c w) else exec i { s.fetchKeep c c.pc with cur := some c.uid } := by
  unfold wordStep
  rw [hbp]
  simp only [hf]
  cases rawDecode w <;> rfl

end

end Sys2Proof.Machine

namespace Sys2Proof
open Sys2Proof.Machine

/-- Settles O5: nothing stands before the word, and it decodes to the instruction. -/
theorem stepRunsDecodedWord : Obligations.StepRunsDecodedWord := by
  unfold Obligations.StepRunsDecodedWord
  intro s c w i hpow hag hturn hpick hb hh hbad hbp hf hdec
  obtain ⟨hraw, -⟩ := Option.filter_eq_some_iff.1 hdec
  rw [step_of_word hpow hag hturn hpick hb hh, wordStep_of_fetch hbp hf]
  simp [hraw, hbad]

/-- Settles O6: the word's own three cases, then the two of the boundary. -/
theorem stepTraps : Obligations.StepTraps := by
  unfold Obligations.StepTraps
  refine ⟨?illegal, ?stateerr, ?breakpoint, ?stepping, ?halting⟩
  case illegal =>
    intro s c w hpow hag hturn hpick hb hh hbp hf hraw
    rw [step_of_word hpow hag hturn hpick hb hh, wordStep_of_fetch hbp hf, hraw]
    rfl
  case stateerr =>
    intro s c w i hpow hag hturn hpick hb hh hbp hf hraw hbad
    rw [step_of_word hpow hag hturn hpick hb hh, wordStep_of_fetch hbp hf, hraw, Option.elim_some, if_pos hbad]
    rfl
  case breakpoint =>
    intro s c w n hpow hag hturn hpick hb hh hbp hf
    rw [step_of_word hpow hag hturn hpick hb hh, wordStep_of_breakpoint hbp hf]
    rfl
  case stepping =>
    intro s c w hpow hag hturn hpick hdue
    exact step_of_boundary hpow hag hturn hpick (boundary_of_stepDue hdue)
  case halting =>
    intro s c k hpow hag hturn hpick hstep habort hdue
    exact step_of_boundary hpow hag hturn hpick (boundary_of_haltDue hstep habort hdue)

end Sys2Proof
end

section
/-! SUPPORT. An encoding that R265 reserves (O7): every word looks at it before anything else. -/

namespace Sys2Proof.Machine

open Sys2Proof

section
variable {i : Instr} {s : State} {c : Cohort}

theorem wordOf_of_encode {x : Word64} (h : encode i = some x) : wordOf i = x := by simp [wordOf, h]

/-- ILLEGAL in the place where a transfer may not stand, and for its reserved encodings. -/
theorem atControl_illegal (g : Guard) (k : State → Cohort → State) (preds : List Nat) (hc : s.current = some c)
    (h : i.wf = false ∨ c.lastWord = false) :
    atControl i s g k preds = .next (s.takeTrap c (wordOf i) { code := .illegal } []) := by
  unfold atControl
  rw [hc, Option.elim_some]
  cases hl : c.lastWord with
  | false =>
    cases hw : i.wf with
    | false => exact onCohort_illegal _ hc hw
    | true => exact onCohort_wf _ hc hw
  | true =>
    have hw : i.wf = false := by simpa [hl] using h
    exact onCohort_illegal _ hc hw

/-- Whatever a word does, it does through `onCohort`, and a transfer or a vote past a test of its own. -/
theorem exec_reserved {x : Word64} (he : encode i = some x) (hw : i.wf = false) (hc : s.current = some c) :
    exec i s = .next (s.takeTrap c (wordOf i) { code := .illegal } []) := by
  cases i
  case bra | brc | brv | call | callr | ret | jtab => exact atControl_illegal _ _ _ hc (.inl hw)
  case vote w =>
    show execVote w s = _
    unfold execVote
    split <;> exact onCohort_illegal _ hc hw
  -- an event is no word
  all_goals try exact absurd he.symm (Option.some_ne_none x)
  all_goals exact onCohort_illegal _ hc hw

end

end Sys2Proof.Machine

namespace Sys2Proof
open Sys2Proof.Machine

/-- Settles O7: the word of the trap is the one that was decoded. -/
theorem reservedWordIsIllegal : Obligations.ReservedWordIsIllegal := by
  unfold Obligations.ReservedWordIsIllegal
  intro i s c w he hw hc
  rw [exec_reserved he hw hc, wordOf_of_encode he]

end Sys2Proof
end

section
/-! SUPPORT. A word past its stall point, and the words of the special registers and of the physical function (O27, O29). -/

namespace Sys2Proof.Machine

open Sys2Proof Sys2Proof.Claims

section
variable {i : Instr} {s0 s : State} {c d : Cohort} {g : Guard} {runs : List RegRun} {preds : List Nat}

/-- A word of the uniform side that passes its stall point goes on from there. -/
theorem atStall_ready (k : State → Cohort → State) (h : Ready s0 i g runs preds c s d) :
    atStall i s0 g runs preds k = .next (k s (calm d)) :=
  atStall_clear g runs preds k h.current h.wf h.drained h.sound h.window h.latches h.landings h.predicates

@[simp] theorem active_calm (d : Cohort) (g : Guard) : (calm d).active g = d.active g := rfl

theorem active_isEmpty_of_someActive (h : someActive d g) : (d.active g).isEmpty = false := by
  simpa [someActive] using h

/-- A privileged word outside the physical function (R267). -/
theorem onPrivileged_other (k : Cohort → State) (hc : s.current = some c) (hw : i.wf = true) (hf : fnOf c.ctx ≠ 0) :
    onPrivileged i s k = .next (s.takeTrap c (wordOf i) { code := .priv } []) := by
  unfold onPrivileged
  rw [onCohort_wf _ hc hw, if_neg (by simpa using hf)]

theorem special_eq (s : State) (c : Cohort) (n : Nat) : s.special c n = specialValue s c n := rfl

/-- What `srdv` reads, in the 32 bits of its register. -/
theorem specialLane_mod (s : State) (c : Cohort) (f : Fibre) (n : Nat) :
    s.specialLane c f n % 2 ^ 32 = laneSpecial s c f n % 2 ^ 32 := by
  unfold State.specialLane laneSpecial
  split <;> simp [special_eq]

/-- IFULL, read as bit 0 of its register (R461). -/
theorem bitOf_zero (x : Nat) : (if bitOf x 0 then 2 ^ 63 else 0) = 2 ^ 63 * (x % 2) := by
  obtain h | h := Nat.mod_two_eq_zero_or_one x <;> simp [bitOf, Nat.testBit_zero, h]

theorem slice_zero (x hi : Nat) : slice x hi 0 = x % 2 ^ (hi + 1) := rfl

end

end Sys2Proof.Machine

namespace Sys2Proof
open Sys2Proof.Machine Sys2Proof.Claims

/-- Settles O27: each word's value is read off its registers; `dbg` passes its stall point first. -/
theorem specialRegisters : Obligations.SpecialRegisters := by
  unfold Obligations.SpecialRegisters
  refine ⟨?srd, ?srdv, ?mbin, ?swr, ?dbg⟩
  case srd =>
    intro s c w hc hw
    exact issueUniform_wf _ _ hc hw
  case srdv =>
    intro s c w hc hw hclear
    refine (issueVector_clear _ _ _ _ hc hw hclear).trans ?_
    simp only [specialLane_mod, Bool.false_eq_true, if_false]
    rfl
  case mbin =>
    intro s c w hc hw
    refine (onCohort_wf _ hc hw).trans ?_
    simp only [slice_zero, bitOf_zero]
    rfl
  case swr =>
    intro s c w hc hw
    refine (onCohort_wf _ hc hw).trans ?_
    rw [show (if bitOf (s.reg (c.ctx / 8) (s.debugBase c + 0x80)) 1 then 10 else 2) =
      2 + if bitOf (s.reg (c.ctx / 8) (s.debugBase c + 0x80)) 1 then 8 else 0 by split <;> rfl]
    rfl
  case dbg =>
    intro s0 s c d w hr hact
    change execDbg w s0 = _
    rw [execDbg, atStall_ready _ hr, active_calm, active_isEmpty_of_someActive hact]
    rfl

/-- Settles O29: both words ask for the function of the cohort's context first. -/
theorem privilege : Obligations.Privilege := by
  unfold Obligations.Privilege
  intro i s c w hi hc hw hf
  simp only [List.mem_cons, List.not_mem_nil, or_false] at hi
  obtain rfl | rfl := hi <;> exact onPrivileged_other _ hc hw hf

end Sys2Proof
end

section
/-! SUPPORT. The checks of transfers, calls and returns that come before any effect (O22). -/

namespace Sys2Proof.Machine

open Sys2Proof Sys2Proof.Claims

/-! ## Register values as word addresses -/

section
variable {d : Cohort} {n : Nat}

theorem sreg_lt (d : Cohort) (n : Nat) : d.sreg n < 2 ^ 64 := BitVec.isLt _

theorem slice_63_49 {x : Nat} (hx : x < 2 ^ 64) : slice x 63 49 = x / 2 ^ 49 := by
  rw [slice, Nat.shiftRight_eq_div_pow, Nat.mod_eq_of_lt (by omega)]

/-- A register that `callr` refuses: no address of 49 bits, or none of a word. -/
theorem noWordAddress_iff : (slice (d.sreg n) 63 49 != 0 || slice (d.sreg n) 2 0 != 0) = true ↔
    2 ^ 49 ≤ d.sreg n ∨ d.sreg n % 8 ≠ 0 := by
  have hx := sreg_lt d n
  rw [slice_63_49 hx, Bool.or_eq_true, bne_iff_ne, bne_iff_ne, slice, Nat.shiftRight_zero]
  omega

/-- A link that `ret` refuses: bit 0 alone says whether a frame ends (R287). -/
theorem noLink_iff : (slice (d.sreg n) 63 49 != 0 || slice (d.sreg n) 2 1 != 0) = true ↔
    2 ^ 49 ≤ d.sreg n ∨ d.sreg n % 8 / 2 ≠ 0 := by
  have hx := sreg_lt d n
  rw [slice_63_49 hx, Bool.or_eq_true, bne_iff_ne, bne_iff_ne, slice, Nat.shiftRight_eq_div_pow]
  omega

end

/-! ## Transfers past their stall point -/

section
variable {i : Instr} {s0 s : State} {c d : Cohort} {w : CtlWord} {h : Header} {t k : Nat}

/-- A transfer last in its block goes on from its stall point. -/
theorem atControl_ready {g : Guard} {preds : List Nat} (k : State → Cohort → State) (hr : Ready s0 i g [] preds c s d)
    (hl : c.lastWord = true) : atControl i s0 g k preds = .next (k s (calm d)) := by
  unfold atControl
  rw [hr.current, Option.elim_some, if_pos hl, atStall_ready k hr]

theorem toHeader_good (g : Guard) (f : Header → State) (hh : s.headerAt c t = .good h) : s.toHeader i c g t f = f h := by
  simp [State.toHeader, hh]

theorem toHeader_bad {x} (g : Guard) (f : Header → State) (hh : s.headerAt c t = .bad x) :
    s.toHeader i c g t f = s.ownTrap i c { code := .badheader, addr := t } g := by simp [State.toHeader, hh]

theorem callTo_noentry (hh : s.headerAt c t = .good h) (he : h.entry = false) :
    s.callTo i c t k = s.ownTrap i c { code := .noentry, addr := t } Guard.always := by
  rw [State.callTo, toHeader_good _ _ hh, he]
  rfl

theorem callTo_atticfull (hh : s.headerAt c t = .good h) (he : h.entry = true) (hk : 1 ≤ k)
    (hfull : s.atticBays (fnOf c.ctx) < s.atticCharged (fnOf c.ctx) + c.fibres.length * frameCharge k) :
    s.callTo i c t k = s.ownTrap i c { code := .atticfull } Guard.always := by
  rw [State.callTo, toHeader_good _ _ hh, he]
  simp [hk, hfull]

theorem execBra_ready (hr : Ready s0 (.bra w) Guard.always [] [] c s d) (hl : c.lastWord = true) :
    exec (.bra w) s0 = .next (s.jump (.bra w) (calm d) (target d w)) := atControl_ready _ hr hl

theorem execCall_ready (hr : Ready s0 (.call w) Guard.always [] [] c s d) (hl : c.lastWord = true) :
    exec (.call w) s0 = .next (s.callTo (.call w) (calm d) (target d w) (immCount w.sb)) := atControl_ready _ hr hl

/-- `callr` of a register that holds a word address. -/
theorem execCallr_ready (hr : Ready s0 (.callr w) Guard.always [] [] c s d) (hl : c.lastWord = true)
    (hlow : d.sreg w.ua.toNat < 2 ^ 49) (halign : d.sreg w.ua.toNat % 8 = 0) :
    exec (.callr w) s0 = .next (s.callTo (.callr w) (calm d) (d.sreg w.ua.toNat) (immCount w.sb)) := by
  have haddr : ¬ (slice (d.sreg w.ua.toNat) 63 49 != 0 || slice (d.sreg w.ua.toNat) 2 0 != 0) = true := by
    rw [noWordAddress_iff]
    omega
  exact (atControl_ready _ hr hl).trans (congrArg _ (if_neg haddr))

theorem execCallr_badheader (hr : Ready s0 (.callr w) Guard.always [] [] c s d) (hl : c.lastWord = true)
    (hbad : 2 ^ 49 ≤ d.sreg w.ua.toNat ∨ d.sreg w.ua.toNat % 8 ≠ 0) :
    exec (.callr w) s0 =
      .next (s.ownTrap (.callr w) (calm d) { code := .badheader, addr := d.sreg w.ua.toNat } Guard.always) :=
  (atControl_ready _ hr hl).trans (congrArg _ (if_pos (noWordAddress_iff.2 hbad)))

theorem execRet_badret (hr : Ready s0 (.ret w) Guard.always [] [] c s d) (hl : c.lastWord = true)
    (hbad : 2 ^ 49 ≤ d.sreg 0 ∨ d.sreg 0 % 8 / 2 ≠ 0) :
    exec (.ret w) s0 = .next (s.ownTrap (.ret w) (calm d) { code := .badret } Guard.always) :=
  (atControl_ready _ hr hl).trans (congrArg _ (if_pos (noLink_iff.2 hbad)))

/-- A link with its frame bit set, in a cohort with a fibre that has no frame. -/
theorem execRet_noframe (hr : Ready s0 (.ret w) Guard.always [] [] c s d) (hl : c.lastWord = true)
    (hlow : d.sreg 0 < 2 ^ 49) (hbit : d.sreg 0 % 8 = 1) (hframe : ∃ f ∈ d.fibres, f.frames = []) :
    exec (.ret w) s0 = .next (s.ownTrap (.ret w) (calm d) { code := .noframe } Guard.always) := by
  have hlink : ¬ (slice (d.sreg 0) 63 49 != 0 || slice (d.sreg 0) 2 1 != 0) = true := by
    rw [noLink_iff]
    omega
  have hends : (bitOf (d.sreg 0) 0 && d.fibres.any fun f => f.frames.isEmpty) = true := by
    simp only [bitOf, Nat.testBit_zero, Bool.and_eq_true, decide_eq_true_eq, List.any_eq_true, List.isEmpty_iff]
    exact ⟨by omega, hframe⟩
  exact (atControl_ready _ hr hl).trans (congrArg _ ((if_neg hlink).trans (if_pos hends)))

end

end Sys2Proof.Machine

namespace Sys2Proof
open Sys2Proof.Machine Sys2Proof.Claims

/-- Settles O22: each check is the first branch of its word past the stall point that the state takes; a transfer that is not last is
refused before it. -/
theorem controlTraps : Obligations.ControlTraps := by
  unfold Obligations.ControlTraps
  refine ⟨?noentry, ?noentryCallr, ?badAddress, ?badheader, ?atticfull, ?badret, ?noframe, ?notLast⟩
  case noentry =>
    intro s0 s c d w h hr hl hh he
    rw [execCall_ready hr hl, callTo_noentry hh he]
    rfl
  case noentryCallr =>
    intro s0 s c d w h hr hl hlow halign hh he
    rw [execCallr_ready hr hl hlow halign, callTo_noentry hh he]
    rfl
  case badAddress =>
    intro s0 s c d w hr hl hbad
    exact execCallr_badheader hr hl hbad
  case badheader =>
    intro i s0 s c d w x hi hr hl hh
    simp only [List.mem_cons, List.not_mem_nil, or_false] at hi
    obtain rfl | rfl := hi
    · rw [execBra_ready hr hl, State.jump, toHeader_bad _ _ hh]
      rfl
    · rw [execCall_ready hr hl, State.callTo, toHeader_bad _ _ hh]
      rfl
  case atticfull =>
    intro i s0 s c d w h t k hi hr hl hsb hk hlow halign hh he hfull
    have hcount : immCount w.sb = k.toNat := by rw [hsb]; rfl
    have hpos : 1 ≤ k.toNat := Nat.pos_of_ne_zero fun h0 => hk (BitVec.eq_of_toNat_eq h0)
    simp only [List.mem_cons, List.not_mem_nil, or_false, Prod.mk.injEq] at hi
    obtain ⟨rfl, rfl⟩ | ⟨rfl, rfl⟩ := hi
    · rw [execCall_ready hr hl, hcount, callTo_atticfull hh he hpos hfull]
      rfl
    · rw [execCallr_ready hr hl hlow halign, hcount, callTo_atticfull hh he hpos hfull]
      rfl
  case badret =>
    intro s0 s c d w hr hl hbad
    exact execRet_badret hr hl hbad
  case noframe =>
    intro s0 s c d w hr hl hlow hbit hframe
    exact execRet_noframe hr hl hlow hbit hframe
  case notLast =>
    intro i s c x hi hc hl
    simp only [List.mem_cons, List.not_mem_nil, or_false] at hi
    obtain rfl | rfl | rfl | rfl | rfl | rfl | rfl := hi <;> exact atControl_illegal _ _ _ hc (.inr hl)

end Sys2Proof
end

section
/-! SUPPORT. The traps of R266 of the words of the vector side that issue a result (O14). -/

namespace Sys2Proof.Machine

open Sys2Proof Sys2Proof.Claims

/-! ## What a vector word names -/

/-- A vector word's guard, sources and registers alone: what its traps look at. -/
def VectorOp.named (v : VectorOp) : VectorOp := { v with latency := 0, draws := false }

section
variable {i : Instr} {s : State} {c : Cohort} {t : TrapCode} {v v' : VectorOp} {r : VecRow}

/-- The outcome of a word of the vector side that a trap of R266 stops. -/
def trapped (s : State) (c : Cohort) (i : Instr) (v : VectorOp) (t : TrapCode) : Out :=
  .next (s.takeTrap c (wordOf i) { code := t } ((c.active v.guard).map Fibre.lane))

theorem trapped_congr (hn : v'.named = v.named) : trapped s c i v' t = trapped s c i v t :=
  show trapped s c i v'.named t = trapped s c i v.named t from hn ▸ rfl

theorem vectorTrap_congr (hn : v'.named = v.named) : c.vectorTrap v' = c.vectorTrap v :=
  show c.vectorTrap v'.named = c.vectorTrap v.named from hn ▸ rfl

/-- A word that issues a result to a register and names what `v` names. -/
theorem issueVector_trapped {pair : Bool} {dst : Nat} {val : Cohort → Fibre → Nat} (hc : s.current = some c) (hw : i.wf = true)
    (ht : c.vectorTrap v = some t) (hn : v'.named = v.named) : issueVector i s v' pair dst val = trapped s c i v t :=
  (issueVector_trap v' pair dst val hc hw ((vectorTrap_congr hn).trans ht)).trans (trapped_congr hn)

/-- A word that issues a predicate and names what `v` names. -/
theorem issuePred_trapped {dst : Nat} {val : Cohort → Fibre → Bool} (hc : s.current = some c) (hw : i.wf = true)
    (ht : c.vectorTrap v = some t) (hn : v'.named = v.named) : issuePred i s v' dst val = trapped s c i v t :=
  (issuePred_trap v' dst val hc hw ((vectorTrap_congr hn).trans ht)).trans (trapped_congr hn)

/-! ## The rows -/

section
variable (hc : s.current = some c) (hw : i.wf = true)
include hc hw

/-- A transcendental word is of a type that fits one register. -/
theorem execTrans_trapped {w : VrWord} (g : RealVal → RealVal) (hwf : w.wf fTrans = true)
    (ht : c.vectorTrap (vrOp w (vrReads w 1) w.ty.pair 12) = some t) :
    execTrans i w g s = trapped s c i (vrOp w (vrReads w 1) w.ty.pair 12) t := by
  have hpair : w.ty.pair = false := by
    simp only [VrWord.wf, fTrans, Bool.and_eq_true] at hwf
    generalize w.ty = ty at hwf ⊢
    obtain ⟨⟨⟨⟨⟨⟨⟨-, hty⟩, -⟩, -⟩, -⟩, -⟩, -⟩, -⟩ := hwf
    revert hty
    cases ty <;> decide
  exact issueVector_trapped hc hw ht (by rw [hpair])

theorem integerRow_trapped (hrow : integerRow c i = some r) (ht : c.vectorTrap r.op = some t) : exec i s = trapped s c i r.op t := by
  unfold integerRow at hrow
  split at hrow
  rotate_right
  · nomatch hrow
  all_goals cases hrow
  all_goals try exact issueVector_trapped hc hw ht rfl
  · exact issueVector_trapped hc hw ht (by simp [vrOp]) -- `vdot4`

theorem floatRow_trapped (hrow : floatRow s c i = some r) (ht : c.vectorTrap r.op = some t) : exec i s = trapped s c i r.op t := by
  unfold floatRow at hrow
  split at hrow
  rotate_right
  · nomatch hrow
  all_goals cases hrow
  all_goals exact issueVector_trapped hc hw ht rfl

theorem transcRow_trapped (hrow : transcRow c i = some r) (ht : c.vectorTrap r.op = some t) : exec i s = trapped s c i r.op t := by
  unfold transcRow at hrow
  split at hrow
  rotate_right
  · nomatch hrow
  all_goals cases hrow
  all_goals exact execTrans_trapped hc hw _ hw ht

theorem conversionRow_trapped (hrow : conversionRow s c i = some r) (ht : c.vectorTrap r.op = some t) :
    exec i s = trapped s c i r.op t := by
  unfold conversionRow at hrow
  split at hrow
  rotate_right
  · nomatch hrow
  all_goals cases hrow
  all_goals try exact issueVector_trapped hc hw ht rfl
  · rename_i w -- `cvtp`
    by_cases hty : srcTy w = .f32 <;> exact issueVector_trapped hc hw ht (by simp [cvtOp, vrOp, hty])
  · exact issueVector_trapped hc hw ht (by simp [vrOp]) -- `bunpk`

theorem crossRow_trapped (hrow : crossRow c i = some r) (ht : c.vectorTrap r.op = some t) : exec i s = trapped s c i r.op t := by
  unfold crossRow at hrow
  split at hrow
  rotate_right
  · nomatch hrow
  case h_2 w => -- `vote`
    obtain ⟨hmod, hop⟩ := Option.ite_none_right_eq_some.1 hrow
    cases hop
    exact (if_pos (beq_iff_eq.2 hmod)).trans (issueVector_trapped hc hw ht rfl)
  all_goals cases hrow
  all_goals exact issueVector_trapped hc hw ht rfl

theorem predicateRow_trapped {dst : Nat} {h : Fibre → Bool} (hrow : predicateRow c i = some (v, dst, h))
    (ht : c.vectorTrap v = some t) : exec i s = trapped s c i v t := by
  unfold predicateRow at hrow
  split at hrow
  rotate_right
  · nomatch hrow
  case h_4 w => -- `vote`
    obtain ⟨hmod, hop⟩ := Option.ite_none_left_eq_some.1 hrow
    cases hop
    exact (if_neg (mt beq_iff_eq.1 hmod)).trans (issuePred_trapped hc hw ht rfl)
  all_goals cases hrow
  all_goals exact issuePred_trapped hc hw ht rfl

/-- A word of the vector side that a trap of R266 stops, by the row that says what it names. -/
theorem exec_trapped (hn : vectorNames s c i v) (ht : c.vectorTrap v = some t) : exec i s = trapped s c i v t := by
  obtain ⟨r, rfl, hrow | hrow | hrow | hrow | hrow⟩ | ⟨dst, h, hrow⟩ := hn
  · exact integerRow_trapped hc hw hrow ht
  · exact floatRow_trapped hc hw hrow ht
  · exact transcRow_trapped hc hw hrow ht
  · exact conversionRow_trapped hc hw hrow ht
  · exact crossRow_trapped hc hw hrow ht
  · exact predicateRow_trapped hc hw hrow ht

end

end

end Sys2Proof.Machine

namespace Sys2Proof
open Sys2Proof.Machine Sys2Proof.Claims

/-- Settles O14: the three cases are the order in which the traps of R266 are looked at. -/
theorem vectorTraps : Obligations.VectorTraps := by
  unfold Obligations.VectorTraps
  intro i s c v t hc hw hn hcase
  have ht : c.vectorTrap v = some t := by
    unfold Cohort.vectorTrap
    obtain ⟨hout, rfl⟩ | ⟨hin, hdead, rfl⟩ | ⟨hin, hlive, hhaz, rfl⟩ := hcase
    · rw [if_pos hout]
    · rw [hin, if_neg Bool.false_ne_true, if_pos hdead]
    · rw [hin, hlive, if_neg Bool.false_ne_true, if_neg Bool.false_ne_true, if_pos hhaz]
  exact exec_trapped hc hw hn ht

end Sys2Proof
end

section
/-! SUPPORT. The integer results of R278 and R306 on the bits of a type: what the model computes on integers and narrows
(R277, R279, R307) is the operation on bit vectors that the statements name. -/

namespace Sys2Proof.Claims

open Sys2Proof Sys2Proof.Machine

/-! ## Integers and bit vectors -/

section
variable {ty : Ty} {n k : Nat}

theorem lowBits_eq_ofInt (n : Nat) (x : Int) : lowBits n x = (BitVec.ofInt n x).toNat := (BitVec.toNat_ofInt ..).symm

theorem signedOf_eq_toInt (n x : Nat) : signedOf n x = (BitVec.ofNat n x).toInt := by
  cases n with
  | zero => simp [signedOf, Nat.mod_one, BitVec.of_length_zero]
  | succ n =>
    rw [signedOf, BitVec.toInt_eq_msb_cond, BitVec.msb_eq_getLsbD_last, BitVec.getLsbD, BitVec.toNat_ofNat]
    simp

theorem extend_eq_lowExt (ty : Ty) (k : Nat) (x : BitVec 64) : extend ty.signed k x.toNat = lowExt ty k x := by
  unfold extend lowExt
  rw [signedOf_eq_toInt, BitVec.toNat_setWidth, BitVec.ofNat_toNat]

/-! ## The integer of a type's bits -/

theorem intOf_eq_val (ty : Ty) (x : Nat) : intOf ty x = val ty (lo ty x) := by
  unfold intOf val
  rw [signedOf_eq_toInt, BitVec.toNat_ofNat]

@[simp] theorem ofInt_val (x : BitVec ty.width) : BitVec.ofInt ty.width (val ty x) = x := by
  unfold val
  split
  · exact BitVec.ofInt_toInt
  · rw [BitVec.ofInt_natCast, BitVec.ofNat_toNat, BitVec.setWidth_eq]

@[simp] theorem fit_val (x : BitVec ty.width) : fit ty false (val ty x) = x := ofInt_val x

theorem val_inj {x y : BitVec ty.width} : val ty x = val ty y ↔ x = y :=
  ⟨fun h => by rw [← ofInt_val x, h, ofInt_val], congrArg _⟩

theorem val_eq_zero {x : BitVec ty.width} : val ty x = 0 ↔ x = 0 := by
  have hzero : val ty (0 : BitVec ty.width) = 0 := by unfold val; split <;> simp
  rw [← val_inj, hzero]

@[simp] theorem lowBits_val (x : BitVec ty.width) : lowBits ty.width (val ty x) = x.toNat := by
  rw [lowBits_eq_ofInt, ofInt_val]

theorem residue_val (b : BitVec ty.width) (m : Nat) : residue (val ty b) m = count ty b m := rfl

theorem count_lt (b : BitVec ty.width) (hm : 0 < m) : count ty b m < m := by
  have := Int.emod_lt_of_pos (val ty b) (Int.natCast_pos.2 hm)
  unfold count
  omega

theorem width_pos (ty : Ty) : 0 < ty.width := by cases ty <;> decide

theorem width_le (ty : Ty) : ty.width ≤ 64 := by cases ty <;> decide

/-- Narrowing to a type and extending to 64 bits (R277). -/
theorem ofNat_narrow (ty : Ty) (x : Int) : BitVec.ofNat 64 (narrow ty 64 x) = ext64 ty (BitVec.ofInt ty.width x) := by
  unfold narrow ext64
  cases ty.signed with
  | true =>
    simp only [if_true, signedOf_eq_toInt, lowBits_eq_ofInt, BitVec.ofNat_toNat, BitVec.setWidth_eq]
    rfl
  | false => simp only [Bool.false_eq_true, if_false, lowBits_eq_ofInt, BitVec.ofNat_toNat]

/-- The clamp of `.sat` (R279, R307). -/
theorem satIf_eq (sat : Bool) (ty : Ty) (x : Int) :
    satIf sat ty x = if sat then max (least ty) (min (greatest ty) x) else x := by
  have hhi : intHi ty.signed ty.width = greatest ty := by unfold intHi greatest; split <;> simp
  have hlo : intLo ty.signed ty.width = least ty := by unfold intLo least; split <;> simp
  have hrange : least ty ≤ greatest ty := by cases ty <;> decide
  unfold satIf clampTo
  rw [hhi, hlo]
  cases sat with
  | false => rfl
  | true =>
    simp only [if_true]
    split
    · omega
    · split <;> omega

theorem ofInt_satIf (sat : Bool) (ty : Ty) (x : Int) : BitVec.ofInt ty.width (satIf sat ty x) = fit ty sat x := by
  rw [satIf_eq, fit]

/-! ## The operations -/

section
variable (cc : Nat) (a b : BitVec ty.width) (z : Int)

theorem fit_eval_mulh : fit ty false (IntOp.mulh.eval ty cc (val ty a) (val ty b) z) = productHighR ty a b := by
  simp [IntOp.eval, productHighR]

theorem fit_eval_div : fit ty false (IntOp.div.eval ty cc (val ty a) (val ty b) z) = quotientR ty a b := by
  simp only [IntOp.eval, divR, quotientR, beq_iff_eq, val_eq_zero]
  split
  · cases ty <;> rfl
  · rfl

theorem fit_eval_rem : fit ty false (IntOp.rem.eval ty cc (val ty a) (val ty b) z) = remainderR ty a b := by
  simp only [IntOp.eval, remR, remainderR, beq_iff_eq, val_eq_zero, Int.tmod_def]
  split
  · exact fit_val a
  · rfl

theorem fit_eval_min : fit ty false (IntOp.min.eval ty cc (val ty a) (val ty b) z) = smallerR ty a b := by
  simp only [IntOp.eval, smallerR]
  obtain h | h | h := Int.lt_trichotomy (val ty a) (val ty b)
  · rw [if_pos h, if_pos (Int.le_of_lt h), fit_val]
  · rw [if_neg (Int.not_lt.2 (Int.le_of_eq h.symm)), if_pos (Int.le_of_eq h), fit_val, val_inj.1 h]
  · rw [if_neg (Int.not_lt.2 (Int.le_of_lt h)), if_neg (Int.not_le.2 h), fit_val]

theorem fit_eval_max : fit ty false (IntOp.max.eval ty cc (val ty a) (val ty b) z) = largerR ty a b := by
  simp only [IntOp.eval, largerR]
  obtain h | h | h := Int.lt_trichotomy (val ty a) (val ty b)
  · rw [if_neg (Int.not_lt.2 (Int.le_of_lt h)), if_pos (Int.le_of_lt h), fit_val]
  · rw [if_neg (Int.not_lt.2 (Int.le_of_eq h)), if_pos (Int.le_of_eq h), fit_val]
  · rw [if_pos h, if_neg (Int.not_le.2 h), fit_val]

/-- A bitwise operation of the model, on the bits of the type. -/
theorem fit_bitOp {f : Nat → Nat → Nat} {r : BitVec ty.width} (h : f a.toNat b.toNat = r.toNat) :
    fit ty false (bitOp ty f (val ty a) (val ty b)) = r := by
  rw [bitOp, lowBits_val, lowBits_val, h, intOf_eq_val, fit_val, lo, BitVec.ofNat_toNat, BitVec.setWidth_eq]

theorem fit_eval_and : fit ty false (IntOp.and.eval ty cc (val ty a) (val ty b) z) = a &&& b := fit_bitOp a b rfl

theorem fit_eval_or : fit ty false (IntOp.or.eval ty cc (val ty a) (val ty b) z) = a ||| b := fit_bitOp a b rfl

theorem fit_eval_xor : fit ty false (IntOp.xor.eval ty cc (val ty a) (val ty b) z) = a ^^^ b := fit_bitOp a b rfl

theorem fit_eval_andn : fit ty false (IntOp.andn.eval ty cc (val ty a) (val ty b) z) = a &&& ~~~b := by
  refine fit_bitOp a b ?_
  rw [andNot, ← BitVec.toNat_allOnes, ← BitVec.toNat_xor, ← BitVec.toNat_and, BitVec.xor_allOnes]

theorem fit_eval_shl : fit ty false (IntOp.shl.eval ty cc (val ty a) (val ty b) z) = shiftLeftR ty a b := by
  simp only [IntOp.eval, residue_val, shiftLeftR, fit, Bool.false_eq_true, if_false, BitVec.ofInt_mul, ofInt_val,
    BitVec.shiftLeft_eq_mul_twoPow, BitVec.ofInt_natCast]
  exact congrArg _ (BitVec.eq_of_toNat_eq (by rw [BitVec.toNat_twoPow, BitVec.toNat_ofNat]))

theorem fit_eval_shr : fit ty false (IntOp.shr.eval ty cc (val ty a) (val ty b) z) = shiftRightR ty a b := by
  simp only [IntOp.eval, residue_val, shiftRightR, fit, Bool.false_eq_true, if_false]
  generalize count ty b ty.width = k
  unfold val
  split
  · rw [← Int.shiftRight_eq_div_pow, ← BitVec.toInt_sshiftRight, BitVec.ofInt_toInt]
  · rw [← Int.natCast_ediv, ← Nat.shiftRight_eq_div_pow, ← BitVec.toNat_ushiftRight, BitVec.ofInt_natCast,
      BitVec.ofNat_toNat, BitVec.setWidth_eq]

theorem rotlBits_eq (x : BitVec n) (hk : k < n) : rotlBits x.toNat k n = (x.rotateLeft k).toNat := by
  rw [BitVec.rotateLeft_def, Nat.mod_eq_of_lt hk, BitVec.toNat_or, BitVec.toNat_shiftLeft, BitVec.toNat_ushiftRight, rotlBits,
    Nat.or_mod_two_pow, Nat.mod_eq_of_lt (Nat.lt_of_le_of_lt (Nat.shiftRight_le ..) x.isLt)]

theorem fit_eval_rot : fit ty false (IntOp.rot.eval ty cc (val ty a) (val ty b) z) = rotateR ty a b := by
  simp only [IntOp.eval, residue_val, lowBits_val, rotlBits_eq a (count_lt b (width_pos ty)), rotateR, fit,
    Bool.false_eq_true, if_false, BitVec.ofInt_natCast, BitVec.ofNat_toNat, BitVec.setWidth_eq]

theorem fit_eval_mov (y : Int) : fit ty false (IntOp.mov.eval ty cc (val ty a) y z) = a := fit_val a

theorem fit_eval_ext : fit ty false (IntOp.ext.eval ty cc (val ty a) (val ty b) z) = extendR ty a b := by
  have hwide : a.toNat = (a.setWidth 64).toNat := (BitVec.toNat_setWidth_of_le (width_le ty)).symm
  simp only [IntOp.eval, lowBits_val, residue_val, hwide, extend_eq_lowExt]
  rfl

theorem popCount_eq (n x : Nat) : popCount n x = (List.range n).countP fun j => x.testBit j := by
  induction n generalizing x with
  | zero => rfl
  | succ n ih =>
    rw [popCount, ih, List.range_succ_eq_map, List.countP_cons, List.countP_map]
    simp only [Function.comp_def, Nat.testBit_succ, Nat.testBit_zero, decide_eq_true_eq]
    split <;> omega

theorem fit_eval_pop (y : Int) : fit ty false (IntOp.pop.eval ty cc (val ty a) y z) = onesR ty a := by
  simp only [IntOp.eval, lowBits_val, popCount_eq, fit, Bool.false_eq_true, if_false, BitVec.ofInt_natCast]
  rfl

theorem clzBits_eq (n x : Nat) : clzBits n x = ((List.range n).takeWhile fun j => !x.testBit (n - 1 - j)).length := by
  induction n with
  | zero => rfl
  | succ n ih =>
    have hrest : (fun j => !x.testBit (n + 1 - 1 - j)) ∘ Nat.succ = fun j => !x.testBit (n - 1 - j) :=
      funext fun j => congrArg (fun m => !x.testBit m) (by omega : n + 1 - 1 - (j + 1) = n - 1 - j)
    rw [clzBits, List.range_succ_eq_map, List.takeWhile_cons, List.takeWhile_map, hrest]
    cases hbit : x.testBit n with
    | true => simp [hbit]
    | false => simp [hbit, ih, Nat.add_comm]

theorem fit_eval_clz (y : Int) : fit ty false (IntOp.clz.eval ty cc (val ty a) y z) = zerosR ty a := by
  simp only [IntOp.eval, lowBits_val, clzBits_eq, fit, Bool.false_eq_true, if_false, BitVec.ofInt_natCast]
  rfl

theorem fit_eval_bfx (c : BitVec ty.width) : fit ty false (IntOp.bfx.eval ty cc (val ty a) (val ty b) (val ty c)) =
    fieldR ty a (count ty b 64) (min (count ty c 128) 64) := by
  have hwide : a.toNat >>> count ty b 64 = (a.setWidth 64 >>> count ty b 64).toNat := by
    rw [BitVec.toNat_ushiftRight, BitVec.toNat_setWidth_of_le (width_le ty)]
  simp only [IntOp.eval, bfxBits, lowBits_val, residue_val, Nat.mod_eq_of_lt (count_lt b (by decide : 0 < 64)),
    Nat.mod_eq_of_lt (count_lt c (by decide : 0 < 128)), hwide, extend_eq_lowExt]
  rfl

theorem fit_eval_sel (c : BitVec ty.width) : fit ty false (IntOp.sel.eval ty cc (val ty a) (val ty b) (val ty c)) =
    if a = 0 then c else b := by
  simp only [IntOp.eval, ne_eq, ite_not, val_eq_zero]
  split <;> exact fit_val _

/-- The six conditions between integers (R256). -/
theorem ccInt_eq_holds {cc : BitVec 3} (hcc : cc.toNat < 6) (x y : Int) : ccInt cc.toNat x y = holds cc x y := by
  unfold ccInt ccOrder holds
  generalize cc.toNat = n at hcc ⊢
  have hcodes : n = 0 ∨ n = 1 ∨ n = 2 ∨ n = 3 ∨ n = 4 ∨ n = 5 := by omega
  obtain rfl | rfl | rfl | rfl | rfl | rfl := hcodes
  all_goals obtain h | h | h := Int.lt_trichotomy x y
  all_goals grind

end

end

end Sys2Proof.Claims

namespace Sys2Proof.Machine

open Sys2Proof Sys2Proof.Claims

/-! ## Uniform words -/

section
variable {i : Instr} {s : State} {c : Cohort} {op : IntOp}

/-- A uniform result in the words of the statements. -/
theorem issueUniform_write {dst : Nat} {f : Cohort → Nat} {x : Word64} (hc : s.current = some c) (hw : i.wf = true)
    (hx : BitVec.ofNat 64 (f c) = x) : issueUniform i s dst f = .next (s.finish (uniformWrite c dst x) (wordOf i)) := by
  rw [issueUniform_wf dst f hc hw, hx]
  rfl

theorem ofNat_uniformResult (op : IntOp) (ty : Ty) (cc : BitVec 3) (sat : Bool) (a b z : Nat) :
    BitVec.ofNat 64 (uniformResult op ty cc sat a b z) =
      ext64 ty (Claims.fit ty sat (op.eval ty cc.toNat (val ty (lo ty a)) (val ty (lo ty b)) (val ty (lo ty z)))) := by
  rw [uniformResult, ofNat_narrow, ofInt_satIf, intOf_eq_val, intOf_eq_val, intOf_eq_val]

/-- What a UR word of R278 computes before its result is extended. -/
def urFit (w : UrWord) (op : IntOp) (c : Cohort) (sat : Bool) : BitVec w.ty.width :=
  Claims.fit w.ty sat (op.eval w.ty w.rm.toNat (val w.ty (lo w.ty (c.usrc w.a))) (val w.ty (lo w.ty (c.usrc w.b)))
    (val w.ty (lo w.ty (c.usrc w.c))))

/-- What a UI word of R278 computes before its result is extended. -/
def uiFit (w : UiWord) (op : IntOp) (c : Cohort) : BitVec w.ty.width :=
  Claims.fit w.ty false (op.eval w.ty w.rm.toNat (val w.ty (lo w.ty (c.usrc w.a))) (val w.ty (w.imm.signExtend _)) 0)

theorem ofNat_urResult (w : UrWord) (op : IntOp) (c : Cohort) :
    BitVec.ofNat 64 (urResult w op c) = ext64 w.ty (urFit w op c (w.mod.getLsbD 0)) := ofNat_uniformResult ..

/-- IMM at the width of a type (R258). -/
theorem lo_imm (ty : Ty) (imm : BitVec 25) : lo ty (lowBits 64 imm.toInt) = imm.signExtend ty.width := by
  rw [lo, lowBits_eq_ofInt, ← BitVec.signExtend, BitVec.ofNat_toNat]
  refine BitVec.eq_of_getLsbD_eq fun j hj => ?_
  have hj64 : j < 64 := Nat.lt_of_lt_of_le hj (width_le ty)
  simp only [BitVec.getLsbD_setWidth, BitVec.getLsbD_signExtend, hj, hj64, decide_true, Bool.true_and]

theorem ofNat_uiResult (w : UiWord) (op : IntOp) (c : Cohort) :
    BitVec.ofNat 64 (uiResult w op c) = ext64 w.ty (uiFit w op c) := by
  rw [uiResult, ofNat_uniformResult, lo_imm, uiFit, val_eq_zero.2 (rfl : lo w.ty 0 = 0)]

/-! ## What R265 says of their fields -/

theorem mod_of_wf {w : UrWord} {types : Ty → Bool} {useB useC cc : Bool} (hwf : w.wf types useB useC cc false = true) :
    w.mod = 0#5 := by
  simp only [UrWord.wf, Bool.and_eq_true] at hwf
  obtain ⟨-, hlast⟩ := hwf
  simpa using hlast

theorem type_of_wf {w : UrWord} {ty : Ty} {useB useC cc sat : Bool} (hwf : w.wf (· == ty) useB useC cc sat = true) :
    w.ty = ty := by
  simp only [UrWord.wf, Bool.and_eq_true] at hwf
  obtain ⟨⟨⟨⟨⟨⟨hty, -⟩, -⟩, -⟩, -⟩, -⟩, -⟩ := hwf
  exact beq_iff_eq.1 hty

theorem ur_condition_of_wf {w : UrWord} {types : Ty → Bool} {useB useC sat : Bool} (hwf : w.wf types useB useC true sat = true) :
    w.rm.toNat < 6 := by
  simp only [UrWord.wf, Bool.and_eq_true] at hwf
  obtain ⟨⟨-, hrm⟩, -⟩ := hwf
  simpa using hrm

theorem ui_condition_of_wf {w : UiWord} {types : Ty → Bool} {useA : Bool} (hwf : w.wf types useA true = true) :
    w.rm.toNat < 6 := by
  simp only [UiWord.wf, Bool.and_eq_true] at hwf
  obtain ⟨-, hlast⟩ := hwf
  simpa using hlast

/-! ## The rows -/

section
variable (hc : s.current = some c) (hw : i.wf = true)
include hc hw

/-- A UR word that admits `.sat`. -/
theorem execUr_sat {w : UrWord} {r : BitVec w.ty.width} (h : urFit w op c (w.mod.getLsbD 0) = r) :
    execUr i w op s = .next (s.finish (uniformWrite c w.dst.toNat (ext64 w.ty r)) (wordOf i)) :=
  issueUniform_write hc hw ((ofNat_urResult w op c).trans (congrArg _ h))

/-- A UR word that does not. -/
theorem execUr_plain {w : UrWord} {types : Ty → Bool} {useB useC cc : Bool} {r : BitVec w.ty.width}
    (hwf : w.wf types useB useC cc false = true) (h : urFit w op c false = r) :
    execUr i w op s = .next (s.finish (uniformWrite c w.dst.toNat (ext64 w.ty r)) (wordOf i)) :=
  execUr_sat hc hw (by rw [mod_of_wf hwf]; exact h)

theorem execUi_fit {w : UiWord} {r : BitVec w.ty.width} (h : uiFit w op c = r) :
    execUi i w op s = .next (s.finish (uniformWrite c w.dst.toNat (ext64 w.ty r)) (wordOf i)) :=
  issueUniform_write hc hw ((ofNat_uiResult w op c).trans (congrArg _ h))

end

/-- The result of a comparison, in a register (R278). -/
theorem ext64_bool (ty : Ty) (b : Bool) : ext64 ty (Claims.fit ty false (if b then 1 else 0)) = if b then 1 else 0 := by
  cases ty <;> cases b <;> decide

theorem ext64_cmp {ty : Ty} {cc : BitVec 3} (hcc : cc.toNat < 6) (x y z : Int) :
    ext64 ty (Claims.fit ty false (IntOp.cmp.eval ty cc.toNat x y z)) = if holds cc x y then 1 else 0 := by
  rw [IntOp.eval, ccInt_eq_holds hcc, ext64_bool]

theorem usrc_lt (c : Cohort) (x : Src) : c.usrc x < 2 ^ 64 := by
  cases x with
  | ureg n => exact sreg_lt c _
  | imm v =>
    rw [Cohort.usrc, lowBits_eq_ofInt]
    exact BitVec.isLt _
  | vreg | latch => exact Nat.two_pow_pos 64

theorem val_lo_n64 {x : Nat} (hx : x < 2 ^ 64) : val .n64 (lo .n64 x) = x :=
  congrArg Nat.cast (Nat.mod_eq_of_lt hx)

/-- `ulea`, whose third source is a count (R278, R279). -/
theorem urFit_lea {w : UrWord} (c : Cohort) (hty : w.ty = .n64) : urFit w .lea c false =
    Claims.fit w.ty false (val w.ty (lo w.ty (c.usrc w.a)) + val w.ty (lo w.ty (c.usrc w.b)) * 2 ^ (c.usrc w.c)) := by
  have hcount : (val w.ty (lo w.ty (c.usrc w.c))).toNat = c.usrc w.c := by
    rw [hty, val_lo_n64 (usrc_lt c w.c), Int.toNat_natCast]
  rw [urFit, IntOp.eval, hcount, Int.natCast_pow]
  rfl

/-- `ucat`: the two parts of the word do not overlap (R279). -/
theorem ofNat_ucat (x : Nat) (imm : BitVec 25) :
    BitVec.ofNat 64 ((x * 2 ^ 25 + imm.toNat) % 2 ^ 64) = BitVec.ofNat 64 x <<< 25 ||| imm.setWidth 64 := by
  have hhigh : (x % 2 ^ 64) <<< 25 % 2 ^ 64 = (x % 2 ^ 39) <<< 25 := by
    rw [Nat.shiftLeft_eq, Nat.shiftLeft_eq]
    omega
  apply BitVec.eq_of_toNat_eq
  rw [BitVec.toNat_or, BitVec.toNat_shiftLeft, BitVec.toNat_ofNat, BitVec.toNat_ofNat, hhigh,
    BitVec.toNat_setWidth_of_le (by decide), ← Nat.shiftLeft_add_eq_or_of_lt imm.isLt, Nat.shiftLeft_eq]
  omega

theorem exec_uniformRow {dst : BitVec 8} {x : Word64} (hc : s.current = some c) (hw : i.wf = true)
    (hrow : uniformRow c i = some (dst, x)) : exec i s = .next (s.finish (uniformWrite c dst.toNat x) (wordOf i)) := by
  unfold uniformRow at hrow
  split at hrow
  rotate_right
  · nomatch hrow
  all_goals cases hrow
  · exact execUr_sat hc hw rfl -- `uadd`
  · exact execUr_sat hc hw rfl -- `usub`
  · exact execUr_sat hc hw rfl -- `umul`
  · exact execUr_plain hc hw hw (fit_eval_mulh ..)
  · exact execUr_sat hc hw rfl -- `umad`
  · exact execUr_plain hc hw hw (fit_eval_div ..)
  · exact execUr_plain hc hw hw (fit_eval_rem ..)
  · exact execUr_plain hc hw hw (fit_eval_min ..)
  · exact execUr_plain hc hw hw (fit_eval_max ..)
  · exact execUr_plain hc hw hw (fit_eval_and ..)
  · exact execUr_plain hc hw hw (fit_eval_or ..)
  · exact execUr_plain hc hw hw (fit_eval_xor ..)
  · exact execUr_plain hc hw hw (fit_eval_andn ..)
  · exact execUr_plain hc hw hw (fit_eval_shl ..)
  · exact execUr_plain hc hw hw (fit_eval_shr ..)
  · exact execUr_plain hc hw hw (fit_eval_rot ..)
  · exact issueUniform_write hc hw ((ofNat_urResult ..).trans (by rw [mod_of_wf hw]; exact ext64_cmp (ur_condition_of_wf hw) ..))
  · exact execUr_plain hc hw hw (fit_eval_sel ..)
  · exact execUr_plain hc hw hw (fit_eval_mov ..)
  · exact execUr_plain (types := fun t => t == .i64 || t == .n64) hc hw hw (fit_eval_ext ..)
  · exact execUr_plain hc hw hw (fit_eval_pop ..)
  · exact execUr_plain hc hw hw (fit_eval_clz ..)
  · exact execUr_plain hc hw hw (fit_eval_bfx ..)
  · rename_i w -- `ulea`
    obtain ⟨hwf, -⟩ := Bool.and_eq_true_iff.1 hw
    exact execUr_plain hc hw hwf (urFit_lea c (type_of_wf hwf))
  · exact execUi_fit hc hw rfl -- `uadd`
  · exact execUi_fit hc hw rfl -- `umul`
  · exact execUi_fit hc hw (fit_eval_and ..)
  · exact execUi_fit hc hw (fit_eval_or ..)
  · exact execUi_fit hc hw (fit_eval_xor ..)
  · exact issueUniform_write hc hw ((ofNat_uiResult ..).trans (ext64_cmp (ui_condition_of_wf hw) ..))
  · exact issueUniform_write hc hw (ofNat_narrow ..)
  · exact issueUniform_write hc hw (ofNat_ucat ..)

end

end Sys2Proof.Machine

namespace Sys2Proof
open Sys2Proof.Machine

/-- Settles O8, row by row: the result on integers is the row's on the bits of the type. -/
theorem uniformResults : Obligations.UniformResults := by
  unfold Obligations.UniformResults
  exact fun _ _ _ _ _ => exec_uniformRow

end Sys2Proof
end

section
/-! SUPPORT. Transfers, splits, calls and returns that pass their checks (O18 to O21). -/

namespace Sys2Proof.Machine

open Sys2Proof Sys2Proof.Claims

/-! ## Transfers (R282 to R284, R288) -/

section
variable {i : Instr} {s0 s : State} {c d : Cohort} {w : CtlWord} {h : Header} {t k : Nat} {v : BitVec 8}

theorem jump_good (hh : s.headerAt c t = .good h) : s.jump i c t = s.transfer c (wordOf i) t := toHeader_good _ _ hh

theorem branchHolds_eq {ty : Ty} (hcc : w.cc.toNat < 6) (hty : Ty.ofCode w.ty = some ty) :
    branchHolds d w = branchCond d w ty := by
  unfold branchHolds branchCond
  simp only [hty, Option.getD_some, ccInt_eq_holds hcc, intOf_eq_val]

theorem brc_condition_of_wf (hwf : (Instr.brc w).wf = true) : w.cc.toNat < 6 := by
  simp only [Instr.wf, Bool.and_eq_true] at hwf
  obtain ⟨⟨-, hcc⟩, -⟩ := hwf
  exact of_decide_eq_true hcc

theorem execBrc_ready {ty : Ty} (hr : Ready s0 (.brc w) Guard.always [] [] c s d) (hl : c.lastWord = true)
    (hty : Ty.ofCode w.ty = some ty) :
    exec (.brc w) s0 = .next (if branchCond d w ty then s.jump (.brc w) (calm d) (target d w)
      else s.finish (calm d) (wordOf (.brc w))) := by
  rw [← branchHolds_eq (brc_condition_of_wf hr.wf) hty]
  exact atControl_ready _ hr hl

theorem execJtab_ready (hr : Ready s0 (.jtab w) Guard.always [] [] c s d) (hl : c.lastWord = true) (hsb : w.sb = .imm v) :
    exec (.jtab w) s0 = .next (if d.sreg w.ua.toNat < v.toNat then
      s.jump (.jtab w) (calm d) (lowBits 64 ((target d w : Nat) + 16 * (d.sreg w.ua.toNat : Int)))
      else s.finish (calm d) (wordOf (.jtab w))) := by
  refine (atControl_ready _ hr hl).trans ?_
  rw [hsb]
  rfl

/-! ## Splits (R202, R205, R285) -/

theorem execBrv_ready (hr : Ready s0 (.brv w) Guard.always [] [w.guard.psel.toNat] c s d) (hl : c.lastWord = true) :
    exec (.brv w) s0 = .next (
      if (lanesOf (d.active w.guard)).length == d.fibres.length then s.jump (.brv w) (calm d) (target d w)
      else if (lanesOf (d.active w.guard)).isEmpty then s.finish (calm d) (wordOf (.brv w))
      else s.toHeader (.brv w) (calm d) Guard.always (target d w) fun _ =>
        s.split (.brv w) (calm d) (lanesOf (d.active w.guard)) (target d w)) := atControl_ready _ hr hl

/-- A branch that some lanes of its cohort take and others do not. -/
theorem execBrv_diverges (hr : Ready s0 (.brv w) Guard.always [] [w.guard.psel.toNat] c s d) (hl : c.lastWord = true)
    (hsome : someActive d w.guard) (hnot : (d.active w.guard).length ≠ d.fibres.length)
    (hh : s.headerAt (calm d) (target d w) = .good h) :
    exec (.brv w) s0 = .next (s.split (.brv w) (calm d) (lanesOf (d.active w.guard)) (target d w)) := by
  have hall : ¬ ((lanesOf (d.active w.guard)).length == d.fibres.length) = true := by simpa [lanesOf] using hnot
  have hnone : ¬ (lanesOf (d.active w.guard)).isEmpty = true := by simpa [lanesOf, someActive] using hsome
  rw [execBrv_ready hr hl, if_neg hall, if_neg hnone, toHeader_good _ _ hh]

variable {taken : List Nat} {slot n : Nat}

theorem split_noSlot (hs : s.freeSlot c.core = none) : s.split i c taken t = s.hold c .split := by
  unfold State.split
  rw [hs]

theorem split_noEntry (hs : s.freeSlot c.core = some slot) (hrec : c.reconv ≠ 0) (he : (s.core c.core).freeEntry = none) :
    s.split i c taken t = s.hold c .split := by
  unfold State.split
  simp only [hs, he, beq_iff_eq, hrec, if_false]

theorem split_plain (hs : s.freeSlot c.core = some slot) (hrec : c.reconv = 0) :
    s.split i c taken t = (match c.split with
      | some e => s.putCore ((s.core c.core).modEntry e fun x => { x with live := x.live + 1 })
      | none => s).splitInto (wordOf i) c taken t slot c.split := by
  unfold State.split
  rw [hs]
  exact if_pos (beq_iff_eq.2 hrec)

theorem split_entry (hs : s.freeSlot c.core = some slot) (hrec : c.reconv ≠ 0) (he : (s.core c.core).freeEntry = some n) :
    s.split i c taken t = (s.putCore ((s.core c.core).takeEntry n
      { valid := true, parent := c.split, tag := c.tag, reconv := c.reconvAt, mask := c.mask, live := 2, parked := 0 })).splitInto
        (wordOf i) c taken t slot (some n) := by
  unfold State.split
  simp only [hs, he, beq_iff_eq, hrec, if_false]

/-! ## Calls (R221, R286) -/

theorem callTo_plain (hh : s.headerAt c t = .good h) (he : h.entry = true) :
    s.callTo i c t 0 = s.transfer (c.setSreg 0 (BitVec.ofNat 64 (c.pc + 8))) (wordOf i) t := by
  rw [State.callTo, toHeader_good _ _ hh, he]
  rfl

/-- What a call that keeps `k` registers leaves of a cohort whose link is written: its landings delivered, a frame pushed in every
lane, and the frames that the stack cannot hold in the Attic. -/
def State.pushFrames (s : State) (c : Cohort) (k : Nat) : State × Cohort :=
  let (s1, d1) := s.deliver c
  let d2 := { d1 with fibres := d1.fibres.map fun f => f.pushFrame d1.window d1.stackRows k s1.fresh.1 }
  s1.fresh.2.spillFrames d2 fun f => framesFit (d2.stackRows - d2.window) f.frames

theorem callTo_framed (hh : s.headerAt c t = .good h) (he : h.entry = true) (hk : k ≠ 0)
    (hfits : s.atticCharged (fnOf c.ctx) + c.fibres.length * frameCharge k ≤ s.atticBays (fnOf c.ctx)) :
    s.callTo i c t k =
      (s.pushFrames (c.setSreg 0 (BitVec.ofNat 64 (c.pc + 9))) k).1.transfer
        (s.pushFrames (c.setSreg 0 (BitVec.ofNat 64 (c.pc + 9))) k).2 (wordOf i) t := by
  rw [State.callTo, toHeader_good _ _ hh, he]
  simp only [Bool.not_true, Bool.false_eq_true, if_false, Nat.not_lt.2 hfits, decide_false, Bool.and_false, beq_iff_eq, hk]
  rfl

/-! ## Returns (R287) -/

theorem execRet_ready (hr : Ready s0 (.ret w) Guard.always [] [] c s d) (hl : c.lastWord = true)
    (hlow : d.sreg 0 < 2 ^ 49) (hbits : d.sreg 0 % 8 / 2 = 0)
    (hframes : bitOf (d.sreg 0) 0 = true → ∀ f ∈ d.fibres, f.frames ≠ [])
    (hh : s.headerAt (calm d) (d.sreg 0 / 8 * 8) = .good h) :
    exec (.ret w) s0 = .next (if !bitOf (d.sreg 0) 0 then s.transfer (calm d) (wordOf (.ret w)) (d.sreg 0 / 8 * 8) else
      match s.badFill (calm d) with
      | some b => if s.peerOpen (calm d) then s.holdPeer (calm d)
        else (s.enterError b (fnOf d.ctx)).ownTrap (.ret w) (calm d) { code := .memerr, detail := s.sectorCode b } Guard.always
      | none =>
        let (s1, e) := s.deliver (calm d)
        let s2 := (e.fills.foldl (fun t id => (t.getImage (fnOf d.ctx) true id).leaveAttic id) s1).putCohort
          { e with fibres := e.fibres.map fun f => f.popFrame e.window e.stackRows }
        (s2.wakeCharge (fnOf d.ctx)).transfer ((s2.cohort? d.uid).getD e) (wordOf (.ret w)) (d.sreg 0 / 8 * 8)) := by
  have hlink : ¬ (slice (d.sreg 0) 63 49 != 0 || slice (d.sreg 0) 2 1 != 0) = true := by
    rw [noLink_iff]
    omega
  have hheld : ¬ (bitOf (d.sreg 0) 0 && d.fibres.any fun f => f.frames.isEmpty) = true := by
    simpa using hframes
  refine (atControl_ready _ hr hl).trans (congrArg _ ((if_neg hlink).trans ((if_neg hheld).trans ?_)))
  exact toHeader_good _ _ hh

end

end Sys2Proof.Machine

namespace Sys2Proof
open Sys2Proof.Machine Sys2Proof.Claims

/-- Settles O18: a transfer's target header is good, or its condition or index sends it on to the next header. -/
theorem branchesComplete : Obligations.BranchesComplete := by
  unfold Obligations.BranchesComplete
  refine ⟨?bra, ?taken, ?notTaken, ?inTable, ?pastTable⟩
  case bra =>
    intro s0 s c d w h hr hl hh
    rw [execBra_ready hr hl, jump_good hh]
  case taken =>
    intro s0 s c d w h ty hr hl hty hcond hh
    rw [execBrc_ready hr hl hty, if_pos hcond, jump_good hh]
  case notTaken =>
    intro s0 s c d w ty hr hl hty hcond
    rw [execBrc_ready hr hl hty, hcond, if_neg Bool.false_ne_true]
  case inTable =>
    intro s0 s c d w h k hr hl hsb hlt hh
    rw [execJtab_ready hr hl hsb, if_pos hlt, jump_good hh]
  case pastTable =>
    intro s0 s c d w k hr hl hsb hle
    rw [execJtab_ready hr hl hsb, if_neg (Nat.not_lt.2 hle)]

/-- Settles O19: by the lanes that the branch takes, and what the core has free for a split. -/
theorem vectorBranch : Obligations.VectorBranch := by
  unfold Obligations.VectorBranch
  refine ⟨?all, ?none, ?entry, ?plain, ?waits⟩
  case all =>
    intro s0 s c d w h hr hl hall hh
    have hlen : ((lanesOf d.fibres).length == d.fibres.length) = true := beq_iff_eq.2 (List.length_map _)
    rw [execBrv_ready hr hl, hall, if_pos hlen, jump_good hh]
  case none =>
    intro s0 s c d w hr hl hne hnone
    have hlen : ¬ ((lanesOf []).length == d.fibres.length) = true := fun h0 =>
      hne (List.length_eq_zero_iff.1 (beq_iff_eq.1 h0).symm)
    rw [execBrv_ready hr hl, hnone, if_neg hlen]
    rfl
  case entry =>
    intro s0 s c d w h slot n hr hl hsome hnot hh hs hrec he
    rw [execBrv_diverges hr hl hsome hnot hh]
    exact congrArg _ (split_entry hs hrec he)
  case plain =>
    intro s0 s c d w h slot hr hl hsome hnot hh hs hrec
    rw [execBrv_diverges hr hl hsome hnot hh]
    exact congrArg _ (split_plain hs hrec)
  case waits =>
    intro s0 s c d w h hr hl hsome hnot hh hfull
    rw [execBrv_diverges hr hl hsome hnot hh]
    cases hs : s.freeSlot d.core with
    | none => exact congrArg _ (split_noSlot hs)
    | some slot =>
      obtain ⟨hrec, he⟩ := hfull.resolve_left (by simp [hs])
      exact congrArg _ (split_noEntry hs hrec he)

/-- Settles O20: a keep count of 0 pushes no frame, and a link with bit 0 clear ends none. -/
theorem plainCalls : Obligations.PlainCalls := by
  unfold Obligations.PlainCalls
  refine ⟨?call, ?callr, ?ret⟩
  case call =>
    intro s0 s c d w h hr hl hsb hh he
    rw [execCall_ready hr hl, hsb]
    exact congrArg _ (callTo_plain hh he)
  case callr =>
    intro s0 s c d w h hr hl hsb hlow halign hh he
    rw [execCallr_ready hr hl hlow halign, hsb]
    exact congrArg _ (callTo_plain hh he)
  case ret =>
    intro s0 s c d w h hr hl hlow halign hh
    have haddr : d.sreg 0 / 8 * 8 = d.sreg 0 := by omega
    have hbit : bitOf (d.sreg 0) 0 = false := by
      rw [bitOf, Nat.testBit_zero]
      exact decide_eq_false (by omega)
    rw [execRet_ready (h := h) hr hl hlow (by omega) (by simp [hbit]) (by rwa [haddr]), hbit, haddr]
    rfl

/-- Settles O21: the frames that `State.pushFrames` leaves, and the frames that `Fibre.popFrame` ends. -/
theorem framedCall : Obligations.FramedCall := by
  unfold Obligations.FramedCall
  refine ⟨?call, ?ret⟩
  case call =>
    intro s0 s c d w h k hr hl hsb hk hh he hfits
    have hpos : k.toNat ≠ 0 := fun h0 => hk (BitVec.eq_of_toNat_eq h0)
    have hcall := execCall_ready hr hl
    rw [hsb] at hcall
    exact hcall.trans (congrArg _ (callTo_framed hh he hpos hfits))
  case ret =>
    intro s0 s c d w h hr hl hlow hbits hframes hh hfill
    have haddr : d.sreg 0 / 8 * 8 = d.sreg 0 - 1 := by omega
    have hbit : bitOf (d.sreg 0) 0 = true := by
      rw [bitOf, Nat.testBit_zero]
      exact decide_eq_true (by omega)
    have hexec := execRet_ready (h := h) hr hl hlow (by omega) (fun _ => hframes) (by rwa [haddr])
    rw [hbit, haddr, hfill] at hexec
    exact hexec

end Sys2Proof
end

section
/-! SUPPORT. The queue words that find room or an entry (O25), and the two words of the physical function (O28). -/

namespace Sys2Proof.Machine

open Sys2Proof Sys2Proof.Claims

section
variable {i : Instr} {s : State} {c : Cohort}

/-! ## Queues (R281) -/

/-- A push onto a vector-to-uniform queue with room, where no trap of R266 comes first. -/
theorem issuePush_room {v : VectorOp} {entry : Cohort → List Word32} (hc : s.current = some c) (hw : i.wf = true)
    (hv : c.vectorTrap v = none) (hroom : c.vq.length < 16) :
    issuePush i s v entry = .next (s.finish { c.issueVec v [] none with vq := c.vq ++ [entry c] } (wordOf i)) := by
  unfold issuePush
  rw [onCohort_wf _ hc hw, hv]
  exact congrArg _ (if_neg (Nat.not_le.2 hroom))

theorem issuePop_oldest {e : List Word32} {rest : List (List Word32)} {res : Cohort → List Word32 → List (Nat × Nat)}
    (hc : s.current = some c) (hw : i.wf = true) (hq : c.vq = e :: rest) :
    issuePop i s res =
      let landing := (res c e).map fun p => ({ left := 2, reg := p.1, val := BitVec.ofNat 64 p.2 } : InFlightU)
      .next (s.finish ({ c with vq := rest, flightU := c.flightU ++ landing }.tickU) (wordOf i)) := by
  unfold issuePop
  rw [onCohort_wf _ hc hw, hq]

/-- A number's low bits, extended as R277 says. -/
theorem ofNat_narrow_intOf (ty : Ty) (x : Nat) : BitVec.ofNat 64 (narrow ty 64 (intOf ty x)) = ext64 ty (lo ty x) := by
  rw [ofNat_narrow, intOf_eq_val, ofInt_val]

theorem execQput_room {w : UrWord} (hc : s.current = some c) (hw : (Instr.qput w).wf = true) (hroom : c.uq.length < 16) :
    execQput w s = .next (s.finish ({ c with uq := c.uq ++ [ext64 w.ty (lo w.ty (c.usrc w.a))] }.tickU) (wordOf (.qput w))) := by
  unfold execQput
  rw [onCohort_wf _ hc hw, ← ofNat_narrow_intOf]
  exact congrArg _ (if_neg (Nat.not_le.2 hroom))

/-- The bits of a queue entry that a register or a pair takes. -/
theorem mod_tyRegBits (ty : Ty) (x : Word64) : x.toNat % 2 ^ tyRegBits ty = if ty.pair then x.toNat else x.toNat % 2 ^ 32 := by
  unfold tyRegBits
  split
  · exact Nat.mod_eq_of_lt x.isLt
  · rfl

theorem execQget_oldest {w : VrWord} {x : Word64} {rest : List Word64} (hc : s.current = some c) (hw : (Instr.qget w).wf = true)
    (hv : c.vectorTrap (vrOp w [] w.ty.pair 4) = none) (hq : c.uq = x :: rest) :
    execQget w s =
      let vals := (c.active w.guard).map fun f => (f.lane, if w.ty.pair then x.toNat else x.toNat % 2 ^ 32)
      .next (s.finish { c.issueVec (vrOp w [] w.ty.pair 4) (vecWrites w.ty.pair w.dst.toNat vals)
        (some (latchFor w.wbs vals)) with uq := rest } (wordOf (.qget w))) := by
  unfold execQget
  rw [onCohort_wf _ hc hw]
  dsimp only
  rw [hv, hq]
  simp only [mod_tyRegBits]
  rfl

/-- The value of a lane among those of the active lanes. -/
theorem find_activeValues (c : Cohort) (g : Guard) (ty : Ty) (x : Src) (l : Nat) :
    ((c.activeValues g ty x).find? fun p => p.1 == l).map Prod.snd =
      ((c.active g).find? fun f => f.lane == l).map fun f => c.vsrc f ty x := by
  rw [Cohort.activeValues, List.find?_map, Option.map_map]
  rfl

/-- A lane number in two's complement or unsigned has the same low five bits. -/
theorem residue_lane {ty : Ty} (hty : ty.width = 32) (x : Nat) : residue (intOf ty x) 32 = x % 32 := by
  simp only [residue, intOf, signedOf, hty]
  split
  · split <;> omega
  · omega

theorem lane_type_of_wf {w : UrWord} (hwf : (Instr.qrcvB32 w).wf = true) : w.ty.width = 32 := by
  simp only [Instr.wf, Bool.and_eq_true, Bool.or_eq_true, beq_iff_eq] at hwf
  obtain ⟨⟨⟨⟨⟨⟨(hty | hty) | hty, -⟩, -⟩, -⟩, -⟩, -⟩, -⟩ := hwf <;> rw [hty] <;> rfl

/-- Two lanes of an entry in one uniform register. -/
theorem ofNat_twoLanes (x y : Word32) : BitVec.ofNat 64 (x.toNat + 2 ^ 32 * y.toNat) = y ++ x := by
  apply BitVec.eq_of_toNat_eq
  rw [BitVec.toNat_append, ← Nat.shiftLeft_add_eq_or_of_lt x.isLt, Nat.shiftLeft_eq, BitVec.toNat_ofNat]
  omega

/-! ## Words of the physical function (R298, R299) -/

theorem onPrivileged_physical {k : Cohort → State} (hc : s.current = some c) (hw : i.wf = true) (hf : fnOf c.ctx = 0) :
    onPrivileged i s k = .next (k c) := by
  unfold onPrivileged
  rw [onCohort_wf _ hc hw, if_pos (by simpa using hf)]

theorem uniformDone_eq (s : State) (c : Cohort) (word : Word64) (dst x : Nat) :
    s.uniformDone c word dst x = s.finish (uniformWrite c dst (BitVec.ofNat 64 x)) word := rfl

end

end Sys2Proof.Machine

namespace Sys2Proof
open Sys2Proof.Machine Sys2Proof.Claims

/-- Settles O25: each word as its kind of push or pop answers at a queue with room or with an entry. -/
theorem queueWords : Obligations.QueueWords := by
  unfold Obligations.QueueWords
  refine ⟨?qput, ?qget, ?qret, ?vredQ, ?qrcvB64, ?qrcvB32⟩
  case qput =>
    intro s c w hc hw hroom
    exact execQput_room hc hw hroom
  case qget =>
    intro s c w x rest hc hw hq hv
    exact execQget_oldest hc hw hv hq
  case qret =>
    intro s c w hc hw hroom hv
    refine (issuePush_room hc hw hv hroom).trans ?_
    simp only [find_activeValues]
  case vredQ =>
    intro s c w hc hw hroom hv
    exact issuePush_room hc hw hv hroom
  case qrcvB64 =>
    intro s c w e rest hc hw hq
    refine (issuePop_oldest hc hw hq).trans ?_
    simp only [List.map_map, Function.comp_def, ofNat_twoLanes]
  case qrcvB32 =>
    intro s c w e rest hc hw hq
    refine (issuePop_oldest hc hw hq).trans ?_
    simp only [residue_lane (lane_type_of_wf hw), List.map_cons, List.map_nil, ofNat_narrow_intOf]
    rfl

/-- Settles O28: the context, the range and a shootdown under way are looked at in this order. -/
theorem invalidations : Obligations.Invalidations := by
  unfold Obligations.Invalidations
  refine ⟨?started, ?refused, ?dropped, ?noContext, ?underWay⟩
  case started =>
    intro s c w hc hw hf hctx hgood hidle
    refine (onPrivileged_physical hc hw hf).trans ?_
    simp only [Nat.not_lt.2 hctx, hgood, State.shootBusy, hidle, Bool.false_eq_true, if_false]
  case refused =>
    intro s c w hc hw hf hbad
    refine (onPrivileged_physical hc hw hf).trans ?_
    by_cases hctx : 2055 < c.usrc w.b
    · simp only [hctx, if_true, uniformDone_eq]
      rfl
    · simp only [hctx, hbad.resolve_left hctx, if_true, if_false, uniformDone_eq]
      rfl
  case dropped =>
    intro s c w hc hw hf hctx
    refine (onPrivileged_physical hc hw hf).trans ?_
    have hkept : (s.fetchLines.filter fun l => l.ctx != c.usrc w.b) = s.fetchLines.filter fun l => l.ctx ≠ c.usrc w.b :=
      List.filter_congr fun l _ => Bool.eq_iff_iff.2 (by rw [bne_iff_ne, decide_eq_true_iff])
    rw [← hkept]
    exact congrArg _ (if_neg (Nat.not_lt.2 hctx))
  case noContext =>
    intro s c w hc hw hf hctx
    exact (onPrivileged_physical hc hw hf).trans (congrArg _ (if_pos hctx))
  case underWay =>
    intro s c w hc hw hf hctx hgood hbusy
    refine (onPrivileged_physical hc hw hf).trans ?_
    simp only [Nat.not_lt.2 hctx, hgood, State.shootBusy, hbusy, Bool.false_eq_true, if_false, if_true]

end Sys2Proof
end

section
/-! SUPPORT. The course of a word past its stall point where nothing stops it: its accesses (R30, R359), its release steps (R120, R126),
the entries that it needs (R64), the header that it resumes at (R198), and the forms that do nothing with no active lane (R358, R369). -/

namespace Sys2Proof.Machine

open Sys2Proof Sys2Proof.Claims

section
variable {i : Instr} {s0 s s1 : State} {c d e : Cohort} {g : Guard} {runs : List RegRun} {preds : List Nat}

/-! ## Release steps -/

theorem payRelease_free {k : State → State} (h : ∀ o, s.owedBy c.uid = some o → 5 ≤ o.1 → s.peerOpen c = false) :
    s.payRelease c k = k (paid s c) := by
  unfold State.payRelease paid
  cases howed : s.owedBy c.uid with
  | none => rfl
  | some o =>
    refine if_neg ?_
    simpa using h o howed

theorem awaitPeers_free {k : State → State} (h : ∀ o, s.owedBy c.uid = some o → 5 ≤ o.1 → s.peerOpen c = false) :
    s.awaitPeers c k = k s := by
  refine if_neg fun hwait => ?_
  cases howed : s.owedBy c.uid with
  | none => simp [howed] at hwait
  | some o =>
    simp only [howed, Option.any_some, Bool.and_eq_true, decide_eq_true_eq] at hwait
    obtain ⟨hscope, hopen⟩ := hwait
    exact Bool.false_ne_true ((h o howed hscope).symm.trans hopen)

theorem withRelease_closed {scope : Nat} {reads : PendingRead → Bool} {k : State → State} (h : s.peerOpen c = false) :
    s.withRelease c scope reads k = k (s.releaseAt c.core scope reads) := by
  simp [State.withRelease, h]

/-! ## Accesses -/

/-- The course of accesses that pass every check. -/
theorem withAccs_clear {accs : List Acc} {rd wr : Bool} {len : Nat} {k : State → State} (h : Clear s c accs rd wr len) :
    s.withAccs i c g accs rd wr len k = k (noted s c accs rd wr) := by
  have hfirst : firstFailure accs = none := by rw [firstFailure, h.sound, Option.map_none]
  have hwanted : (wantedPeers (accBits rd wr) accs).isEmpty = true := List.isEmpty_iff.2 h.translated
  unfold State.withAccs noted
  simp only [hfirst, h.answered, hwanted, h.unwatched, Bool.not_true, Bool.false_eq_true, if_false]
  cases wr with
  | false => rfl
  | true =>
    have hfree := h.released rfl
    cases accs.all Acc.lazy with
    | false => exact payRelease_free (k := fun t => k (t.noteAccs c rd true accs)) hfree
    | true => exact awaitPeers_free (k := fun t => k (t.noteAccs c rd true accs)) hfree

theorem withMisses_ready {need : Nat} {k : State → State} (h : s.missReady c need = true) :
    s.withMisses c need k = k (s.spendGrant c) := if_pos h

/-! ## Suspension at the next block -/

theorem atStall_resumes {h : Header} {k : State → Cohort → Header → State} (hr : Resumes s0 i g runs preds c s1 e h) :
    atStall i s0 g runs preds (fun s c0 => s.withResume i c0 g k) = .next (k s1 e h) := by
  obtain ⟨s, d, hready, hdrain⟩ := hr.ready
  have hfits : (h.susp && decide (h.liveV ≤ e.window)) = true := by simp [hr.suspends, hr.fits]
  rw [atStall_ready _ hready, State.withResume, hdrain]
  simp only [hr.sound, hr.peers, hr.last, hr.header, hfits, Bool.not_true, Bool.false_eq_true, if_false, if_true]

/-! ## No active lane -/

theorem atSync_inactive {w : SynWord} {k : State → Cohort → State} (hr : Ready s0 i w.guard runs preds c s d)
    (hnone : d.active w.guard = []) : atSync i w s0 runs preds k = .next (s.finish (calm d) (wordOf i)) := by
  rw [atSync, atStall_ready _ hr, active_calm, hnone]
  rfl

/-- A uniform form of a MEM word returns under no tag. -/
theorem atMemory_inactive {w : MemWord} {tag : Option Nat} {k : State → Cohort → State} (hua : w.ua = true)
    (hr : Ready s0 i w.guard runs [] c s d) (hnone : d.active w.guard = []) (htag : tag = none ∨ tag = returnTag w) :
    atMemory i w s0 runs tag k = .next (s.finish (calm d) (wordOf i)) := by
  have hfree : tag = none := htag.elim id fun h => by rw [h, returnTag, hua]; rfl
  rw [atMemory, hua, hfree]
  refine (atStall_ready _ hr).trans ?_
  rw [active_calm, hnone]
  rfl

/-- The SYN words that may not suspend and touch no register of a lane, and `dbg`, ask for an active lane first (R297, R369). -/
theorem exec_atSync {w : SynWord} (hi : i ∈ [Instr.barInit w, .barArrive w, .barInval w, .semInc w, .copy w, .copy2d w, .gath w,
    .scat w, .coll w, .engQ w, .dbg w]) (s0 : State) : ∃ k, exec i s0 = atSync i w s0 [] [] k := by
  simp only [List.mem_cons, List.not_mem_nil, or_false] at hi
  obtain rfl | rfl | rfl | rfl | rfl | rfl | rfl | rfl | rfl | rfl | rfl := hi
  · exact ⟨_, (rfl : _ = execBarInit w s0)⟩
  · exact ⟨_, (rfl : _ = execBarArrive w s0)⟩
  · exact ⟨_, (rfl : _ = execBarInval w s0)⟩
  · exact ⟨_, (rfl : _ = execSemInc w s0)⟩
  · exact ⟨_, (rfl : _ = execEngine (.copy w) w 0xCA s0)⟩
  · exact ⟨_, (rfl : _ = execEngine (.copy2d w) w 0xCA s0)⟩
  · exact ⟨_, (rfl : _ = execEngine (.gath w) w 0xCB s0)⟩
  · exact ⟨_, (rfl : _ = execEngine (.scat w) w 0xCC s0)⟩
  · exact ⟨_, (rfl : _ = execEngine (.coll w) w 0xCD s0)⟩
  · exact ⟨_, (rfl : _ = execEngQ w s0)⟩
  · exact ⟨_, (rfl : _ = execDbg w s0)⟩

/-- The MEM words that access memory for their active lanes or for the uniform agent (R358). -/
theorem exec_atMemory {w : MemWord} {regs : Nat} (hi : (i, regs) ∈ [(Instr.ld w, szRegs w.sz), (.st w, szRegs w.sz),
    (.aadd w, atomicRegs .add w), (.amin w, atomicRegs .min w), (.amax w, atomicRegs .max w), (.aand w, atomicRegs .and w),
    (.aor w, atomicRegs .or w), (.axor w, atomicRegs .xor w), (.axch w, atomicRegs .xch w), (.acas w, atomicRegs .cas w),
    (.xadd w, 1), (.xrd w, 1)]) (s0 : State) :
    ∃ tag k, (tag = none ∨ tag = returnTag w) ∧ exec i s0 = atMemory i w s0 (memRuns w regs) tag k := by
  simp only [List.mem_cons, List.not_mem_nil, or_false, Prod.mk.injEq] at hi
  obtain ⟨rfl, rfl⟩ | ⟨rfl, rfl⟩ | ⟨rfl, rfl⟩ | ⟨rfl, rfl⟩ | ⟨rfl, rfl⟩ | ⟨rfl, rfl⟩ | ⟨rfl, rfl⟩ | ⟨rfl, rfl⟩ | ⟨rfl, rfl⟩ |
    ⟨rfl, rfl⟩ | ⟨rfl, rfl⟩ | ⟨rfl, rfl⟩ := hi
  · exact ⟨_, _, .inr rfl, (rfl : _ = execLd w s0)⟩
  · exact ⟨_, _, .inl rfl, (rfl : _ = execSt w s0)⟩
  · exact ⟨_, _, .inr rfl, (rfl : _ = execAtomic (.aadd w) w .add s0)⟩
  · exact ⟨_, _, .inr rfl, (rfl : _ = execAtomic (.amin w) w .min s0)⟩
  · exact ⟨_, _, .inr rfl, (rfl : _ = execAtomic (.amax w) w .max s0)⟩
  · exact ⟨_, _, .inr rfl, (rfl : _ = execAtomic (.aand w) w .and s0)⟩
  · exact ⟨_, _, .inr rfl, (rfl : _ = execAtomic (.aor w) w .or s0)⟩
  · exact ⟨_, _, .inr rfl, (rfl : _ = execAtomic (.axor w) w .xor s0)⟩
  · exact ⟨_, _, .inr rfl, (rfl : _ = execAtomic (.axch w) w .xch s0)⟩
  · exact ⟨_, _, .inr rfl, (rfl : _ = execAtomic (.acas w) w .cas s0)⟩
  · exact ⟨_, _, .inl rfl, (rfl : _ = execXadd w s0)⟩
  · exact ⟨_, _, .inr rfl, (rfl : _ = execXrd w s0)⟩

end

/-! ## Exit (R290) -/

section
variable {s0 s s1 : State} {c d e : Cohort} {w : CtlWord}

theorem execExitW_drained (hr : Ready s0 (.exitW w) w.guard [] [] c s d) (hact : someActive d w.guard)
    (hdrain : s.matrixDrain (calm d) = (s1, e)) (hsound : e.failed = none) :
    exec (.exitW w) s0 = .next (
      let fs := e.active w.guard
      let accs := s1.exitAccs e fs
      s1.withAccs (.exitW w) e w.guard accs true true 8 fun s2 =>
        s2.withRelease e 5 (readOfLanes e w.guard) fun s3 => s3.withMisses e (s3.lineNeed e 8 accs) fun s4 =>
          (fs.foldl (fun t f => t.exitFibre e accs f) (s4.enterErrors e 8 accs)).removeLanes (.exitW w) e (lanesOf fs)) := by
  change execExitW w s0 = _
  rw [execExitW, atStall_ready _ hr, active_calm, active_isEmpty_of_someActive hact, hdrain]
  simp only [hsound, Bool.false_eq_true, if_false]

theorem execTrap_number (hr : Ready s0 (.trap w) w.guard [] [] c s d) : w.off.toNat % 2 ^ 16 = w.off.toNat := by
  have hwf := hr.wf
  simp only [Instr.wf, Bool.and_eq_true, decide_eq_true_eq] at hwf
  exact Nat.mod_eq_of_lt hwf.2

theorem execTrap_active (hr : Ready s0 (.trap w) w.guard [] [] c s d) (hact : someActive d w.guard) :
    exec (.trap w) s0 = .next (
      if w.off.toNat == 0xFFFF && bitOf (s.trapEnt d.ctx) 63 && inHandler (s.trapEnt d.ctx) d.pc then
        s.trapReturn (calm d) (wordOf (.trap w)) ((lanesOf (d.active w.guard)).headD 0)
      else s.ownTrap (.trap w) (calm d) { code := .software, detail := w.off.toNat } w.guard) := by
  change execTrap w s0 = _
  rw [execTrap, atStall_ready _ hr]
  dsimp only
  rw [active_calm, active_isEmpty_of_someActive hact, execTrap_number hr]
  exact congrArg _ (if_neg Bool.false_ne_true)

end

end Sys2Proof.Machine

namespace Sys2Proof
open Sys2Proof.Machine Sys2Proof.Claims

/-- Settles O23: nothing stops the word past its matrix words, and each fibre leaves as `State.exitFibre` says. -/
theorem exitCompletes : Obligations.ExitCompletes := by
  unfold Obligations.ExitCompletes
  intro s0 s s1 c d e w hr hact hdrain hsound fs accs s2 s3 hclear hpeers hready leave
  have hleave : (fun t f => State.exitFibre t e accs f) = leave := funext fun t => funext fun f => rfl
  refine (execExitW_drained hr hact hdrain hsound).trans ?_
  refine congrArg _ ((withAccs_clear hclear).trans ((withRelease_closed hpeers).trans ((withMisses_ready hready).trans ?_)))
  rw [← hleave]
  rfl

/-- Settles O24: each word past its stall point; with no active lane it is a marker alone. -/
theorem markersComplete : Obligations.MarkersComplete := by
  unfold Obligations.MarkersComplete
  refine ⟨?trap, ?trapReturn, ?brk, ?nop, ?yield, ?exitNone, ?trapNone, ?brkNone, ?syncNone, ?memoryNone⟩
  case trap =>
    intro s0 s c d w hr hact hcase
    rw [execTrap_active hr hact, if_neg (by
      simp only [Bool.and_eq_true, beq_iff_eq]
      rintro ⟨⟨hnum, hent⟩, hin⟩
      simp [hnum, hent, hin] at hcase)]
    rfl
  case trapReturn =>
    intro s0 s c d w hr hact hnum hin hent
    rw [execTrap_active hr hact, hnum, hin, hent]
    rfl
  case brk =>
    intro s0 s c d w hr hact hpeers
    change execBrk w s0 = _
    rw [execBrk, atStall_ready _ hr, active_calm, active_isEmpty_of_someActive hact, hpeers]
    simp only [Bool.false_eq_true, if_false, advance_pc]
    rfl
  case nop =>
    intro s0 s c d w hr
    change execNop w s0 = _
    rw [execNop, atStall_ready _ hr]
  case yield =>
    intro s0 s1 c e w h hr hact
    refine (atStall_resumes hr).trans ?_
    rw [active_isEmpty_of_someActive hact]
    rfl
  case exitNone =>
    intro s0 s c d w hr hnone
    change execExitW w s0 = _
    rw [execExitW, atStall_ready _ hr, active_calm, hnone]
    rfl
  case trapNone =>
    intro s0 s c d w hr hnone
    change execTrap w s0 = _
    rw [execTrap, atStall_ready _ hr]
    dsimp only
    rw [active_calm, hnone]
    rfl
  case brkNone =>
    intro s0 s c d w hr hnone
    change execBrk w s0 = _
    rw [execBrk, atStall_ready _ hr, active_calm, hnone]
    rfl
  case syncNone =>
    intro i s0 s c d w hi hr hnone
    obtain ⟨k, hexec⟩ := exec_atSync hi s0
    rw [hexec, atSync_inactive hr hnone]
  case memoryNone =>
    intro i s0 s c d w regs hi hua hr hnone
    obtain ⟨tag, k, htag, hexec⟩ := exec_atMemory hi s0
    rw [hexec, atMemory_inactive hua hr hnone htag]

end Sys2Proof
end

section
/-! SUPPORT. The vector integer words (R306 to R309; O9): the row of each in the words of the statements. -/

namespace Sys2Proof.Machine

open Sys2Proof Sys2Proof.Claims

/-! ## A row of the statements -/

section
variable {i : Instr} {s : State} {c : Cohort} {r : VecRow}

/-- A word that issues to a register what its row says, where no trap of R266 comes first. -/
theorem issueVector_row {v v' : VectorOp} {pair : Bool} {dst : Nat} {res : Fibre → Nat} {val : Cohort → Fibre → Nat}
    (hc : s.current = some c) (hw : i.wf = true) (ht : c.vectorTrap r.op = none)
    (hrow : some (⟨v, pair, dst, res⟩ : VecRow) = some r) (hop : v' = v) (hval : ∀ f, val c f = res f) :
    issueVector i s v' pair dst val = .next (vectorDone s c i r) := by
  cases hrow
  rw [hop, issueVector_clear _ _ _ _ hc hw ht]
  simp only [hval]
  rfl

end

/-! ## Results on the bits of a type -/

section
variable {ty : Ty}

/-- Narrowing to a type and extending to a register, or to a pair (R253). -/
theorem narrow_tyRegBits (ty : Ty) (x : Int) : narrow ty (tyRegBits ty) x = extReg ty (BitVec.ofInt ty.width x) := by
  unfold narrow extReg tyRegBits
  cases ty.signed with
  | true =>
    simp only [if_true, signedOf_eq_toInt, lowBits_eq_ofInt, BitVec.ofNat_toNat, BitVec.setWidth_eq]
    rfl
  | false => simp only [Bool.false_eq_true, if_false, lowBits_eq_ofInt]

theorem vectorResult_eq (op : IntOp) (ty : Ty) (cc : BitVec 3) (sat : Bool) (a b z : Nat) :
    vectorResult op ty cc sat a b z =
      extReg ty (Claims.fit ty sat (op.eval ty cc.toNat (val ty (lo ty a)) (val ty (lo ty b)) (val ty (lo ty z)))) := by
  rw [vectorResult, narrow_tyRegBits, ofInt_satIf, intOf_eq_val, intOf_eq_val, intOf_eq_val]

theorem movedBits_eq (ty : Ty) (x : Nat) : movedBits ty x = if ty.intBit then extReg ty (lo ty x) else x := by
  rw [movedBits, narrow_tyRegBits, intOf_eq_val, ofInt_val]

/-- IMM of a VI word at the width of an integer or bit type (R258). -/
theorem lo_wideImm (hty : ty.intBit = true) (imm : BitVec 25) : lo ty (wideImm ty imm) = imm.signExtend ty.width := by
  rw [wideImm, if_pos hty, lowBits_eq_ofInt, lo, BitVec.ofNat_toNat, BitVec.setWidth_eq, BitVec.signExtend]

/-- The condition of `vcmp`, on the bits of the type (R256, R309). -/
theorem cmpInt_eq {cc : BitVec 3} (hcc : rmCC cc = true) (a b : Nat) :
    cmpInt ty cc.toNat a b = holds cc (val ty (lo ty a)) (val ty (lo ty b)) := by
  rw [cmpInt, ccInt_eq_holds (of_decide_eq_true hcc), intOf_eq_val, intOf_eq_val]

theorem cmpInt_zero {cc : BitVec 3} (hcc : rmCC cc = true) (a : Nat) : cmpInt ty cc.toNat a 0 = holds cc (val ty (lo ty a)) 0 := by
  rw [cmpInt_eq hcc, val_eq_zero.2 (rfl : lo ty 0 = 0)]

theorem width_dvd (ty : Ty) : ty.width ∣ 2 ^ 32 := by cases ty <;> decide

theorem lo_n32_mod {m : Nat} (hm : m ∣ 2 ^ 32) (x : Nat) : (lo .n32 x).toNat % m = x % m :=
  Nat.mod_mod_of_dvd x hm

/-- `vbfx` (R307). -/
theorem ofInt_bfxBits (ty : Ty) (a b z : Nat) : BitVec.ofInt ty.width (bfxBits ty (intOf ty a) b z) =
    fieldR ty (lo ty a) ((lo .n32 b).toNat % 64) (min ((lo .n32 z).toNat % 128) 64) := by
  have hwide : (lo ty a).toNat >>> (b % 64) = ((lo ty a).setWidth 64 >>> (b % 64)).toNat := by
    rw [BitVec.toNat_ushiftRight, BitVec.toNat_setWidth_of_le (width_le ty)]
  rw [lo_n32_mod (by decide), lo_n32_mod (by decide), bfxBits, intOf_eq_val, lowBits_val, hwide, extend_eq_lowExt]
  rfl

/-- `vbfi` (R307): the field's mask keeps the bits of *a* inside the type. -/
theorem bfiBits_eq (n a p z k : Nat) : bfiBits n a p z k =
    (BitVec.ofNat n z &&& ~~~(BitVec.ofNat n (2 ^ k - 1) <<< p) |||
      (BitVec.ofNat n a <<< p) &&& (BitVec.ofNat n (2 ^ k - 1) <<< p)).toNat := by
  have hmask : ((2 ^ k - 1) <<< p) % 2 ^ n = (BitVec.ofNat n (2 ^ k - 1) <<< p).toNat := by
    rw [BitVec.toNat_shiftLeft, BitVec.toNat_ofNat, Nat.shiftLeft_eq, Nat.shiftLeft_eq, Nat.mod_mul_mod]
  rw [bfiBits, hmask]
  generalize BitVec.ofNat n (2 ^ k - 1) <<< p = m
  refine Nat.eq_of_testBit_eq fun j => ?_
  simp only [andNot, Nat.testBit_or, Nat.testBit_and, Nat.testBit_xor, Nat.testBit_shiftLeft, BitVec.testBit_toNat,
    BitVec.getLsbD_or, BitVec.getLsbD_and, BitVec.getLsbD_not, BitVec.getLsbD_shiftLeft, BitVec.getLsbD_ofNat,
    Nat.testBit_two_pow_sub_one]
  by_cases hj : j < n
  · have hjp : j - p < n := by omega
    obtain hp | hp := Nat.lt_or_ge j p
    · simp [hj, hp, Nat.not_le.2 hp]
    · simp [hj, hjp, hp, Nat.not_lt.2 hp]
  · simp [hj, BitVec.getLsbD_of_ge m j (Nat.not_lt.1 hj)]

theorem extend_eq_ofNat (signed : Bool) (k x : Nat) :
    extend signed k x = if signed then (BitVec.ofNat k x).toInt else ((BitVec.ofNat k x).toNat : Int) := by
  rw [extend, signedOf_eq_toInt, BitVec.toNat_ofNat]

/-- The four byte products of `vdot4` and its accumulator (R308). -/
theorem dot4_eq (signedA signedB : Bool) (a b : Nat) (z : Int) : dot4 signedA signedB a b z = dotR signedA signedB a b z := by
  simp only [dot4, dotR, extend_eq_ofNat, Nat.shiftRight_eq_div_pow]
  rfl

/-- A result narrowed to a register of its own type's width. -/
theorem narrow_width {n : Nat} (hn : ty.width = n) (x : Int) : narrow ty n x = (BitVec.ofInt ty.width x).toNat := by
  subst hn
  unfold narrow
  rw [signedOf_eq_toInt, lowBits_eq_ofInt, lowBits_eq_ofInt, BitVec.ofNat_toNat, BitVec.setWidth_eq, BitVec.ofInt_toInt, ite_self]

/-- What `vdot4` leaves in its register, at the type of its accumulator (R308). -/
theorem narrow_dot4 (ty : Ty) (sat mix : Bool) (a b z : Nat) :
    narrow (if ty == .i8 then .i32 else .n32) 32 (satIf sat (if ty == .i8 then .i32 else .n32)
        (dot4 (ty == .i8) (ty == .i8 && !mix) a b (intOf (if ty == .i8 then .i32 else .n32) z))) =
      (Claims.fit (if ty = .i8 then .i32 else .n32) sat (dotR (ty = .i8) (ty = .i8 && !mix) a b
        (val (if ty = .i8 then .i32 else .n32) (lo (if ty = .i8 then .i32 else .n32) z)))).toNat := by
  have hwidth : (if ty = .i8 then .i32 else .n32 : Ty).width = 32 := by split <;> rfl
  have hbeq : (ty == .i8) = decide (ty = .i8) := rfl
  simp only [hbeq, decide_eq_true_eq]
  rw [narrow_width hwidth, ofInt_satIf, dot4_eq, intOf_eq_val]

end

/-! ## What R265 says of the fields -/

theorem vr_mod_of_wf {w : VrWord} {sh : VrShape} (hwf : w.wf sh = true) (hsh : sh.mod = fun _ m => m == 0#5) : w.mod = 0#5 := by
  simp only [VrWord.wf, hsh, Bool.and_eq_true, beq_iff_eq] at hwf
  obtain ⟨⟨-, hmod⟩, -⟩ := hwf
  exact hmod

theorem vr_rm_of_wf {w : VrWord} {sh : VrShape} (hwf : w.wf sh = true) : sh.rm w.rm = true := by
  simp only [VrWord.wf, Bool.and_eq_true] at hwf
  obtain ⟨⟨⟨-, hrm⟩, -⟩, -⟩ := hwf
  exact hrm

theorem vr_type_of_wf {w : VrWord} {sh : VrShape} (hwf : w.wf sh = true) : sh.types w.ty = true := by
  simp only [VrWord.wf, Bool.and_eq_true] at hwf
  obtain ⟨⟨⟨⟨⟨⟨⟨-, hty⟩, -⟩, -⟩, -⟩, -⟩, -⟩, -⟩ := hwf
  exact hty

theorem vi_rm_of_wf {w : ViWord} {types : Ty → Bool} {useA pred : Bool} {rm : BitVec 3 → Bool}
    (hwf : w.wf types useA pred rm = true) : rm w.rm = true := by
  simp only [ViWord.wf, Bool.and_eq_true] at hwf
  obtain ⟨⟨⟨-, hrm⟩, -⟩, -⟩ := hwf
  exact hrm

theorem vi_type_of_wf {w : ViWord} {types : Ty → Bool} {useA pred : Bool} {rm : BitVec 3 → Bool}
    (hwf : w.wf types useA pred rm = true) : types w.ty = true := by
  simp only [ViWord.wf, Bool.and_eq_true] at hwf
  obtain ⟨⟨⟨⟨⟨-, hty⟩, -⟩, -⟩, -⟩, -⟩ := hwf
  exact hty

theorem intBit_of_int {ty : Ty} (hty : ty.int = true) : ty.intBit = true := by
  unfold Ty.intBit
  split
  · rfl
  · rfl
  · exact hty

/-! ## The rows -/

section
variable {i : Instr} {s : State} {c : Cohort} {r : VecRow} {op : IntOp}

/-- What a VR word of R306 computes in a lane before its result is extended. -/
def vrFit (w : VrWord) (op : IntOp) (c : Cohort) (sat : Bool) (f : Fibre) : BitVec w.ty.width :=
  Claims.fit w.ty sat (op.eval w.ty w.rm.toNat (val w.ty (src c w.ty w.a f)) (val w.ty (src c w.ty w.b f))
    (val w.ty (src c w.ty w.c f)))

/-- What a VI word of R306 computes in a lane before its result is extended. -/
def viFit (w : ViWord) (op : IntOp) (c : Cohort) (f : Fibre) : BitVec w.ty.width :=
  Claims.fit w.ty false (op.eval w.ty w.rm.toNat (val w.ty (src c w.ty w.a f)) (val w.ty (w.imm.signExtend _)) 0)

section
variable (hc : s.current = some c) (hw : i.wf = true) (ht : c.vectorTrap r.op = none)
include hc hw ht

/-- A VR word that admits `.sat`. -/
theorem execVr_sat {w : VrWord} {n : Nat} {res : Fibre → BitVec w.ty.width} (hrow : vr w n res = some r)
    (h : ∀ f, vrFit w op c (w.mod.getLsbD 0) f = res f) : execVr i w n op s = .next (vectorDone s c i r) :=
  issueVector_row hc hw ht hrow rfl fun f => (vectorResult_eq ..).trans (congrArg _ (h f))

/-- A VR word that does not. -/
theorem execVr_plain {w : VrWord} {sh : VrShape} {n : Nat} {res : Fibre → BitVec w.ty.width} (hwf : w.wf sh = true)
    (hsh : sh.mod = fun _ m => m == 0#5) (hrow : vr w n res = some r) (h : ∀ f, vrFit w op c false f = res f) :
    execVr i w n op s = .next (vectorDone s c i r) :=
  execVr_sat hc hw ht hrow (by rw [vr_mod_of_wf hwf hsh]; exact h)

theorem execVi_fit {w : ViWord} {types : Ty → Bool} {res : Fibre → BitVec w.ty.width}
    (hwf : w.wf types true false (· == 0#3) = true) (hint : ∀ t, types t = true → t.intBit = true) (hrow : vi w res = some r)
    (h : ∀ f, viFit w op c f = res f) : execVi i w op s = .next (vectorDone s c i r) := by
  have hty : w.ty.intBit = true := hint _ (vi_type_of_wf hwf)
  refine issueVector_row hc hw ht hrow rfl fun f => (vectorResult_eq ..).trans (congrArg _ ?_)
  rw [lo_wideImm hty, val_eq_zero.2 (rfl : lo w.ty 0 = 0)]
  exact h f

end

theorem exec_integerRow (hc : s.current = some c) (hw : i.wf = true) (hrow : integerRow c i = some r)
    (ht : c.vectorTrap r.op = none) : exec i s = .next (vectorDone s c i r) := by
  unfold integerRow at hrow
  split at hrow
  rotate_right
  · nomatch hrow
  · exact execVr_sat hc hw ht hrow fun _ => rfl -- `vadd`
  · exact execVr_sat hc hw ht hrow fun _ => rfl -- `vsub`
  · exact execVr_sat hc hw ht hrow fun _ => rfl -- `vmul`
  · exact execVr_plain hc hw ht hw rfl hrow fun _ => fit_eval_mulh ..
  · exact execVr_sat hc hw ht hrow fun _ => rfl -- `vmad`
  · exact execVr_plain hc hw ht hw rfl hrow fun _ => fit_eval_min ..
  · exact execVr_plain hc hw ht hw rfl hrow fun _ => fit_eval_max ..
  · exact execVr_sat hc hw ht hrow fun _ => rfl -- `vabs`
  · exact execVr_plain hc hw ht hw rfl hrow fun _ => fit_eval_and ..
  · exact execVr_plain hc hw ht hw rfl hrow fun _ => fit_eval_or ..
  · exact execVr_plain hc hw ht hw rfl hrow fun _ => fit_eval_xor ..
  · exact execVr_plain hc hw ht hw rfl hrow fun _ => fit_eval_andn ..
  · exact execVr_plain hc hw ht hw rfl hrow fun _ => fit_eval_shl ..
  · exact execVr_plain hc hw ht hw rfl hrow fun _ => fit_eval_shr ..
  · exact execVr_plain hc hw ht hw rfl hrow fun _ => fit_eval_rot ..
  · exact execVr_plain hc hw ht hw rfl hrow fun _ => fit_eval_ext ..
  · exact execVr_plain hc hw ht hw rfl hrow fun _ => fit_eval_pop ..
  · exact execVr_plain hc hw ht hw rfl hrow fun _ => fit_eval_clz ..
  · exact issueVector_row hc hw ht hrow rfl fun _ => (narrow_tyRegBits ..).trans (congrArg _ (ofInt_bfxBits ..)) -- `vbfx`
  case h_20 w => -- `vbfi`
    refine issueVector_row hc hw ht hrow rfl fun f => ?_
    rw [bfiBits_eq, ← lo_n32_mod (width_dvd w.ty)]
  · exact issueVector_row hc hw ht hrow (by simp [vrOp]) fun _ => narrow_dot4 .. -- `vdot4`
  · exact execVi_fit hc hw ht hw (fun _ => intBit_of_int) hrow fun _ => rfl -- `vadd`
  · exact execVi_fit hc hw ht hw (fun _ => intBit_of_int) hrow fun _ => rfl -- `vmul`
  · exact execVi_fit hc hw ht hw (fun _ => id) hrow fun _ => fit_eval_and ..
  · exact execVi_fit hc hw ht hw (fun _ => id) hrow fun _ => fit_eval_or ..
  · exact execVi_fit hc hw ht hw (fun _ => id) hrow fun _ => fit_eval_xor ..
  case h_27 w => -- `vsel`
    have hty : w.ty.intBit = true := vr_type_of_wf hw
    have hcc : rmCC w.rm = true := vr_rm_of_wf hw
    refine issueVector_row hc hw ht hrow rfl fun f => ?_
    rw [movedBits_eq, if_pos hty, cmpInt_zero hcc]
    dsimp only
    split <;> rfl
  case h_28 w => -- `vsel` with IMM
    have hty : w.ty.intBit = true := vi_type_of_wf hw
    have hcc : rmCC w.rm = true := vi_rm_of_wf hw
    refine issueVector_row hc hw ht hrow rfl fun f => ?_
    dsimp only
    rw [movedBits_eq, if_pos hty, cmpInt_zero hcc, ← lo_wideImm hty]
    split <;> rfl
  · exact issueVector_row hc hw ht hrow rfl fun _ => movedBits_eq .. -- `vmov`
  case h_30 w => -- `vmov` with IMM
    refine issueVector_row hc hw ht hrow rfl fun _ => (movedBits_eq ..).trans ?_
    split
    · next hty => rw [lo_wideImm hty]
    · rfl

end

end Sys2Proof.Machine

namespace Sys2Proof

open Sys2Proof.Machine

/-- Settles O9, row by row: the result on integers is the row's on the bits of the type. -/
theorem vectorIntegerResults : Obligations.VectorIntegerResults := by
  unfold Obligations.VectorIntegerResults
  exact fun _ _ _ _ => exec_integerRow

end Sys2Proof
end

section
/-! SUPPORT. The floating-point and the transcendental words (R310 to R315; O10, O11): the row of each in the words of
the statements. -/

namespace Sys2Proof.Machine

open Sys2Proof Sys2Proof.Claims

theorem byParts_eq_coded (ty : Ty) (g : Nat → Nat) : byParts ty g = coded ty g := rfl

theorem byParts_roundTo (ty : Ty) (rm : Nat) (sat : Bool) (u : Nat → Nat) (g : Nat → RealVal) :
    (byParts ty fun h => roundTo ty (g h) rm sat (u h)) = rounded ty rm sat u g := rfl

theorem floatLatency_eq (ty : Ty) : floatLatency ty = if ty = .f64 then 8 else 4 := by simp [floatLatency]

section
variable {i : Instr} {s : State} {c : Cohort} {r : VecRow}
variable (hc : s.current = some c) (hw : i.wf = true) (ht : c.vectorTrap r.op = none)
include hc hw ht

/-- A VR word of R310 that rounds. -/
theorem execFr_row {w : VrWord} {n : Nat} {op : FloatOp} {res : Fibre → Nat} (hrow : fr w n res = some r)
    (hres : ∀ f, floatResult op w.ty w.rm (w.mod.getLsbD 0) (s.drawn c w.rm f.lane) (c.vsrc f w.ty w.a) (c.vsrc f w.ty w.b)
      (c.vsrc f w.ty w.c) = res f) : execFr i w n op s = .next (vectorDone s c i r) :=
  issueVector_row hc hw ht hrow (by rw [floatLatency_eq]) hres

/-- A VI word of R310 that rounds. -/
theorem execFi_row {w : ViWord} {op : FloatOp} {res : Fibre → Nat} (hrow : fi w res = some r)
    (hres : ∀ f, floatResult op w.ty w.rm false (s.drawn c w.rm f.lane) (c.vsrc f w.ty w.a) (wideImm w.ty w.imm) 0 = res f) :
    execFi i w op s = .next (vectorDone s c i r) :=
  issueVector_row hc hw ht hrow (by rw [floatLatency_eq]) hres

/-- A word over codes draws nothing, since its RM is zero. -/
theorem execFbits_row {w : VrWord} {sh : VrShape} {n : Nat} {g : Nat → Nat → Nat} (hwf : w.wf sh = true) (hsh : sh.rm = (· == 0#3))
    (hrow : fr w n (fun f => coded w.ty fun h => g (partOf w.ty (c.vsrc f w.ty w.a) h) (partOf w.ty (c.vsrc f w.ty w.b) h)) = some r) :
    execFbits i w n g s = .next (vectorDone s c i r) := by
  have hrm : w.rm = 0#3 := by simpa [hsh] using vr_rm_of_wf hwf
  exact issueVector_row hc hw ht hrow (by rw [floatLatency_eq, hrm]; rfl) fun _ => byParts_eq_coded ..

/-- `fmin` and `fmax` with IMM draw nothing either. -/
theorem issueVector_minmaxImm {w : ViWord} {types : Ty → Bool} {isMax : Bool} (hwf : w.wf types true false (· == 0#3) = true)
    (hrow : fi w (fun f => coded w.ty fun h =>
      fminmax w.ty isMax (partOf w.ty (c.vsrc f w.ty w.a) h) (partOf w.ty (wideImm w.ty w.imm) h)) = some r) :
    issueVector i s (viOp w (srcRun w.ty w.a) w.ty.pair (floatLatency w.ty)) w.ty.pair w.dst.toNat
      (fun c f => minmaxResult w.ty isMax (c.vsrc f w.ty w.a) (wideImm w.ty w.imm)) = .next (vectorDone s c i r) := by
  have hrm : w.rm = 0#3 := beq_iff_eq.1 (vi_rm_of_wf hwf)
  exact issueVector_row hc hw ht hrow (by rw [floatLatency_eq, hrm]; rfl) fun _ => byParts_eq_coded ..

/-- A transcendental word, whose type is not `.f64`, so that its result is no pair. -/
theorem execTrans_row {w : VrWord} {g : RealVal → RealVal} (hwf : w.wf fTrans = true) (hrow : tr c w g = some r) :
    execTrans i w g s = .next (vectorDone s c i r) := by
  have hty : fTrans.types w.ty = true := vr_type_of_wf hwf
  have hpair : w.ty.pair = false := by
    generalize w.ty = ty at hty
    revert hty
    cases ty <;> decide
  exact issueVector_row hc hw ht hrow (by rw [hpair]) fun _ => byParts_roundTo ..

end

variable {i : Instr} {s : State} {c : Cohort} {r : VecRow}

theorem exec_floatRow (hc : s.current = some c) (hw : i.wf = true) (hrow : floatRow s c i = some r)
    (ht : c.vectorTrap r.op = none) : exec i s = .next (vectorDone s c i r) := by
  unfold floatRow at hrow
  split at hrow
  rotate_right
  · nomatch hrow
  · exact execFr_row hc hw ht hrow fun _ => byParts_roundTo .. -- `fadd`
  · exact execFr_row hc hw ht hrow fun _ => byParts_roundTo .. -- `fsub`
  · exact execFr_row hc hw ht hrow fun _ => byParts_roundTo .. -- `fmul`
  · exact execFr_row hc hw ht hrow fun _ => byParts_roundTo .. -- `ffma`
  · exact execFi_row hc hw ht hrow fun _ => byParts_roundTo .. -- `fadd` with IMM
  · exact execFi_row hc hw ht hrow fun _ => byParts_roundTo .. -- `fmul` with IMM
  · exact execFbits_row hc hw ht hw rfl hrow -- `fmin`
  · exact execFbits_row hc hw ht hw rfl hrow -- `fmax`
  · exact issueVector_minmaxImm hc hw ht hw hrow -- `fmin` with IMM
  · exact issueVector_minmaxImm hc hw ht hw hrow -- `fmax` with IMM
  case h_11 w => exact execFbits_row (g := fun a _ => a % signBit w.ty) hc hw ht hw rfl hrow -- `fabs`
  case h_12 w => exact execFbits_row (g := fun a _ => a ^^^ signBit w.ty) hc hw ht hw rfl hrow -- `fneg`
  case h_13 w => -- `fcsgn`
    exact execFbits_row (g := fun a b => a % signBit w.ty + (b &&& signBit w.ty)) hc hw ht hw rfl hrow
  · exact issueVector_row hc hw ht hrow (by rw [floatLatency_eq]) fun _ => byParts_eq_coded .. -- `fclass`

theorem exec_transcRow (hc : s.current = some c) (hw : i.wf = true) (hrow : transcRow c i = some r)
    (ht : c.vectorTrap r.op = none) : exec i s = .next (vectorDone s c i r) := by
  unfold transcRow at hrow
  split at hrow
  rotate_right
  · nomatch hrow
  all_goals exact execTrans_row hc hw ht hw hrow

end Sys2Proof.Machine

namespace Sys2Proof

open Sys2Proof.Machine

/-- Settles O10, row by row: a word's result is formed part by part as its row says, and only a word that rounds can draw. -/
theorem floatResults : Obligations.FloatResults := by
  unfold Obligations.FloatResults
  exact fun _ _ _ _ => exec_floatRow

/-- Settles O11: the nine words are one operation with a function each. -/
theorem transcendentalResults : Obligations.TranscendentalResults := by
  unfold Obligations.TranscendentalResults
  exact fun _ _ _ _ => exec_transcRow

end Sys2Proof
end

section
/-! SUPPORT. The conversion words (R316 to R322; O12): the row of each in the words of the statements. -/

namespace Sys2Proof.Machine

open Sys2Proof Sys2Proof.Claims

/-- A value converted: an integer narrowed on the bits of its type, a float rounded once (R317, R322). -/
theorem convert_eq (dty sty : Ty) (x rm : Nat) (sat : Bool) (u : Nat) : convert dty sty x rm sat u = converted dty sty x rm sat u := by
  unfold convert converted
  split
  · rw [narrow_tyRegBits]
    split
    · rw [ofInt_satIf, intOf_eq_val]
    · rfl
  · rfl

/-- The elements that `bpack` packs, and what it makes of them (R319). -/
theorem packResult_eq (dty : Ty) (rm : Nat) (sat : Bool) (u : Nat → Nat) (g : Nat → RealVal) :
    packResult dty rm sat u ((List.range (packCount dty)).map g) =
      let xs := (List.range (if dty = .e4m3 ∨ dty = .e5m2 then 4 else 8)).map g
      if dty = .bs4 then
        let b := encodeBlock xs rm ((List.range 8).map u)
        packCodes 4 b.2 + 2 ^ 32 * b.1
      else packCodes dty.width (xs.zipIdx.map fun (x, j) => roundTo dty x rm (sat && dty == .e5m2) (u j)) := by
  simp only [packResult, packCount, Bool.or_eq_true, beq_iff_eq]

variable {i : Instr} {s : State} {c : Cohort} {r : VecRow}

theorem exec_conversionRow (hc : s.current = some c) (hw : i.wf = true) (hrow : conversionRow s c i = some r)
    (ht : c.vectorTrap r.op = none) : exec i s = .next (vectorDone s c i r) := by
  unfold conversionRow at hrow
  split at hrow
  rotate_right
  · nomatch hrow
  case h_1 w => exact issueVector_row hc hw ht hrow rfl fun _ => convert_eq .. -- `cvt`
  case h_2 w => -- `cvtp`
    refine issueVector_row hc hw ht hrow ?_ fun f => ?_
    · by_cases hty : srcTy w = .f32 <;> simp [hty]
    · refine (congrArg (byParts w.ty) (funext fun h => ?_)).trans (byParts_roundTo ..)
      by_cases hty : srcTy w = .f32
      · by_cases hh : h = 0 <;> simp [hty, hh]
      · simp [hty, part]
  case h_3 w => exact issueVector_row hc hw ht hrow rfl fun _ => convert_eq .. -- `cvtx`
  case h_4 w => -- `bscl`
    refine issueVector_row hc hw ht hrow rfl fun f => ?_
    simp only [intOf_eq_val]
    rfl
  case h_5 w => -- `bunpk`
    exact issueVector_row hc hw ht hrow (by simp only [beq_iff_eq]) fun _ => rfl
  case h_6 w => exact issueVector_row hc hw ht hrow rfl fun _ => packResult_eq .. -- `bpack`

end Sys2Proof.Machine

namespace Sys2Proof

open Sys2Proof.Machine

/-- Settles O12, row by row: an integer is narrowed on the bits of its type, and every other value is rounded once. -/
theorem conversionResults : Obligations.ConversionResults := by
  unfold Obligations.ConversionResults
  exact fun _ _ _ _ => exec_conversionRow

end Sys2Proof
end

section
/-! SUPPORT. The cross-lane words, the compares and the votes (R309, R313, R323 to R328; O13): the row of each in the
words of the statements. -/

namespace Sys2Proof.Machine

open Sys2Proof Sys2Proof.Claims

section
variable {i : Instr} {s : State} {c : Cohort} {r : VecRow} {v : VectorOp} {dst : Nat} {h : Fibre → Bool}

/-- A word that issues a predicate as its row says, where no trap of R266 comes first. -/
theorem issuePred_row {v' : VectorOp} {dst' : Nat} {h' : Fibre → Bool} {val : Cohort → Fibre → Bool} (hc : s.current = some c)
    (hw : i.wf = true) (ht : c.vectorTrap v = none) (hrow : some (v', dst', h') = some (v, dst, h))
    (hval : ∀ f, val c f = h' f) : issuePred i s v' dst' val = .next (predicateDone s c i v dst h) := by
  cases hrow
  rw [issuePred_clear _ _ _ hc hw ht]
  simp only [hval]
  rfl

/-! ## Cross-lane words -/

/-- The values that a scan combines for a lane: those of the active lanes up to it, or before it alone (R327). -/
theorem scanned_activeValues (c : Cohort) (g : Guard) (ty : Ty) (x : Src) (excl : Bool) (l : Nat) :
    ((c.activeValues g ty x).filter fun p => if excl then p.1 < l else p.1 ≤ l).map Prod.snd =
      ((c.active g).filter fun e => e.lane < l || (e.lane == l && !excl)).map fun e => c.vsrc e ty x := by
  have hlane (e : Fibre) :
      (if excl then decide (e.lane < l) else decide (e.lane ≤ l)) = (e.lane < l || (e.lane == l && !excl)) := by
    rw [Bool.eq_iff_iff]
    cases excl <;> simp [Nat.le_iff_lt_or_eq]
  rw [Cohort.activeValues, List.filter_map, List.map_map]
  simp only [Function.comp_def, hlane]

theorem exec_crossRow (hc : s.current = some c) (hw : i.wf = true) (hrow : crossRow c i = some r)
    (ht : c.vectorTrap r.op = none) : exec i s = .next (vectorDone s c i r) := by
  unfold crossRow at hrow
  split at hrow
  rotate_right
  · nomatch hrow
  case h_1 w => -- `shfl`
    refine issueVector_row hc hw ht hrow rfl fun f => ?_
    rw [lo_n32_mod (by decide)]
    rfl
  case h_2 w => -- `vote`, the ballot
    obtain ⟨hmod, hop⟩ := Option.ite_none_right_eq_some.1 hrow
    exact (if_pos (beq_iff_eq.2 hmod)).trans (issueVector_row hc hw ht hop rfl fun _ => rfl)
  case h_3 w => exact issueVector_row hc hw ht hrow rfl fun _ => rfl -- `vred`
  case h_4 w => -- `vscan`
    refine issueVector_row hc hw ht hrow rfl fun f => ?_
    exact congrArg _ (scanned_activeValues ..)
  case h_5 w => exact issueVector_row hc hw ht hrow rfl fun _ => rfl -- `vbcast`

/-! ## Words that write a predicate -/

/-- All values are equal where each is equal to the first (R325). -/
theorem all_beq_headD (xs : List Nat) : xs.all (· == xs.headD 0) = decide (∀ x ∈ xs, ∀ y ∈ xs, x = y) := by
  rw [Bool.eq_iff_iff, List.all_eq_true, decide_eq_true_eq]
  cases xs with
  | nil => simp
  | cons a xs =>
    constructor
    · intro hall x hx y hy
      exact (beq_iff_eq.1 (hall x hx)).trans (beq_iff_eq.1 (hall y hy)).symm
    · exact fun heq x hx => beq_iff_eq.2 (heq x hx a List.mem_cons_self)

/-- The three modes of a vote (R325). -/
theorem votePred_eq (mode : Nat) (xs : List Nat) : votePred mode xs = match mode with
    | 0 => decide (∀ x ∈ xs, x ≠ 0)
    | 1 => decide (∃ x ∈ xs, x ≠ 0)
    | _ => decide (∀ x ∈ xs, ∀ y ∈ xs, x = y) := by
  match mode with
  | 0 => simp [votePred, List.all_eq]
  | 1 => simp [votePred, List.any_eq]
  | _ + 2 => exact all_beq_headD xs

theorem exec_predicateRow (hc : s.current = some c) (hw : i.wf = true) (hrow : predicateRow c i = some (v, dst, h))
    (ht : c.vectorTrap v = none) : exec i s = .next (predicateDone s c i v dst h) := by
  unfold predicateRow at hrow
  split at hrow
  rotate_right
  · nomatch hrow
  case h_1 w => -- `vcmp`
    have hcc : rmCC w.rm = true := vr_rm_of_wf hw
    exact issuePred_row hc hw ht hrow fun _ => cmpInt_eq hcc ..
  case h_2 w => -- `vcmp` with IMM
    have hty : w.ty.intBit = true := vi_type_of_wf hw
    have hcc : rmCC w.rm = true := vi_rm_of_wf hw
    refine issuePred_row hc hw ht hrow fun f => ?_
    rw [cmpInt_eq hcc, lo_wideImm hty]
  case h_3 w => -- `fcmp`
    rw [← floatLatency_eq] at hrow
    exact issuePred_row hc hw ht hrow fun _ => rfl
  case h_4 w => -- `vote`
    obtain ⟨hmod, hop⟩ := Option.ite_none_left_eq_some.1 hrow
    refine (if_neg (mt beq_iff_eq.1 hmod)).trans (issuePred_row hc hw ht hop fun _ => ?_)
    rw [Cohort.activeValues, List.map_map]
    exact votePred_eq ..

end

end Sys2Proof.Machine

namespace Sys2Proof

open Sys2Proof.Machine

/-- Settles O13, row by row: what a lane combines and what a vote asks are those of the active lanes. -/
theorem crossLaneAndPredicateResults : Obligations.CrossLaneAndPredicateResults := by
  unfold Obligations.CrossLaneAndPredicateResults
  exact ⟨fun _ _ _ _ => exec_crossRow, fun _ _ _ _ _ _ => exec_predicateRow⟩

end Sys2Proof
end

section
/-! SUPPORT. The frame of the arithmetic words of both sides (R230, R277, R301; O15): what the results in flight can
change of a cohort as they land, and that a word changes nothing else but the place of its cohort. -/

namespace Sys2Proof.Machine

open Sys2Proof Sys2Proof.Claims

/-! ## What a result that lands can change -/

/-- A fibre without what a result of the vector side can write: its registers and predicates. -/
def Fibre.unwritten (f : Fibre) : Fibre := { f with regs := [], preds := 0 }

/-- A cohort without what results of the vector side change as they land. -/
def Cohort.besideV (c : Cohort) : Cohort :=
  { c with fibres := c.fibres.map Fibre.unwritten, bad := [], flightV := [], latches := [] }

/-- A cohort without what results of the uniform side change as they land. -/
def Cohort.besideU (c : Cohort) : Cohort := { c with sregs := [], bad := [], flightU := [] }

theorem mapLane_unwritten (c : Cohort) (lane : Nat) {g : Fibre → Fibre} (hg : ∀ f, (g f).unwritten = f.unwritten) :
    (c.mapLane lane g).fibres.map Fibre.unwritten = c.fibres.map Fibre.unwritten := by
  rw [Cohort.mapLane, List.map_map]
  refine List.map_congr_left fun f _ => ?_
  rw [Function.comp_apply]
  split
  · exact hg f
  · rfl

theorem setPred_unwritten (f : Fibre) (n : Nat) (b : Bool) : (f.setPred n b).unwritten = f.unwritten := by
  unfold Fibre.setPred
  split <;> rfl

theorem write_besideV (c : Cohort) (w : RegWrite) : (c.write w).besideV = c.besideV := by
  cases w with
  | vec lane reg x =>
    exact congrArg (fun fs => { c.besideV with fibres := fs })
      (mapLane_unwritten c lane (g := fun f => f.setReg reg x) fun _ => rfl)
  | pred lane reg b =>
    exact congrArg (fun fs => { c.besideV with fibres := fs }) (mapLane_unwritten c lane fun f => setPred_unwritten f reg b)

theorem writeBack_besideV (c : Cohort) (r : InFlightV) : (c.writeBack r).besideV = c.besideV := by
  have hwrites : (r.writes.foldl Cohort.write c).besideV = c.besideV :=
    List.foldlRecOn (motive := fun d : Cohort => d.besideV = c.besideV) _ _ rfl fun d hd w _ => (write_besideV d w).trans hd
  unfold Cohort.writeBack
  cases r.latch with
  | none => exact hwrites
  | some l => exact hwrites

theorem tickV_besideV (c : Cohort) : c.tickV.besideV = c.besideV :=
  List.foldlRecOn (motive := fun d : Cohort => d.besideV = c.besideV) _ _ rfl fun d hd r _ => (writeBack_besideV d r).trans hd

theorem tickU_besideU (c : Cohort) : c.tickU.besideU = c.besideU :=
  List.foldlRecOn (motive := fun d : Cohort => d.besideU = c.besideU) _ _ rfl fun _ hd _ _ => hd

theorem tickV_conv (c : Cohort) : c.tickV.conv = c.conv := (congrArg Cohort.conv (tickV_besideV c) :)

theorem tickV_sregs (c : Cohort) : c.tickV.sregs = c.sregs := (congrArg Cohort.sregs (tickV_besideV c) :)

theorem tickV_flightU (c : Cohort) : c.tickV.flightU = c.flightU := (congrArg Cohort.flightU (tickV_besideV c) :)

theorem tickU_conv (c : Cohort) : c.tickU.conv = c.conv := (congrArg Cohort.conv (tickU_besideU c) :)

theorem tickU_sregs {c : Cohort} (h : c.flightU = []) : c.tickU.sregs = c.sregs := by simp [tickU_eq, h]

theorem tickV_tickU_sregs {c : Cohort} (h : c.flightU = []) : c.tickV.tickU.sregs = c.sregs :=
  (tickU_sregs ((tickV_flightU c).trans h)).trans (tickV_sregs c)

/-! ## What a word leaves -/

/-- A cohort without its registers, and without what only the issue of a word and the landing of results change. -/
def Cohort.beside (c : Cohort) : Cohort := { c.besideU.besideV with conv := 0, liveRun := 0 }

theorem tickV_beside (c : Cohort) : c.tickV.beside = c.beside :=
  congrArg (fun d : Cohort => { d.besideU with conv := 0, liveRun := 0 }) (tickV_besideV c)

theorem tickU_beside (c : Cohort) : c.tickU.beside = c.beside :=
  congrArg (fun d : Cohort => { d.besideV with conv := 0, liveRun := 0 }) (tickU_besideU c)

/-- Cohorts that agree beside those agree in whatever does not read them. -/
theorem eq_of_beside {α : Type} {c d : Cohort} (g : Cohort → α) (hg : ∀ e : Cohort, g e.beside = g e) (h : d.beside = c.beside) :
    g d = g c := (hg d).symm.trans ((congrArg g h).trans (hg c))

theorem beside_fibres_map {α : Type} (g : Fibre → α) (hg : ∀ f, g f.unwritten = g f) (c : Cohort) :
    c.beside.fibres.map g = c.fibres.map g := (List.map_map ..).trans (List.map_congr_left fun f _ => hg f)

section
variable (c : Cohort) (dst : Nat) (x : Word64)

theorem uniformWrite_beside : (uniformWrite c dst x).beside = c.beside := tickU_beside _

theorem uniformWrite_conv : (uniformWrite c dst x).conv = c.conv := tickU_conv _

theorem uniformWrite_fibres : (uniformWrite c dst x).fibres = c.fibres := tickU_fibres _

theorem uniformWrite_sregs {c : Cohort} (h : c.flightU = []) : (uniformWrite c dst x).sregs = c.sregs := by
  rw [uniformWrite, tickU_append_waits c (Nat.le_refl 2)]
  exact tickU_sregs h

end

section
variable (c : Cohort) (v : VectorOp) (ws : List RegWrite) (l : Option Latch)

theorem issueVec_beside : (c.issueVec v ws l).beside = c.beside := (tickU_beside _).trans (tickV_beside _)

theorem issueVec_conv : (c.issueVec v ws l).conv = if v.draws then c.conv + 1 else c.conv :=
  (tickU_conv _).trans (tickV_conv _)

theorem issueVec_sregs {c : Cohort} (h : c.flightU = []) : (c.issueVec v ws l).sregs = c.sregs := by
  rw [Cohort.issueVec, tickV_tickU_sregs (by exact h)]
  rfl

theorem issueVec_fibres {c : Cohort} {v : VectorOp} (h : c.flightV = []) (hl : 2 ≤ v.latency) :
    (c.issueVec v ws l).fibres = c.fibres := by
  rw [Cohort.issueVec, tickU_fibres, tickV_waits (r := ⟨v.latency, if v.wbs then [] else ws, l⟩) (by simp [Cohort.killed, h]) hl]
  rfl

end

theorem putCohort_eq (s : State) (d : Cohort) :
    s.putCohort d = { s with cohorts := s.cohorts.map fun e => if e.uid = d.uid then d else e } := by
  simp only [State.putCohort, beq_iff_eq]

/-- A word performed in place leaves its cohort, at the next word, among the others. -/
theorem finish_putCohort (s : State) (c : Cohort) (w : Word64) : ∃ block atHeader stepDue, s.finish c w =
    s.putCohort { c with pc := c.pc + 8, block, atHeader, skip := false, stepping := false, stepDue } := by
  unfold State.finish State.performed Cohort.advance
  dsimp only
  split <;> exact ⟨_, _, _, rfl⟩

/-! ## The words -/

section
variable {i : Instr} {s : State} {c : Cohort} {v : VectorOp}

/-- A word of the vector side that no trap of R266 stops issues its writes, whatever row names it. -/
theorem exec_issues (hc : s.current = some c) (hw : i.wf = true) (hn : vectorNames s c i v) (ht : c.vectorTrap v = none) :
    ∃ ws l, exec i s = .next (s.finish (c.issueVec v ws l) (wordOf i)) := by
  obtain ⟨r, rfl, hrow⟩ | ⟨dst, h, hrow⟩ := hn
  · have hexec : exec i s = .next (vectorDone s c i r) := by
      obtain hrow | hrow | hrow | hrow | hrow := hrow
      · exact exec_integerRow hc hw hrow ht
      · exact exec_floatRow hc hw hrow ht
      · exact exec_transcRow hc hw hrow ht
      · exact exec_conversionRow hc hw hrow ht
      · exact exec_crossRow hc hw hrow ht
    exact ⟨_, _, hexec⟩
  · exact ⟨_, _, exec_predicateRow hc hw hrow ht⟩

theorem floatLatency_ge (ty : Ty) : 2 ≤ if ty = .f64 then 8 else 4 := by split <;> decide

/-- No vector word's result lands in its own issue cycle (R231). -/
theorem latency_of_vectorNames (hn : vectorNames s c i v) : 2 ≤ v.latency := by
  obtain ⟨r, rfl, hrow | hrow | hrow | hrow | hrow⟩ | ⟨dst, h, hrow⟩ := hn
  · unfold integerRow at hrow
    split at hrow <;> cases hrow <;> exact (by decide : 2 ≤ 4)
  · unfold floatRow at hrow
    split at hrow <;> cases hrow <;> exact floatLatency_ge _
  · unfold transcRow at hrow
    split at hrow <;> cases hrow <;> exact (by decide : 2 ≤ 12)
  · unfold conversionRow at hrow
    split at hrow <;> cases hrow <;> exact (by decide : 2 ≤ 4)
  · unfold crossRow at hrow
    split at hrow
    case h_2 => -- `vote`
      obtain ⟨-, hop⟩ := Option.ite_none_right_eq_some.1 hrow
      cases hop
      exact (by decide : 2 ≤ 6)
    all_goals cases hrow
    all_goals exact (by decide : 2 ≤ 6)
  · unfold predicateRow at hrow
    split at hrow
    case h_4 => -- `vote`
      obtain ⟨-, hop⟩ := Option.ite_none_left_eq_some.1 hrow
      cases hop
      exact (by decide : 2 ≤ 6)
    all_goals cases hrow
    · exact (by decide : 2 ≤ 4) -- `vcmp`
    · exact (by decide : 2 ≤ 4) -- `vcmp` with IMM
    · exact floatLatency_ge _ -- `fcmp`

/-- What a word of O15 leaves of its cohort before the cohort goes on. -/
theorem exec_beside {dst : BitVec 8} {x : Word64} (hc : s.current = some c) (hw : i.wf = true)
    (hword : uniformRow c i = some (dst, x) ∨ (vectorNames s c i v ∧ c.vectorTrap v = none)) :
    ∃ e, exec i s = .next (s.finish e (wordOf i)) ∧ e.beside = c.beside ∧
      (e.conv = c.conv ∨ (vectorNames s c i v ∧ v.draws = true)) ∧
      (c.flightU = [] → e.sregs = c.sregs) ∧ (c.flightV = [] → e.fibres = c.fibres) := by
  obtain hrow | ⟨hn, ht⟩ := hword
  · exact ⟨_, exec_uniformRow hc hw hrow, uniformWrite_beside .., .inl (uniformWrite_conv ..), uniformWrite_sregs _ _,
      fun _ => uniformWrite_fibres ..⟩
  · obtain ⟨ws, l, hexec⟩ := exec_issues hc hw hn ht
    refine ⟨_, hexec, issueVec_beside .., ?_, issueVec_sregs _ _ _, fun h => issueVec_fibres _ _ h (latency_of_vectorNames hn)⟩
    rw [issueVec_conv]
    by_cases hdraws : v.draws = true
    · exact .inr ⟨hn, hdraws⟩
    · exact .inl (if_neg hdraws)

end

end Sys2Proof.Machine

namespace Sys2Proof

open Sys2Proof.Machine

/-- Settles O15: results that land change registers, predicates, latches and error marks alone, and none of the word's own
has landed when its issue cycle ends. -/
theorem arithmeticFrame : Obligations.ArithmeticFrame := by
  unfold Obligations.ArithmeticFrame
  intro i s c v dst x hc hw _ hword
  obtain ⟨e, hexec, hbeside, hconv, hsregs, hfibres⟩ := exec_beside hc hw hword
  obtain ⟨block, atHeader, stepDue, hfinish⟩ := finish_putCohort s e (wordOf i)
  have hsame {α : Type} (g : Cohort → α) (hg : ∀ d : Cohort, g d.beside = g d) : g e = g c := eq_of_beside g hg hbeside
  refine ⟨_, hexec.trans (congrArg _ (hfinish.trans (putCohort_eq ..))), hsame Cohort.uid fun _ => rfl,
    hsame (fun d => d.pc + 8) fun _ => rfl, hsame Cohort.core fun _ => rfl, hsame Cohort.ctx fun _ => rfl,
    hsame Cohort.tag fun _ => rfl, hsame Cohort.launch fun _ => rfl, hsame Cohort.landings fun _ => rfl,
    hsame Cohort.uq fun _ => rfl, hsame Cohort.vq fun _ => rfl, hconv, hsame Cohort.split fun _ => rfl,
    hsame Cohort.wait fun _ => rfl, ?lanes, ?frames, hsregs, hfibres⟩
  case lanes => exact hsame (fun d => d.fibres.map Fibre.lane) (beside_fibres_map _ fun _ => rfl)
  case frames => exact hsame (fun d => d.fibres.map Fibre.frames) (beside_fibres_map _ fun _ => rfl)

end Sys2Proof
end

section
/-! SUPPORT. Matrix words past their stall point (O40, O41): what the unit leaves of a cohort while it makes room for a word
(R241, R335), and the course of a word that its checks let pass (R337, R347). -/

namespace Sys2Proof.Machine

open Sys2Proof Sys2Proof.Claims

/-! ## What the unit leaves of the cohorts (R341, R343, R350) -/

/-- A cohort but for what the unit leaves in it: the landings that its words fill and the word of its that failed. -/
def Cohort.offUnit (c : Cohort) : Cohort := { c with landings := [], failed := none }

/-- The cohorts of a state but for what the unit leaves in them. -/
def State.offUnit (s : State) : List Cohort := s.cohorts.map Cohort.offUnit

theorem offUnit_of_standing {s t : State} (h : t.standing = s.standing) : t.offUnit = s.offUnit :=
  (congrArg (fun x => x.1.map Cohort.offUnit) h :)

theorem map_offUnit (s : State) {f : Cohort → Cohort} (hf : ∀ c, (f c).offUnit = c.offUnit) :
    State.offUnit { s with cohorts := s.cohorts.map f } = s.offUnit := by
  simp [State.offUnit, hf]

section
variable (s : State) (core : Nat) (op : MatrixOp)

theorem landUnit_offUnit (ws : List RegWrite) : (s.landUnit op ws).offUnit = s.offUnit :=
  map_offUnit s fun _ => rfl

theorem markFailed_offUnit (f : Option FailedWord) : (s.markFailed core op f).offUnit = s.offUnit := by
  unfold State.markFailed
  cases f with
  | none => rfl
  | some d =>
    refine (offUnit_of_standing (standing_of_aside (postError_aside ..))).trans (map_offUnit s fun c => ?_)
    split
    · rfl
    · rfl

theorem putRows_offUnit (n : Nat) (xs : List Nat) (dst : Nat → List Target) (elems : Nat → List Nat) :
    (xs.foldl (fun u i => u.putRow core op i n (dst i) (elems i)) s).offUnit = s.offUnit :=
  foldl_keeps State.offUnit (fun _ _ => offUnit_of_standing (putRow_standing ..)) ..

theorem matrixRun_offUnit : (s.matrixRun core op).offUnit = s.offUnit := by
  unfold State.matrixRun
  dsimp only
  cases op.kind with
  | mma => exact (markFailed_offUnit ..).trans (landUnit_offUnit ..)
  | store dst => exact putRows_offUnit ..
  | drain => exact ite_keeps (putRows_offUnit ..) (putRows_offUnit ..)
  | rd g dst => exact landUnit_offUnit ..
  | alloc | free | zero | load rows | wr g vals | mov source => rfl

theorem matrixExec_offUnit : (s.matrixExec core).offUnit = s.offUnit := by
  unfold State.matrixExec
  split
  · rfl
  · exact matrixRun_offUnit ..

theorem matrixWhile_offUnit (p : MatrixOp → Bool) (n : Nat) : (State.matrixWhile core p n s).offUnit = s.offUnit := by
  induction n generalizing s with
  | zero => rfl
  | succ n ih => exact ite_keeps ((ih _).trans (matrixExec_offUnit s core)) rfl

theorem queueRoom_offUnit (n : Nat) : (State.queueRoom core n s).offUnit = s.offUnit := by
  induction n generalizing s with
  | zero => rfl
  | succ n ih => exact ite_keeps ((ih _).trans (matrixExec_offUnit s core)) rfl

end

section
variable {i : Instr} {s0 s t : State} {c d e : Cohort} {w : MmaWord} {runs : List RegRun} {preds : List Nat} {tag : Option Nat}
  {tile : Nat}

/-- A cohort that was put is found again as the unit leaves it. -/
theorem cohort?_offUnit (h : t.offUnit = (s.putCohort c).offUnit) : ((t.cohort? c.uid).getD c).offUnit = c.offUnit := by
  have hfind (u : State) : (u.cohort? c.uid).map Cohort.offUnit = u.offUnit.find? fun x => x.uid == c.uid := by
    rw [State.offUnit, List.find?_map]
    rfl
  have hsame := (hfind t).trans ((congrArg _ h).trans (hfind (s.putCohort c)).symm)
  cases ht : t.cohort? c.uid with
  | none => rfl
  | some x =>
    rw [ht] at hsame
    obtain ⟨y, hy, hxy⟩ := Option.map_eq_some_iff.1 hsame.symm
    rw [cohort?_putCohort rfl hy] at hxy
    exact hxy.symm

theorem uid_of_offUnit (h : d.offUnit = c.offUnit) : d.uid = c.uid := (congrArg Cohort.uid h :)

theorem active_of_offUnit (h : d.offUnit = c.offUnit) (g : Guard) : d.active g = c.active g := (congrArg (fun x => x.active g) h :)

theorem rowsOf_of_offUnit (h : d.offUnit = c.offUnit) (fs : List Fibre) (rs : List RegRun) : d.rowsOf fs rs = c.rowsOf fs rs :=
  (congrArg (fun x => x.rowsOf fs rs) h :)

/-- What a word marks in its cohort as it stands once the queue has room may be said of the cohort that issued it. -/
theorem accept_mark_congr {word : Word64} {handle : Nat} {lanes : List Nat} {kind : MatrixKind} {m n : Nat → Cohort → Cohort}
    (h : ∀ id x, x.offUnit = c.offUnit → m id x = n id x) :
    s.accept c word handle tile lanes tag m kind = s.accept c word handle tile lanes tag n kind := by
  unfold State.accept
  dsimp only
  rw [h _ _ (cohort?_offUnit (queueRoom_offUnit ..))]

/-! ## The unit's buffers (R335) -/

theorem withLoadBuffer_free {k : State → Cohort → State} (h : loadBuffer s c = (t, e)) : s.withLoadBuffer c k = k t e :=
  (congrArg (fun x => k x.1 x.2) h :)

theorem withStoreBuffer_free {k : State → Cohort → State} (h : storeBuffer s c = (t, e))
    (hfree : t.pendingStores.any (rowWrite c.core) = false) : s.withStoreBuffer c k = k t e := by
  have hbuffer : s.withStoreBuffer c k =
      (fun x : State × Cohort => if x.1.pendingStores.any (rowWrite c.core) then x.1.holdPeer x.2 else k x.1 x.2) (storeBuffer s c) := rfl
  rw [hbuffer, h]
  exact if_neg (by simp [hfree])

theorem storeBuffer_offUnit (h : storeBuffer s c = (t, e)) : e.offUnit = c.offUnit := by
  cases h
  have hserved (xs : List PendingStore) (u : State) : (xs.foldl (fun x p => x.serveTo p.request) u).aside = u.aside :=
    foldl_keeps State.aside (fun _ _ => serveTo_aside ..) ..
  exact cohort?_offUnit
    ((offUnit_of_standing (standing_of_aside ((drainStores_aside ..).trans (hserved ..)))).trans (matrixWhile_offUnit ..))

/-! ## The course of a matrix word -/

theorem atStop_passes {passed : Bool} {g : Guard} (k : State → Cohort → State) (h : Passes passed s0 i g runs preds c s d) :
    atStop passed i s0 g runs preds k = .next (ends passed d (k s (calm d))) :=
  atStop_clear passed g runs preds k h.current h.wf h.drained h.sound h.window h.latches h.landings h.predicates

/-- A matrix word whose tag is free and whose handle is owned goes on from there (R332, R337). -/
theorem atTile_leaves {k : State → Cohort → Nat → State} (h : AtTile s0 i w runs preds tag c s d tile)
    (hk : k s (calm d) tile = t) : atTile i w s0 runs preds tag k = .next (ends true d t) := by
  have hfree : tag.elim false (calm d).tagBusy = false := by
    cases htag : tag with
    | none => rfl
    | some n => exact h.free n htag
  refine (atStop_passes _ h.ready).trans ?_
  simp only [hfree, h.tile, hk, Bool.false_eq_true, if_false]

theorem rowWord_active {kind : List Fibre → MatrixKind} (h : someActive c w.guard) :
    s.rowWord i c w tile kind = s.accept c (wordOf i) w.th.toNat tile (activeLanes c w.guard) none noMark (kind (c.active w.guard)) := by
  unfold State.rowWord
  simp only [active_isEmpty_of_someActive h, Bool.false_eq_true, if_false]
  rfl

theorem rowWord_inactive {kind : List Fibre → MatrixKind} (h : c.active w.guard = []) :
    s.rowWord i c w tile kind = s.finish c (wordOf i) := by
  unfold State.rowWord
  rw [h]
  rfl

end

end Sys2Proof.Machine

namespace Sys2Proof
open Sys2Proof.Machine Sys2Proof.Claims

/-- Settles O40: each word past its stall point with a tile, where its own checks let it go on to the queue. -/
theorem matrixWords : Obligations.MatrixWords := by
  unfold Obligations.MatrixWords
  refine ⟨?mma, ?alloc, ?free, ?zero, ?mov, ?rd, ?wr, ?inactive⟩
  case mma =>
    intro s0 s c d w tile h ta tb fs hact htrap hwatch hbad
    change execMma w s0 = _
    refine atTile_leaves h ?_
    have hnone : (s.mmaTrap (calm d) w ta tb fs).or (s.mmaWatch (calm d) w ta tb fs) = none := by rw [htrap, hwatch]; rfl
    have hsome : fs.isEmpty = false := active_isEmpty_of_someActive hact
    simp only [ta, tb, fs] at hnone hbad hsome
    simp only [hnone, hbad, hsome, Bool.false_eq_true, if_false]
    rfl
  case alloc =>
    intro s0 s c d w n hr hheld hcharge hfree hsave
    change execTileAlloc w s0 = _
    rw [execTileAlloc, atStall_ready _ hr]
    have hbays : ¬ s.cellarBays (fnOf (calm d).ctx) < s.cellarCharged (fnOf (calm d).ctx) + 128 := Nat.not_lt.2 hcharge
    have htile : ((s.core (calm d).core).freeTile.filter fun _ =>
        s.saveVolume (calm d).core + 32768 ≤ s.saveCap (fnOf (calm d).ctx)) = some n :=
      Option.filter_eq_some_iff.2 ⟨hfree, decide_eq_true hsave⟩
    simp only [hheld, Option.isSome_none, hbays, htile, Bool.false_eq_true, if_false]
    rfl
  case free =>
    intro s0 s c d w tile h
    change execTileFree w s0 = _
    exact atTile_leaves h rfl
  case zero =>
    intro s0 s c d w tile h hact
    change execTileZero w s0 = _
    exact atTile_leaves h (rowWord_active hact)
  case mov =>
    intro s0 s c d w tile source h hact hsource
    change execTileMov w s0 = _
    refine atTile_leaves h ?_
    rw [hsource]
    exact rowWord_active hact
  case rd =>
    intro s0 s c d w tile h
    change execTileRd w s0 = _
    refine atTile_leaves h (accept_mark_congr fun id x hx => ?_)
    rw [rowsOf_of_offUnit hx]
    rfl
  case wr =>
    intro s0 s c d w tile h hact
    change execTileWr w s0 = _
    exact atTile_leaves h (rowWord_active hact)
  case inactive =>
    intro i s0 s c d w tile runs hi h hnone
    simp only [List.mem_cons, List.not_mem_nil, or_false, Prod.mk.injEq] at hi
    obtain ⟨rfl, rfl⟩ | ⟨rfl, rfl⟩ := hi
    · change execTileZero w s0 = _
      exact atTile_leaves h (rowWord_inactive hnone)
    · change execTileWr w s0 = _
      exact atTile_leaves h (rowWord_inactive hnone)

/-- Settles O41: each word past its row checks, its accesses and the unit's buffer, which leaves its fibres as they are. -/
theorem tileMemoryWords : Obligations.TileMemoryWords := by
  unfold Obligations.TileMemoryWords
  refine ⟨?load, ?store, ?drain⟩
  case load =>
    intro s0 s s2 c d e w tile h ty fs accs s1 s3 hbuffer hact hrows hclear hask herror
    change execTileLd w s0 = _
    refine atTile_leaves h ?_
    dsimp only [rowLength]
    rw [hrows]
    refine (withAccs_clear hclear).trans ((withLoadBuffer_free hbuffer).trans ?_)
    rw [hask, herror]
    exact rowWord_active hact
  case store =>
    intro s0 s s2 c d e w tile h fs accs s1 hbuffer hact hfree hrows hclear
    change execTileSt w s0 = _
    refine atTile_leaves h ?_
    dsimp only
    rw [hrows]
    refine (withAccs_clear hclear).trans ((withStoreBuffer_free hbuffer hfree).trans ((rowWord_active hact).trans ?_))
    rw [uid_of_offUnit (storeBuffer_offUnit hbuffer)]
    rfl
  case drain =>
    intro s0 s s2 c d e w tile h ta tb fs bands row rows scales accs s1 s3 s4 hbuffer hact hfree hrows hbands hclear hask
      hread hwrite herror howed
    have hband : (if w.mod.getLsbD 0 then bandTrap (calm d) w else none) = none := by
      split
      next hb => exact hbands hb
      next => rfl
    have hfs : e.active w.guard = fs := active_of_offUnit (storeBuffer_offUnit hbuffer) w.guard
    change execTileDrain w s0 = _
    refine atTile_leaves h ?_
    dsimp only [rowLength]
    rw [hband, hrows]
    refine (withAccs_clear hclear).trans ((withStoreBuffer_free hbuffer hfree).trans ?_)
    rw [hask, hread, hwrite, herror]
    refine (payRelease_free howed).trans ((rowWord_active hact).trans ?_)
    rw [hfs]
    rfl

end Sys2Proof
end

section
/-! SUPPORT. The matrix unit (O42): rows of a tile (R331, R346), tiles of a core (R345), and one element of a product (R340). -/

namespace Sys2Proof.Machine

open Sys2Proof Sys2Proof.Claims

/-! ## Rows and tiles (R331, R345, R346) -/

theorem row_setRow_ne (t : Tile) {i j : Nat} (r : List Word32) (hi : i < 32) (hij : i ≠ j) : (t.setRow j r).row i = t.row i := by
  have hget : ((List.range 32).map t.row)[i]? = some (t.row i) := by rw [List.getElem?_map, List.getElem?_range hi]; rfl
  rw [Tile.setRow, Tile.row, List.getD_eq_getElem?_getD, List.getElem?_set_ne hij.symm, hget]
  rfl

theorem row_mapRows_of_notMem {lanes : List Nat} (t : Tile) (g : Nat → List Word32 → List Word32) {i : Nat} (hi : i < 32)
    (hnot : i ∉ lanes) : (t.mapRows lanes g).row i = t.row i := by
  induction lanes generalizing t with
  | nil => rfl
  | cons j js ih =>
    obtain ⟨hne, hrest⟩ := not_or.1 fun h => hnot (List.mem_cons.2 h)
    exact (ih _ hrest).trans (row_setRow_ne t _ hi hne)

theorem tile_setTile_same (k : Core) {n : Nat} (t : Tile) (hn : n < 8) : (k.setTile n t).tile n = t := by
  simp [Core.setTile, Core.tile, hn]

theorem matrixRun_free (s : State) (k : Nat) {op : MatrixOp} (h : op.kind = .free) :
    s.matrixRun k op = s.putCore ((s.core k).setTile op.tile { (s.core k).tile op.tile with rows := [] }) := by
  unfold State.matrixRun
  rw [h]

theorem matrixExec_cons {s : State} {k : Nat} {op : MatrixOp} {rest : List MatrixOp} (h : (s.core k).matrixQueue = op :: rest) :
    s.matrixExec k = (s.putCore { s.core k with matrixQueue := rest }).matrixRun k op := by
  unfold State.matrixExec
  rw [h]

/-! ## Elements (R340) -/

theorem mmaInteger_eq_sum (ta tb : Ty) (a b : List Byte) (acc : Word32) : mmaInteger ta tb a b acc = acc.toInt +
    ((List.range (depthOf ta)).map fun k => intOf ta (vecElement ta a k) * intOf tb (vecElement tb b k)).sum := by
  rw [mmaInteger, List.sum_eq_foldl, ← List.foldl_assoc (op := ((· + ·) : Int → Int → Int)), Int.add_zero, List.foldl_map]

theorem clampTo_word (x : Int) : clampTo true 32 x = max (-2 ^ 31) (min (2 ^ 31 - 1) x) := by
  simp only [clampTo, intHi, intLo, if_true]
  split
  · omega
  · split <;> omega

/-- A clamp changes exactly the sums that lie outside the accumulator's range. -/
theorem ne_clampTo_word (x : Int) : (x != clampTo true 32 x) = decide (x < -2 ^ 31 ∨ 2 ^ 31 - 1 < x) := by
  rw [clampTo_word, Bool.eq_iff_iff, bne_iff_ne, decide_eq_true_iff]
  omega

theorem mmaElement_integer {ta tb : Ty} {a b : List Byte} {acc : Word32} {x : Int} (sat : Bool) (aS bS : List Byte)
    (h : ta = .i8 ∨ ta = .n8) (hx : mmaInteger ta tb a b acc = x) :
    mmaElement ta tb sat a aS b bS acc =
      (BitVec.ofInt 32 (if sat then clampTo true 32 x else x), sat && x != if sat then clampTo true 32 x else x) := by
  subst hx
  exact if_pos (by simpa using h)

/-- The 32 products of a 16-bit type are one block (R98). -/
theorem mmaElement_half {ta : Ty} (tb : Ty) (sat : Bool) (a aS b bS : List Byte) (acc : Word32) (h : ta = .bf16 ∨ ta = .f16) :
    mmaElement ta tb sat a aS b bS acc =
      (BitVec.ofNat 32 (roundTo .f32 ((valueOf .f32 acc.toNat).sum (products ta tb a aS b bS 0 32)) 0 false 0), false) := by
  obtain rfl | rfl := h
  · rfl
  · rfl

end Sys2Proof.Machine

namespace Sys2Proof
open Sys2Proof.Machine Sys2Proof.Claims

/-- Settles O42: the oldest word leaves the queue as it completes; a sum is one fold of products, and no row is written but a lane's. -/
theorem matrixUnit : Obligations.MatrixUnit := by
  unfold Obligations.MatrixUnit
  refine ⟨?oldest, ?integer, ?half, ?rows, ?free⟩
  case oldest =>
    intro s k op rest hqueue
    change execMatrixUnitExecute k s = _
    rw [execMatrixUnitExecute, matrixExec_cons hqueue, hqueue]
    rfl
  case integer =>
    intro ta tb sat a b acc hta x
    have hdepth : depthOf ta = 64 := by obtain rfl | rfl := hta <;> rfl
    have hx : mmaInteger ta tb a b acc = x := by rw [mmaInteger_eq_sum, hdepth]
    rw [mmaElement_integer sat [] [] hta hx]
    cases sat with
    | true => rw [if_pos rfl, if_pos rfl, ne_clampTo_word, clampTo_word]
    | false => rfl
  case half =>
    intro ta tb sat a aS b bS acc hta
    exact mmaElement_half tb sat a aS b bS acc hta
  case rows =>
    intro t lanes g i hi hnot
    exact row_mapRows_of_notMem t g hi hnot
  case free =>
    intro s k op hkind htile i
    rw [matrixRun_free s k hkind, putCore_core s (k := (s.core k).setTile op.tile _) (core_id s k), tile_setTile_same _ _ htile]
    rfl

end Sys2Proof
end

section
/-! SUPPORT. The memory words past their stall point (O30, O31): each goes on where its accesses, its release steps (R116, R120),
its entries (R64) and its peers (R49) let it. -/

namespace Sys2Proof.Machine

open Sys2Proof Sys2Proof.Claims

section
variable {i : Instr} {s0 s t : State} {c d : Cohort} {w : MemWord} {runs : List RegRun} {tag : Option Nat} {accs : List Acc}

/-! ## The course of a memory word -/

/-- A memory word whose tag is free goes on from its stall point (R237, R358). -/
theorem atMemory_leaves {k : State → Cohort → State} (h : AtAccess s0 i w runs tag c s d) (hk : k s (calm d) = t) :
    atMemory i w s0 runs tag k = .next (ends (!w.ua) d t) := by
  have hfree : tag.elim false (calm d).tagBusy = false := by
    cases htag : tag with
    | none => rfl
    | some n => exact h.free n htag
  have hagents : (w.ua && (d.active w.guard).isEmpty) = false := by
    cases hua : w.ua with
    | false => rfl
    | true => exact active_isEmpty_of_someActive (h.agents hua)
  refine (atStop_passes _ h.ready).trans ?_
  simp only [hfree, active_calm, hagents, hk, Bool.false_eq_true, if_false]

/-- A uniform form drained the uniform side at its stall point. -/
theorem ends_uniform (hua : w.ua = true) : ends (!w.ua) d t = t := by
  rw [hua]
  rfl

theorem allPend_iff : allPend accs ↔ accs.all Acc.lazy = true := List.all_eq_true.symm

/-- A release step that pends with the word's writes (R126). -/
theorem released_pend (hrel : w.ord.getLsbD 1 = true) (hlazy : accs.all Acc.lazy = true) :
    released s c w accs = let s1 := s.gather c.core fun r => readOfLanes c w.guard r && r.kind == .cell
      let s2 := if 2 ≤ markScope w then s1.acceptCore c.core else s1
      { s2 with owed := s2.owed ++ if accs.isEmpty then [] else [(c.uid, markScope w, s2.nextUid)] } := by
  unfold released
  rw [if_neg (by rw [hrel]; exact Bool.noConfusion), if_pos hlazy]
  cases accs with
  | nil =>
    dsimp only
    rw [List.isEmpty_nil, if_pos rfl, if_pos rfl, List.append_nil]
  | cons a rest => rfl

/-- A release step that completes at the word (R126). -/
theorem released_now (hrel : w.ord.getLsbD 1 = true) (hlazy : accs.all Acc.lazy = false) :
    released s c w accs = s.releaseAt c.core (markScope w) (readOfLanes c w.guard) := by
  unfold released
  rw [if_neg (by rw [hrel]; exact Bool.noConfusion), if_neg (by rw [hlazy]; exact Bool.noConfusion)]

/-- The release step of a word's mark, where no write to a peer holds it up (R116, R126). -/
theorem relMark_free {k : State → State} (h : mayRelease s c w accs) : s.relMark c w accs k = k (released s c w accs) := by
  unfold State.relMark
  cases hrel : w.ord.getLsbD 1 with
  | false => exact congrArg k (if_pos hrel).symm
  | true =>
    obtain ⟨hpend, hnow⟩ := h hrel
    cases hlazy : accs.all Acc.lazy with
    | false =>
      have hclosed : ¬ (5 ≤ markScope w && s.peerOpen c) = true := fun hwait => by
        obtain ⟨hscope, hopen⟩ := Bool.and_eq_true_iff.1 hwait
        have hpeers := hnow (by rw [allPend_iff, hlazy]; exact Bool.noConfusion) (of_decide_eq_true hscope)
        exact Bool.false_ne_true (hpeers.symm.trans hopen)
      rw [released_now hrel hlazy]
      exact if_neg hclosed
    | true =>
      have howed := hpend (allPend_iff.2 hlazy)
      rw [released_pend hrel hlazy] at howed ⊢
      exact awaitPeers_free howed

/-- A word that reads, once it may go on, and where no error of a uniform form stops it (R62, R64, R237, R463). -/
theorem reading_free {n : Nat} {kind : ReadKind} (hready : s.missReady c (s.loadNeed c (kind == .plain) n accs) = true)
    (hdata : (s.spendGrant c).askData c accs (fun _ => .read n) n = none)
    (herror : w.ua = true → ((s.spendGrant c).settle c false n accs).errorAcc n accs = none) :
    s.reading i c w n kind accs = readResult i c w n kind accs ((s.spendGrant c).settle c false n accs) := by
  unfold State.reading
  refine (withMisses_ready hready).trans ?_
  rw [hdata]
  cases hua : w.ua with
  | false => rfl
  | true =>
    unfold readResult
    dsimp only
    rw [herror hua]

/-- A uniform form that meets an error raises it (R463). -/
theorem reading_error {n : Nat} {kind : ReadKind} {a : Acc} (hready : s.missReady c (s.loadNeed c (kind == .plain) n accs) = true)
    (hdata : (s.spendGrant c).askData c accs (fun _ => .read n) n = none) (hua : w.ua = true)
    (herror : ((s.spendGrant c).settle c false n accs).errorAcc n accs = some a) :
    s.reading i c w n kind accs = ((s.spendGrant c).settle c false n accs).errorTrap i c w.guard n accs a := by
  unfold State.reading
  refine (withMisses_ready hready).trans ?_
  rw [hdata]
  dsimp only
  rw [hua, herror]

theorem errorTrap_closed {g : Guard} {n : Nat} {a : Acc} (h : s.peerOpen c = false) :
    s.errorTrap i c g n accs a = (s.enterErrors c n accs).ownTrap i c (s.memerr a) g := by
  simp [State.errorTrap, h]

end

end Sys2Proof.Machine

namespace Sys2Proof
open Sys2Proof.Machine Sys2Proof.Claims

/-- Settles O30: nothing stops the word before its reads, or its uniform form before MEMERR. -/
theorem loadCompletes : Obligations.LoadCompletes := by
  unfold Obligations.LoadCompletes
  refine ⟨?reads, ?error⟩
  case reads =>
    intro s0 s c d w h n accs s1 s2 hclear hready hdata herror
    change execLd w s0 = _
    refine atMemory_leaves h ((withAccs_clear hclear).trans ?_)
    exact reading_free hready hdata herror
  case error =>
    intro s0 s c d w a h n accs s1 s2 hclear hready hdata hua herror hpeers
    change execLd w s0 = _
    refine (atMemory_leaves h ((withAccs_clear hclear).trans ?_)).trans (congrArg _ (ends_uniform hua))
    exact (reading_error hready hdata hua herror).trans (errorTrap_closed hpeers)

/-- Settles O31: a store that its release step and its entries let go on, or one narrower than a bank word that meets an error there. -/
theorem storeCompletes : Obligations.StoreCompletes := by
  unfold Obligations.StoreCompletes
  refine ⟨?stores, ?error⟩
  case stores =>
    intro s0 s c d w h n accs s1 s2 s3 hclear hpad hrelease hready
    change execSt w s0 = _
    refine atMemory_leaves h ((withAccs_clear hclear).trans ?_)
    rw [hpad]
    exact (relMark_free hrelease).trans (withMisses_ready hready)
  case error =>
    intro s0 s c d w a h n accs s1 hclear hpad hpeers
    change execSt w s0 = _
    refine atMemory_leaves h ((withAccs_clear hclear).trans ?_)
    rw [hpad]
    exact errorTrap_closed hpeers

end Sys2Proof
end

section
/-! SUPPORT. Atomic operations, exact cells, exchange stores and fences (O34 to O37), and the checks of one access (O39). -/

namespace Sys2Proof.Machine

open Sys2Proof Sys2Proof.Claims

/-! ## Atomic operations (R362 to R364, R124) -/

/-- What the row of an atomic gives is what its operation computes (R362). -/
theorem atomicRow_new {i : Instr} {w : MemWord} {op : AtomicOp} {new : Nat → Nat → Nat → Nat → Nat}
    (h : atomicRow i = some (w, op, new)) (n old x expected : Nat) : atomicNew op n old x expected = new n old x expected := by
  unfold atomicRow at h
  split at h
  case h_9 => nomatch h
  all_goals
    cases h
    simp [atomicNew, signedOf_eq_toInt, BitVec.slt_iff_toInt_lt]

theorem exec_atomicRow {i : Instr} {w : MemWord} {op : AtomicOp} {new : Nat → Nat → Nat → Nat → Nat}
    (h : atomicRow i = some (w, op, new)) (s : State) : exec i s = execAtomic i w op s := by
  unfold atomicRow at h
  split at h
  case h_9 => nomatch h
  all_goals
    cases h
    rfl

theorem toBytes_length (n x : Nat) : (toBytes n x).length = n := by
  induction n generalizing x with
  | zero => rfl
  | succ n ih => rw [toBytes, List.length_cons, ih]

theorem dramWrite_reads (s : State) (a : Nat) (bs : List Byte) : (s.dramWrite a bs).reads = s.reads := by
  induction bs generalizing s a with
  | nil => rfl
  | cons b bs ih => exact ih (s.dramSet a b) (a + 1)

section
variable {s : State} {p : PendingStore} {pa : Nat} {op : AtomicOp} {wide : Bool} {x y : Word64}

/-- An atomic operation of HBM takes its step in place of the last value (R124). -/
theorem performWrite_atomic (hloc : p.loc = .hbm pa) (hop : p.op = .atomic op wide x y) (hwhole : p.whole = false) :
    let old := s.performedRead (.hbm pa) (if wide then 8 else 4)
    let t := s.perform (.hbm pa) (p.op.apply old) p.uncached (some p.core) p.grain
    s.performWrite p = { t.sawLast p.core (.hbm pa) (t.performedRead (.hbm pa) (if wide then 8 else 4)) with
      reads := t.reads.map (PendingRead.answer p.id old) } := by
  unfold State.performWrite
  simp only [hwhole, hloc, hop]
  rfl

/-- Its new value, outside every view and where no error stands. -/
theorem perform_atomic (hop : p.op = .atomic op wide x y) (hgood : s.sectorBad pa = false) (hview : s.viewOf pa = none)
    (old : List Byte) : s.perform (.hbm pa) (p.op.apply old) p.uncached (some p.core) p.grain =
      (s.logged (some p.core) (.hbm pa) (s.performedRead (.hbm pa) (if wide then 8 else 4)) p.grain).dramWrite pa
        (p.op.apply old) := by
  have hlen : (p.op.apply old).length = if wide then 8 else 4 := by
    rw [hop]
    exact toBytes_length ..
  rw [perform_hbm hgood hview, hlen]

theorem answer_eq (id : Nat) (old : List Byte) (r : PendingRead) :
    r.answer id old = if r.kind = .old id then { r with bytes := some old } else r := by
  unfold PendingRead.answer
  simp only [beq_iff_eq]

end

/-! ## Fences that complete every access (R132) -/

theorem completeAll_closed {s : State} {c : Cohort} {k : State → State} (h : s.peerOpen c = false) :
    s.completeAll c k = k (completed s c) := by
  unfold State.completeAll
  rw [h]
  rfl

theorem completeAll_open {s : State} {c : Cohort} {k : State → State} (h : s.peerOpen c = true) :
    s.completeAll c k = s.holdDrain c := if_pos h

end Sys2Proof.Machine

namespace Sys2Proof
open Sys2Proof.Machine Sys2Proof.Claims

/-- Settles O34: a word's course as `execAtomic` has it, its operation row by row, and one step of it byte by byte. -/
theorem atomicsComplete : Obligations.AtomicsComplete := by
  unfold Obligations.AtomicsComplete
  refine ⟨?word, ?row, ?performed⟩
  case word =>
    intro s0 s c d i w op new hrow h n accs s1 s2 s3 s4 hclear hrelease hready hdata herror
    rw [exec_atomicRow hrow]
    unfold execAtomic
    refine atMemory_leaves h ((withAccs_clear hclear).trans ((relMark_free hrelease).trans ((withMisses_ready hready).trans ?_)))
    simp only [s3, s4] at hdata herror
    rw [hdata]
    dsimp only
    rw [herror]
  case row =>
    intro i w op new wide x y old hrow n
    exact congrArg (toBytes n) (atomicRow_new hrow ..)
  case performed =>
    intro s p pa op wide x y hloc hop hwhole hwf hgood hview n old
    have hlen : (p.op.apply old).length = n := by
      rw [hop]
      exact toBytes_length ..
    have hdone := perform_atomic hop hgood hview old
    rw [performWrite_atomic hloc hop hwhole]
    refine ⟨fun i hi => ?_, ?_⟩
    · refine (congrArg (cellsGet · (pa + i)) ((viewed_mem ..).1.trans (congrArg State.mem hdone))).trans ?_
      rw [cellsGet_dramWrite (s := s.logged _ _ _ _) hwf, if_pos (by omega), Nat.add_sub_cancel_left]
    · refine (congrArg (List.map _) ((congrArg State.reads hdone).trans (dramWrite_reads ..))).trans ?_
      exact congrArg (fun f => s.reads.map f) (funext fun r => answer_eq ..)

/-- Settles O35: both words' courses; a cell's addend and its rounded read are those of R101 and R102. -/
theorem exactCells : Obligations.ExactCells := by
  unfold Obligations.ExactCells
  refine ⟨?xadd, ?xrd, ?addend, ?read⟩
  case xadd =>
    intro s0 s c d w h accs s1 s2 s3 hclear hrelease hready
    change execXadd w s0 = _
    exact atMemory_leaves h ((withAccs_clear hclear).trans ((relMark_free hrelease).trans (withMisses_ready hready)))
  case xrd =>
    intro s0 s c d w h accs s1 s2 hclear hready hdata herror
    change execXrd w s0 = _
    refine atMemory_leaves h ((withAccs_clear hclear).trans ?_)
    exact reading_free hready hdata herror
  case addend =>
    intro sz x old
    rfl
  case read =>
    intro r bs hkind hbytes
    simp [PendingRead.data, hkind, hbytes]

/-- Settles O36: no check stops the word, and it waits with its flights. -/
theorem exchangeStore : Obligations.ExchangeStore := by
  unfold Obligations.ExchangeStore
  intro s0 s c d w h hact hteams accs s1 hclear hready
  have hnoTeam : (d.active w.guard).any (fun f => f.team == 0xFFFFFFFF#32) = false := by
    simpa using hteams
  have hsome := active_isEmpty_of_someActive hact
  change execXst w s0 = _
  unfold execXst
  refine atMemory_leaves h ?_
  simp only [active_calm, hsome, hnoTeam, Bool.false_eq_true, if_false]
  refine (withAccs_clear hclear).trans ?_
  exact withMisses_ready hready

/-- Settles O37: each fence past its stall point, and past its resume point where it may suspend. -/
theorem fencesComplete : Obligations.FencesComplete := by
  unfold Obligations.FencesComplete
  refine ⟨?fence, ?sc, ?pod, ?plain, ?flush, ?waits⟩
  case fence =>
    intro s0 s c d w h s1 s2
    change execFence w s0 = _
    exact atStall_ready _ h
  case sc =>
    intro s0 s c d w h hpeers s1
    change execFenceSc w s0 = _
    refine (atStall_ready _ h).trans (congrArg _ ?_)
    exact completeAll_closed hpeers
  case pod =>
    intro s0 s1 c e w h hr
    change execFenceScPod w s0 = _
    refine (atStall_resumes hr).trans (congrArg _ ?_)
    exact completeAll_closed hr.peers
  case plain =>
    intro s0 s1 c e w h hr hwindow
    change execFenceFmt w s0 = _
    refine (atStall_resumes hr).trans (congrArg _ ((completeAll_closed hr.peers).trans ?_))
    exact if_pos (by rw [hwindow]; rfl)
  case flush =>
    intro s0 s1 c e w h hr hwindow s2
    change execFenceFmt w s0 = _
    refine (atStall_resumes hr).trans (congrArg _ ((completeAll_closed hr.peers).trans ?_))
    exact if_neg (by rw [hwindow]; exact Bool.noConfusion)
  case waits =>
    intro s0 s c d w h hpeers
    change execFenceSc w s0 = _
    refine (atStall_ready _ h).trans (congrArg _ ?_)
    exact completeAll_open hpeers

/-- Settles O39: the size is looked at before anything else, and the two ranges before any translation. -/
theorem accessAlignment : Obligations.AccessAlignment := by
  unfold Obligations.AccessAlignment
  intro s c team va n acc chk
  refine ⟨?misaligned, ?beyond, ?reserved⟩
  case misaligned =>
    intro hmod
    exact if_pos (by simpa using hmod)
  case beyond =>
    intro hmod hva
    have hx : s.xlate c team va n acc = .trap { code := .noncanon, addr := va } := if_pos hva
    unfold State.checkAccess
    rw [hmod, hx]
    rfl
  case reserved =>
    intro hmod hva hlt
    have hx : s.xlate c team va n acc = .trap { code := .reserved, addr := va } :=
      (if_neg (Nat.not_le.2 hlt)).trans (if_pos hva)
    unfold State.checkAccess
    rw [hmod, hx]
    rfl

end Sys2Proof
end

section
/-! SUPPORT. Prefetches (O33): the requests of their sectors of HBM, and the fills of an L1. -/

namespace Sys2Proof.Machine

open Sys2Proof Sys2Proof.Claims

theorem atStopWith_passes {passed : Bool} {i : Instr} {s0 s : State} {g : Guard} {runs : List RegRun} {preds : List Nat}
    {c d : Cohort} (ts : Cohort → StopTraps) (k : State → Cohort → State) (h : Passes passed s0 i g runs preds c s d) :
    atStopWith passed ts i s0 g runs preds k = .next (ends passed d (k s (calm d))) := by
  unfold atStopWith
  rw [onCohort_wf _ h.current h.wf, h.drained]
  simp only [ends, calm, h.sound, stopTrap_clear _ _ h.window h.latches h.landings h.predicates]

theorem askKeys_aside (s : State) (c : Cohort) (l1 : Bool) (keys : List Loc) (accs : List Acc) :
    (s.askKeys c l1 keys accs).aside = s.aside :=
  (foldl_keeps State.aside (fun _ _ => countHost_aside ..) ..).trans (foldl_keeps State.aside (fun _ _ => ask_aside ..) ..)

theorem prefetch_aside (s : State) (core : Nat) (a : Acc) : (s.prefetch core a).aside = s.aside := by
  unfold State.prefetch
  split
  · exact ite_keeps rfl ((fillL1_aside ..).trans (slicesGive_aside ..))
  · rfl

/-- A prefetch names sectors of HBM alone. -/
theorem prefXlate_hbm {s : State} {c : Cohort} {va : Nat} {a : Acc} (h : s.prefXlate c va = some a) :
    ∃ pa cache, a.x = .mem (.hbm pa) cache false := by
  unfold State.prefXlate at h
  split at h
  · nomatch h
  · dsimp only at h
    generalize (if s.isHeap c.ctx va then _ else _ : Xlate) = x at h
    split at h
    · split at h
      · nomatch h
      · cases h
        exact ⟨_, _, rfl⟩
    · nomatch h

theorem mem_insertKey {k x : Loc} {ks : List Loc} (h : x ∈ insertKey k ks) : x = k ∨ x ∈ ks := by
  induction ks with
  | nil => exact .inl (List.mem_singleton.1 h)
  | cons y ys ih =>
    unfold insertKey at h
    split at h
    · exact .inr h
    · split at h
      · exact List.mem_cons.1 h
      · obtain rfl | h := List.mem_cons.1 h
        · exact .inr List.mem_cons_self
        · exact (ih h).imp_right (List.mem_cons_of_mem y)

theorem mem_sortedKeys {x : Loc} {ks : List Loc} (h : x ∈ sortedKeys ks) : x ∈ ks := by
  unfold sortedKeys at h
  have hfold (ks acc : List Loc) (h : x ∈ ks.foldl (fun acc k => insertKey k acc) acc) : x ∈ acc ∨ x ∈ ks := by
    induction ks generalizing acc with
    | nil => exact .inl h
    | cons k ks ih =>
      obtain h | h := ih _ h
      · exact (mem_insertKey h).elim (fun e => .inr (e ▸ List.mem_cons_self)) .inl
      · exact .inr (List.mem_cons_of_mem k h)
  exact (hfold ks [] h).elim (fun h => nomatch h) id

/-- The sectors that accesses of HBM miss are HBM's. -/
theorem missedSectors_hbm {s : State} {c : Cohort} {l1 : Bool} {n : Nat} {accs : List Acc}
    (h : ∀ a ∈ accs, ∃ pa cache, a.x = .mem (.hbm pa) cache false) : ∀ k ∈ s.missedSectors c l1 n accs, ∃ m, k = .hbm m := by
  intro k hk
  obtain ⟨a, ha, hkey⟩ := List.mem_filterMap.1 (mem_sortedKeys hk)
  obtain ⟨pa, cache, hx⟩ := h a (List.mem_of_mem_filter ha)
  rw [hx] at hkey
  cases hkey
  exact ⟨pa / 64, rfl⟩

/-- Requests for sectors of HBM alone join those outstanding, and nothing else changes. -/
theorem askKeys_keeps {β : Type} (p : State → β) (hp : ∀ s r, p (s.ask r) = p s) (s : State) (c : Cohort) (l1 : Bool)
    {keys : List Loc} (accs : List Acc) (h : ∀ k ∈ keys, ∃ m, k = .hbm m) : p (s.askKeys c l1 keys accs) = p s := by
  have hcount (t : State) : keys.foldl (fun t k => t.countHost (s.hostPage c k accs) 1) t = t := by
    clear hp
    induction keys generalizing t with
    | nil => rfl
    | cons k ks ih =>
      obtain ⟨m, rfl⟩ := h _ List.mem_cons_self
      exact ih (fun x hx => h x (List.mem_cons_of_mem _ hx)) t
  unfold State.askKeys
  rw [hcount]
  exact foldl_keeps p (fun _ _ => hp ..) ..

/-- What a request that joins those outstanding leaves. -/
def State.besideRequests (s : State) : State := { s with requests := [], nextUid := 0 }

theorem ask_besideRequests (s : State) (r : SliceReq) : (s.ask r).besideRequests = s.besideRequests := by
  unfold State.ask
  exact ite_keeps rfl rfl

end Sys2Proof.Machine

namespace Sys2Proof
open Sys2Proof.Machine Sys2Proof.Claims

/-- Settles O33: the requests of its sectors change nothing beside them, and what fills an L1 leaves cohorts and records alone. -/
theorem prefetchCompletes : Obligations.PrefetchCompletes := by
  unfold Obligations.PrefetchCompletes
  intro s0 s c d w h
  let l1 := w.sz == 4#3
  let accs := (memAgents (calm d) w).filterMap fun f => s.prefXlate (calm d) (memAddress (calm d) w f)
  let keys := s.missedSectors (calm d) l1 64 accs
  let s1 := s.askKeys (calm d) true keys accs
  let t := if l1 then accs.foldl (fun t a => t.prefetch d.core a) s1 else s1
  have hagents : (w.ua && (d.active w.guard).isEmpty) = false := by
    cases hua : w.ua with
    | false => rfl
    | true => exact active_isEmpty_of_someActive (h.agents hua)
  have hexec : exec (.pref w) s0 = .next (ends (!w.ua) d (t.finish (calm d) (wordOf (.pref w)))) := by
    change execPref w s0 = _
    unfold execPref
    refine (atStopWith_passes _ _ h.ready).trans ?_
    rw [active_calm, hagents]
    rfl
  have haside : t.aside = s.aside := by
    have hasked : s1.aside = s.aside := askKeys_aside ..
    exact ite_keeps ((foldl_keeps State.aside (fun _ _ => prefetch_aside ..) ..).trans hasked) hasked
  refine ⟨t, hexec, (congrArg State.cohorts haside :), (congrArg State.records haside :), fun hsz => ?_⟩
  have hhbm : ∀ k ∈ keys, ∃ m, k = .hbm m := missedSectors_hbm fun a ha => by
    obtain ⟨f, _, hf⟩ := List.mem_filterMap.1 ha
    exact prefXlate_hbm hf
  have ht : t = s1 := if_neg (by simpa [l1] using hsz)
  have hbeside : t.besideRequests = s.besideRequests := ht ▸ askKeys_keeps _ ask_besideRequests s _ _ _ hhbm
  exact ⟨(congrArg State.mem hbeside :), (congrArg State.hostMem hbeside :), (congrArg State.pendingStores hbeside :),
    (congrArg State.l1 hbeside :), (congrArg State.regs hbeside :)⟩

end Sys2Proof
end

section
/-! SUPPORT. The barrier words (O43): release steps of words that synchronise (R120), waits at the next block (R369), and the flip
of a barrier (R374). -/

namespace Sys2Proof.Machine

open Sys2Proof Sys2Proof.Claims

section
variable {i : Instr} {s0 s s1 : State} {c d e : Cohort} {w : SynWord} {h : Header} {runs : List RegRun} {preds : List Nat}

/-! ## The course of a synchronising word -/

/-- A SYN word with an active lane goes on from its stall point. -/
theorem atSync_active {k : State → Cohort → State} (hr : Ready s0 i w.guard runs preds c s d) (hact : someActive d w.guard) :
    atSync i w s0 runs preds k = .next (k s (calm d)) := by
  rw [atSync, atStall_ready _ hr, active_calm, active_isEmpty_of_someActive hact]
  rfl

/-- A SYN word that may suspend goes on past the header that follows it (R198, R369). -/
theorem atWait_resumes {k : State → Cohort → Header → State} (hr : Resumes s0 i w.guard runs preds c s1 e h)
    (hact : someActive e w.guard) : atWait i w s0 runs preds k = .next (k s1 e h) := by
  obtain ⟨s, d, hready, hdrain⟩ := hr.ready
  have hfits : (h.susp && decide (h.liveV ≤ e.window)) = true := by simp [hr.suspends, hr.fits]
  unfold atWait
  refine (atStopWith_passes _ _ hready).trans ?_
  unfold State.withResume
  rw [hdrain]
  simp only [hr.sound, hr.peers, hr.last, hr.header, hfits, active_isEmpty_of_someActive hact, ends, Bool.not_true,
    Bool.false_eq_true, if_false, if_true]

/-- The release steps before a synchronising word that waits for no peer (R120, R126). -/
theorem releaseFor_free {scope : Nat} {g : Guard} {k : State → State} (hfree : freeToRelease s c scope) :
    s.releaseFor c scope g k = k (releasedFor s c scope g) := by
  obtain ⟨howed, hopen⟩ := hfree
  unfold State.releaseFor
  refine (payRelease_free howed).trans (if_neg fun hwait => ?_)
  obtain ⟨hscope, hpeers⟩ := Bool.and_eq_true_iff.1 hwait
  exact Bool.false_ne_true ((hopen (of_decide_eq_true hscope)).symm.trans hpeers)

end

/-! ## Teams and their barriers -/

section
variable {s : State} {c : Cohort} {t : Team} {f : Fibre} {bar : Nat} {done : List (Nat × Bool)} {held : List Fibre}

/-- A team whose barrier was put is found with it. -/
theorem team?_putBar {launch num : BitVec 32} (h : s.team? launch num = some t) (bar : Nat) (x : Barrier) :
    (s.putBar t bar x).team? launch num = some { t with barriers := t.barriers.set bar x } := by
  have hfound := List.find?_some h
  obtain ⟨rfl, rfl⟩ : t.launch = launch ∧ t.num = num := by simpa using hfound
  unfold State.team? at h ⊢
  unfold State.putBar State.putTeam
  dsimp only
  rw [List.find?_map]
  have hsame : (fun u : Team => (u.launch == t.launch && u.num == t.num)) ∘ (fun u => if u.launch == t.launch && u.num == t.num
      then { t with barriers := t.barriers.set bar x } else u) = fun u => u.launch == t.launch && u.num == t.num := by
    funext u
    dsimp only [Function.comp]
    split
    next hu => exact hfound.trans hu.symm
    next => rfl
  rw [hsame, h, Option.map_some, if_pos hfound]

/-- A fibre's parity does not fill its barrier. -/
theorem full_set_setParity (t : Team) (bar : Nat) (n : BitVec 16) (p : Bool) :
    (Team.bar { t with barriers := t.barriers.set bar ((t.bar bar).setParity n p) } bar).full = (t.bar bar).full := by
  by_cases hbar : bar < t.barriers.length
  · unfold Team.bar
    simp only [List.getD_eq_getElem?_getD, List.getElem?_set_self hbar]
    rfl
  · rw [List.set_eq_of_length_le (Nat.not_lt.1 hbar)]

/-! ## One fibre's wait (R375) -/

theorem waitDone_eq (h : s.team? c.launch f.team = some t) :
    s.waitDone c bar f = ((t.bar bar).parity f.fidx != (t.bar bar).phase) := by
  rw [State.waitDone, h, Option.elim_some]

/-- The wait of a fibre that completes, on a barrier that does not flip. -/
theorem waitOne_completes (h : s.team? c.launch f.team = some t) (hfull : (t.bar bar).full = false)
    (hdone : ((t.bar bar).parity f.fidx != (t.bar bar).phase) = true) :
    waitOne c bar (s, done, held) f =
      (s.putBar t bar ((t.bar bar).setParity f.fidx (t.bar bar).phase), done ++ [(f.lane, !(t.bar bar).lastVoid)], held) := by
  have hmark : s.markWaited c bar f = s.putBar t bar ((t.bar bar).setParity f.fidx (t.bar bar).phase) := by
    rw [State.markWaited, h]
  have hvalue : s.waitValue c bar f = !(t.bar bar).lastVoid := by rw [State.waitValue, h, Option.elim_some]
  unfold waitOne
  simp only [waitDone_eq h, hdone, if_true, State.completeWait, hmark, hvalue, team?_putBar h, Option.elim_some,
    full_set_setParity, hfull, Bool.false_eq_true, if_false]

/-- The wait of a fibre that is held, on a barrier that does not flip. -/
theorem waitOne_held (h : s.team? c.launch f.team = some t) (hfull : (t.bar bar).full = false)
    (hdone : ((t.bar bar).parity f.fidx != (t.bar bar).phase) = false) :
    waitOne c bar (s, done, held) f = (s, done, held ++ [f]) := by
  unfold waitOne
  simp only [waitDone_eq h, hdone, h, Option.elim_some, hfull, Bool.false_eq_true, if_false]

/-- A flip frees the fibres of its team that are held. -/
theorem waitOne_flips (h : s.team? c.launch f.team = some t) (hfull : (t.bar bar).full = true)
    (hdone : ((t.bar bar).parity f.fidx != (t.bar bar).phase) = false) :
    (waitOne c bar (s, done, held) f).2.2 = (held ++ [f]).filter fun g => g.team != f.team := by
  unfold waitOne
  simp only [waitDone_eq h, hdone, h, Option.elim_some, hfull, Bool.false_eq_true, if_false, if_true]

/-! ## The flip (R374) -/

theorem full_iff (x : Barrier) : x.full = true ↔ x.valid = true ∧ x.expA ≤ x.cntA ∧ x.expB ≤ x.cntB := by
  simp [Barrier.full, and_assoc]

end

end Sys2Proof.Machine

namespace Sys2Proof
open Sys2Proof.Machine Sys2Proof.Claims

/-- Settles O43: each word past its stall point and its traps; a wait by what its fibre's barrier says. -/
theorem barrierWords : Obligations.BarrierWords := by
  unfold Obligations.BarrierWords
  refine ⟨?init, ?arrive, ?waitDone, ?waitHeld, ?inval, ?flip, ?one, ?freed⟩
  case init =>
    intro s0 s c d w t hr hact hlead hA hB hsome hfree
    have harg : ¬ (decide (65536 < d.sreg w.ua.toNat) || decide (2 ^ 48 ≤ d.sreg w.ub.toNat) ||
        (d.sreg w.ua.toNat == 0 && d.sreg w.ub.toNat == 0)) = true := by
      simp only [Bool.or_eq_true, Bool.and_eq_true, decide_eq_true_eq, beq_iff_eq, not_or, not_and_or]
      exact ⟨⟨Nat.not_lt.2 hA, Nat.not_le.2 hB⟩, hsome⟩
    have hbusy : ¬ (s.records.any fun r => r.waitsOn d.launch t.num w.bar.toNat) = true := by simpa using hfree
    change execBarInit w s0 = _
    unfold execBarInit
    refine (atSync_active hr hact).trans ?_
    dsimp only
    rw [hlead]
    exact congrArg _ ((if_neg harg).trans (if_neg hbusy))
  case arrive =>
    intro s0 s c d w hr hact fs htrap hfree
    change execBarArrive w s0 = _
    unfold execBarArrive
    refine (atSync_active hr hact).trans ?_
    dsimp only
    rw [htrap]
    exact congrArg _ (releaseFor_free hfree)
  case waitDone =>
    intro s0 s1 c e w h s2 done hr hact fs htrap hfold
    change execBarWait w s0 = _
    unfold execBarWait
    refine (atWait_resumes hr hact).trans ?_
    dsimp only
    rw [htrap, hfold]
    rfl
  case waitHeld =>
    intro s0 s1 c e w h s2 done held hr hact fs htrap hfold hheld
    change execBarWait w s0 = _
    unfold execBarWait
    refine (atWait_resumes hr hact).trans ?_
    dsimp only
    rw [htrap, hfold]
    exact congrArg _ (if_neg (by simpa using hheld))
  case inval =>
    intro s0 s c d w t hr hact hlead hvalid hfree
    change execBarInval w s0 = _
    unfold execBarInval
    refine (atSync_active hr hact).trans ?_
    dsimp only
    rw [hlead]
    dsimp only
    rw [hvalid]
    exact congrArg _ (releaseFor_free hfree)
  case flip =>
    intro x
    refine ⟨full_iff x, fun hfull => ?_⟩
    obtain ⟨_, hA, hB⟩ := (full_iff x).1 hfull
    refine ⟨Nat.sub_add_cancel hA, Nat.sub_add_cancel hB, rfl, rfl, ?_, rfl, rfl⟩
    exact decide_eq_true_iff.trans Nat.pos_iff_ne_zero
  case one =>
    intro s c bar f t done held hteam hfull
    refine ⟨fun hdone => ?_, waitOne_held hteam hfull, ?_⟩
    · rw [waitOne_completes hteam hfull hdone]
    · cases hdone : ((t.bar bar).parity f.fidx != (t.bar bar).phase) with
      | true =>
        rw [waitOne_completes hteam hfull hdone]
        rfl
      | false => rw [waitOne_held hteam hfull hdone]
  case freed =>
    intro s c bar f t done held hteam hfull hdone g hg
    rw [waitOne_flips hteam hfull hdone] at hg
    simpa using (List.mem_filter.1 hg).2

end Sys2Proof
end

section
/-! SUPPORT. Semaphores, watches, spawns, joins and landings waited for (O44, O45). -/

namespace Sys2Proof.Machine

open Sys2Proof Sys2Proof.Claims

/-! ## Semaphores (R377) -/

/-- A threshold is reached by a signed difference that is not negative. -/
theorem semReached_iff (v th : BitVec 32) : semReached v th = true ↔ 0 ≤ (v - th).toInt := by
  unfold semReached
  rw [decide_eq_true_iff, BitVec.toInt_eq_toNat_cond]
  have := (v - th).isLt
  split <;> omega

/-! ## Watched locations (R148, R378) -/

section
variable {s : State} {c : Cohort} {n : Nat} {accs : List Acc} {k : State → State}

theorem watchRead_ready (h : s.missReady c (s.loadNeed c false n accs) = true) : s.watchRead c n accs k = k (watched s c n accs) :=
  withMisses_ready h

theorem synScope_eq (w : SynWord) : synScope w = if w.scope = 0 then 4 else w.scope.toNat := by
  unfold synScope
  simp only [beq_iff_eq]
  rfl

end

/-! ## Landings (R237, R370) -/

/-- Whether an `lwait` names a landing: bits 50:35 (R262). -/
def namedBy (w : SynWord) (l : Landing) : Bool := bitOf (w.ua.toNat * 2 ^ 8 + w.ub.toNat) l.tag

/-- The cohort of an `lwait` once the landings that it names have come: its matrix words and its reads have (R237, R352). -/
def lwaitTakes (s : State) (d : Cohort) (w : SynWord) : State × Cohort :=
  let s1 := State.matrixWhile d.core (fun o => (calm d).landings.any fun l => namedBy w l && l.unitWord == some o.id)
    (s.core d.core).matrixQueue.length (s.putCohort (calm d))
  let d1 := (s1.cohort? d.uid).getD (calm d)
  (s1.gather d.core fun r => d1.landings.any fun l => namedBy w l && r.ofLanding d1 l).takeReads d1 (namedBy w)

/-- The cohort with those landings in its registers. -/
def lwaitLanded (w : SynWord) (e : Cohort) : Cohort :=
  { (e.landings.filter (namedBy w)).foldl Cohort.land e with landings := e.landings.filter fun l => !namedBy w l }

/-- Whether one of them was outstanding at the word. -/
def lwaitWaits (w : SynWord) (d : Cohort) : Bool := d.landings.any fun l => namedBy w l && !l.landed

section
variable {s0 s s2 : State} {c d e : Cohort} {w : SynWord}

theorem execLwait_takes (hr : Ready s0 (.lwait w) Guard.always [] [] c s d) (htake : lwaitTakes s d w = (s2, e)) :
    exec (.lwait w) s0 = .next (match (e.landings.filter (namedBy w)).findSome? Landing.error with
      | some x =>
        if s2.peerOpen e then s2.holdPeer e
        else s2.takeTrap (lwaitLanded w e) (wordOf (.lwait w))
          { code := .memerr, lane := some x.lane, addr := x.addr, detail := x.code } []
      | none => s2.finish ((lwaitLanded w e).waited s2.clock (lwaitWaits w d)) (wordOf (.lwait w))) := by
  cases htake
  change execLwait w s0 = _
  unfold execLwait
  exact atStall_ready _ hr

theorem execLwait_lands (hr : Ready s0 (.lwait w) Guard.always [] [] c s d) (htake : lwaitTakes s d w = (s2, e))
    (herror : ∀ l ∈ e.landings, namedBy w l = true → l.error = none) :
    exec (.lwait w) s0 = .next (s2.finish ((lwaitLanded w e).waited s2.clock (lwaitWaits w d)) (wordOf (.lwait w))) := by
  have hnone : (e.landings.filter (namedBy w)).findSome? Landing.error = none :=
    List.findSome?_eq_none_iff.2 fun l hl => herror l (List.mem_filter.1 hl).1 (List.mem_filter.1 hl).2
  rw [execLwait_takes hr htake, hnone]

theorem lwaitWaits_iff : lwaitWaits w d = true ↔ ∃ l ∈ d.landings, namedBy w l = true ∧ l.landed = false := by
  simp [lwaitWaits]

end

/-! ## Spawns (R175, R379) -/

/-- The lanes that the charge admits are active ones above the greatest depth, and their children's charge fits. -/
theorem grantSpawns_charged (bays reserve charged : Nat) (fs : List Fibre) : ∀ f ∈ grantSpawns bays reserve charged fs,
    f ∈ fs ∧ f.depth < 32 ∧ charged + 18 * (grantSpawns bays reserve charged fs).length + reserve ≤ bays := by
  induction fs generalizing charged with
  | nil => intro f hf; nomatch hf
  | cons g gs ih =>
    intro f hf
    unfold grantSpawns at hf ⊢
    split at hf
    next hgrant =>
      obtain ⟨hdepth, hfits⟩ := Bool.and_eq_true_iff.1 hgrant
      have hfits := of_decide_eq_true hfits
      rw [if_pos hgrant, List.length_cons]
      have hrest : charged + 18 * ((grantSpawns bays reserve (charged + 18) gs).length + 1) + reserve ≤ bays := by
        cases hkids : grantSpawns bays reserve (charged + 18) gs with
        | nil => simpa using hfits
        | cons x xs =>
          obtain ⟨_, _, hcharge⟩ := ih (charged + 18) x (hkids ▸ List.mem_cons_self)
          rw [hkids] at hcharge
          omega
      obtain rfl | hf := List.mem_cons.1 hf
      · exact ⟨List.mem_cons_self, of_decide_eq_true hdepth, hrest⟩
      · obtain ⟨hmem, hlt, _⟩ := ih (charged + 18) f hf
        exact ⟨List.mem_cons_of_mem _ hmem, hlt, hrest⟩
    next hgrant =>
      rw [if_neg hgrant]
      obtain ⟨hmem, hlt, hcharge⟩ := ih charged f hf
      exact ⟨List.mem_cons_of_mem _ hmem, hlt, hcharge⟩

end Sys2Proof.Machine

namespace Sys2Proof
open Sys2Proof.Machine Sys2Proof.Claims

/-- Settles O44: each word past its stall point, and past its resume point where it may suspend. -/
theorem waitingWords : Obligations.WaitingWords := by
  unfold Obligations.WaitingWords
  refine ⟨semReached_iff, ?inc, ?wait, ?holds, ?held, ?lands, ?error⟩
  case inc =>
    intro s0 s c d w hr hact hfree
    change execSemInc w s0 = _
    unfold execSemInc
    refine (atSync_active hr hact).trans (congrArg _ ?_)
    exact releaseFor_free hfree
  case wait =>
    intro s0 s1 c e w h hr hact
    change execSemWait w s0 = _
    exact atWait_resumes hr hact
  case holds =>
    intro s0 s1 c e w h hr hact accs s2 s3 hclear herror hready hholds
    have hnone : (accs.filter fun a => !s3.watchHolds (waitCond e w a.devicePa)) = [] :=
      List.filter_eq_nil_iff.2 fun a ha => by simp [hholds a ha]
    change execWaitv w s0 = _
    unfold execWaitv
    refine (atWait_resumes hr hact).trans (congrArg _ ((withAccs_clear hclear).trans ?_))
    rw [herror]
    refine (watchRead_ready hready).trans ?_
    rw [hnone, synScope_eq]
    rfl
  case held =>
    intro s0 s1 c e w h hr hact accs s2 s3 held hclear herror hready hheld
    change execWaitv w s0 = _
    unfold execWaitv
    refine (atWait_resumes hr hact).trans (congrArg _ ((withAccs_clear hclear).trans ?_))
    rw [herror]
    refine (watchRead_ready hready).trans ?_
    exact if_neg fun hnone => hheld (List.isEmpty_iff.1 hnone)
  case lands =>
    intro s0 s c d w s2 e hr named s1 d1 htake herror e1 waits
    refine ⟨fun h => ?_, fun h => ?_⟩
    · rw [execLwait_lands hr htake herror, lwaitWaits_iff.2 h]
      rfl
    · rw [execLwait_lands hr htake herror, Bool.eq_false_iff.2 (mt lwaitWaits_iff.1 h)]
      rfl
  case error =>
    intro s0 s c d w s2 e x hr named s1 d1 htake herror hpeers
    rw [execLwait_takes hr htake, show (e.landings.filter (namedBy w)).findSome? Landing.error = some x from herror]
    exact congrArg _ (if_neg (by rw [hpeers]; exact Bool.false_ne_true))

end Sys2Proof
end

section
/-! SUPPORT. Spawns and joins (O45). -/

namespace Sys2Proof.Machine

open Sys2Proof Sys2Proof.Claims

section
variable {s : State} {c : Cohort} {w : SynWord} {entry : Nat} {kept : Bool} {accs : List Acc}

/-! ## Spawns (R143, R175, R379) -/

/-- The lanes of a word that the charge admits. -/
def spawnKids (s : State) (c : Cohort) (w : SynWord) : List Fibre :=
  grantSpawns (s.cellarBays (fnOf c.ctx)) (s.spawnReserve (fnOf c.ctx)) (s.cellarCharged (fnOf c.ctx)) (c.active w.guard)

/-- Their predicate set, and that of the other active lanes cleared. -/
def spawnMarked (s : State) (c : Cohort) (w : SynWord) : Cohort :=
  (c.active w.guard).foldl (fun x f => x.mapLane f.lane fun y =>
    y.setPred w.pd.toNat (((spawnKids s c w).map Fibre.lane).contains f.lane)) c

theorem spawnNow_none (h : spawnKids s c w = []) :
    s.spawnNow c w entry kept accs = s.finish (spawnMarked s c w) (wordOf (.spawn w)) :=
  if_pos (List.isEmpty_iff.2 h)

/-- A spawn that some lane succeeds in, once its release steps and its counter's entry let it go on. -/
theorem spawnNow_some (h : spawnKids s c w ≠ []) (hfree : freeToRelease s c 5)
    (hready : (releasedFor s c 5 w.guard).missReady c ((releasedFor s c 5 w.guard).lineNeed c 8 accs) = true) :
    s.spawnNow c w entry kept accs =
      ((accs.foldl (fun t a => (t.noteScope (synScope w) a).rmwNow c a (counterOp (spawnKids s c w).length))
        (((releasedFor s c 5 w.guard).spendGrant c).enterErrors c 8 accs)).spawnRecord c entry w.cnt.toNat kept
        ((spawnKids s c w).map fun f => f.child w.vx.toNat w.cnt.toNat
          (if c.sreg w.ub.toNat == 0 then none else some { addr := c.sreg w.ub.toNat, scope := synScope w }))).finish
        (spawnMarked s c w) (wordOf (.spawn w)) := by
  unfold State.spawnNow
  refine (if_neg fun hnone => h (List.isEmpty_iff.1 hnone)).trans ((releaseFor_free hfree).trans ?_)
  exact withMisses_ready hready

/-! ## Joins (R380) -/

/-- A word that makes no access passes every check of one. -/
theorem clear_nil {n : Nat} (h : s.abortedReq c.uid = none) : Clear s c [] true false n where
  sound := rfl
  answered := h
  translated := rfl
  unwatched := by
    unfold State.watchTrap
    split
    · rfl
    · rfl
  released := fun h => nomatch h

end

/-- A join whose counter can be read (R144, R380). -/
theorem execJoinW_counter {s0 s1 : State} {c e : Cohort} {w : SynWord} {h : Header} {a : Acc}
    (hr : Resumes s0 (.joinW w) w.guard [] [] c s1 e h) (hact : someActive e w.guard)
    (hone : s1.counterAcc e (e.sreg w.ua.toNat) .read = [a])
    (hclear : Clear s1 e (s1.counterAcc e (e.sreg w.ua.toNat) .read) true false 8)
    (hgood : (noted s1 e (s1.counterAcc e (e.sreg w.ua.toNat) .read) true false).accBad 8 a = false)
    (hready : let s2 := noted s1 e (s1.counterAcc e (e.sreg w.ua.toNat) .read) true false
      s2.missReady e (s2.loadNeed e false 8 (s1.counterAcc e (e.sreg w.ua.toNat) .read)) = true) :
    exec (.joinW w) s0 = .next (
      let accs := s1.counterAcc e (e.sreg w.ua.toNat) .read
      let s3 := watched (noted s1 e accs true false) e 8 accs
      if s3.counter a.devicePa == 0 then
        (s3.acquireAll e (max (synScope w) (s3.counterScope a.devicePa))).finish e (wordOf (.joinW w))
      else
        s3.suspendWatch e h (fun f => if (activeLanes e w.guard).contains f.lane then .join (e.sreg w.ua.toNat) else .none)
          fun r => match r.event with
            | .join _ => some { pa := a.devicePa, overflow := false, cc := 0#3, signed := false, comparand := 0#32 }
            | _ => none) := by
  rw [hone] at hclear hgood hready ⊢
  change execJoinW w s0 = _
  unfold execJoinW
  refine (atWait_resumes hr hact).trans (congrArg _ ?_)
  dsimp only
  rw [hone]
  refine (withAccs_clear hclear).trans ((if_neg (by rw [hgood]; exact Bool.false_ne_true)).trans ?_)
  exact watchRead_ready hready

end Sys2Proof.Machine

namespace Sys2Proof
open Sys2Proof.Machine Sys2Proof.Claims

/-- Settles O45: a spawn by whether the charge admits some lane, a join by what its counter reads. -/
theorem spawnAndJoin : Obligations.SpawnAndJoin := by
  unfold Obligations.SpawnAndJoin
  refine ⟨?spawn, grantSpawns_charged, ?zero, ?address0, ?waits⟩
  case spawn =>
    intro s0 s c d w h hr hact hhazard halign hheader hentry hsusp accs s1 hclear hwindow fs kids s2 hgo e scope s3
    have hexec : exec (.spawn w) s0 = .next (s1.spawnNow (calm d) w (d.sreg w.ua.toNat) h.kept accs) := by
      have hok : ¬ (!(h.entry && h.susp)) = true := by simp [hentry, hsusp]
      have haligned : ¬ (d.sreg w.ua.toNat % 8 != 0) = true := by simp [halign]
      change execSpawn w s0 = _
      unfold execSpawn
      refine (atSync_active hr hact).trans (congrArg _ ?_)
      refine (if_neg (by rw [show (calm d).hazard _ = false from hhazard]; exact Bool.false_ne_true)).trans ?_
      refine (if_neg haligned).trans ((toHeader_good _ _ hheader).trans ((if_neg hok).trans ((withAccs_clear hclear).trans ?_)))
      exact if_neg (by rw [show (calm d).outside _ = false from hwindow]; exact Bool.false_ne_true)
    rw [hexec]
    by_cases hkids : kids = []
    · rw [if_pos hkids, spawnNow_none (c := calm d) hkids]
      rfl
    · obtain ⟨hfree, hready⟩ := hgo hkids
      rw [if_neg hkids, spawnNow_some (c := calm d) hkids hfree hready, synScope_eq]
      simp only [beq_iff_eq]
      rfl
  case zero =>
    intro s0 s1 c e w h a hr hact hsome accs s2 s3 hone hclear hgood hready hzero
    rw [execJoinW_counter hr hact hone hclear hgood hready]
    refine congrArg _ ((if_pos (beq_iff_eq.2 hzero)).trans ?_)
    rw [synScope_eq]
  case address0 =>
    intro s0 s1 c e w h hr hact hnone hanswered
    have haccs : s1.counterAcc e (e.sreg w.ua.toNat) .read = [] := if_pos (beq_iff_eq.2 hnone)
    change execJoinW w s0 = _
    unfold execJoinW
    refine (atWait_resumes hr hact).trans (congrArg _ ?_)
    dsimp only
    rw [haccs, ← synScope_eq]
    exact withAccs_clear (clear_nil hanswered)
  case waits =>
    intro s0 s1 c e w h a hr hact hsome accs s2 s3 hone hclear hgood hready hcount
    rw [execJoinW_counter hr hact hone hclear hgood hready]
    exact congrArg _ (if_neg (by simpa using hcount))

end Sys2Proof
end

section
/-! SUPPORT. The engine words (O46). -/

namespace Sys2Proof.Machine

open Sys2Proof Sys2Proof.Claims

section
variable {i : Instr} {op : Nat} {s0 s : State} {c d : Cohort} {w : SynWord}

@[simp] theorem calm_core (d : Cohort) : (calm d).core = d.core := rfl
@[simp] theorem calm_ctx (d : Cohort) : (calm d).ctx = d.ctx := rfl
@[simp] theorem calm_leadTeam (d : Cohort) : (calm d).leadTeam = d.leadTeam := rfl
@[simp] theorem calm_sreg (d : Cohort) (n : Nat) : (calm d).sreg n = d.sreg n := rfl

/-- Each engine word queues an operation of its own code (R381). -/
theorem exec_engineWord (hi : (i, op) ∈ [(Instr.copy w, 0xCA), (.copy2d w, 0xCA), (.gath w, 0xCB), (.scat w, 0xCC), (.coll w, 0xCD)])
    (s0 : State) : exec i s0 = execEngine i w op s0 := by
  simp only [List.mem_cons, List.not_mem_nil, or_false, Prod.mk.injEq] at hi
  obtain ⟨rfl, rfl⟩ | ⟨rfl, rfl⟩ | ⟨rfl, rfl⟩ | ⟨rfl, rfl⟩ | ⟨rfl, rfl⟩ := hi
  · exact (rfl : _ = execCopy w s0)
  · exact (rfl : _ = execCopy2d w s0)
  · exact (rfl : _ = execGath w s0)
  · exact (rfl : _ = execScat w s0)
  · exact (rfl : _ = execColl w s0)

/-- An engine word that names a barrier finds its lead team with that barrier valid (R381), or it is trapped. -/
theorem engine_barrier {lead : Option Team} (h : w.co = 1 → ∃ t, lead = some t ∧ (t.bar w.bar.toNat).valid = true) :
    (w.co == 1#3 && lead.isNone) = false ∧ (w.co == 1#3 && !(lead.elim false fun t => (t.bar w.bar.toNat).valid)) = false := by
  by_cases hco : w.co = 1
  · obtain ⟨t, rfl, hvalid⟩ := h hco
    simp [hvalid]
  · have hno : (w.co == 1#3) = false := beq_eq_false_iff_ne.2 hco
    simp [hno]

/-- An engine word whose operands, entry and charge are there (R381). -/
theorem execEngine_queues (hr : Ready s0 i w.guard [] [] c s d) (hact : someActive d w.guard)
    (hbar : w.co = 1 → ∃ t, s.leadOf (calm d) ((calm d).active w.guard) = some t ∧ (t.bar w.bar.toNat).valid = true)
    (hargs : engineBad op w.mod.toNat ((engineRegs d w).map BitVec.toNat) = false)
    (hroom : s.engineRoom (dieOf d.core) (fnOf d.ctx) = true) (hcharge : s.cellarCharged (fnOf d.ctx) + 1 ≤ s.cellarBays (fnOf d.ctx))
    (howed : ∀ o, s.owedBy d.uid = some o → 5 ≤ o.1 → s.peerOpen (calm d) = false) :
    execEngine i w op s0 = .next (let s1 := paid s (calm d)
      { s1 with engines := s1.engines ++ [engineOf w op (calm d) s1.nextUid (engineRegs d w)], nextUid := s1.nextUid + 1 }.finish
        (calm d) (wordOf i)) := by
  obtain ⟨hteam, hvalid⟩ := engine_barrier hbar
  unfold execEngine
  refine (atSync_active hr hact).trans (congrArg _ ?_)
  refine (if_neg (by rw [hteam]; exact Bool.false_ne_true)).trans ((if_neg (by rw [hvalid]; exact Bool.false_ne_true)).trans ?_)
  refine (if_neg (fun h => Bool.false_ne_true (hargs.symm.trans h))).trans ?_
  refine (if_neg (by rw [calm_core, calm_ctx, hroom]; exact Bool.noConfusion)).trans ?_
  exact (if_neg (Nat.not_lt.2 hcharge)).trans (payRelease_free howed)

end

end Sys2Proof.Machine

namespace Sys2Proof
open Sys2Proof.Machine Sys2Proof.Claims

/-- Settles O46: nothing stops an engine word before the queue; `eng.q` by what stands under its address. -/
theorem engineWords : Obligations.EngineWords := by
  unfold Obligations.EngineWords
  refine ⟨?queued, ?address0, ?progress, ?status⟩
  case queued =>
    intro i op s0 s c d w hi hr hact hbar hargs hroom hcharge howed s1
    rw [exec_engineWord hi]
    rw [execEngine_queues hr hact hbar hargs hroom hcharge howed]
    unfold engineOf
    simp only [beq_iff_eq]
    rfl
  case address0 =>
    intro s0 s c d w hr hact hva
    change execEngQ w s0 = _
    unfold execEngQ
    refine (atSync_active hr hact).trans (congrArg _ ?_)
    exact if_pos (beq_iff_eq.2 hva)
  case progress =>
    intro s0 s c d w e hr hact hva hop
    have hsome : ¬ (d.sreg w.ua.toNat == 0) = true := by simpa using hva
    change execEngQ w s0 = _
    unfold execEngQ
    refine (atSync_active hr hact).trans (congrArg _ ((if_neg hsome).trans ?_))
    rw [calm_ctx, calm_sreg, hop]
    rfl
  case status =>
    intro s0 s c d w hr hact hva hop accs s1 s2 s3 hclear hready hdata herror
    have hsome : ¬ (d.sreg w.ua.toNat == 0) = true := by simpa using hva
    change execEngQ w s0 = _
    unfold execEngQ
    refine (atSync_active hr hact).trans (congrArg _ ((if_neg hsome).trans ?_))
    rw [calm_ctx, calm_sreg, hop]
    refine (withAccs_clear hclear).trans ((withMisses_ready hready).trans ?_)
    simp only [accs, s2] at hdata herror
    simp only [calm_leadTeam, hdata, herror]
    rfl

end Sys2Proof
end

section
/-! SUPPORT. What the end of a segment leaves (O47, O49): the results in flight and the landings written (R139), the records of
a cohort's fibres (R196), and the core that it leaves (R197, R204). -/

namespace Sys2Proof.Machine

open Sys2Proof Sys2Proof.Claims

/-! ## Results and landings written (R139, R232, R237) -/

/-- A cohort without what the results of both sides, and its landings, change as they are written. -/
def Cohort.fixed (c : Cohort) : Cohort := { c.beside with landings := [] }

/-- Cohorts that agree in what is fixed agree in whatever reads no more. -/
theorem eq_of_fixed {α : Type} {c d : Cohort} (g : Cohort → α) (hg : ∀ e : Cohort, g e.fixed = g e) (h : d.fixed = c.fixed) :
    g d = g c := (hg d).symm.trans ((congrArg g h).trans (hg c))

theorem fixed_of_besideV {c d : Cohort} (h : d.besideV = c.besideV) : d.fixed = c.fixed :=
  congrArg (fun x : Cohort => { x.besideU with conv := 0, liveRun := 0, landings := [] }) h

theorem fixed_of_beside {c d : Cohort} (h : d.beside = c.beside) : d.fixed = c.fixed :=
  congrArg (fun x : Cohort => { x with landings := [] }) h

theorem cycles_keeps {β : Type} (p : Cohort → β) {g : Cohort → Cohort} (hg : ∀ c, p (g c) = p c) (n : Nat) (c : Cohort) :
    p (cycles g n c) = p c := by
  induction n generalizing c with
  | zero => rfl
  | succ n ih => exact (ih (g c)).trans (hg c)

theorem drain_fixed (c : Cohort) : c.drain.fixed = c.fixed :=
  (cycles_keeps _ (fun c => fixed_of_beside (tickU_beside c)) ..).trans
    (cycles_keeps _ (fun c => fixed_of_besideV (tickV_besideV c)) ..)

theorem land_besideV (c : Cohort) (l : Landing) : (c.land l).besideV = c.besideV := by
  unfold Cohort.land
  split
  · rfl
  · exact List.foldlRecOn (motive := fun d : Cohort => d.besideV = c.besideV) _ _ rfl fun d hd w _ => (write_besideV d w).trans hd

theorem landAll_besideV (c : Cohort) : c.landAll.besideV = { c.besideV with landings := [] } :=
  congrArg (fun x : Cohort => { x with landings := [] })
    (List.foldlRecOn (motive := fun d : Cohort => d.besideV = c.besideV) c.landings Cohort.land rfl
      fun d hd l _ => (land_besideV d l).trans hd)

theorem landAll_sregs (c : Cohort) : c.landAll.sregs = c.sregs :=
  have hsregs (d : Cohort) : d.besideV.sregs = d.sregs := rfl
  (hsregs c.landAll).symm.trans ((congrArg Cohort.sregs (landAll_besideV c)).trans (hsregs c))

theorem landAll_flightU (c : Cohort) : c.landAll.flightU = c.flightU :=
  have hflight (d : Cohort) : d.besideV.flightU = d.flightU := rfl
  (hflight c.landAll).symm.trans ((congrArg Cohort.flightU (landAll_besideV c)).trans (hflight c))

theorem landAll_fixed (c : Cohort) : c.landAll.fixed = c.fixed :=
  congrArg (fun x : Cohort => { x.besideU with conv := 0, liveRun := 0, landings := [] }) (landAll_besideV c)

theorem quiesced_fixed (c : Cohort) : c.quiesced.fixed = c.fixed := by
  have hlatches (d : Cohort) : Cohort.fixed { d with latches := deadLatches } = d.fixed := rfl
  exact (hlatches c.drain.landAll).trans ((landAll_fixed c.drain).trans (drain_fixed c))

/-- Nothing is in flight on the uniform side once its longest latency has passed. -/
theorem cycles_tickU_flightU (n : Nat) (c : Cohort) (h : ∀ r ∈ c.flightU, r.left ≤ n + 1) :
    (cycles Cohort.tickU (n + 1) c).flightU = [] := by
  induction n generalizing c with
  | zero =>
    change c.tickU.flightU = []
    rw [tickU_eq]
    refine List.filter_eq_nil_iff.2 fun r hr => ?_
    obtain ⟨q, hq, rfl⟩ := List.mem_map.1 hr
    have := h q hq
    simp [InFlightU.aged]
    omega
  | succ n ih =>
    refine ih c.tickU fun r hr => ?_
    rw [tickU_eq] at hr
    obtain ⟨q, hq, rfl⟩ := List.mem_map.1 (List.mem_of_mem_filter hr)
    have := h q hq
    simp only [InFlightU.aged]
    omega

theorem foldl_max_bounds {α : Type} (g : α → Nat) (xs : List α) (m : Nat) :
    m ≤ xs.foldl (fun m x => max m (g x)) m ∧ ∀ x ∈ xs, g x ≤ xs.foldl (fun m x => max m (g x)) m := by
  induction xs generalizing m with
  | nil => exact ⟨Nat.le_refl m, fun x hx => nomatch hx⟩
  | cons y ys ih =>
    obtain ⟨hstart, hrest⟩ := ih (max m (g y))
    refine ⟨(Nat.le_max_left ..).trans hstart, fun x hx => ?_⟩
    obtain rfl | hx := List.mem_cons.1 hx
    · exact (Nat.le_max_right ..).trans hstart
    · exact hrest x hx

theorem drain_flightU (c : Cohort) : c.drain.flightU = [] := by
  obtain ⟨hstart, hall⟩ := foldl_max_bounds InFlightU.left c.drainV.flightU 2
  unfold Cohort.drain Cohort.drainU
  generalize c.drainV.flightU.foldl (fun m r => max m r.left) 2 = n at hstart hall
  obtain ⟨k, rfl⟩ : ∃ k, n = k + 1 := ⟨n - 1, by omega⟩
  exact cycles_tickU_flightU k _ hall

/-- With nothing in flight on the uniform side, its drain writes no register. -/
theorem drain_sregs {c : Cohort} (h : c.flightU = []) : c.drain.sregs = c.sregs := by
  have hV : c.drainV.sregs = c.sregs ∧ c.drainV.flightU = [] :=
    ⟨cycles_keeps _ tickV_sregs .., (cycles_keeps _ tickV_flightU ..).trans h⟩
  have hU (n : Nat) (d : Cohort) (hd : d.flightU = []) : (cycles Cohort.tickU n d).sregs = d.sregs := by
    induction n generalizing d with
    | zero => rfl
    | succ n ih => exact (ih d.tickU (by simp [tickU_eq, hd])).trans (tickU_sregs hd)
  exact (hU _ _ hV.2).trans hV.1

theorem drain_sregs_length (c : Cohort) : c.drain.sregs.length = c.sregs.length :=
  (cycles_keeps (fun d => d.sregs.length) tickU_sregs_length ..).trans
    (congrArg List.length (cycles_keeps _ tickV_sregs ..))

theorem lanes_of_fixed {c d : Cohort} (h : d.fixed = c.fixed) : d.fibres.map Fibre.lane = c.fibres.map Fibre.lane :=
  eq_of_fixed (fun e => e.fibres.map Fibre.lane) (beside_fibres_map _ fun _ => rfl) h

/-! ## The core that a cohort leaves (R197, R204) -/

theorem fuse_records (s : State) (core e : Nat) : (s.fuse core e).records = s.records := by
  unfold State.fuse
  split
  · rfl
  · dsimp only
    split
    · rfl
    · rfl

theorem fuseAll_records (s : State) (core : Nat) : (s.fuseAll core).records = s.records := by
  refine foldl_keeps State.records (fun t e => ?_) ..
  split
  · exact ite_keeps (fuse_records ..) rfl
  · rfl

/-- A fusion makes no cohort of another identifier. -/
theorem fuse_uids {s : State} {core e : Nat} {c : Cohort} (hc : c ∈ (s.fuse core e).cohorts) : ∃ d ∈ s.cohorts, d.uid = c.uid := by
  unfold State.fuse at hc
  split at hc
  · exact ⟨c, hc, rfl⟩
  · dsimp only at hc
    split at hc
    · exact ⟨c, hc, rfl⟩
    · obtain ⟨d, hd, rfl⟩ := List.mem_map.1 hc
      refine ⟨d, List.mem_of_mem_filter hd, ?_⟩
      split
      next huid => exact beq_iff_eq.1 huid
      next => rfl

theorem fuseAll_uids {s : State} {core : Nat} {c : Cohort} (hc : c ∈ (s.fuseAll core).cohorts) : ∃ d ∈ s.cohorts, d.uid = c.uid := by
  unfold State.fuseAll at hc
  revert c
  refine List.foldlRecOn (motive := fun t : State => ∀ {c}, c ∈ t.cohorts → ∃ d ∈ s.cohorts, d.uid = c.uid) _ _
    (fun {c} hc => ⟨c, hc, rfl⟩) fun t ht e _ c hc => ?_
  split at hc
  · split at hc
    · obtain ⟨d, hd, huid⟩ := fuse_uids hc
      obtain ⟨x, hx, hxd⟩ := ht hd
      exact ⟨x, hx, hxd.trans huid⟩
    · exact ht hc
  · exact ht hc

/-- A cohort is gone from its core, and the parked sub-cohorts of its split entry may fuse. -/
theorem leaveCore_eq (s : State) (c : Cohort) : ∃ t : State, t.records = s.records ∧ t.cohorts = (s.dropCohort c.uid).cohorts ∧
    (s.leaveCore c = t ∨ s.leaveCore c = t.fuseAll c.core) := by
  unfold State.leaveCore
  extract_lets src s0 k0 s1 k
  have hs1 : (s1.records, s1.cohorts) = (s.records, (s.dropCohort c.uid).cohorts) :=
    ite_keeps (p := fun t : State => (t.records, t.cohorts)) rfl rfl
  obtain ⟨hrecords, hcohorts⟩ := Prod.mk.injEq .. ▸ hs1
  clear_value s1 k
  cases c.split with
  | none => exact ⟨s1, hrecords, hcohorts, .inl rfl⟩
  | some e =>
    exact ⟨s1.putCore (k.leaveSplit Config.splitEntries c.parked (some e)), hrecords, hcohorts, .inr rfl⟩

theorem leaveCore_records (s : State) (c : Cohort) : (s.leaveCore c).records = s.records := by
  obtain ⟨t, hrecords, _, h | h⟩ := leaveCore_eq s c
  · rw [h, hrecords]
  · rw [h, fuseAll_records, hrecords]

theorem leaveCore_uids {s : State} {c e : Cohort} (he : e ∈ (s.leaveCore c).cohorts) : e.uid ≠ c.uid := by
  obtain ⟨t, _, hcohorts, h⟩ := leaveCore_eq s c
  obtain ⟨d, hd, huid⟩ : ∃ d ∈ t.cohorts, d.uid = e.uid := by
    obtain h | h := h
    · exact ⟨e, h ▸ he, rfl⟩
    · exact fuseAll_uids (h ▸ he)
  rw [hcohorts] at hd
  rw [← huid]
  simpa using (List.mem_filter.1 hd).2

end Sys2Proof.Machine
end

section
/-! SUPPORT. Traps (O47 to O49): the records that a trap and the return from one leave (R452, R454), which traps are fatal (R453),
and what a fatal one leaves (R455). -/

namespace Sys2Proof.Machine

open Sys2Proof Sys2Proof.Claims

@[simp] theorem fixed_uid (c : Cohort) : c.fixed.uid = c.uid := by
  dsimp only [Cohort.fixed, Cohort.beside, Cohort.besideV, Cohort.besideU]

@[simp] theorem fixed_tag (c : Cohort) : c.fixed.tag = c.tag := by
  dsimp only [Cohort.fixed, Cohort.beside, Cohort.besideV, Cohort.besideU]

@[simp] theorem fixed_ctx (c : Cohort) : c.fixed.ctx = c.ctx := by
  dsimp only [Cohort.fixed, Cohort.beside, Cohort.besideV, Cohort.besideU]

/-! ## Records of a cohort's fibres (R196) -/

section
variable {s s1 : State} {c d : Cohort} {k : Cause} {ev : Fibre → Event}

/-- A cohort whose results are written and whose frames are all in the Attic, as its records find it (R139, R222). -/
def spilled (s : State) (c : Cohort) : Cohort := (s.spillFrames c.quiesced fun _ => 0).2

theorem spilled_eq (s : State) (c : Cohort) : ∃ m, spilled s c = { c.quiesced with
    fibres := c.quiesced.fibres.map fun f => f.spill 0 m } := ⟨_, rfl⟩

theorem spilled_uid (s : State) (c : Cohort) : (spilled s c).uid = c.uid := by
  obtain ⟨m, h⟩ := spilled_eq s c
  have hq := eq_of_fixed Cohort.uid fixed_uid (quiesced_fixed c)
  rw [h]
  generalize c.quiesced = q at hq ⊢
  exact hq

theorem spilled_tag (s : State) (c : Cohort) : (spilled s c).tag = c.tag := by
  obtain ⟨m, h⟩ := spilled_eq s c
  have hq := eq_of_fixed Cohort.tag fixed_tag (quiesced_fixed c)
  rw [h]
  generalize c.quiesced = q at hq ⊢
  exact hq

theorem spilled_sregs (s : State) (c : Cohort) : (spilled s c).sregs = c.drain.sregs := by
  obtain ⟨m, h⟩ := spilled_eq s c
  rw [h]
  exact landAll_sregs c.drain

theorem spilled_lanes (s : State) (c : Cohort) : (spilled s c).fibres.map Fibre.lane = c.fibres.map Fibre.lane := by
  obtain ⟨m, h⟩ := spilled_eq s c
  have hspill : (c.quiesced.fibres.map fun f => f.spill 0 m).map Fibre.lane = c.quiesced.fibres.map Fibre.lane :=
    (List.map_map ..).trans (List.map_congr_left fun _ _ => rfl)
  rw [h]
  exact hspill.trans (lanes_of_fixed (quiesced_fixed c))

/-- What each of a suspending cohort's records is made of. -/
def recordOf (d : Cohort) (k : Cause) (ev : Fibre → Event) (r : Record) : Prop :=
  ∃ (t : State) (team : BitVec 32) (f : Fibre) (uid : Nat) (fs : List Fibre), r = t.makeRecord d k team (ev f) uid fs

/-- Such a record resumes, waits and is kept as its cause says, with its cohort's registers (R160, R161). -/
theorem recordOf_fields {r : Record} (h : recordOf d k ev r) : r.kind = k.kind ∧ r.resume = k.resume ∧ (∃ f, r.event = ev f) ∧
    (k.kept = true → r.kept = true) ∧ r.sregs = d.sregs.take k.ucnt := by
  obtain ⟨t, team, f, uid, fs, rfl⟩ := h
  refine ⟨rfl, rfl, ⟨f, rfl⟩, fun hkept => ?_, rfl⟩
  simp [State.makeRecord, hkept]

theorem writeRecords_records (s : State) (c : Cohort) (k : Cause) (ev : Fibre → Event) :
    ∃ recs, (s.writeRecords c k ev).records = s.records ++ recs ∧ ∀ r ∈ recs, recordOf (spilled s c) k ev r := by
  have hfold (d : Cohort) (groups : List (BitVec 32 × Event)) (hgroups : ∀ g ∈ groups, ∃ f, g.2 = ev f) (t : State) :
      ∃ recs, (groups.foldl (fun t g => { t with
        records := t.records ++ [t.makeRecord d k g.1 g.2 t.nextUid (d.fibres.filter fun f => f.team == g.1 && ev f == g.2)]
        nextUid := t.nextUid + 1 }) t).records = t.records ++ recs ∧ ∀ r ∈ recs, recordOf d k ev r := by
    induction groups generalizing t with
    | nil => exact ⟨[], (List.append_nil _).symm, fun r hr => nomatch hr⟩
    | cons g gs ih =>
      obtain ⟨recs, hrecs, hall⟩ := ih (fun x hx => hgroups x (List.mem_cons_of_mem g hx)) { t with
        records := t.records ++ [t.makeRecord d k g.1 g.2 t.nextUid (d.fibres.filter fun f => f.team == g.1 && ev f == g.2)]
        nextUid := t.nextUid + 1 }
      obtain ⟨f, hf⟩ := hgroups g List.mem_cons_self
      refine ⟨_ :: recs, hrecs.trans (List.append_assoc ..), fun r hr => ?_⟩
      obtain rfl | hr := List.mem_cons.1 hr
      · exact ⟨t, g.1, f, _, _, by rw [hf]⟩
      · exact hall r hr
  have hgroups : ∀ g ∈ eventGroups ev (spilled s c).fibres, ∃ f, g.2 = ev f := fun g hg => by
    obtain ⟨f, _, rfl⟩ := List.mem_map.1 (List.mem_eraseDups.1 hg)
    exact ⟨f, rfl⟩
  obtain ⟨recs, hrecs, hall⟩ := hfold (spilled s c) _ hgroups (s.spillFrames c.quiesced fun _ => 0).1
  exact ⟨recs, (leaveCore_records ..).trans hrecs, hall⟩

theorem writeRecords_uids {e : Cohort} (he : e ∈ (s.writeRecords c k ev).cohorts) : e.uid ≠ c.uid :=
  spilled_uid s c ▸ leaveCore_uids he

theorem countRecords_aside (s : State) (n core : Nat) (kind cause : Record → Nat) :
    (s.countRecords n core kind cause).aside = s.aside := foldl_keeps State.aside (fun _ _ => decide_aside ..) ..

theorem intoRecords_records (s : State) (c : Cohort) (k : Cause) (ev : Fibre → Event) :
    ∃ recs, (s.intoRecords c k ev).records = s.records ++ recs ∧ ∀ r ∈ recs, recordOf (spilled s c) k ev r := by
  obtain ⟨recs, hrecs, hall⟩ := writeRecords_records s c k ev
  exact ⟨recs, (congrArg State.records (countRecords_aside ..) :).trans hrecs, hall⟩

theorem intoRecords_uids {e : Cohort} (he : e ∈ (s.intoRecords c k ev).cohorts) : e.uid ≠ c.uid :=
  writeRecords_uids ((congrArg State.cohorts (countRecords_aside ..) :) ▸ he)

/-! ## The end of a segment (R126, R139) -/

theorem closing_ends {f : State → Cohort → State} (h : segmentEnds s c s1 d) : s.closing c f = f s1 d := by
  obtain ⟨sA, cA, hdrain, hpeers, hclose⟩ := h
  unfold State.closing
  rw [hdrain]
  dsimp only
  rw [hpeers, hclose]
  rfl

/-- A trap taken once nothing that the cohort has left to raise takes its place. -/
theorem takeTrap_ends {word : Word64} {t : TrapInfo} {lanes : List Nat} (h : segmentEnds s c s1 d) (hfailure : d.failure = none) :
    s.takeTrap c word t lanes = s1.enterTrap d word t (t.lane.getD ((lanes ++ [c.lowLane]).headD 0)) (c.pc, c.block) := by
  unfold State.takeTrap State.trapTo
  refine (closing_ends h).trans ?_
  rw [hfailure, Option.filter_none]

end

/-! ## Trap records (R452) -/

/-- A trapped cohort, its results written, with the frame in `s152` to `s159`. -/
def framed (s : State) (d : Cohort) (word : Word64) (t : TrapInfo) (lane : Nat) (at_ : Nat × Nat) : Cohort :=
  { d.drain.landAll with sregs := d.drain.landAll.sregs.take 152 ++ trapFrame d.drain.landAll word t lane at_ s.heart }

/-- What its records hold beside its fibres. -/
def trapCause (s : State) (d : Cohort) (word : Word64) (t : TrapInfo) (lane : Nat) : Cause :=
  { kind := .trap, resume := handlerEntry (s.trapEnt d.ctx), reissue := false, block := 0, kept := true
    vcnt := d.window, ucnt := 160
    trap := some { code := BitVec.ofNat 16 t.code.code, lane, word, addr := BitVec.ofNat 64 t.addr, detail := BitVec.ofNat 64 t.detail }
    pd := 0, watch := none, skip := false, stepping := false, stepDue := none, check := .handler }

section
variable {s : State} {d : Cohort} {word : Word64} {t : TrapInfo} {lane : Nat} {at_ : Nat × Nat}

theorem enterTrap_notFatal (h : s.fatalWhy d t = none) :
    s.enterTrap d word t lane at_ =
      s.intoRecords (framed s d word t lane at_) (trapCause s d.drain.landAll word t lane) fun _ => .none := by
  unfold State.enterTrap
  rw [h]
  rfl

theorem enterTrap_fatal {why : Nat} (h : s.fatalWhy d t = some why) :
    s.enterTrap d word t lane at_ = (s.hurryTests t.structure_ d.core).fatal { d with pc := t.site.getD d.pc } t.code.code why t.addr := by
  unfold State.enterTrap
  rw [h]

theorem drain_landAll_fixed (d : Cohort) : d.drain.landAll.fixed = d.fixed := (landAll_fixed d.drain).trans (drain_fixed d)

/-- The registers of a trap record. -/
theorem spilled_framed_sregs : (spilled s (framed s d word t lane at_)).sregs =
    d.drain.landAll.sregs.take 152 ++ trapFrame d.drain.landAll word t lane at_ s.heart := by
  have hflight : (framed s d word t lane at_).flightU = [] := (landAll_flightU d.drain).trans (drain_flightU d)
  exact (spilled_sregs ..).trans (drain_sregs hflight)

theorem trapFrame_eq : trapFrame d.drain.landAll word t lane at_ s.heart = [BitVec.ofNat 64 (t.code.code + lane * 2 ^ 16), word,
    BitVec.ofNat 64 t.addr, BitVec.ofNat 64 t.detail, BitVec.ofNat 64 at_.1, BitVec.ofNat 64 (slice at_.2 48 3 * 8),
    BitVec.ofNat 64 d.tag.toNat, BitVec.ofNat 64 (s.clock / 256)] := by
  have htag := eq_of_fixed Cohort.tag fixed_tag (drain_landAll_fixed d)
  unfold trapFrame
  rw [htag]
  rfl

end

end Sys2Proof.Machine

namespace Sys2Proof
open Sys2Proof.Machine Sys2Proof.Claims

/-- Settles O47: the trap is not fatal once the segment has ended, and each record is made of the trapped cohort. -/
theorem trapEntry : Obligations.TrapEntry := by
  unfold Obligations.TrapEntry
  intro s s1 c d word t lanes hends hfailure hwhy hlen u lane
  have hu : u = s1.intoRecords (framed s1 d word t lane (c.pc, c.block)) (trapCause s1 d.drain.landAll word t lane) fun _ => .none :=
    (takeTrap_ends hends hfailure).trans (enterTrap_notFatal hwhy)
  have huid : (framed s1 d word t lane (c.pc, c.block)).uid = d.uid := eq_of_fixed Cohort.uid fixed_uid (drain_landAll_fixed d)
  have hctx : d.drain.landAll.ctx = d.ctx := eq_of_fixed Cohort.ctx fixed_ctx (drain_landAll_fixed d)
  have hregs : (d.drain.landAll.sregs.take 152).length = 152 := by
    rw [landAll_sregs, List.length_take, drain_sregs_length, hlen]
    rfl
  rw [hu]
  refine ⟨?records, fun e he => huid ▸ intoRecords_uids he⟩
  obtain ⟨recs, hrecs, hall⟩ := intoRecords_records s1 (framed s1 d word t lane (c.pc, c.block))
    (trapCause s1 d.drain.landAll word t lane) fun _ => .none
  refine ⟨recs, hrecs, fun r hr => ?_⟩
  obtain ⟨hkind, hresume, ⟨_, hevent⟩, hkept, hsregs⟩ := recordOf_fields (hall r hr)
  have hall160 : r.sregs = d.drain.landAll.sregs.take 152 ++ trapFrame d.drain.landAll word t lane (c.pc, c.block) s1.heart := by
    rw [hsregs, spilled_framed_sregs]
    refine List.take_of_length_le ?_
    rw [List.length_append, hregs]
    exact Nat.le_refl 160
  refine ⟨hkind, hresume.trans (congrArg (fun n => handlerEntry (s1.trapEnt n)) hctx), hevent, hkept rfl, ?_, ?_⟩
  · rw [hall160, List.take_left' hregs]
  · rw [hall160, List.drop_left' hregs, trapFrame_eq]

end Sys2Proof
end

section
/-! SUPPORT. What a fatal trap leaves (O48, R455) and the record of a return from a trap (O49, R454). -/

namespace Sys2Proof.Machine

open Sys2Proof Sys2Proof.Claims

/-! ## What the end of a launch leaves (R402, R455) -/

/-- A launch is gone: its cohorts, its teams and its records but those of operations; its status stands. -/
structure Ended (s : State) (num : BitVec 32) (status : Nat) : Prop where
  cohorts : ∀ c ∈ s.cohorts, c.launch ≠ num
  unplaced : ∀ u ∈ s.unplaced, u.cohort.launch ≠ num
  records : ∀ r ∈ s.records, r.launch = num → r.engine ≠ none
  teams : ∀ t ∈ s.teams, t.launch ≠ num
  launches : ∀ l ∈ s.launches, l.num = num → l.status = status

theorem Ended.of_aside {s t : State} {num : BitVec 32} {status : Nat} (h : Ended s num status) (ha : t.aside = s.aside) :
    Ended t num status where
  cohorts := (congrArg State.cohorts ha :) ▸ h.cohorts
  unplaced := (congrArg State.unplaced ha :) ▸ h.unplaced
  records := (congrArg State.records ha :) ▸ h.records
  teams := (congrArg State.teams ha :) ▸ h.teams
  launches := (congrArg State.launches ha :) ▸ h.launches

/-- A record released keeps its launch and its operation. -/
theorem Ended.release {s : State} {num : BitVec 32} {status : Nat} (h : Ended s num status) {r : Record}
    (hr : r.launch = num → r.engine ≠ none) : Ended (s.release r) num status where
  cohorts := h.cohorts
  unplaced := h.unplaced
  records := fun q hq => by
    obtain ⟨x, hx, rfl⟩ := List.mem_map.1 hq
    split
    · exact hr
    · exact h.records x hx
  teams := h.teams
  launches := h.launches

theorem Ended.wakeCharge {s : State} {num : BitVec 32} {status : Nat} (h : Ended s num status) (fn : Nat) :
    Ended (s.wakeCharge fn) num status :=
  List.foldlRecOn (motive := fun t : State => Ended t num status) s.records _ h fun t ht r hr => by
    split
    · exact ht.release (h.records r hr)
    · exact ht

theorem endsLater_engine {s : State} {r : Record} (h : s.endsLater r = true) : r.engine ≠ none := fun he => by
  simp [State.endsLater, he] at h

theorem endLaunch_ended (s : State) (num : BitVec 32) (status : Nat) : Ended (s.endLaunch num status) num status := by
  unfold State.endLaunch
  extract_lets fn s0 s1 gone late attic s2 s3
  refine Ended.wakeCharge ⟨fun c hc => ?_, fun u hu => ?_, fun r hr hnum => ?_, fun t ht => ?_, fun l hl hnum => ?_⟩ fn
  · simpa using (List.mem_filter.1 hc).2
  · simpa using (List.mem_filter.1 hu).2
  · have hkept := (List.mem_filter.1 hr).2
    rw [hnum, bne_self_eq_false, Bool.false_or] at hkept
    exact endsLater_engine hkept
  · simpa using (List.mem_filter.1 ht).2
  · obtain ⟨x, _, rfl⟩ := List.mem_map.1 hl
    by_cases hx : (x.num == num) = true
    · rw [if_pos hx]
    · rw [if_neg hx] at hnum
      exact absurd (beq_iff_eq.2 hnum) hx

theorem Ended.reportFatal {s : State} {num : BitVec 32} {status : Nat} (h : Ended s num status) (fn : Nat) (d : List Byte) :
    Ended (s.reportFatal fn d) num status := by
  have hpending (t : State) (ps : List (Nat × List Byte)) (ht : Ended t num status) :
      Ended { t with fatalPending := ps } num status := ⟨ht.cohorts, ht.unplaced, ht.records, ht.teams, ht.launches⟩
  unfold State.reportFatal
  split
  · exact h
  · unfold State.postFatals
    refine List.foldlRecOn (motive := fun t : State => Ended t num status) _ _ (hpending _ _ (hpending _ _ h)) fun t ht p _ => ?_
    split
    · exact hpending _ _ ht
    · exact ht.of_aside ((signal_aside ..).trans (ringPut_aside ..))

theorem fatal_ended (s : State) (c : Cohort) (code why addr : Nat) : Ended (s.fatal c code why addr) c.launch 1 :=
  (endLaunch_ended ..).reportFatal ..

/-! ## Which traps are fatal (R453) -/

section
variable {s : State} {c : Cohort} {t : TrapInfo}

/-- A trap that may have a handler is fatal as the header at the handler's entry says. -/
theorem fatalWhy_handled (hcode : t.code.code < 0x80) (hon : bitOf (s.trapEnt c.ctx) 63 = true)
    (hout : inHandler (s.trapEnt c.ctx) (t.site.getD c.pc) = false) :
    s.fatalWhy c t = match s.headerAt c (handlerEntry (s.trapEnt c.ctx)) with
      | .good h => if h.entry && h.susp then none else some 3
      | .bad _ => some 3
      | .unread (.trap _) => some 3
      | .unread _ => none := by
  unfold State.fatalWhy
  rw [if_neg (Nat.not_le.2 hcode), hon, hout]
  rfl

end

/-! ## The record of a return (R454) -/

/-- A return writes every fibre of its cohort into one record, which no trap handler precedes. -/
theorem returnRecord_records (s : State) (d : Cohort) (lane : Nat) :
    ∃ r, (s.returnRecord d lane).records = s.records ++ [r] ∧ r.kind = .continuation ∧ r.resume = d.sreg 156 ∧
      r.block = slice (d.sreg 157) 48 3 * 8 ∧ r.reissue = true ∧ r.skip = bitOf (d.sreg 157) 0 ∧
      r.stepping = bitOf (d.sreg 157) 1 ∧ r.fibres.map Fibre.lane = d.fibres.map Fibre.lane ∧ r.tag = d.tag := by
  have hrecords : (s.spillFrames d.quiesced fun _ => 0).1.records = s.records := rfl
  have hlanes : (s.spillFrames d.quiesced fun _ => 0).2.fibres.map Fibre.lane = d.fibres.map Fibre.lane := spilled_lanes s d
  have htag : (s.spillFrames d.quiesced fun _ => 0).2.tag = d.tag := spilled_tag s d
  unfold State.returnRecord
  extract_lets team k
  generalize (s.spillFrames d.quiesced fun _ => 0) = p at hrecords hlanes htag ⊢
  obtain ⟨s2, c2⟩ := p
  refine ⟨s2.fresh.2.makeRecord c2 k team .none s2.fresh.1 c2.fibres, ?_, rfl, rfl, rfl, rfl, rfl, rfl,
    (List.map_map ..).trans hlanes, htag⟩
  exact (congrArg State.records (decide_aside ..) :).trans ((leaveCore_records ..).trans (congrArg (· ++ [_]) hrecords))

/-- What a return does once its segment has ended. -/
def afterReturn (word : Word64) (lane : Nat) (s : State) (d : Cohort) : State :=
  match d.failure with
  | some f => s.enterFailure d word f d.lowLane (d.pc, d.block)
  | none => if (s.returnHeader d).isNone then s.fatal d TrapCode.badret.code 4 0 else s.returnRecord d lane

theorem trapReturn_bad {s : State} {c : Cohort} {word : Word64} {lane : Nat} (h : badReturn c = true) :
    s.trapReturn c word lane = s.closing c (afterReturn word lane) := by
  unfold State.trapReturn
  rw [h]
  rfl

theorem trapReturn_good {s : State} {c : Cohort} {word : Word64} {lane : Nat} {h0 : Header}
    (h : s.headerAt c (slice (c.sreg 157) 48 3 * 8) = .good h0) :
    s.trapReturn c word lane = s.closing c (afterReturn word lane) := by
  unfold State.trapReturn
  rw [h]
  split
  next hheader => nomatch hheader
  next hheader => nomatch hheader
  next => rfl

theorem afterReturn_none {s : State} {d : Cohort} {word : Word64} {lane : Nat} (hfailure : d.failure = none) :
    afterReturn word lane s d =
      if (s.returnHeader d).isNone then s.fatal d TrapCode.badret.code 4 0 else s.returnRecord d lane := by
  unfold afterReturn
  rw [hfailure]

theorem afterReturn_record {s : State} {d : Cohort} {word : Word64} {lane : Nat} {h : Header} (hfailure : d.failure = none)
    (hheader : s.returnHeader d = some h) : afterReturn word lane s d = s.returnRecord d lane :=
  (afterReturn_none hfailure).trans (if_neg (by simp [hheader]))

theorem afterReturn_fatal {s : State} {d : Cohort} {word : Word64} {lane : Nat} (hfailure : d.failure = none)
    (hbad : badReturn d = true) : afterReturn word lane s d = s.fatal d 0x0B 4 0 := by
  have hnone : s.returnHeader d = none := if_pos hbad
  exact (afterReturn_none hfailure).trans (if_pos (by rw [hnone]; rfl))

end Sys2Proof.Machine

namespace Sys2Proof
open Sys2Proof.Machine Sys2Proof.Claims

/-- Settles O48: each reason of a fatal trap is a branch of `State.fatalWhy`, and the end of a launch leaves nothing of it. -/
theorem fatalTraps : Obligations.FatalTraps := by
  unfold Obligations.FatalTraps
  refine ⟨fun s c t hcode => if_pos hcode, fun s c t hcode hoff => ?noHandler, fun s c t hcode hon hin => ?inHandler,
    fun s c code why addr => ?leaves, fun s c t h hcode hon hout hheader hmarks => ?unmarked,
    fun s c t w hcode hon hout hheader => ?badHeader,
    fun s c t h hcode hon hout hheader hmarks => ?kept, fun s s1 c d word t lanes why hends hfailure hwhy => ?taken⟩
  case noHandler =>
    unfold State.fatalWhy
    rw [if_neg (Nat.not_le.2 hcode), hoff]
    rfl
  case inHandler =>
    unfold State.fatalWhy
    rw [if_neg (Nat.not_le.2 hcode), hon, hin]
    rfl
  case leaves =>
    obtain ⟨hcohorts, hunplaced, hrecords, hteams, hlaunches⟩ := fatal_ended s c code why addr
    exact ⟨hcohorts, hunplaced, hrecords, hteams, hlaunches⟩
  case unmarked =>
    rw [fatalWhy_handled hcode hon hout, hheader]
    exact if_neg (Bool.eq_false_iff.1 hmarks)
  case badHeader => rw [fatalWhy_handled hcode hon hout, hheader]
  case kept =>
    rw [fatalWhy_handled hcode hon hout, hheader]
    exact if_pos hmarks
  case taken => exact (takeTrap_ends hends hfailure).trans (enterTrap_fatal hwhy)

/-- Settles O49: the return waits for the end of the segment, and then tests the frame as it stands. -/
theorem trapReturn : Obligations.TrapReturn := by
  unfold Obligations.TrapReturn
  refine ⟨fun s s1 c d word lane h h0 _ hheader hends hfailure hreturn => ?_, fun s s1 c d word lane hbad hbad' hends hfailure => ?_⟩
  · rw [(trapReturn_good hheader).trans ((closing_ends hends).trans (afterReturn_record hfailure hreturn))]
    exact returnRecord_records s1 d lane
  · exact (trapReturn_bad hbad).trans ((closing_ends hends).trans (afterReturn_fatal hfailure hbad'))

end Sys2Proof
end

section
/-! SUPPORT. The events of the engines (O58): an event about an operation that satisfies its conditions (R383 to R387). -/

namespace Sys2Proof.Machine

open Sys2Proof

theorem onChannel_isColl (s : State) (e : EngineOp) : (s.onChannel e).isColl = e.isColl := by
  unfold State.onChannel
  split
  · rfl
  · rfl

section
variable {s : State} {op : Nat} {e : EngineOp}

/-- The chunk of an operation that takes no collective's part (R382, R383). -/
theorem exec_engineChunkDone_linear (he : s.engine? op = some e) (hruns : s.engineRuns e = true) (hlinear : e.isColl = false)
    (hfresh : e.coll.checked = false) : exec (.engineChunkDone op) s = .next (s.engineChunk (s.onChannel e)) := by
  have hfound : ((s.engine? op).filter fun e => s.engineRuns e && (!e.coll.checked || e.done < s.engineTotal e)) = some e := by
    simp [he, Option.filter, hruns, hfresh]
  refine (onFound_of_eq_some hfound).trans (congrArg _ (if_neg ?_))
  simp [onChannel_isColl, hlinear]

theorem exec_engineOpDone_linear (he : s.engine? op = some e) (hstate : e.state = .running ∨ e.state = .queued)
    (hended : e.ended = none) (hdone : e.done = s.engineTotal e) (hlinear : e.isColl = false) (hhome : s.engineAway e = false) :
    exec (.engineOpDone op) s = .next (s.engineStop e 0 0) := by
  have hfound : ((s.engine? op).filter fun e => (e.state == .running || e.state == .queued) && !s.engineAway e &&
      (e.ended.isSome || (e.done == s.engineTotal e && (!e.isColl || e.coll.checked)))) = some e := by
    obtain h | h := hstate <;> simp [he, Option.filter, h, hhome, ← hdone, hlinear]
  refine (onFound_of_eq_some hfound).trans ?_
  rw [hended]
  rfl

theorem exec_engineCheckpoint_running (he : s.engine? op = some e) (hstate : e.state = .running) (hidle : e.coll.progress = 0) :
    exec (.engineCheckpoint op) s = .next (s.engineSave e .none .waiting false) :=
  onFound_of_eq_some (by simp [he, Option.filter, hstate, hidle])

/-- The stage in progress is over, and nothing takes the operation off its channel (R386). -/
theorem exec_collectiveStageDone_running (he : s.engine? op = some e) (hcoll : e.isColl = true) (hstate : e.state = .running)
    (hbusy : e.coll.progress ≠ 0) (hhalted : s.engineHalted e = false) (hstops : e.stops = false) :
    exec (.collectiveStageDone op) s =
      .next (s.putEngine { e with coll := { e.coll with stage := e.coll.stage + 1, progress := 0 } }) := by
  have hfound : ((s.engine? op).filter fun e => e.isColl && e.state == .running && e.coll.progress != 0) = some e := by
    simp [he, Option.filter, hcoll, hstate, hbusy]
  refine (onFound_of_eq_some hfound).trans (congrArg _ ?_)
  exact (if_neg (Bool.eq_false_iff.1 hhalted)).trans (if_neg (Bool.eq_false_iff.1 hstops))

theorem exec_collectiveAbort_checked (he : s.engine? op = some e) (hcoll : e.isColl = true) (hchecked : e.coll.checked = true) :
    exec (.collectiveAbort op) s = .next ({ s with collAborts := s.collAborts.filter fun a =>
      !(a.fn == e.fn && a.group == e.coll.group && a.rank == e.rank && a.count == e.coll.seq) }.engineStop e 3
        TrapCode.engarg.code) := by
  have hfound : (s.engine? op).filter EngineOp.isColl = some e := by simp [he, Option.filter, hcoll]
  exact (onFound_of_eq_some hfound).trans (congrArg _ (if_pos hchecked))

end

end Sys2Proof.Machine

namespace Sys2Proof
open Sys2Proof.Machine

/-- Settles O58: each event finds its operation, and runs its chunk, its end, its checkpoint or its stage. -/
theorem engineEvents : Obligations.EngineEvents := by
  unfold Obligations.EngineEvents
  refine ⟨fun s op e he hruns hlinear _ hfresh => exec_engineChunkDone_linear he hruns hlinear hfresh,
    fun s op e he hstate hended hdone hlinear hhome => exec_engineOpDone_linear he hstate hended hdone hlinear hhome,
    fun s op e he hstate hidle => exec_engineCheckpoint_running he hstate hidle,
    fun s op peer data e he hcoll hruns hidle hlacks => ?_,
    fun s op e he hcoll hstate hbusy hhalted hstops => exec_collectiveStageDone_running he hcoll hstate hbusy hhalted hstops,
    fun s op e he hcoll hchecked => exec_collectiveAbort_checked he hcoll hchecked⟩
  exact onFound_of_eq_some (by simp [he, Option.filter, hcoll, hruns, hidle, hlacks])

end Sys2Proof
end

section
/-! SUPPORT. The events of queues, launches and microcode (O57): what each leaves of the launches and the teams (R396 to R402, R408),
and the distributor's load register (R392, R393). -/

namespace Sys2Proof.Machine

open Sys2Proof

/-! ## Accesses of the distributor, and the views of queues (R395) -/

theorem physAsk_aside (s : State) (fn pa n : Nat) : (s.physAsk fn pa n).aside = s.aside := by
  unfold State.physAsk
  refine ite_keeps ?_ rfl
  dsimp only
  cases s.badIn (.hbm pa) n with
  | none => exact askRange_aside ..
  | some b => exact (enterError_aside ..).trans (askRange_aside ..)

theorem setQcb_aside (s : State) (v : QueueView) (off n val : Nat) : (s.setQcb v off n val).aside = s.aside := physWrite_aside ..

theorem setState_aside (s : State) (v : QueueView) (st err : Nat) : (s.setState v st err).aside = s.aside := physWrite_aside ..

theorem view?_key {s : State} {fn queue : Nat} {v : QueueView} (h : s.view? fn queue = some v) : v.fn = fn ∧ v.queue = queue := by
  simpa using List.find?_some h

/-! ## The teams through the making of one (R401) -/

theorem latchDesc_teams (s : State) (v : QueueView) : (s.latchDesc v).teams = s.teams := by
  unfold State.latchDesc
  refine ite_keeps (p := State.teams) ?_ rfl
  split
  · exact (congrArg State.teams (physAsk_aside ..) :)
  · rfl

theorem passCursor_teams (s : State) (l : Launch) : (s.passCursor l).teams = s.teams := by
  unfold State.passCursor
  split
  · exact ite_keeps (p := State.teams) ((latchDesc_teams ..).trans (congrArg State.teams (setQcb_aside ..) :)) rfl
  · rfl

theorem addAllocs_teams (s : State) (l : Launch) (members : List Nat) : (s.addAllocs l members).teams = s.teams := by
  refine foldl_keeps State.teams (fun t k => ?_) ..
  exact congrArg Prod.fst (setSplit_teamView t k _)

theorem addCohorts_teams (s : State) (l : Launch) (die : Nat) (bound : Option Nat) : (s.addCohorts l die bound).teams = s.teams := by
  refine foldl_keeps State.teams (fun t k => ?_) ..
  rfl

/-! ## The events of queues -/

section
variable {s : State} {fn queue : Nat} {v : QueueView} {l : Launch}

/-- A launch starts once it may and its checks pass (R400). -/
theorem exec_launchStart_starts (hv : s.view? fn queue = some v) (hmay : s.mayStart v = true) (herr : s.cursorErr v = 0)
    (hdeps : (descDeps (s.cursorDesc v)).all (s.depMet fn) = true) :
    ∃ t l, exec (.launchStart fn queue) s = .next t ∧ t.launches = s.launches ++ [l] ∧ l.fn = fn ∧ l.complete = false := by
  have hfound : ((s.view? fn queue).filter fun v => s.mayStart v || s.depWait v) = some v := by
    simp only [hv, Option.filter, hmay, Bool.true_or, if_true]
  change ∃ t l, execLaunchStart fn queue s = _ ∧ _
  unfold execLaunchStart
  rw [onFound_of_eq_some hfound, herr]
  dsimp only
  rw [hdeps, Bool.not_true, if_neg Bool.false_ne_true]
  refine ⟨_, _, rfl, (congrArg State.launches ((setState_aside ..).trans ((setQcb_aside ..).trans (setQcb_aside ..))) :), ?_, rfl⟩
  exact (view?_key hv).1

/-- An unmet dependence shows in STATE (R400). -/
theorem exec_launchStart_waits (hv : s.view? fn queue = some v) (hwait : s.depWait v = true) (herr : s.cursorErr v = 0)
    (hdeps : (descDeps (s.cursorDesc v)).all (s.depMet fn) = false) : exec (.launchStart fn queue) s = .next (s.setState v 2 0) := by
  have hfound : ((s.view? fn queue).filter fun v => s.mayStart v || s.depWait v) = some v := by
    simp only [hv, Option.filter, hwait, Bool.or_true, if_true]
  change execLaunchStart fn queue s = _
  unfold execLaunchStart
  rw [onFound_of_eq_some hfound, herr]
  exact congrArg _ (if_pos (by rw [hdeps, Bool.not_false]))

/-- A failed check stops the queue (R399). -/
theorem exec_launchStart_stops (hv : s.view? fn queue = some v) (hmay : s.mayStart v = true) (herr : s.cursorErr v ≠ 0) :
    exec (.launchStart fn queue) s = .next (s.setState v 3 (s.cursorErr v)) := by
  have hfound : ((s.view? fn queue).filter fun v => s.mayStart v || s.depWait v) = some v := by
    simp only [hv, Option.filter, hmay, Bool.true_or, if_true]
  obtain ⟨n, hn⟩ := Nat.exists_eq_succ_of_ne_zero herr
  change execLaunchStart fn queue s = _
  unfold execLaunchStart
  rw [onFound_of_eq_some hfound, hn]
  rfl

/-- Whether STATE is to say that the launch at the cursor waits on a dependence (R400). -/
theorem depWait_of_unmet (hkey : v.fn = fn ∧ v.queue = queue) (hon : s.queueOn fn queue = true) (hwaiting : v.waiting = true)
    (hstate : s.qcb v 18 1 < 2) (hdone : ∀ l ∈ s.launches, l.fn = fn → l.queue = queue → l.complete = true) (herr : s.cursorErr v = 0)
    (hdeps : (descDeps (s.cursorDesc v)).all (s.depMet fn) = false) : s.depWait v = true := by
  obtain ⟨rfl, rfl⟩ := hkey
  have hlive : (s.launches.any fun l => l.fn == v.fn && l.queue == v.queue && !l.complete && l.seq == v.tail) = false := by
    simpa using fun l hl hfn hqueue hopen => absurd (hdone l hl hfn hqueue) (by simp [hopen])
  have hstopped : (s.qcb v 18 1 != 3) = true := by simp; omega
  have hshown : (s.qcb v 18 1 != 2) = true := by simp; omega
  simp only [State.depWait, hon, hwaiting, hstopped, hshown, hlive, herr, hdeps, Bool.not_false, Bool.and_true, beq_self_eq_true]

theorem exec_teamCreate_teams {inst : Nat} {cores : List Nat} (h : s.nextTeam fn queue = some (l, inst, cores)) :
    ∃ t, exec (.teamCreate fn queue) s = .next t ∧ t.teams = s.teams ++
      [{ launch := l.num, num := BitVec.ofNat 32 l.next, fn, span := l.span, inst, foot := l.foot, fibres := l.fibres
         members := (cores.take l.members).foldr insertNat [], barriers := List.replicate 16 Barrier.fresh }] := by
  refine ⟨_, onFound_of_eq_some h, ?_⟩
  have hview (t : State) (x : Option QueueView) (w : QueueView → QueueView) (n : Nat) :
      (match x with | some v => (t.putView (w v)).setQcb v 24 4 n | none => t).teams = t.teams := by
    split
    · exact (congrArg State.teams (setQcb_aside ..) :)
    · rfl
  refine (ite_keeps (p := State.teams) (c := (l.next + 1 == l.teams) = true) (passCursor_teams ..) rfl).trans ?_
  refine ((addCohorts_teams ..).trans (addAllocs_teams ..)).trans (congrArg (· ++ [_]) ?_)
  exact hview s (s.view? fn queue) (fun v => { v with since := none, bound := none }) (l.next + 1)

theorem exec_launchComplete_mayComplete {launch : Nat}
    (hl : s.launches.find? (fun l => l.num == BitVec.ofNat 32 launch && !l.complete) = some l) (hmay : s.mayComplete l = true) :
    exec (.launchComplete launch) s = .next (s.completeLaunch l) :=
  onFound_of_eq_some (by rw [hl, Option.filter_some, if_pos hmay])

/-- The cohorts of lower priority on the core chosen are to halt (R408). -/
theorem exec_priorityPreemption_halts {k t0 : Nat} (hv : s.view? fn queue = some v) (hl : s.creating fn queue = some l)
    (hpre : bitOf (s.qcb v 17 1) 3 = true) (hsince : v.since = some t0) (hdue : t0 + 16384 ≤ s.clock)
    (hfull : (s.chooseInstance l v.bound).isNone = true) (hcore : s.preemptCore fn l.prio = some k) :
    ∃ t, exec (.priorityPreemption fn queue) s = .next t ∧
      t.halts = s.halts ++ (s.lower fn l.prio k).map fun c => (c.placed, 1) := by
  have hfound : ((s.view? fn queue).bind fun v => (s.creating fn queue).bind fun l =>
      if bitOf (s.qcb v 17 1) 3 && v.since.elim false (fun t => t + 16384 ≤ s.clock) && (s.chooseInstance l v.bound).isNone then
        (s.preemptCore fn l.prio).map fun k => (v, l, k)
      else none) = some (v, l, k) := by
    rw [hv, Option.bind_some, hl, Option.bind_some, hpre, hsince, hfull, hcore]
    simp [hdue]
  exact ⟨_, onFound_of_eq_some hfound, (congrArg State.halts (decide_aside ..) :)⟩

/-! ## Enabling a queue (R395, R396) -/

/-- A queue enabled at a QCB that may be read: it goes on where it stopped, or starts afresh (R396, R399). -/
def enableAt (s1 : State) (others : List QueueView) (v0 : QueueView) (stopped : Bool) : State :=
  let done := s1.qcb v0 32 8
  let v := { v0 with head := s1.qcb v0 0 4
                     doneSeq := if stopped then done else 0
                     tail := if stopped then done + (s1.qcb v0 4 4 + 2 ^ 32 - done % 2 ^ 32) % 2 ^ 32 else 0 }
  let s2 := ({ s1 with queueViews := others ++ [v] }.physAsk v0.fn v0.base 128).latchDesc v
  if stopped then s2.resumeQueue v else s2.startAfresh v

/-- QBASE written with EN while no launch of the queue is left. -/
theorem exec_queueEnable_idle {val : Word64} (hb : s.booted = true) (hfn : fn < 257) (hqueue : queue < 64)
    (hbit : bitOf val.toNat 0 = true) (hoff : s.queueOn fn queue = false)
    (hdone : ∀ l ∈ s.launches, l.fn = fn → l.queue = queue → l.complete = true) :
    let s1 := s.plainWrite fn (queueReg queue) val.toNat
    let base := slice val.toNat 45 7 * 128
    let others := s.queueViews.filter fun v => !(v.fn == fn && v.queue == queue)
    let v0 : QueueView := { fn, queue, base, head := 0, tail := 0, doneSeq := 0, desc := none, since := none, bound := none }
    exec (.queueEnable fn queue val) s = .next (if !s1.admits fn (base, 128) then { s1 with queueViews := others }
      else enableAt s1 others v0 (s1.qcb v0 18 1 == 3)) := by
  have hlive : (s.launches.any fun l => l.fn == fn && l.queue == queue && !l.complete) = false := by
    simpa using fun l hl hfn hqueue => hdone l hl hfn hqueue
  have hsubject : (isFn fn && decide (queue < 64) && bitOf val.toNat 0 && !s.queueOn fn queue) = true := by
    simp [hfn, hqueue, hbit, hoff]
  exact (onWrite_pos hsubject hb).trans (congrArg _ (if_neg (Bool.eq_false_iff.1 hlive)))

end

/-! ## The distributor's load register (R392, R393) -/

theorem exec_distLoad_busy {s : State} (hb : s.booted = true) : ∃ t, exec .distLoad s = .next t ∧ bitOf (t.reg 0 0x3018) 0 = true :=
  ⟨_, onWrite_pos rfl hb, regSet_bit_true s 0 0x3018 (by decide) (by decide)⟩

/-- A field replaced leaves a field that it does not meet. -/
theorem regField_field_apart (s : State) (fn off : Nat) {hi lo h l : Nat} (val : Nat) (hl : lo ≤ hi) (hh : h < 64) (hlh : l ≤ h)
    (hapart : h < lo ∨ hi < l) : (s.regField fn off hi lo val).field fn off h l = s.field fn off h l := by
  apply Nat.eq_of_testBit_eq
  intro i
  simp only [State.field, slice, Nat.testBit_mod_two_pow, Nat.testBit_shiftRight]
  by_cases hi' : i < h - l + 1
  · have hbit := regField_bit s fn off hi lo val (l + i) (by omega) hl
    rw [if_neg (by omega)] at hbit
    simp only [bitOf] at hbit
    simp [hi', hbit]
  · simp [hi']

/-- Bits cleared outside a field leave it. -/
theorem regClear_field_apart (s : State) (fn off : Nat) {bits h l : Nat} (hh : h < 64) (hlh : l ≤ h) (hbits : bits < 2 ^ l) :
    (s.regClear fn off bits).field fn off h l = s.field fn off h l := by
  apply Nat.eq_of_testBit_eq
  intro i
  simp only [State.field, slice, Nat.testBit_mod_two_pow, Nat.testBit_shiftRight]
  by_cases hi' : i < h - l + 1
  · have hbit := regClear_bit s fn off bits (l + i) (by omega)
    rw [Nat.testBit_lt_two_pow (hbits.trans_le (Nat.pow_le_pow_right (by decide) (Nat.le_add_right l i)))] at hbit
    simp only [bitOf, Bool.not_false, Bool.and_true] at hbit
    rw [hbit]
  · simp [hi']

/-- BUSY is clear and the result stands (R393, R476). -/
def resulted (t : State) (off res : Nat) : Prop := bitOf (t.reg 0 off) 0 = false ∧ t.field 0 off 15 8 = res % 256

theorem resulted_result (u : State) (off res : Nat) : resulted ((u.regField 0 off 15 8 res).regClear 0 off 1) off res :=
  ⟨regClear_bit_false _ 0 off (by decide) (by decide),
    (regClear_field_apart _ 0 off (by decide) (by decide) (by decide)).trans (regField_field u 0 off 15 8 res (by decide) (by decide))⟩

theorem resulted_version {t : State} {off res : Nat} (version : Nat) (h : resulted t off res) :
    resulted (t.regField 0 off 63 32 version) off res :=
  ⟨((regField_bit t 0 off 63 32 version 0 (by decide) (by decide)).trans (if_neg (by decide))).trans h.1,
    (regField_field_apart t 0 off version (by decide) (by decide) (by decide) (by decide)).trans h.2⟩

theorem resulted_firmware {t : State} {off res : Nat} (f : Firmware) (h : resulted t off res) :
    resulted { t with firmware := f } off res := h

/-- The end of a load clears BUSY and gives the result of its checks (R393). -/
theorem exec_distLoadDone_result {s : State} (hbusy : s.distBusy = true) :
    ∃ t, exec .distLoadDone s = .next t ∧
      resulted t 0x3018 (s.checkImage [0x44#8, 0x49#8, 0x53#8, 0x54#8] (s.reg 0 0x3000) (s.reg 0 0x3008) s.firmware.distRollback).1 := by
  refine ⟨_, onSubject_pos hbusy, ?_⟩
  extract_lets len
  change resulted _ _ (s.checkImage [0x44#8, 0x49#8, 0x53#8, 0x54#8] (s.reg 0 0x3000) len s.firmware.distRollback).1
  generalize s.checkImage [0x44#8, 0x49#8, 0x53#8, 0x54#8] (s.reg 0 0x3000) len s.firmware.distRollback = x
  obtain ⟨res, version, back⟩ := x
  have hresult := resulted_result (s.askImage (s.reg 0 0x3000) len) 0x3018 res
  dsimp only
  split
  · exact hresult
  · exact resulted_firmware _ (resulted_version version hresult)

end Sys2Proof.Machine

namespace Sys2Proof
open Sys2Proof.Machine

/-- Settles O57: each event finds its queue, its launch or the distributor's register, and what it leaves has a lemma of its own. -/
theorem launchEvents : Obligations.LaunchEvents := by
  unfold Obligations.LaunchEvents
  refine ⟨?bell, ?enable, ?disable, fun s fn queue v hv hmay herr hdeps => exec_launchStart_starts hv hmay herr hdeps, ?waits,
    fun s fn queue v hv hmay herr => exec_launchStart_stops hv hmay herr, fun s fn queue l inst cores h => exec_teamCreate_teams h,
    fun s launch l hl hmay => exec_launchComplete_mayComplete hl hmay,
    fun s fn queue v l k t0 hv hl hpre hsince hdue hfull hcore => exec_priorityPreemption_halts hv hl hpre hsince hdue hfull hcore,
    fun s hb => exec_distLoad_busy hb, fun s hbusy => exec_distLoadDone_result hbusy⟩
  case bell => exact fun s fn queue hb hfn hqueue => onWrite_pos (by simp [hfn, hqueue]) hb
  case enable =>
    intro s fn queue val hb hfn hqueue hbit hoff hdone s1 base others
    have hexec := exec_queueEnable_idle hb hfn hqueue hbit hoff hdone
    constructor
    · exact fun hadm => hexec.trans (congrArg _ (if_pos (by rw [Bool.not_eq_true']; exact hadm)))
    · intro hadm v0 hstate v
      have hstopped : (s1.qcb v0 18 1 == 3) = false := beq_false_of_ne hstate
      refine hexec.trans (congrArg _ ((if_neg (by rw [Bool.not_eq_true', Bool.not_eq_false]; exact hadm)).trans ?_))
      exact congrArg (enableAt s1 others v0) hstopped
  case disable =>
    intro s fn queue val hb hfn hqueue hbit hon
    exact onWrite_pos (by simp [hfn, hqueue, hbit, hon]) hb
  case waits =>
    intro s fn queue v hv hon _ _ hwaiting hstate hdone herr ⟨p, hp, hunmet⟩
    have hdeps : (descDeps (s.cursorDesc v)).all (s.depMet fn) = false := by
      rw [List.all_eq_false]
      exact ⟨p, hp, by simp [hunmet]⟩
    exact exec_launchStart_waits hv (depWait_of_unmet (view?_key hv) hon hwaiting hstate hdone herr hdeps) herr hdeps

end Sys2Proof
end

section
/-! SUPPORT. The events of tenants, of the host and of the hardware (O60): the registers that answer, the host's accesses (R467),
the reset of a tenant (R443), the boot (R478) and the loss of power (R479). -/

namespace Sys2Proof.Machine

open Sys2Proof

section
variable {s : State} {fn core off n pa : Nat}

/-! ## Registers that answer an event (R417, R443, R461, R476, R477) -/

theorem exec_partitionRebuild_bit (hb : s.booted = true) (hen : s.tableEn = false) (hidle : s.allIdle = true) :
    ∃ t, exec .partitionRebuild s = .next t ∧ bitOf (t.reg 0 0xE500) 1 = true :=
  ⟨_, (onWrite_pos rfl hb).trans (congrArg _ (if_pos (by rw [hen, hidle]; rfl))), regSet_bit_true s 0 0xE500 (by decide) (by decide)⟩

theorem exec_partitionRebuildDone_bits (hbusy : bitOf (s.reg 0 0xE500) 1 = true) :
    ∃ t, exec .partitionRebuildDone s = .next t ∧ bitOf (t.reg 0 0xE500) 1 = false ∧ bitOf (t.reg 0 0xE500) 2 = false :=
  ⟨_, onSubject_pos hbusy, regClear_bit_false _ 0 0xE500 (by decide) (by decide), regClear_bit_false _ 0 0xE500 (by decide) (by decide)⟩

theorem exec_tenantReset_fences (hb : s.booted = true) (hfn : fn < 257) (hidle : bitOf (s.reg 0 (0xA028 + fn * 0x40)) 1 = false) :
    exec (.tenantReset fn) s = .next ((s.regSet 0 (0xA028 + fn * 0x40) 2).fence fn) :=
  (onWrite_pos (by simp [hfn]) hb).trans (congrArg _ (if_neg (Bool.eq_false_iff.1 hidle)))

/-- What a reset leaves of its function beside FNRST (R443). -/
structure Forgotten (t : State) (fn : Nat) : Prop where
  resets : fn ∉ t.resets
  launches : ∀ l ∈ t.launches, l.fn ≠ fn
  semaphores : ∀ x ∈ t.semaphores, x.fn ≠ fn

theorem Forgotten.setReg {t : State} (h : Forgotten t fn) (f o val : Nat) : Forgotten (t.setReg f o val) fn where
  resets := State.setReg_resets t f o val ▸ h.resets
  launches := State.setReg_launches t f o val ▸ h.launches
  semaphores := State.setReg_semaphores t f o val ▸ h.semaphores

theorem exec_tenantResetDone_forgets (hfn : fn < 257) (hbusy : bitOf (s.reg 0 (fnRst fn)) 1 = true) :
    ∃ t, exec (.tenantResetDone fn) s = .next t ∧ bitOf (t.reg 0 (fnRst fn)) 1 = false ∧ bitOf (t.reg 0 (fnRst fn)) 2 = true ∧
      Forgotten t fn := by
  refine ⟨_, onSubject_pos (by rw [hbusy, Bool.and_true]; simp [hfn]), ?_⟩
  extract_lets s1 s2 src s3
  have hs3 : Forgotten s3 fn :=
    ⟨fun hin => by simpa using (List.mem_filter.1 hin).2, fun l hl => by simpa using (List.mem_filter.1 hl).2,
      fun x hx => by simpa using (List.mem_filter.1 hx).2⟩
  clear_value s3
  refine ⟨?_, regSet_bit_true _ 0 (fnRst fn) (by decide) (by decide), (hs3.setReg ..).setReg ..⟩
  rw [regSet_bit _ _ _ _ _ (by decide), regClear_bit_false _ 0 (fnRst fn) (by decide) (by decide)]
  decide

theorem mbStatus_offset (core : Nat) : 0x10080 + core * 0x200 = debugWindow core + 0x80 := by
  unfold debugWindow
  omega

theorem exec_mbinWrite_regs (val : Word64) (hb : s.booted = true) (hfn : fn < 257) (hcore : core < 512) :
    ∃ t, exec (.mbinWrite fn core val) s = .next t ∧ t.reg fn (0x10070 + core * 0x200) = val.toNat % 2 ^ 63 ∧
      bitOf (t.reg fn (0x10080 + core * 0x200)) 0 = true := by
  refine ⟨_, onWrite_pos (by simp [hfn, Config.coreCount, hcore]) hb, ?_, ?_⟩
  · have hin : 0x10070 + core * 0x200 = debugWindow core + 0x70 := by
      unfold debugWindow
      omega
    rw [hin, regSet_ne _ _ _ _ _ _ (.inr (by omega)), setReg_reg]
    exact Nat.mod_eq_of_lt ((Nat.mod_lt _ (by decide)).trans (by decide))
  · rw [mbStatus_offset]
    refine regSet_bit_true _ fn _ (by decide) ?_
    split
    · decide
    · decide

theorem exec_mboutRead_reads (hb : s.booted = true) (hfn : fn < 257) (hcore : core < 512) :
    ∃ t, exec (.mboutRead fn core) s = .next t ∧ bitOf (t.reg fn (0x10080 + core * 0x200)) 1 = false ∧
      t.hostReads = s.hostReads ++ [(fn, 0, 0x10078 + core * 0x200, .data (toBytes 8 (s.barRead fn (0x10078 + core * 0x200))))] := by
  have hout : 0x10078 + core * 0x200 = debugWindow core + 0x78 := by
    unfold debugWindow
    omega
  rw [mbStatus_offset, hout]
  exact ⟨_, (onSubject_pos (by simp [hfn, Config.coreCount, hcore])).trans (congrArg _ (if_pos hb)),
    regClear_bit_false _ fn _ (by decide) (by decide), State.setReg_hostReads ..⟩

theorem exec_firmwareStage_busy (hb : s.booted = true) :
    ∃ t, exec .firmwareStage s = .next t ∧ bitOf (t.reg 0 0xF998) 0 = true :=
  ⟨_, onWrite_pos rfl hb, regSet_bit_true s 0 0xF998 (by decide) (by decide)⟩

theorem exec_firmwareStageDone_idle (hbusy : bitOf (s.reg 0 0xF998) 0 = true) :
    ∃ t, exec .firmwareStageDone s = .next t ∧ bitOf (t.reg 0 0xF998) 0 = false := by
  refine ⟨_, onSubject_pos hbusy, ?_⟩
  extract_lets len
  generalize s.checkImage firmwareMagic (s.reg 0 0xF980) len s.firmware.rollback = x
  obtain ⟨res, version, back⟩ := x
  have hresult := resulted_result (s.askImage (s.reg 0 0xF980) len) 0xF998 res
  dsimp only
  split
  · exact hresult.1
  · exact (resulted_firmware _ hresult).1

theorem exec_attestRequest_busy (hb : s.booted = true) (hfn : fn < 257) :
    ∃ t, exec (.attestRequest fn) s = .next t ∧ bitOf (t.reg fn 0x1F48) 1 = true :=
  ⟨_, onWrite_pos (by simp [hfn]) hb, regSet_bit_true s fn 0x1F48 (by decide) (by decide)⟩

theorem exec_attestDone_done (hfn : fn < 257) (hbusy : bitOf (s.reg fn 0x1F48) 1 = true) :
    ∃ t, exec (.attestDone fn) s = .next t ∧ bitOf (t.reg fn 0x1F48) 1 = false ∧ bitOf (t.reg fn 0x1F48) 2 = true := by
  refine ⟨_, onSubject_pos (by rw [hbusy, Bool.and_true]; simp [hfn]), ?_, regSet_bit_true _ fn 0x1F48 (by decide) (by decide)⟩
  rw [regSet_bit _ _ _ _ _ (by decide), regClear_bit_false _ fn 0x1F48 (by decide) (by decide)]
  decide

/-! ## The host's accesses through BAR2 (R467) -/

theorem ask_mem (s : State) (r : SliceReq) : (s.ask r).mem = s.mem := ite_keeps (p := State.mem) rfl rfl

theorem askRange_mem (s : State) (fn pa n : Nat) (kind : ReqKind) (uncached : Bool) (page : Option PageRef) :
    (s.askRange fn pa n kind uncached page).mem = s.mem := foldl_keeps State.mem ask_mem ..

/-- A read that R467 admits, of bytes without an error, completes with its data. -/
theorem hostReads?_data {k : Nat → List Byte → State → State} (hpa : s.bar2Access fn off n = some pa)
    (hgood : s.badIn (.hbm pa) n = none) : s.hostReads? fn off n k =
      k pa (s.performedRead (.hbm pa) n) (s.hostAnswer fn off (.data (s.performedRead (.hbm pa) n))) := by
  unfold State.hostReads?
  rw [hpa]
  dsimp only
  rw [hgood]

theorem exec_hostRead_data (hfn : fn < 257) (hsize : off + n ≤ bar2Size fn) (hpa : s.bar2Access fn off n = some pa)
    (hgood : s.badIn (.hbm pa) n = none) : ∃ t, exec (.hostRead fn off n) s = .next t ∧ t.mem = s.mem ∧
      t.hostReads = s.hostReads ++ [(fn, 2, off, .data (s.performedRead (.hbm pa) n))] :=
  ⟨_, (onSubject_pos (by simp [hfn, hsize])).trans (congrArg _ (hostReads?_data hpa hgood)), askRange_mem ..,
    (congrArg State.hostReads (askRange_aside ..) :)⟩

theorem exec_hostWrite_device {data : List Byte} (hfn : fn < 257) (hsize : off + data.length ≤ bar2Size fn)
    (hpa : s.bar2Access fn off data.length = some pa) :
    exec (.hostWrite fn off (.device data)) s = .next (s.agentWrite fn pa data (s.isUncached fn 0)) := by
  have hstore : s.hostStore fn off data = s.agentWrite fn pa data (s.isUncached fn 0) := by
    unfold State.hostStore
    rw [hpa]
  exact (onSubject_pos (by simp [hfn, hsize])).trans (congrArg _ hstore)

/-- The host's atomic is its read and its write in one step (R125). -/
theorem hostAtomic_performs {op : AtomicOp} {wide : Bool} {x y : Word64} (hop : op = .add ∨ op = .xch ∨ op = .cas)
    (hn : n = if wide then 8 else 4) (haligned : off % n = 0) (hpa : s.bar2Access fn off n = some pa)
    (hgood : s.badIn (.hbm pa) n = none) (hview : s.viewOf pa = none) : s.hostAtomic fn off op wide x y =
      (s.hostAnswer fn off (.data (s.performedRead (.hbm pa) n))).agentWrite fn pa
        (toBytes n (atomicNew op (8 * n) (ofBytes (s.performedRead (.hbm pa) n)) x.toNat y.toNat)) (s.isUncached fn 0) := by
  unfold State.hostAtomic
  rw [← hn]
  have hrefused : ¬ (off % n != 0 || !(op == .add || op == .xch || op == .cas) ||
      (s.bar2Access fn off n).any fun pa => (s.viewOf pa).isSome) = true := by
    obtain rfl | rfl | rfl := hop <;> simp [haligned, hpa, hview]
  exact (if_neg hrefused).trans (hostReads?_data hpa hgood)

/-! ## Self-tests (R465) -/

theorem verdict_of_lasting (u : State) (unit : HwUnit) (lasting : Bool) :
    (if lasting then (u.postVerdict unit (if lasting then 2 else 1)).retire unit else u.postVerdict unit (if lasting then 2 else 1)) =
      if lasting then (u.postVerdict unit 2).retire unit else u.postVerdict unit 1 := by
  cases lasting with
  | false => simp only [Bool.false_eq_true, if_false]
  | true => simp only [if_true]

theorem exec_selfTest_verdict {unit : HwUnit} {lasting : Bool} {t : UnitTest} (hfind : s.tests.find? (fun t => t.unit == unit) = some t)
    (hready : s.testReady t = true) : exec (.selfTest unit lasting) s = .next (if lasting
      then (State.postVerdict { s with tests := s.tests.erase t } unit 2).retire unit
      else State.postVerdict { s with tests := s.tests.erase t } unit 1) :=
  (onFound_of_eq_some (a := t) (by rw [hfind, Option.filter_some, if_pos hready])).trans (congrArg _ (verdict_of_lasting ..))

/-! ## The boot and the loss of power (R478, R479) -/

/-- What a boot leaves: READY and the image that runs, or the failure. -/
theorem exec_packageBoot_image (hb : s.booted = false) : ∃ t, exec .packageBoot s = .next t ∧
    match s.bootImage with
    | some (version, back, bytes) => t.booted = true ∧ t.firmware.version = version ∧
      t.firmware.rollback = max s.firmware.rollback (min 255 back) ∧ t.firmware.staged = none ∧ t.firmware.image = bytes
    | none => t.booted = false ∧ t.firmware.failed = true := by
  change ∃ t, execPackageBoot s = .next t ∧ _
  unfold execPackageBoot
  extract_lets s0
  have hs0 : s0 = s := if_neg (Bool.eq_false_iff.1 hb)
  clear_value s0
  subst hs0
  cases s0.bootImage with
  | none =>
    refine ⟨_, rfl, ?_, rfl⟩
    exact (congrArg (bitOf · 0) (regField_ne s0 0 0xF998 15 8 _ 0 0xF9F0 (.inr (by decide)))).trans hb
  | some image =>
    obtain ⟨version, back, bytes⟩ := image
    have hfirmware (u : State) (a b : Nat) :
        (((u.regField 0 0xF998 63 32 a).regField 0 0x3018 63 32 b).regSet 0 0xF9F0 1).firmware = u.firmware :=
      (State.setReg_firmware ..).trans ((State.setReg_firmware ..).trans (State.setReg_firmware ..))
    refine ⟨_, rfl, regSet_bit_true _ 0 0xF9F0 (by decide) (by decide), ?_⟩
    rw [hfirmware]
    exact ⟨rfl, rfl, rfl, rfl⟩

theorem exec_thermalShutdown_power (s : State) : ∃ t, exec .thermalShutdown s = .next t ∧ t.powered = false ∧ step t = .fault .noPower :=
  ⟨_, rfl, rfl, if_pos rfl⟩

end

end Sys2Proof.Machine

namespace Sys2Proof
open Sys2Proof.Machine

/-- Settles O60: each event finds what it is about, and the registers and fields that the statement names are read off its state. -/
theorem hostEvents : Obligations.HostEvents := by
  unfold Obligations.HostEvents
  refine ⟨fun s hb hen hidle => exec_partitionRebuild_bit hb hen hidle, fun s hbusy => exec_partitionRebuildDone_bits hbusy,
    fun s fn hb hfn hidle => exec_tenantReset_fences hb hfn hidle, ?tenantResetDone, fun s fn b hbatch => onFound_of_eq_some hbatch,
    ?dieGated, ?selfTest, ?debugHalt, fun s fn core val hb hfn hcore => exec_mbinWrite_regs val hb hfn hcore,
    fun s fn core hb hfn hcore => exec_mboutRead_reads hb hfn hcore,
    fun s fn off n pa hfn hsize hpa hgood => exec_hostRead_data hfn hsize hpa hgood,
    fun s fn off data pa hfn hsize hpa => exec_hostWrite_device hfn hsize hpa, fun s hb => exec_firmwareStage_busy hb,
    fun s hbusy => exec_firmwareStageDone_idle hbusy, fun s fn hb hfn => exec_attestRequest_busy hb hfn,
    fun s fn hfn hbusy => exec_attestDone_done hfn hbusy, fun s hb => exec_packageBoot_image hb, fun s => rfl,
    exec_thermalShutdown_power, fun s fn bus data => rfl, ?atomic⟩
  case tenantResetDone =>
    intro s fn hfn hbusy
    obtain ⟨t, hexec, hidle, hdone, hresets, hlaunches, hsemaphores⟩ := exec_tenantResetDone_forgets hfn hbusy
    exact ⟨t, hexec, hidle, hdone, hresets, hlaunches, hsemaphores⟩
  case dieGated =>
    intro s die hdie hpowered hsettled
    exact (if_neg (Bool.eq_false_iff.1 hpowered)).trans (onSubject_pos (by simp [hdie, hsettled]))
  case selfTest => exact fun s unit lasting t hfind hready => exec_selfTest_verdict hfind hready
  case debugHalt =>
    intro s fn core k hb hfn hcore hdense
    refine (onWrite_pos (by simp [hfn, Config.coreCount, hcore]) hb).trans (congrArg _ ?_)
    rw [hdense]
  case atomic =>
    intro s fn off op wide x y pa hfn hsize hop n haligned hpa hgood hview old
    exact (onSubject_pos (by simp [hfn, hsize])).trans (congrArg _ (hostAtomic_performs hop rfl haligned hpa hgood hview))

end Sys2Proof
end
